-- ==== Sys2Proof/Word.lean ====
section
/-! DEFINITION. Word sizes of the Renarn architecture (spec/00_scope.md R3, R4) and the sparse table type that holds
register files, scratchpads and other arrays as plain data. -/

namespace Sys2Proof

/-- A byte, 8 bits (R3). -/
abbrev Byte := BitVec 8
abbrev W16 := BitVec 16
/-- The 32-bit register width (R78). -/
abbrev W32 := BitVec 32
/-- An instruction word, an address register or a CSR (R4, R78). -/
abbrev W64 := BitVec 64
/-- The internal form of an accumulator sum (R15, R185). -/
abbrev W128 := BitVec 128

/-- A sparse table: entries with strictly rising keys, none holding the value an unlisted key reads as. -/
abbrev Tab (α : Type) := List (Nat × α)

end Sys2Proof
end

