-- ==== Sys2Proof/Syntax/Types.lean ====
section
/-! DEFINITION. The operands of an instruction word and the plain data an event row carries. -/

namespace Sys2Proof

/-- Guard of a word: GN and GP (R211, R213). -/
structure Guard where
  neg : Bool
  p   : BitVec 3
  deriving DecidableEq, Repr

/-- A decoded 10-bit operand (R218). -/
inductive Opd where
  | v (n : BitVec 8)    -- main file
  | o (n : BitVec 3)    -- operand file
  | x (n : BitVec 1)    -- last-result file
  | p (n : BitVec 3)    -- predicate
  | s (n : BitVec 6)    -- scalar file
  | a (n : BitVec 4)    -- address register
  | m (n : BitVec 3)    -- modulo register
  | sr (n : BitVec 4)   -- special read-only register (R219)
  | c (n : BitVec 8)    -- inline constant (R220)
  deriving DecidableEq, Repr

/-- Primary types (R215). -/
inductive Ty where
  | b32 | i8 | i16 | i32 | i64 | n8 | n16 | n32 | n64 | f32 | f16 | bf16 | e4m3 | e5m2 | cb4
  deriving DecidableEq, Repr

/-- A class-00 word in G or I form (R212, R235). `imm` is the imm20 of the I form. -/
structure CW where
  g   : Guard
  d   : Opd
  a   : Opd
  b   : Opd
  c   : Opd
  imm : Option (BitVec 20)
  ty  : Ty
  sub : BitVec 5
  deriving DecidableEq, Repr

/-- CVT: the conversion control field stands in place of SB (R256). -/
structure CvtW where
  g    : Guard
  d    : Opd
  a    : Opd
  ty   : Ty
  sty  : Ty
  rm   : BitVec 2
  sat  : Bool
  esel : BitVec 3
  deriving DecidableEq, Repr

/-- MOVW, the W form (R249). -/
structure MovW where
  g    : Guard
  d    : Opd
  kind : BitVec 2
  imm  : W32
  deriving DecidableEq, Repr

/-- Address spaces (R40, R216). -/
inductive Space where
  | glb | scr | cls | stk | cst | gen
  deriving DecidableEq, Repr

/-- Synchronisation scopes (R105). -/
inductive Scope where
  | core | die | pkg | tray | rack
  deriving DecidableEq, Repr

/-- Orders of a strong access or fence (R103, R216). -/
inductive Order where
  | rlx | acq | rel | acqrel | sc
  deriving DecidableEq, Repr

/-- A class-01 word (R212, R271): DATA, BASE, bits [29:16], MX, SZ, SP, CP, FS, PI. `off` and `mx` keep their bits:
the row of R271 says whether `off` holds imm14, OP and imm10, or a barrier number, and which layout `mx` has. -/
structure MW where
  g    : Guard
  data : Opd
  base : Opd
  off  : BitVec 14
  mx   : BitVec 6
  sz   : BitVec 3
  sp   : Space
  cp   : BitVec 2
  fs   : Bool
  pi   : Bool
  deriving DecidableEq, Repr

/-- A class-10 A-form word (R297). COLSEND's S3 is `s3` (the other rows leave it v0 and use `x`). -/
structure AW where
  g  : Guard
  d  : Opd
  s1 : Opd
  s2 : Opd
  s3 : Opd
  x  : BitVec 11
  fs : Bool
  y  : BitVec 8
  deriving DecidableEq, Repr

/-- A worker core: physical package, die, core (R11, R13). -/
structure CoreId where
  pkg  : Nat
  die  : Nat
  core : Nat
  deriving DecidableEq, Repr

/-- A stack base: physical package and stack ID (R11, R21). -/
structure HomeId where
  pkg   : Nat
  stack : Nat
  deriving DecidableEq, Repr

/-- A block or task: its context (function x 1024 + number), its (root) launch, and its linear index or serial. -/
structure BlkId where
  ctx    : Nat
  task   : Bool
  launch : Nat
  idx    : Nat
  deriving DecidableEq, Repr

/-- A wave: its block or task and its index %wid. -/
structure WaveId where
  blk : BlkId
  wid : Nat
  deriving DecidableEq, Repr

/-- Effective cache policies (R91). -/
inductive Policy where
  | keep | strm | nc | pin | wc | uncached
  deriving DecidableEq, Repr

/-- The read-modify-write operations a home or scratchpad performs (R283 to R286, R292, R323). -/
inductive Rmw where
  | add | smin | smax | umin | umax | band | bor | bxor | swap | incw | decw
  | cas
  | fadd | fmin | fmax
  | hadd | hmin | hmax
  | badd | bmin | bmax
  | arv
  | csig
  deriving DecidableEq, Repr

/-- What a request asks of the place that holds its bytes. -/
inductive ReqKind where
  | load
  | store
  | rmw (op : Rmw) (ftz : Bool)
  | tryRead (thr : Nat)     -- a wait that reads once: AWAIT.try, CWAIT.try
  | evict                   -- the eviction of a non-home copy (R89)
  | evictL1                 -- the eviction of an L1 line (R85)
  deriving DecidableEq, Repr

/-- One naturally aligned piece of a lane's access on its way to the L2 and the home (R102). `op` is the operation in
flight it belongs to, `pos` the byte of the lane's element where the piece starts, `seq` its place in the order in which
requests were issued, `rcv` its place in the order in which its die took it on (R117), 0 before. `il`: a strong element of a
lane-interleaved stack, whose 4-byte groups lie 128 bytes apart (R43, R104). `gl` and `g` are the generations of the core at issue and
of the die when the request left it (R94). For a read-modify-write `data` is the operand and `data2` the new value of a CAS. -/
structure Req where
  op     : Nat
  wave   : WaveId
  lane   : Nat
  ord    : Nat
  kind   : ReqKind
  ctx    : Nat
  src    : CoreId
  home   : HomeId
  ia     : Nat
  size   : Nat
  pos    : Nat
  data   : List Byte
  data2  : List Byte
  strong : Bool
  pol    : Policy
  seq    : Nat
  rcv    : Nat
  il     : Bool
  gl     : Nat
  g      : Nat
  deriving DecidableEq, Repr

/-- The error responses of a home (R49, R53, R101). -/
inductive HomeErr where
  | mismatch
  | absent
  | integrity (code : Nat)
  | ctxDead
  deriving DecidableEq, Repr

/-- A trap record without the fields the ring fills in (R360): CODE, lane bits, SUB, LSER, IID, wave, PC, ORD, place,
ADDR and AUX0 to AUX2; `cont` holds the two images of a replay divergence (R154). -/
structure TrapRec where
  code : Nat
  urg  : Bool
  prec : Bool
  rst  : Bool
  sub  : Nat
  lser : Nat
  iid  : Nat
  tk   : Bool
  wv   : Nat
  lane : Nat
  pc   : W64
  ord  : Nat
  pkg  : Nat
  die  : Nat
  core : Nat
  addr : W64
  aux0 : W64
  aux1 : W64
  aux2 : W64
  cont : List (List W64)
  who  : Option WaveId
  deriving DecidableEq, Repr

/-- A lease request of a block for the pages of one interval at one home (R53). -/
structure LeaseReq where
  blk    : BlkId
  home   : HomeId
  ia     : Nat        -- first byte of the IA interval
  len    : Nat
  va     : Nat        -- the interval's first VA, reported on a refusal
  pkg    : Nat        -- the requesting die
  die    : Nat
  hint   : Bool       -- LEASE-HINT: bring in only (R340)
  pages  : List Nat   -- the interval's pages that the home homes
  deriving DecidableEq, Repr

/-- A home command descriptor (R64) of a function. -/
structure HomeCmd where
  fn   : Nat
  op   : Nat
  zero : Bool
  halve : Bool
  clr  : Bool
  shr  : Bool
  rsvd : Bool        -- a reserved field is nonzero
  ctx  : Nat
  cnt  : Nat
  hstk : Nat
  hpkg : Nat         -- logical package index
  ia   : Nat
  fra  : W64
  frb  : W64
  swc  : W64
  tag  : W64
  seq  : Nat         -- its index in the function's queue
  deriving DecidableEq, Repr

/-- A packet of a command queue: context, queue, first slot and its 64-bit words (8, or 32 for a LAUNCH) (R339). -/
structure Packet where
  ctx   : Nat
  q     : Nat
  slot  : Nat
  words : List W64
  deriving DecidableEq, Repr

/-- A tag publication (R325): context, window index, generation, consumer scope, publishing package, and the wave and word that
publish it (R144). -/
structure TagPub where
  ctx  : Nat
  idx  : Nat
  gen  : Nat
  sco  : Nat
  src  : Nat
  who  : WaveId
  ord  : Nat
  deriving DecidableEq, Repr

/-- Source of a contribution (R373). -/
inductive ContribSrc where
  | mepi (blk : BlkId) (handle : Nat)
  | colsend (op : Nat)
  | exit (blk : BlkId)
  deriving DecidableEq, Repr

/-- A contribution at a package reduction unit (R373): buffer, chunk, CHB bytes; `status` is already decided. -/
structure Contrib where
  ctx   : Nat
  buf   : Nat
  chunk : Nat
  pkg   : Nat
  src   : ContribSrc
  bytes : List Byte
  deriving DecidableEq, Repr

/-- A package partial on its way to the shadow's home (R375, R376): one raw 96-bit value an element. -/
structure Partial where
  ctx   : Nat
  buf   : Nat
  chunk : Nat
  inst  : Nat         -- instance of the chunk
  lpkg  : Nat
  elems : List (BitVec 96)
  deriving DecidableEq, Repr

/-- An all-gather shard chunk arriving at a participant (R378). -/
structure Shard where
  ctx   : Nat
  buf   : Nat
  chunk : Nat
  inst  : Nat
  at_   : Nat         -- participant j, counted from LP0
  k     : Nat         -- shard number at j
  bytes : List Byte
  deriving DecidableEq, Repr

/-- A row of a stack: pseudo-channel, bank, row (R76). -/
structure RowId where
  home : HomeId
  pc   : Nat
  bank : Nat
  row  : Nat
  deriving DecidableEq, Repr

/-- Where a host transaction comes from and goes: its requester ID, and the function whose BAR it names (R382, R384). -/
structure HostAt where
  req : Nat
  fn  : Nat
  deriving DecidableEq, Repr

/-- A row retirement list copy (R76): sequence number, entries (row and spare index), and the signature read with them: the package whose
device key made it and the bytes whose SHA3-256 digest it stands over; none for one that is torn. DESIGN CHOICE (log entry 99). -/
structure RowList where
  seq     : Nat
  entries : List (RowId × Nat)
  sig     : Option (Nat × List Byte)
  deriving DecidableEq, Repr

/-- A task record accepted by SPAWN (R171), with the fields the device adds. -/
structure TaskRec where
  ctx    : Nat
  launch : Nat
  root   : Nat                    -- linear index of the root block
  entry  : W64
  rcap   : Nat                    -- register cap
  sgr    : Nat
  ctrs   : List (Nat × Nat × Nat) -- VA, scope code, threshold
  arg    : List W32
  serial : Nat
  depth  : Nat
  lser   : Nat
  fpctl  : W64
  srseed : W64
  deriving DecidableEq, Repr

/-- What the outside brings to a boot (R390): the image that does not verify (0 the control complex's, 1 to 15 the others), the images'
digests, whether the HBM trains, the rack is joined and the host port comes up, rack membership, the enabled cores of each
die as array (0 west, 1 east) and position in it (R12), the firmware core of each die, the extent of the CXL window, the entries a
translation store holds (R56), and whether the root complex completes AtomicOp requests (R72). -/
structure BootCfg where
  badImage : Option Nat
  digests  : List (List Byte)     -- digests of the images, 32 bytes each (R390, R391)
  hbmOk    : Bool
  joinOk   : Bool
  portOk   : Bool
  joined   : Bool
  hsalt    : W64
  cxlmode  : Nat
  fwCore   : List (Nat × Nat)
  enabled  : List (List (Nat × Nat))
  cxl      : Nat
  ports    : Nat × Nat                -- installed capacity of the two CXL ports (R389)
  xstcap   : Nat
  rcAtomics : Bool
  deriving DecidableEq, Repr

end Sys2Proof
end

