-- ==== Sys2Proof/Config.lean ====
section
/-! DEFINITION. What the spec leaves open: free values, constants without a body, applied to what they depend on. -/

namespace Sys2Proof

/-- The result bits of a special function (R194): function number, FTZ, input bits. The model takes it only inside the bounds
that R194 states. Log entry 1. -/
opaque Config.special : Nat → Bool → W32 → W32

/-- A free choice (R209, R225, R337 and the like): drawn with the state's counter. Log entry 1. -/
opaque Config.choice : Nat → Nat

/-- A 64-byte sector of a stack (by its number in the stack's address space) lies in a row: the spec gives no address map (R74). Log entry 1. -/
opaque Config.inRow : RowId → Nat → Bool

/-- A free value: drawn with the state's counter. Log entry 1. -/
opaque Config.freeWord : Nat → W64

/-- SVREQ, save-area bytes per context and package: the device's (R383). Log entry 1. -/
opaque Config.svreq : Nat

/-- Byte i of the SHA3-256 of a package's identity public key (R391). Log entry 1. -/
opaque Config.identity : Nat → Nat → Byte

/-- Byte i of the signature of a package over bytes, drawn with the state's counter (R391). Log entry 1. -/
opaque Config.signature : Nat → List Byte → Nat → Nat → Byte

end Sys2Proof
end

