-- ==== Sys2Proof/Machine/Numbers.lean ====
section
/-! DEFINITION. Number formats and arithmetic (spec/08_numbers.md R179 to R183, R192, R193, R195 to R197): values are exact,
(-1)^s m 2^e, and are rounded once where a rule rounds. -/

namespace Sys2Proof.Machine

/-! ## Sticky flags (R198) -/

def fIV : Nat := 1
def fDZ : Nat := 2
def fOF : Nat := 4
def fUF : Nat := 8
def fNX : Nat := 16
def fASAT : Nat := 32
def fAEXH : Nat := 64
def fANX : Nat := 128
def fANAN : Nat := 256

/-! ## Formats (R179) -/

/-- A floating-point format: exponent bits, fraction bits, bias, whether it has infinities, its canonical NaN, and whether
R193 flushes it. -/
structure Fmt where
  eb    : Nat
  f     : Nat
  bias  : Nat
  inf   : Bool
  nan   : Nat
  flush : Bool
  deriving DecidableEq, Repr

def fp32 : Fmt := ⟨8, 23, 127, true, 0x7FC00000, true⟩
def fp16 : Fmt := ⟨5, 10, 15, true, 0x7E00, true⟩
def bf16 : Fmt := ⟨8, 7, 127, true, 0x7FC0, true⟩
def e4m3 : Fmt := ⟨4, 3, 7, false, 0x7F, false⟩
def e5m2 : Fmt := ⟨5, 2, 15, true, 0x7E, false⟩

/-- Width of an encoding. -/
def Fmt.width (F : Fmt) : Nat := 1 + F.eb + F.f

/-- Encoding of the largest finite magnitude. -/
def Fmt.maxBits (F : Fmt) : Nat := if F.inf then (2 ^ F.eb - 1) * 2 ^ F.f - 1 else 2 ^ (F.eb + F.f) - 2

/-- The encoding an infinite result takes: infinity, or 0x7F, the canonical NaN of E4M3 (R195). -/
def Fmt.infBits (F : Fmt) (s : Bool) : Nat := if F.inf then s.toNat * 2 ^ (F.eb + F.f) + (2 ^ F.eb - 1) * 2 ^ F.f else F.nan

/-- An exact value: NaN, an infinity, or (-1)^s m 2^e. -/
inductive FV where
  | nan
  | inf (s : Bool)
  | fin (s : Bool) (m : Nat) (e : Int)
  deriving DecidableEq, Repr

/-- R179: the value of an encoding; with ftz, a subnormal of FP32, FP16 or BF16 reads as zero (R193). -/
def Fmt.decode (F : Fmt) (ftz : Bool) (b : Nat) : FV :=
  let s := b.testBit (F.eb + F.f)
  let ex := b / 2 ^ F.f % 2 ^ F.eb
  let fr := b % 2 ^ F.f
  if F.inf && ex == 2 ^ F.eb - 1 then (if fr == 0 then .inf s else .nan)
  else if !F.inf && ex == 2 ^ F.eb - 1 && fr == 2 ^ F.f - 1 then .nan
  else if ex == 0 then (if ftz && F.flush then .fin s 0 0 else .fin s fr (1 - (F.bias : Int) - F.f))
  else .fin s (2 ^ F.f + fr) ((ex : Int) - F.bias - F.f)

/-! ## Rounding -/

/-- Rounding modes (R240): 0 rne, 1 rtz, 2 rdn, 3 rup. -/
abbrev Mode := Nat

/-- m / 2^k rounded to an integer, for a value of sign s; and whether that was inexact. -/
def roundShift (mode : Mode) (s : Bool) (m k : Nat) : Nat × Bool :=
  let q := m / 2 ^ k
  let r := m % 2 ^ k
  let up := match mode with
    | 0 => decide (2 * r > 2 ^ k) || (decide (2 * r = 2 ^ k) && q % 2 == 1)
    | 1 => false
    | 2 => s && r != 0
    | _ => !s && r != 0
  (if up then q + 1 else q, r != 0)

/-- m 2^e in units of 2^l, rounded. -/
def roundAt (mode : Mode) (s : Bool) (m : Nat) (e l : Int) : Nat × Bool :=
  if l ≤ e then (m * 2 ^ (e - l).toNat, false) else roundShift mode s m (l - e).toNat

/-- Exponent of the most significant bit of m 2^e, m nonzero. -/
def msb (m : Nat) (e : Int) : Int := e + (m.log2 : Int)

/-- Exponent of the least significant bit of the format at m 2^e; `u`: as if the exponent range were unbounded below. -/
def Fmt.lsb (F : Fmt) (u : Bool) (m : Nat) (e : Int) : Int :=
  if u then msb m e - F.f else max (msb m e - F.f) (1 - (F.bias : Int) - F.f)

/-- The magnitude bits of q 2^l, with the exponent range unbounded above; q at most 2^(f+1), l at least the least exponent. -/
def Fmt.magBits (F : Fmt) (q : Nat) (l : Int) : Nat :=
  if q < 2 ^ F.f then q else (l + F.f + F.bias - 1).toNat * 2 ^ F.f + q

/-- R192, R193, R195: the encoding of an exact value under a rounding mode and .sat, and the sticky flags it sets. Log entry 19. -/
def Fmt.encode (F : Fmt) (mode : Mode) (sat ftz : Bool) (v : FV) : Nat × Nat :=
  match v with
  | .nan => (F.nan, 0)
  | .inf s =>
    let sg := s.toNat * 2 ^ (F.eb + F.f)
    if sat then (sg + F.maxBits, fOF) else (F.infBits s, if F.inf then 0 else fOF)
  | .fin s m e =>
    let sg := s.toNat * 2 ^ (F.eb + F.f)
    if m = 0 then (sg, 0) else
    let l := F.lsb false m e
    let (q, nx) := roundAt mode s m e l
    let b := F.magBits q l
    if b > F.maxBits then
      let big := sat || mode == 1 || (mode == 2 && !s) || (mode == 3 && s)
      (if big then sg + F.maxBits else F.infBits s, fOF ||| fNX)
    else
      let lu := F.lsb true m e
      let (qu, _) := roundAt mode s m e lu
      let tiny := decide (lu + F.f < 1 - (F.bias : Int)) && !(qu == 2 ^ (F.f + 1) && decide (lu + F.f + 1 = 1 - (F.bias : Int)))
      let fl := (if nx then fNX else 0) ||| (if nx && tiny then fUF else 0)
      if ftz && F.flush && b < 2 ^ F.f && b ≠ 0 then (sg, fl ||| fUF) else (sg + b, fl)

/-- R195: the encoding of an exact value a conversion gives, and its flags: OF and NX, and UF only where the result is flushed (R193). Log entry 19. -/
def Fmt.conv (F : Fmt) (mode : Mode) (sat ftz : Bool) (v : FV) : Nat × Nat :=
  let e := F.encode mode sat false v
  let m := e.1 % 2 ^ (F.eb + F.f)
  let fl := e.2 &&& (fOF ||| fNX)
  if ftz && F.flush && decide (m < 2 ^ F.f) && m != 0 then (e.1 - m, fl ||| fUF) else (e.1, fl)

/-! ## Exact arithmetic (R192, R252) -/

/-- A signed integer times 2^e as a value; z is the sign of an exact zero. -/
def FV.ofInt (z : Bool) (i : Int) (e : Int) : FV := if i = 0 then .fin z 0 0 else .fin (decide (i < 0)) i.natAbs e

def FV.sgn (s : Bool) (m : Nat) : Int := if s then -(m : Int) else m

def FV.neg (v : FV) : FV :=
  match v with
  | .nan => .nan
  | .inf s => .inf !s
  | .fin s m e => .fin (!s) m e

/-- Exact sum, with the flags of an invalid operation. An exact zero sum is + except under rdn; two zeros of one sign keep it. -/
def FV.add (mode : Mode) (a b : FV) : FV × Nat :=
  match a, b with
  | .nan, _ => (.nan, 0)
  | _, .nan => (.nan, 0)
  | .inf s, .inf t => if s = t then (.inf s, 0) else (.nan, fIV)
  | .inf s, _ => (.inf s, 0)
  | _, .inf t => (.inf t, 0)
  | .fin s m e, .fin t n g =>
    let l := min e g
    let i := FV.sgn s (m * 2 ^ (e - l).toNat) + FV.sgn t (n * 2 ^ (g - l).toNat)
    let z := if m = 0 ∧ n = 0 ∧ s = t then s else mode == 2
    (FV.ofInt z i l, 0)

/-- Exact product, with the flags of an invalid operation. -/
def FV.mul (a b : FV) : FV × Nat :=
  match a, b with
  | .nan, _ => (.nan, 0)
  | _, .nan => (.nan, 0)
  | .inf s, .inf t => (.inf (s != t), 0)
  | .inf s, .fin t n _ => if n = 0 then (.nan, fIV) else (.inf (s != t), 0)
  | .fin s m _, .inf t => if m = 0 then (.nan, fIV) else (.inf (s != t), 0)
  | .fin s m e, .fin t n g => if m = 0 ∨ n = 0 then (.fin (s != t) 0 0, 0) else (.fin (s != t) (m * n) (e + g), 0)

/-- a < b for values that are not NaN; zeros are equal. -/
def FV.lt (a b : FV) : Bool :=
  match a, b with
  | .nan, _ => false
  | _, .nan => false
  | .inf s, .inf t => s && !t
  | .inf s, .fin .. => s
  | .fin .., .inf t => !t
  | .fin s m e, .fin t n g =>
    let l := min e g
    decide (FV.sgn s (m * 2 ^ (e - l).toNat) < FV.sgn t (n * 2 ^ (g - l).toNat))

def FV.isNan (a : FV) : Bool := match a with | .nan => true | _ => false
def FV.isInf (a : FV) : Bool := match a with | .inf _ => true | _ => false
def FV.isZero (a : FV) : Bool := match a with | .fin _ m _ => m == 0 | _ => false
def FV.sign (a : FV) : Bool := match a with | .nan => false | .inf s => s | .fin s _ _ => s

def FV.eq (a b : FV) : Bool := !a.isNan && !b.isNan && !a.lt b && !b.lt a

/-- Minimum or maximum of R192: the other operand beside one NaN, -0 below +0. -/
def FV.minmax (mx : Bool) (a b : FV) : FV :=
  if a.isNan then b else if b.isNan then a
  else if a.isZero && b.isZero then (if mx then (if a.sign then b else a) else (if a.sign then a else b))
  else if mx then (if a.lt b then b else a) else (if b.lt a then b else a)

/-- Rounded to an integral value (FRND, R252). -/
def FV.integral (mode : Mode) (a : FV) : FV :=
  match a with
  | .fin s m e => if 0 ≤ e then a else .fin s (roundShift mode s m (-e).toNat).1 0
  | v => v

/-! ## Conversions to and from integers (R195) -/

def intMin (w : Nat) (signed : Bool) : Int := if signed then -(2 ^ (w - 1) : Nat) else 0
def intMax (w : Nat) (signed : Bool) : Int := if signed then (2 ^ (w - 1) : Nat) - 1 else (2 ^ w : Nat) - 1

/-- An integer target: always saturating. -/
def FV.toInt (mode : Mode) (w : Nat) (signed : Bool) (v : FV) : Int × Nat :=
  match v with
  | .nan => (0, fIV)
  | .inf s => (if s then intMin w signed else intMax w signed, fIV)
  | .fin s m e =>
    let (q, nx) := roundAt mode s m e 0
    let i := FV.sgn s q
    if i < intMin w signed then (intMin w signed, fIV)
    else if i > intMax w signed then (intMax w signed, fIV)
    else (i, if nx then fNX else 0)

/-! ## Codebooks (R183) -/

/-- Distance of x from an entry: none is an infinite distance. -/
def cbDist (x e : FV) : Option FV :=
  match x, e with
  | .inf s, .inf t => if s = t then some (.fin false 0 0) else none
  | .inf _, _ => none
  | _, .inf _ => none
  | _, _ => (match (FV.add 0 x e.neg).1 with | .fin _ m k => some (.fin false m k) | _ => none)

def cbCloser (a b : Option FV) : Bool :=
  match a, b with
  | none, _ => false
  | some _, none => true
  | some u, some v => u.lt v

/-- The code whose entry is nearest, the lowest among equals. -/
def cbNearest (x : FV) (es : List FV) (i : Nat) (best : Nat) (bd : Option (Option FV)) : Nat :=
  match es with
  | [] => best
  | e :: r =>
    if e.isNan then cbNearest x r (i + 1) best bd
    else
      let d := cbDist x e
      let better := match bd with | none => true | some b => cbCloser d b
      if better then cbNearest x r (i + 1) i (some d) else cbNearest x r (i + 1) best bd

/-- R183: the code, the sticky flags, and whether it counts as a saturation. -/
def cbQuant (x : FV) (es : List FV) : Nat × Nat × Bool :=
  if x.isNan then
    (match es.findIdx? FV.isNan with | some i => (i, 0, false) | none => (0, fIV, false))
  else if es.all FV.isNan then (0, fIV, false)
  else
    let fin := es.filter fun e => !e.isNan && !e.isInf
    let sat := !fin.isEmpty && (fin.all (fun e => e.lt x) || fin.all (fun e => x.lt e))
    (cbNearest x es 0 0 none, 0, sat)

/-! ## Stochastic rounding (R196) -/

def srBits (seed : W64) (lane : Nat) (ea : W64) : Nat :=
  let z := seed ^^^ BitVec.ofNat 64 (lane * 2 ^ 59) ^^^ ea
  let z := (z ^^^ (z >>> 30)) * 0xBF58476D1CE4E5B9#64
  let z := (z ^^^ (z >>> 27)) * 0x94D049BB133111EB#64
  let z := z ^^^ (z >>> 31)
  (z >>> 32).toNat

/-- R196: CVTSR of an FP32 value. Log entry 19. -/
def cvtsr (F : Fmt) (sat ftz : Bool) (seed : W64) (lane : Nat) (ea : W64) (x : FV) : Nat × Nat :=
  match x with
  | .fin s m e =>
    if m = 0 then F.conv 0 sat ftz x else
    let l := F.lsb false m e
    if l ≤ e then F.conv 0 sat ftz x else
    let k := (l - e).toNat
    let q := m / 2 ^ k
    let r := m % 2 ^ k
    if r = 0 then F.conv 0 sat ftz x else
    -- distance of x from the lower neighbour in the order of the reals, over the spacing
    let num := if s then 2 ^ k - r else r
    let fr := num * 2 ^ 32 / 2 ^ k
    let toHi := decide (srBits seed lane ea < fr)
    let q' := if s then (if toHi then q else q + 1) else (if toHi then q + 1 else q)
    let (b, fl) := F.conv 0 sat ftz (.fin s q' l)
    (b, fl ||| fNX)
  | v => F.conv 0 sat ftz v

/-! ## Maximum with index (R197) -/

/-- (v1, i1) precedes (v2, i2). -/
def precedes (v1 : FV) (i1 : Nat) (v2 : FV) (i2 : Nat) : Bool :=
  if v1.isNan && !v2.isNan then true
  else if v2.isNan && !v1.isNan then false
  else if v1.isNan then decide (i1 < i2)
  else if v2.lt v1 then true
  else if v1.lt v2 then false
  else if v1.isZero && v2.isZero && v1.sign != v2.sign then !v1.sign
  else decide (i1 < i2)

/-! ## Formats by type -/

/-- The floating-point format of a type; none for the others. -/
def fmtOf (t : Ty) : Option Fmt :=
  match t with
  | .f32 => some fp32 | .f16 => some fp16 | .bf16 => some bf16 | .e4m3 => some e4m3 | .e5m2 => some e5m2
  | _ => none

/-- Bits of an element (R236). -/
def tyBits (t : Ty) : Nat :=
  match t with
  | .i64 | .n64 => 64
  | .i16 | .n16 | .f16 | .bf16 => 16
  | .i8 | .n8 | .e4m3 | .e5m2 => 8
  | .cb4 => 4
  | _ => 32

def tySigned (t : Ty) : Bool :=
  match t with
  | .i8 | .i16 | .i32 | .i64 => true
  | _ => false

end Sys2Proof.Machine
end

