-- ==== Sys2Proof/Syntax.lean ====
section
/-! DEFINITION. The instructions: one constructor for each row of spec/opcode_table.json, in the table's order (the rows that only the outside brings about stand last).
Rows of opcodes (spec/09_encoding.md R223) carry the decoded word; the other rows are the indivisible events of the package's
engines, homes, distributors, firmware and host (spec/95_what_each_step_holds.md) and carry the data that names the event. -/

namespace Sys2Proof

/-- One row of the opcode table each. -/
inductive Instr where
  /-- IADD (R241): Integer add with optional saturation, carry-in and carry-out predicate. -/
  | iadd (w : CW)
  /-- ISUB (R241): Integer subtract with optional saturation, borrow-in and borrow-out predicate. -/
  | isub (w : CW)
  /-- IMUL (R242): Low half of the exact integer product. -/
  | imul (w : CW)
  /-- IMULH (R242): High half of the exact integer product, with signedness from the type. -/
  | imulh (w : CW)
  /-- IMAD (R242): Integer multiply-add reduced to the operand width. -/
  | imad (w : CW)
  /-- IMADW (R242): 32-bit by 32-bit multiply added to a 64-bit value, giving a 64-bit result. -/
  | imadw (w : CW)
  /-- IMIN (R243): Integer minimum of two operands. -/
  | imin (w : CW)
  /-- IMAX (R243): Integer maximum of two operands. -/
  | imax (w : CW)
  /-- IABS (R243): Integer absolute value, optionally saturating. -/
  | iabs (w : CW)
  /-- ISAD (R243): Sum of absolute difference and an addend. -/
  | isad (w : CW)
  /-- IDP4 (R243): Four-way 8-bit dot product accumulated into 32 bits, optionally saturating. -/
  | idp4 (w : CW)
  /-- LOP3 (R244): Bitwise function of A, B and the old destination, given by a truth table. -/
  | lop3 (w : CW)
  /-- SHL (R245): Logical shift left. -/
  | shl (w : CW)
  /-- SHR (R245): Logical shift right. -/
  | shr (w : CW)
  /-- SAR (R245): Arithmetic shift right. -/
  | sar (w : CW)
  /-- SHF (R245): Funnel shift of a 64-bit concatenation, left or right. -/
  | shf (w : CW)
  /-- BFE (R246): Bit field extract with sign or zero extension. -/
  | bfe (w : CW)
  /-- BFI (R246): Bit field insert. -/
  | bfi (w : CW)
  /-- BREV (R246): Bit reversal. -/
  | brev (w : CW)
  /-- POPC (R246): Population count. -/
  | popc (w : CW)
  /-- CLZ (R246): Count of leading zeros. -/
  | clz (w : CW)
  /-- PRMT (R246): Byte permute of two registers under four selectors. -/
  | prmt (w : CW)
  /-- ISET (R247): Integer compare, combined with a predicate, to a predicate or mask. -/
  | iset (w : CW)
  /-- SEL (R248): Select between two operands by a predicate. -/
  | sel (w : CW)
  /-- MOV (R249): Register move or move of a sign-extended immediate. -/
  | mov (w : CW)
  /-- MOVW (R249): Move of a 32-bit immediate in one of four placement kinds. -/
  | movw (w : MovW)
  /-- RDLANE (R250): Broadcast of one lane's value to all participating lanes. -/
  | rdlane (w : CW)
  /-- AADD (R251): 64-bit address add. -/
  | aadd (w : CW)
  /-- AMAD (R251): 64-bit address plus exact 32-bit product. -/
  | amad (w : CW)
  /-- ASET (R251): Build a generic window pointer for scratch, cluster or stack space. -/
  | aset (w : CW)
  /-- AJOIN (R251): Join two 32-bit values into a 64-bit address. -/
  | ajoin (w : CW)
  /-- ASPLIT (R251): Take the low or high half of a 64-bit address. -/
  | asplit (w : CW)
  /-- FADD (R252): FP32 add rounded once in the chosen mode. -/
  | fadd (w : CW)
  /-- FMUL (R252): FP32 multiply rounded once. -/
  | fmul (w : CW)
  /-- FFMA (R252): FP32 fused multiply-add rounded once. -/
  | ffma (w : CW)
  /-- FMIN (R253): FP32 minimum with NaN and signed-zero rules. -/
  | fmin (w : CW)
  /-- FMAX (R253): FP32 maximum with NaN and signed-zero rules. -/
  | fmax (w : CW)
  /-- FSET (R247): FP32 compare to a predicate or mask. -/
  | fset (w : CW)
  /-- FCLASS (R253): Class mask of an FP32 value ANDed with a selector. -/
  | fclass (w : CW)
  /-- FRND (R252): Round an FP32 value to an integral value. -/
  | frnd (w : CW)
  /-- FRCP (R254): FP32 reciprocal within 1 ulp. -/
  | frcp (w : CW)
  /-- FRSQ (R254): FP32 reciprocal square root within 1 ulp. -/
  | frsq (w : CW)
  /-- FSQRT (R254): Correctly rounded FP32 square root. -/
  | fsqrt (w : CW)
  /-- FEXP2 (R254): FP32 base-2 exponential. -/
  | fexp2 (w : CW)
  /-- FLOG2 (R254): FP32 base-2 logarithm. -/
  | flog2 (w : CW)
  /-- FSIN (R254): FP32 sine. -/
  | fsin (w : CW)
  /-- FCOS (R254): FP32 cosine. -/
  | fcos (w : CW)
  /-- FTANH (R254): FP32 hyperbolic tangent. -/
  | ftanh (w : CW)
  /-- FSCALE (R252): Multiply an FP32 value by a power of two. -/
  | fscale (w : CW)
  /-- HADD2 (R255): Packed 16-bit float add on two halves. -/
  | hadd2 (w : CW)
  /-- HMUL2 (R255): Packed 16-bit float multiply. -/
  | hmul2 (w : CW)
  /-- HFMA2 (R255): Packed 16-bit float fused multiply-add. -/
  | hfma2 (w : CW)
  /-- HMNMX2 (R255): Packed 16-bit float minimum or maximum. -/
  | hmnmx2 (w : CW)
  /-- HSET2 (R247): Packed 16-bit float compare per half. -/
  | hset2 (w : CW)
  /-- CVT (R256): Convert one element between numeric types. -/
  | cvt (w : CvtW)
  /-- CVTSR (R257): Convert FP32 to a narrow float with stochastic rounding. -/
  | cvtsr (w : CW)
  /-- PACK2 (R258): Convert two FP32 values and pack them into a register. -/
  | pack2 (w : CW)
  /-- QUANT (R259): Quantise an FP32 value into one CB4 code or FP8 byte of a register. -/
  | quant (w : CW)
  /-- DEQ (R259): Dequantise one CB4 code or FP8 byte to FP32. -/
  | deq (w : CW)
  /-- PLOP (R260): Three-input logic on predicates. -/
  | plop (w : CW)
  /-- PPACK (R260): Pack predicates p0-p6 into a register. -/
  | ppack (w : CW)
  /-- PUNPACK (R260): Unpack a register into predicates p0-p6. -/
  | punpack (w : CW)
  /-- SHFL (R261): Read a value from another lane of the segment. -/
  | shfl (w : CW)
  /-- VOTE (R262): All, any, uniform or count vote over participating lanes. -/
  | vote (w : CW)
  /-- BALLOT (R262): Mask of participating lanes whose predicate is set. -/
  | ballot (w : CW)
  /-- MATCH (R262): Mask or leader of lanes holding an equal value. -/
  | matchw (w : CW)
  /-- REDUX (R263): Cross-lane reduction on a fixed tree. -/
  | redux (w : CW)
  /-- REDUXI (R263): Cross-lane maximum with index. -/
  | reduxi (w : CW)
  /-- SCAN (R263): Inclusive or exclusive prefix combination over lanes. -/
  | scan (w : CW)
  /-- LD (R278): Weak per-lane load. -/
  | ld (w : MW)
  /-- ST (R278): Weak per-lane store. -/
  | st (w : MW)
  /-- LDQ (R279): One weak load for the wave into a per-wave register. -/
  | ldq (w : MW)
  /-- STQ (R279): One weak store for the wave from a per-wave register. -/
  | stq (w : MW)
  /-- LDA (R281): Strong load, relaxed or acquire, at a scope. -/
  | lda (w : MW)
  /-- STL (R281): Strong store, relaxed or release, at a scope. -/
  | stl (w : MW)
  /-- LDC (R280): Load that turns issuing-core address faults into a predicate. -/
  | ldc (w : MW)
  /-- ATOM (R283): Strong integer read-modify-write returning the old value. -/
  | atom (w : MW)
  /-- CAS (R284): Strong compare-and-swap. -/
  | cas (w : MW)
  /-- ATOMF (R285): Strong floating-point read-modify-write returning the old value. -/
  | atomf (w : MW)
  /-- RED (R286): Strong read-modify-write that returns no value. -/
  | red (w : MW)
  /-- FENCE (R287): Fence ordering the thread's accesses at a scope. -/
  | fence (w : MW)
  /-- PREF (R294): Prefetch of a line under the effective policy. -/
  | pref (w : MW)
  /-- CCTL_INV (R295): Invalidate the L1 line and non-home copy of an address. -/
  | cctlInv (w : MW)
  /-- CCTL_UNPIN (R295): Release the context's pin on a line. -/
  | cctlUnpin (w : MW)
  /-- CCTL_INVL1 (R295): Bump the core's L1 generation for the context. -/
  | cctlInvl1 (w : MW)
  /-- CCTL_INVDIE (R295): Bump the die and core generations for the context. -/
  | cctlInvdie (w : MW)
  /-- CCTL_IINV (R295): Make earlier code stores visible to instruction fetch. -/
  | cctlIinv (w : MW)
  /-- BAR (R289): Block barrier arrival, with or without wait. -/
  | bar (w : MW)
  /-- CBAR (R289): Cluster barrier arrival, with or without wait. -/
  | cbar (w : MW)
  /-- ARV (R292): Release arrival on an arrival object. -/
  | arv (w : MW)
  /-- AWAIT (R293): Acquire wait, or try, for a new phase of an arrival object. -/
  | await (w : MW)
  /-- BRA (R265): Branch to a clause-relative target. -/
  | bra (g : Guard) (off : W32)
  /-- BRX (R265): Branch to a register target, per lane. -/
  | brx (g : Guard) (a : Opd)
  /-- CALL (R265): Call a clause-relative target, writing the link to a12. -/
  | call (g : Guard) (off : W32)
  /-- CALLX (R265): Call a register target, writing the link to a12. -/
  | callx (g : Guard) (a : Opd)
  /-- RET (R265): Return to the address in a12. -/
  | ret (g : Guard)
  /-- MEET (R267): Set the meeting register to a target. -/
  | meet (g : Guard) (off : W32)
  /-- MEETS (R267): Push the meeting register and set a new target. -/
  | meets (g : Guard) (off : W32)
  /-- MEETL (R267): Pop the meeting stack into the meeting register. -/
  | meetl (g : Guard)
  /-- EXIT (R268): Exit the participating threads once the wave's stores have landed. -/
  | exit (g : Guard)
  /-- YIELD (R269): Move the active lanes on and let other waves issue first. -/
  | yield (g : Guard)
  /-- NOP (R269): No operation. -/
  | nop (g : Guard)
  /-- SHAPE (R301): Release and re-grant a tile handle with a shape and kind class. -/
  | shape (w : AW)
  /-- SHAPE_REL (R301): Release a tile handle's grant. -/
  | shapeRel (w : AW)
  /-- MZERO (R303): Zero a tile's sums, NaN marks, count and anchor. -/
  | mzero (w : AW)
  /-- MLOOP (R305): Run K steps of a matrix product into a tile. -/
  | mloop (w : AW)
  /-- MEPI (R307): Read out a tile, convert it and write it, optionally publishing a tag. -/
  | mepi (w : AW)
  /-- MEPI_COL (R307): Send a tile's raw forms as a collective contribution. -/
  | mepiCol (w : AW)
  /-- MLDA (R308): Load a tile from raw forms in memory. -/
  | mlda (w : AW)
  /-- MSTA (R308): Store a tile as raw forms to memory. -/
  | msta (w : AW)
  /-- MCB (R309): Bind a 32-byte codebook to a tile handle. -/
  | mcb (w : AW)
  /-- XFER (R316): Build and publish a stream command, returning its ticket. -/
  | xfer (w : AW)
  /-- XRING (R318): Build and publish a slot-ring command. -/
  | xring (w : AW)
  /-- XSLOT_ACQ (R319): Wait for and acquire the next ready slot of a slot ring. -/
  | xslotAcq (w : AW)
  /-- XSLOT_REL (R319): Give the oldest acquired slot back to the engine. -/
  | xslotRel (w : AW)
  /-- XWAIT (R320): Wait for a command's source-released or arrival completion. -/
  | xwait (w : AW)
  /-- XCANCEL (R321): Cancel a command or slot ring not yet done. -/
  | xcancel (w : AW)
  /-- SPAWN (R322): Offer task records for acceptance, per lane. -/
  | spawn (w : AW)
  /-- CSIG (R323): Release increment of a 64-bit counter. -/
  | csig (w : AW)
  /-- CWAIT (R324): Wait, or try, for a counter to reach a threshold. -/
  | cwait (w : AW)
  /-- TAGPUB (R325): Publish a tag generation to the Cassette. -/
  | tagpub (w : AW)
  /-- TAGWAIT (R326): Wait, or try, for a tag generation. -/
  | tagwait (w : AW)
  /-- COLSEND (R327): Send bytes as a collective contribution. -/
  | colsend (w : AW)
  /-- PHINT (R329): Liveness point where a pending save stops the wave. -/
  | phint (g : Guard) (off : W32)
  /-- LOGMARK (R330): Logged mark event carrying an operand. -/
  | logmark (w : AW)
  /-- TRAPF (R331): Trap when masked arithmetic sticky flags are set. -/
  | trapf (w : AW)
  /-- TRAP (R332): Post a user-trap record, optionally fatal. -/
  | trap (w : AW)
  /-- CSRR (R334): Read a CSR. -/
  | csrr (w : AW)
  /-- CSRW (R334): Write a CSR without behaviour of its own under its access rules. -/
  | csrw (w : AW)
  /-- CLOCK (R336): Read the core's 64-bit cycle counter. -/
  | clock (w : AW)
  /-- SLEEP (R337): Make the wave ineligible for a number of cycles. -/
  | sleep (w : AW)
  /-- BPT (R333): Breakpoint that stops the wave when debugging is enabled. -/
  | bpt (w : AW)
  /-- CMDQ_WRITE (R311): CSR write that sets up or removes the block's command ring and zeroes the notify word. -/
  | cmdqWrite (w : AW)
  /-- RNGATTR_WRITE (R36): Write of a range attribute register, checked as a whole when it sets V. -/
  | rngattrWrite (w : AW)
  /-- RANGE_BOUND_WRITE (R36): Write of RNGBASE, RNGLIM or RNGIA, ignored with REJ while the range is valid. -/
  | rangeBoundWrite (w : AW)
  /-- TAGWIN_WRITE (R355): Firmware write of the tag window, initialising newly covered entries. -/
  | tagwinWrite (w : AW)
  /-- CLAUSE_ISSUE (R162): A quadrant picks a wave and group and issues one fetched and checked clause. -/
  | clauseIssue (c : CoreId) (quad : Nat)
  /-- FLAG_COMPLETION (R206): A flag-setting operation completes, writes its destinations and decrements its flag. -/
  | flagCompletion (op : Nat)
  /-- WAVE_END (R166): A wave with no live thread ends and releases its registers once every flag is zero. -/
  | waveEnd (w : WaveId)
  /-- TRAP_RECORD_POST (R366): A trap record claims a slot of the trap ring under the lane rules and is written. -/
  | trapRecordPost (ctx : Nat) (r : TrapRec)
  /-- LOCKRING_AUTO_RESTART (R364): With ALR set, a word blocked by a Lockring conflict restarts when the entry is released. -/
  | lockringAutoRestart (w : WaveId)
  /-- TRAP_RESPONSE_RESUME (R365): Response action 1 resumes a trapped wave at the faulting word. -/
  | trapResponseResume (ctx k : Nat)
  /-- TRAP_RESPONSE_STKLIM (R365): Response action 2 sets STKLIM and resumes a wave trapped by a stack-limit fault. -/
  | trapResponseStklim (ctx k : Nat) (v : W64)
  /-- TRAP_RESPONSE_END (R365): Response action 3 ends a trapped wave's block as a fatal trap. -/
  | trapResponseEnd (ctx k : Nat)
  /-- WATCHDOG_WAIT_EXPIRY (R367): A wave's wait counter reaches its limit and raises the watchdog trap. -/
  | watchdogWaitExpiry (w : WaveId)
  /-- WATCHDOG_HELD_EXPIRY (R367): A thread's held counter reaches its limit and raises the watchdog trap. -/
  | watchdogHeldExpiry (w : WaveId) (lane : Nat)
  /-- SLEEP_EXPIRY (R337): A sleeping wave's cycle bound runs out and it becomes eligible. -/
  | sleepExpiry (w : WaveId)
  /-- BREAKPOINT_RESUME (R333): Firmware resumes a wave stopped at BPT. -/
  | breakpointResume (w : WaveId)
  /-- WC_BUFFER_DRAIN (R92): A write-combining buffer drains as one write to its home. -/
  | wcBufferDrain (c : CoreId) (line : Nat)
  /-- STORE_LANDED (R121): A home acknowledges a store, which releases waits for landing. -/
  | storeLanded (op : Nat)
  /-- WEAK_STORE_ERROR (R125): An error response for a weak store reaches the core and ends the block imprecisely. -/
  | weakStoreError (op : Nat) (e : HomeErr) (ia : Nat)
  /-- HOME_ACCESS (R56): A load, store, atomic or write-back reaches the page's home and is served or refused. -/
  | homeAccess (r : Req)
  /-- L2_REQUEST (R89): An L2 slice serves a load, store, atomic or eviction. -/
  | l2Request (r : Req)
  /-- LEASE_REQUEST (R53): A home takes a lease request, pinning and granting or refusing. -/
  | leaseRequest (l : LeaseReq)
  /-- LEASE_GRANT_RECEIVED (R53): The die distributor receives a grant and starts the block once all are in. -/
  | leaseGrantReceived (l : LeaseReq)
  /-- LEASE_REFUSED (R55): A refusal reaches the die distributor, failing the launch and releasing grants. -/
  | leaseRefused (l : LeaseReq)
  /-- LEASE_RELEASE (R53): A home decrements lease counts, freeing pins and deferred unmaps. -/
  | leaseRelease (l : LeaseReq)
  /-- HOME_COMMAND_DOORBELL (R64): Software advances HCQPI and the Hub delivers descriptors to homes. -/
  | homeCommandDoorbell (fn pi : Nat)
  /-- MAP (R65): Home command creating a translation entry. -/
  | map (c : HomeCmd)
  /-- UNMAP (R71): Home command removing an entry after deferral and shoot-down. -/
  | unmap (c : HomeCmd)
  /-- FILL (R67): Home command answering a page request with a frame. -/
  | fill (c : HomeCmd)
  /-- REFUSE (R67): Home command refusing a page request. -/
  | refuse (c : HomeCmd)
  /-- EVICT (R71): Home command making a page absent after deferral and shoot-down. -/
  | evict (c : HomeCmd)
  /-- MIGRATE (R68): Home command moving a page to a new frame while readable. -/
  | migrate (c : HomeCmd)
  /-- HEATREAD (R65): Home command writing heat records for consecutive pages. -/
  | heatread (c : HomeCmd)
  /-- PROBE (R65): Home command writing a translation entry to a buffer. -/
  | probe (c : HomeCmd)
  /-- RESETACC (R65): Home command running a shoot-down without changing the frame. -/
  | resetacc (c : HomeCmd)
  /-- BADCMD_OPCODE (R65): A home command with a reserved opcode completes with BADCMD. -/
  | badcmdOpcode (c : HomeCmd)
  /-- MIGRATION_SLOT_START (R68): A waiting MIGRATE takes a free migration slot and begins copying. -/
  | migrationSlotStart (h : HomeId)
  /-- MIGRATION_SECTOR_COPY (R68): One sector is copied to the new frame in one step at the home. -/
  | migrationSectorCopy (h : HomeId) (ia : Nat)
  /-- FILL_COPY_DONE (R67): The migration engine finishes a fill and the home grants held requests. -/
  | fillCopyDone (h : HomeId) (ia : Nat)
  /-- PAGE_FLUSH (R62): A die writes back and drops every copy of a page and acknowledges. -/
  | pageFlush (h : HomeId) (ia pkg die : Nat)
  /-- SHOOT_DOWN_ACK (R62): A flush acknowledgement arrives; the last one clears the companion word. -/
  | shootDownAck (h : HomeId) (ia pkg die : Nat)
  /-- PRQCI_WRITE (R67): Software advances the page-request consumer index, letting waiting records post. -/
  | prqciWrite (fn ci : Nat)
  /-- ROW_RETIREMENT_ORDER (R74): Firmware orders a failing row retired, holding its accesses and copying to a spare. -/
  | rowRetirementOrder (r : RowId) (bad : List Nat)
  /-- ROW_REMAP_SWITCH (R74): The row copy ends, the remap switches and held accesses are released. -/
  | rowRemapSwitch (r : RowId)
  /-- RETIRED_ROW_PERSIST (R76): A retirement is written to the older list copy and verified. -/
  | retiredRowPersist (pkg : Nat) (r : RowId)
  /-- FUNCTION_LEVEL_RESET (R388): A function reset tears down its contexts and resets BAR0. -/
  | functionLevelReset (fn : Nat)
  /-- HOST_BAR2_WRITE (R384): A host posted write through BAR2 is performed in requester order. -/
  | hostBar2Write (fn : HostAt) (off : Nat) (bytes : List Byte)
  /-- HOST_BAR2_READ (R384): A host read through BAR2 completes after earlier writes have landed. -/
  | hostBar2Read (fn : HostAt) (off size tag : Nat)
  /-- CTXCMD_CREATE (R385): Create command loading and checking a context descriptor. -/
  | ctxcmdCreate (fn ctx : Nat)
  /-- CTXCMD_TEARDOWN (R138): Tear-down command stopping launches for a context. -/
  | ctxcmdTeardown (fn ctx : Nat)
  /-- CORE_REVOCATION (R138): A core invalidates a context's range registers and stops its waves. -/
  | coreRevocation (ctx : Nat) (c : CoreId)
  /-- CONTEXT_REJECTION (R73): A home rejects a dead context and cancels its commands and migrations. -/
  | contextRejection (ctx : Nat) (h : HomeId)
  /-- QUEUE_DOORBELL (R386): A QDB write gives a queue's write index to the rack distributor. -/
  | queueDoorbell (fn ctx q wi : Nat)
  /-- FPART_WRITE (R387): PF write of a function's partition mask, ignored while it has a context. -/
  | fpartWrite (fn : Nat) (mask : BitVec 576)
  /-- FUNCTION_REGISTER_WRITE (R383): Write of a BAR0 function register without behaviour of its own. -/
  | functionRegisterWrite (fn off : Nat) (v : W64)
  /-- LAUNCH (R341): A launch record is read, checked and its producer range reserved. -/
  | launch (p : Packet)
  /-- SIGNAL (R340): A signal packet is read and waits for earlier launches to end. -/
  | signal (p : Packet)
  /-- SIGNAL_FIRE (R340): After earlier launches end, the signal's write or add is made and an interrupt raised. -/
  | signalFire (p : Packet)
  /-- WAIT (R340): A wait packet holds the queue until a memory condition holds. -/
  | wait (p : Packet)
  /-- BARRIER_AND (R340): A packet holds the queue until up to three conditions hold. -/
  | barrierAnd (p : Packet)
  /-- WAIT_RECHECK (R340): The distributor re-reads a waited word every 10 µs or at a signal. -/
  | waitRecheck (ctx q : Nat)
  /-- PHASE (R340): A phase packet advances the queue's coherence phase. -/
  | phase (p : Packet)
  /-- BIND (R371): A bind packet binds a named buffer at every participant's Hub. -/
  | bind (p : Packet)
  /-- UNBIND (R372): An unbind packet removes a binding once its instances end. -/
  | unbind (p : Packet)
  /-- LEASE_HINT (R340): A lease-hint packet starts page-ins for a range. -/
  | leaseHint (p : Packet)
  /-- INVALID_PACKET (R339): A packet with a reserved type or field is skipped with a record. -/
  | invalidPacket (p : Packet)
  /-- DRR_ROUND (R345): The rack distributor credits queues and hands down block chunks. -/
  | drrRound
  /-- BLOCK_COST_CHARGE (R345): A block end's cost is charged to its queue's deficit. -/
  | blockCostCharge (b : BlkId) (cost : Nat)
  /-- CHUNK_APPEND (R347): A package distributor appends received blocks to their key die's list. -/
  | chunkAppend (ctx launch pkg : Nat) (idxs : List Nat)
  /-- DIE_DISTRIBUTOR_ROUND (R348): A die distributor places pending blocks and clusters on cores. -/
  | dieDistributorRound (pkg die : Nat)
  /-- PHASE_CLEAN (R97): A die drains writes and bumps generations before dispatching a new phase. -/
  | phaseClean (pkg die ctx q ph : Nat)
  /-- STEAL_WITHIN_PACKAGE (R351): An idle die distributor takes pending blocks from a sibling die. -/
  | stealWithinPackage (pkg die : Nat)
  /-- STEAL_BETWEEN_PACKAGES (R351): A package idle for 20 µs or 100 µs steals blocks from a named package. -/
  | stealBetweenPackages (pkg die : Nat) (wide : Bool)
  /-- TRAY_LENGTH_COLLECT (R352): The tray distributor collects pending-list lengths every 5 µs. -/
  | trayLengthCollect (tray : Nat)
  /-- TRAY_COST_FORWARD (R352): The tray distributor forwards block ends and costs to the rack distributor. -/
  | trayCostForward (tray : Nat)
  /-- TRAY_STANDBY_REFRESH (R352): The standby tray distributor refreshes its copy every 5 µs. -/
  | trayStandbyRefresh (tray : Nat)
  /-- TRAY_STANDBY_TAKEOVER (R352): The standby takes over when slot 0 fails. -/
  | trayStandbyTakeover (tray : Nat)
  /-- BLOCK_START (R353): A placed block starts once leases, dependence and tiles allow. -/
  | blockStart (b : BlkId)
  /-- TAG_PUBLICATION_APPLY (R325): A publication updates a Cassette entry under the newer-generation rule. -/
  | tagPublicationApply (t : TagPub)
  /-- TAG_FORWARD (R355): A publication forwarded from another package is applied locally. -/
  | tagForward (pkg : Nat) (t : TagPub)
  /-- TRIGGERED_WORK_FIRE (R357): Recorded triggered work fires when its context is next scheduled. -/
  | triggeredWorkFire (ctx pkg : Nat)
  /-- COUNTER_SIGNAL_PERFORM (R323): A counter addition is performed at its home and re-evaluates watches. -/
  | counterSignalPerform (r : Req)
  /-- DEQUE_REFILL (R174): The die distributor refills a deque below 32 records from overflow rings. -/
  | dequeRefill (c : CoreId)
  /-- TASK_START (R174): Core dispatch starts a task from near the deque head. -/
  | taskStart (c : CoreId)
  /-- TASK_STEAL (R175): A core with an empty deque steals a tail task record. -/
  | taskSteal (c : CoreId)
  /-- BARRIER_ARRIVAL_REGISTER (R289): A barrier arrival is registered after the wave's stores land. -/
  | barrierArrivalRegister (w : WaveId) (cb : Bool) (n : Nat) (cnt : Option Nat) (arr : Bool)
  /-- ARV_PERFORM (R292): An arrival is performed at the object's home and re-evaluates AWAITs. -/
  | arvPerform (r : Req)
  /-- COMMAND_TAKE (R317): The stream engine takes a published entry and checks it. -/
  | commandTake (b : BlkId)
  /-- COPY_SOURCE_RELEASED (R317): All source bytes are read and SRCD is set. -/
  | copySourceReleased (b : BlkId) (idx : Nat)
  /-- COPY_ARRIVAL (R317): All destination bytes have landed; the arrival release and counter add are made. -/
  | copyArrival (b : BlkId) (idx : Nat)
  /-- SLOT_BOX_LOADED (R318): A load-ring box lands in its slot, which becomes full. -/
  | slotBoxLoaded (b : BlkId) (idx : Nat)
  /-- SLOT_BOX_STORED (R318): A store-ring box's writes land and its slot becomes empty. -/
  | slotBoxStored (b : BlkId) (idx : Nat)
  /-- MATRIX_OP_COMPLETE (R302): A matrix operation on a handle completes or ends with an error. -/
  | matrixOpComplete (b : BlkId) (handle : Nat)
  /-- RACK_PREEMPTION (R358): The rack distributor stops placement and marks saves pending. -/
  | rackPreemption (ctx : Nat)
  /-- PREEMPTION_BOUND_EXPIRY (R358): An unsaved block at the bound stops its waves and takes a full save. -/
  | preemptionBoundExpiry (ctx : Nat)
  /-- BLOCK_SAVE (R368): The save engine saves a block whose waves have stopped. -/
  | blockSave (b : BlkId)
  /-- BLOCK_RESTORE (R369): A saved block is restored on a core it fits. -/
  | blockRestore (b : BlkId) (c : CoreId)
  /-- CONTEXT_SWITCH_OFF (R370): The control complex moves a context off a package. -/
  | contextSwitchOff (ctx pkg : Nat)
  /-- CONTEXT_SWITCH_ON (R370): The control complex moves a context back onto a package. -/
  | contextSwitchOn (ctx pkg : Nat)
  /-- LOG_RING_DRAIN (R150): Firmware drains a log ring and advances CI, releasing held events. -/
  | logRingDrain (ctx lpkg ci : Nat)
  /-- LOG_END (R151): Each log writer appends an END record. -/
  | logEnd (ctx reason : Nat)
  /-- REPLAY_READER_TAKE (R152): The replay reader takes records into its window. -/
  | replayReaderTake (ctx lpkg : Nat)
  /-- REPLAY_HOLD_TIMEOUT (R152): A held event exceeds 2^24 cycles and diverges. -/
  | replayHoldTimeout (ctx held : Nat)
  /-- EXIT_FIRED_CONTRIBUTION (R373): After a block ends, its declared range 0 is read as a contribution. -/
  | exitFiredContribution (b : BlkId)
  /-- CONTRIBUTION_COUNT (R374): A package counts a contribution for a chunk instance. -/
  | contributionCount (c : Contrib)
  /-- SHADOW_COMBINE (R376): A partial arriving at the shadow's home is combined into the shadow words. -/
  | shadowCombine (p : Partial)
  /-- COMPLETION_SIGNAL_UPDATE (R379): A completed chunk or shard adds to its signal and arrives on its object. -/
  | completionSignalUpdate (ctx buf j : Nat)
  /-- SHARD_LAND (R378): An all-gather shard lands in its staging slot and is forwarded. -/
  | shardLand (x : Shard)
  /-- SLOT_RESERVATION_RETRY (R380): A refused landing-slot reservation is retried after 2 µs. -/
  | slotReservationRetry (ctx buf id : Nat)
  /-- COLLECTIVE_FAILURE (R381): A failed collective raises signals, completes arrival objects and discards contributions. -/
  | collectiveFailure (ctx buf : Nat)
  /-- READ_COMPLETION_RETURNS (R142): A read completion for a home's access to a host or CXL frame returns through its port; its check value is made, PAY is filled or compared in replay, and the data goes on to the requester. -/
  | readCompletionReturns (r : Req)
  /-- HEARTBEAT_MISS (R393): Three missed heartbeats mark a package failed. -/
  | heartbeatMiss (pkg : Nat)
  /-- PACKAGE_BOOT (R390): Package reset runs verification, training, core numbering and rack join. -/
  | packageBoot (pkg : Nat) (cfg : BootCfg)
  /-- SIGNED_LIST_RESTORE (R390): A signed retired-row list is supplied and bring-up repeats step 2. -/
  | signedListRestore (pkg : Nat) (l : RowList)
  /-- ATTESTATION_REQUEST (R391): A PF request with a nonce produces a signed attestation report. -/
  | attestationRequest (pkg : Nat) (nonce : List Byte)
  /-- HOT_RESET (R388): A host-port hot reset acts as a PF reset. -/
  | hotReset (pkg : Nat)
  /-- FREQUENCY_CHANGE (R24): The control complex lowers or restores an island's frequency. -/
  | frequencyChange (pkg island mhz : Nat)
  /-- LANE_FAILURE (R19): The Hub removes a failed scale-up lane from service. -/
  | laneFailure (pkg lane : Nat)
  /-- POWER_LOSS (R76): Loss of package power, which can lose a retirement not yet persisted in the retired-row list. -/
  | powerLoss (pkg : Nat)
  /-- NEIGHBOUR_LINK_FAILURE (R17): The direct link between two neighbouring compute dies fails, and their traffic is routed through the Hub die from then on. -/
  | neighbourLinkFailure (pkg d1 d2 : Nat)
  deriving DecidableEq, Repr

end Sys2Proof
end

