-- ==== Sys2Proof/Decode.lean ====
section
/-! DEFINITION. The decoder and the encoder of instruction words and clause headers (spec/09_encoding.md R203, R211 to R223,
spec/10_isa_compute.md R235 to R264, spec/11_isa_memory.md R271, spec/12_isa_async.md R297, R299), and the legality of
operands (R217 to R222, R273, R298). -/

namespace Sys2Proof

/-! ## Fields -/

/-- Bits [lo + n - 1 : lo] of a word (R4). -/
def fld (w : W64) (lo n : Nat) : BitVec n := w.extractLsb' lo n

/-- Bit lo of a word. -/
def bit (w : W64) (lo : Nat) : Bool := w.getLsbD lo

/-- Why a word is not an instruction (R226). -/
inductive DecErr where
  | clause        -- class 11 inside a clause (R223)
  | instruction   -- R214, R217, R223
  | operand       -- R218 to R222
  deriving DecidableEq, Repr

/-! ## Operands -/

/-- R218: the operand an encoding names, none where it is reserved or illegal. -/
def decodeOpd (e : BitVec 10) : Option Opd :=
  if e.extractLsb' 8 2 = 0b00#2 then some (.v (e.extractLsb' 0 8))
  else if e.extractLsb' 8 2 = 0b10#2 then some (.c (e.extractLsb' 0 8))
  else if e.extractLsb' 8 2 = 0b11#2 then none
  else if e.extractLsb' 3 7 = 0b0100000#7 then some (.o (e.extractLsb' 0 3))
  else if e.extractLsb' 1 9 = 0b010000100#9 then some (.x (e.extractLsb' 0 1))
  else if e.extractLsb' 3 7 = 0b0100100#7 then some (.p (e.extractLsb' 0 3))
  else if e.extractLsb' 6 4 = 0b0101#4 then some (.s (e.extractLsb' 0 6))
  else if e.extractLsb' 4 6 = 0b011000#6 then some (.a (e.extractLsb' 0 4))
  else if e.extractLsb' 3 7 = 0b0110010#7 then some (.m (e.extractLsb' 0 3))
  else if e.extractLsb' 4 6 = 0b011010#6 ∧ e.extractLsb' 0 4 ≠ 15#4 then some (.sr (e.extractLsb' 0 4))
  else none

/-- R218: the encoding of an operand. -/
def encodeOpd (o : Opd) : BitVec 10 :=
  match o with
  | .v n => 0b00#2 ++ n
  | .c n => 0b10#2 ++ n
  | .o n => 0b0100000#7 ++ n
  | .x n => 0b010000100#9 ++ n
  | .p n => 0b0100100#7 ++ n
  | .s n => 0b0101#4 ++ n
  | .a n => 0b011000#6 ++ n
  | .m n => 0b0110010#7 ++ n
  | .sr n => 0b011010#6 ++ n

/-- Every operand but the reserved special register 15 (R219) has an encoding of its own. -/
def Opd.named (o : Opd) : Bool :=
  match o with
  | .sr n => n != 15#4
  | _ => true

/-- v0, the operand an unused field's zero encodes (R214). -/
def Opd.zero : Opd := .v 0#8

/-- R215: the primary type codes, 1111 reserved. -/
def decodeTy (t : BitVec 4) : Option Ty :=
  match t.toNat with
  | 0 => some .b32 | 1 => some .i8 | 2 => some .i16 | 3 => some .i32 | 4 => some .i64
  | 5 => some .n8 | 6 => some .n16 | 7 => some .n32 | 8 => some .n64
  | 9 => some .f32 | 10 => some .f16 | 11 => some .bf16 | 12 => some .e4m3 | 13 => some .e5m2 | 14 => some .cb4
  | _ => none

def encodeTy (t : Ty) : BitVec 4 :=
  match t with
  | .b32 => 0#4 | .i8 => 1#4 | .i16 => 2#4 | .i32 => 3#4 | .i64 => 4#4
  | .n8 => 5#4 | .n16 => 6#4 | .n32 => 7#4 | .n64 => 8#4
  | .f32 => 9#4 | .f16 => 10#4 | .bf16 => 11#4 | .e4m3 => 12#4 | .e5m2 => 13#4 | .cb4 => 14#4

/-- R236: 64-bit operands under .i64 and .n64. -/
def wide (t : Ty) : Bool := t == .i64 || t == .n64

def isFp8 (t : Ty) : Bool := t == .e4m3 || t == .e5m2

/-! ## What an operand position admits -/

/-- The kinds of operand position of a class-00 word (R237, R221, R222, R240 to R263). -/
inductive Shape where
  | none             -- unused: the field is zero
  | src (w : Bool)   -- any register but a predicate, or an inline constant; w: 64 bits
  | dst (w : Bool)   -- a register destination; w: 64 bits
  | dstRP            -- a 32-bit register destination or a predicate other than p7
  | dstP             -- a predicate destination other than p7
  | dstPair          -- an even destination pair (REDUXI)
  | pred             -- a predicate source
  | const            -- an inline constant (LOP3, PLOP)
  | book             -- a codebook: s8k or v8k (QUANT, DEQ)
  deriving DecidableEq, Repr

/-- The predicate position SC of IADD, ISUB, ISET, FSET: present or unused, and written or read (R241, R247). -/
def pc (used written : Bool) : Shape := if used then (if written then .dstP else .pred) else .none

structure Shapes where
  d : Shape
  a : Shape
  b : Shape
  c : Shape
  deriving DecidableEq, Repr

/-- A source register of 32 bits, or of 64 bits when w (R221, R222, R80). -/
def srcOk (cap : Nat) (w : Bool) (o : Opd) : Bool :=
  match o with
  | .v n => if w then n.toNat % 2 == 0 && n.toNat + 1 < cap else n.toNat < cap
  | .o n => !w || n.toNat % 2 == 0
  | .s n => !w || n.toNat % 2 == 0
  | .m _ => !w
  | .p _ => false
  | .sr n => n != 15#4
  | _ => true

/-- A register destination of 32 bits, or of 64 bits when w (R221, R222, R80). -/
def dstOk (cap : Nat) (w : Bool) (o : Opd) : Bool :=
  match o with
  | .v n => if w then n.toNat % 2 == 0 && n.toNat + 1 < cap else n.toNat < cap
  | .o n => !w || n.toNat % 2 == 0
  | .s n => !w || n.toNat % 2 == 0
  | .m _ => !w
  | .x n => n == 0#1
  | .a _ => true
  | _ => false

def Shape.ok (cap : Nat) (s : Shape) (o : Opd) : Bool :=
  match s with
  | .none => o == Opd.zero
  | .src w => srcOk cap w o
  | .dst w => dstOk cap w o
  | .dstRP => (match o with | .p n => n != 7#3 | _ => dstOk cap false o)
  | .dstP => (match o with | .p n => n != 7#3 | _ => false)
  | .dstPair => (match o with
      | .v n => n.toNat % 2 == 0 && n.toNat + 1 < cap | .o n => n.toNat % 2 == 0 | .s n => n.toNat % 2 == 0 | _ => false)
  | .pred => (match o with | .p _ => true | _ => false)
  | .const => (match o with | .c _ => true | _ => false)
  | .book => (match o with
      | .v n => n.toNat % 8 == 0 && n.toNat + 7 < cap | .s n => n.toNat % 8 == 0 | _ => false)

/-! ## Class 00 (R240) -/

/-- A row of the opcode table of R240: types, SUB bits, I form, operand positions. -/
structure Row00 where
  ctor   : CW → Instr
  types  : Ty → Bool
  sub    : Ty → BitVec 5 → Bool
  iform  : BitVec 5 → Bool
  shapes : Ty → BitVec 5 → Shapes

def tInt (t : Ty) : Bool := t == .i32 || t == .n32 || t == .i64 || t == .n64
def tI32 (t : Ty) : Bool := t == .i32 || t == .n32
def tIabs (t : Ty) : Bool := t == .i32 || t == .i64
def tI8 (t : Ty) : Bool := t == .i8 || t == .n8
def tN (t : Ty) : Bool := t == .n32 || t == .n64
def tB32 (t : Ty) : Bool := t == .b32
def tBits (t : Ty) : Bool := t == .b32 || t == .n64
def tB32Int (t : Ty) : Bool := t == .b32 || tInt t
def tMove (t : Ty) : Bool := t == .b32 || t == .i32 || t == .n32 || t == .f32 || t == .i64 || t == .n64
def tF32 (t : Ty) : Bool := t == .f32
def tH (t : Ty) : Bool := t == .f16 || t == .bf16
def tNarrowF (t : Ty) : Bool := t == .f16 || t == .bf16 || t == .e4m3 || t == .e5m2
def tQuant (t : Ty) : Bool := t == .cb4 || t == .e4m3 || t == .e5m2
def tRedux (t : Ty) : Bool := t == .b32 || t == .f32 || tInt t

/-- No SUB bit is named. -/
def sub0 (_ : Ty) (s : BitVec 5) : Bool := s == 0#5
/-- Only the SUB bits of the mask are named. -/
def subMask (m : Nat) (_ : Ty) (s : BitVec 5) : Bool := s &&& BitVec.ofNat 5 m == s
/-- R241: .sat, .cin, .cout; .sat with .cin or .cout is reserved. -/
def subAdd (_ : Ty) (s : BitVec 5) : Bool := s &&& 7#5 == s && !(s.getLsbD 0 && (s.getLsbD 1 || s.getLsbD 2))
/-- R247: the conditions 110 and 111 are reserved for ISET. -/
def subIset (_ : Ty) (s : BitVec 5) : Bool := (s.extractLsb' 0 3).toNat < 6
/-- R251: space code 11 is reserved. -/
def subAset (_ : Ty) (s : BitVec 5) : Bool := s.toNat < 3
/-- R258: .hi only for the FP8 types. -/
def subPack (t : Ty) (s : BitVec 5) : Bool := s &&& 15#5 == s && (isFp8 t || !s.getLsbD 3)
/-- R259: the element index 0 to 7 for .cb4, 0 to 3 for FP8; .sat. -/
def subQuant (t : Ty) (s : BitVec 5) : Bool := s &&& 15#5 == s && (t == .cb4 || !s.getLsbD 2)
/-- R259: as QUANT, without .sat. -/
def subDeq (t : Ty) (s : BitVec 5) : Bool := s &&& 7#5 == s && (t == .cb4 || !s.getLsbD 2)
/-- R261: segment codes 5 to 7 are reserved. -/
def subShfl (_ : Ty) (s : BitVec 5) : Bool := (s.extractLsb' 2 3).toNat < 5
/-- R263: which operation a type admits. -/
def reduxOp (t : Ty) (op : Nat) : Bool :=
  if t == .b32 then op == 3 || op == 4 || op == 5 else if t == .f32 then op < 3 else op < 6
def subRedux (t : Ty) (s : BitVec 5) : Bool := s &&& 7#5 == s && reduxOp t s.toNat
def subScan (t : Ty) (s : BitVec 5) : Bool := s &&& 15#5 == s && reduxOp t (s.extractLsb' 0 3).toNat

/-- The opcode table of R240 (CVT and MOVW, whose fields differ, stand below). -/
def row00 (opc : BitVec 8) : Option Row00 :=
  match opc.toNat with
  | 0x01 => some ⟨.iadd, tInt, subAdd, fun sub => (sub.extractLsb' 1 2 == 0#2), fun ty sub => ⟨.dst (wide ty), .src (wide ty), .src (wide ty), pc (sub.getLsbD 1 || sub.getLsbD 2) true⟩⟩
  | 0x02 => some ⟨.isub, tInt, subAdd, fun sub => (sub.extractLsb' 1 2 == 0#2), fun ty sub => ⟨.dst (wide ty), .src (wide ty), .src (wide ty), pc (sub.getLsbD 1 || sub.getLsbD 2) true⟩⟩
  | 0x03 => some ⟨.imul, tInt, sub0, fun _ => true, fun ty _ => ⟨.dst (wide ty), .src (wide ty), .src (wide ty), .none⟩⟩
  | 0x04 => some ⟨.imulh, tInt, sub0, fun _ => false, fun ty _ => ⟨.dst (wide ty), .src (wide ty), .src (wide ty), .none⟩⟩
  | 0x05 => some ⟨.imad, tInt, sub0, fun _ => false, fun ty _ => ⟨.dst (wide ty), .src (wide ty), .src (wide ty), .src (wide ty)⟩⟩
  | 0x06 => some ⟨.imadw, tI32, sub0, fun _ => false, fun _ _ => ⟨.dst true, .src false, .src false, .src true⟩⟩
  | 0x07 => some ⟨.imin, tInt, sub0, fun _ => true, fun ty _ => ⟨.dst (wide ty), .src (wide ty), .src (wide ty), .none⟩⟩
  | 0x08 => some ⟨.imax, tInt, sub0, fun _ => true, fun ty _ => ⟨.dst (wide ty), .src (wide ty), .src (wide ty), .none⟩⟩
  | 0x09 => some ⟨.iabs, tIabs, subMask 1, fun _ => false, fun ty _ => ⟨.dst (wide ty), .src (wide ty), .none, .none⟩⟩
  | 0x0A => some ⟨.isad, tI32, sub0, fun _ => false, fun _ _ => ⟨.dst false, .src false, .src false, .src false⟩⟩
  | 0x0B => some ⟨.idp4, tI8, subMask 1, fun _ => false, fun _ _ => ⟨.dst false, .src false, .src false, .src false⟩⟩
  | 0x0C => some ⟨.lop3, tBits, sub0, fun _ => false, fun ty _ => ⟨.dst (wide ty), .src (wide ty), .src (wide ty), .const⟩⟩
  | 0x0D => some ⟨.shl, tB32Int, sub0, fun _ => true, fun ty _ => ⟨.dst (wide ty), .src (wide ty), .src (wide ty), .none⟩⟩
  | 0x0E => some ⟨.shr, tB32Int, sub0, fun _ => true, fun ty _ => ⟨.dst (wide ty), .src (wide ty), .src (wide ty), .none⟩⟩
  | 0x0F => some ⟨.sar, tB32Int, sub0, fun _ => true, fun ty _ => ⟨.dst (wide ty), .src (wide ty), .src (wide ty), .none⟩⟩
  | 0x10 => some ⟨.shf, tB32, subMask 1, fun _ => false, fun _ _ => ⟨.dst false, .src false, .src false, .src false⟩⟩
  | 0x11 => some ⟨.bfe, tB32Int, sub0, fun _ => true, fun ty _ => ⟨.dst (wide ty), .src (wide ty), .src (wide ty), .none⟩⟩
  | 0x12 => some ⟨.bfi, tBits, sub0, fun _ => false, fun ty _ => ⟨.dst (wide ty), .src (wide ty), .src (wide ty), .src (wide ty)⟩⟩
  | 0x13 => some ⟨.brev, tBits, sub0, fun _ => false, fun ty _ => ⟨.dst (wide ty), .src (wide ty), .none, .none⟩⟩
  | 0x14 => some ⟨.popc, tBits, sub0, fun _ => false, fun ty _ => ⟨.dst false, .src (wide ty), .none, .none⟩⟩
  | 0x15 => some ⟨.clz, tBits, sub0, fun _ => false, fun ty _ => ⟨.dst false, .src (wide ty), .none, .none⟩⟩
  | 0x16 => some ⟨.prmt, tB32, sub0, fun _ => false, fun _ _ => ⟨.dst false, .src false, .src false, .src false⟩⟩
  | 0x17 => some ⟨.iset, tInt, subIset, fun sub => (sub.extractLsb' 3 2 == 0#2), fun ty sub => ⟨.dstRP, .src (wide ty), .src (wide ty), pc (sub.extractLsb' 3 2 != 0#2) false⟩⟩
  | 0x18 => some ⟨.sel, tMove, sub0, fun _ => false, fun ty _ => ⟨.dst (wide ty), .src (wide ty), .src (wide ty), .pred⟩⟩
  | 0x20 => some ⟨.mov, tMove, sub0, fun _ => true, fun ty _ => ⟨.dst (wide ty), .src (wide ty), .none, .none⟩⟩
  | 0x22 => some ⟨.rdlane, tBits, sub0, fun _ => false, fun ty _ => ⟨.dst (wide ty), .src (wide ty), .src (wide ty), .none⟩⟩
  | 0x24 => some ⟨.aadd, tInt, sub0, fun _ => true, fun ty _ => ⟨.dst true, .src true, .src (wide ty), .none⟩⟩
  | 0x25 => some ⟨.amad, tI32, sub0, fun _ => false, fun _ _ => ⟨.dst true, .src true, .src false, .src false⟩⟩
  | 0x26 => some ⟨.aset, tN, subAset, fun _ => false, fun ty _ => ⟨.dst true, .src (wide ty), .none, .none⟩⟩
  | 0x27 => some ⟨.ajoin, tB32, sub0, fun _ => false, fun _ _ => ⟨.dst true, .src false, .src false, .none⟩⟩
  | 0x28 => some ⟨.asplit, tB32, subMask 1, fun _ => false, fun _ _ => ⟨.dst false, .src true, .none, .none⟩⟩
  | 0x30 => some ⟨.fadd, tF32, subMask 15, fun _ => false, fun _ _ => ⟨.dst false, .src false, .src false, .none⟩⟩
  | 0x31 => some ⟨.fmul, tF32, subMask 15, fun _ => false, fun _ _ => ⟨.dst false, .src false, .src false, .none⟩⟩
  | 0x32 => some ⟨.ffma, tF32, subMask 31, fun _ => false, fun _ _ => ⟨.dst false, .src false, .src false, .src false⟩⟩
  | 0x33 => some ⟨.fmin, tF32, sub0, fun _ => false, fun _ _ => ⟨.dst false, .src false, .src false, .none⟩⟩
  | 0x34 => some ⟨.fmax, tF32, sub0, fun _ => false, fun _ _ => ⟨.dst false, .src false, .src false, .none⟩⟩
  | 0x35 => some ⟨.fset, tF32, subMask 31, fun _ => false, fun _ sub => ⟨.dstRP, .src false, .src false, pc (sub.extractLsb' 3 2 != 0#2) false⟩⟩
  | 0x36 => some ⟨.fclass, tF32, sub0, fun _ => false, fun _ _ => ⟨.dstRP, .src false, .src false, .none⟩⟩
  | 0x37 => some ⟨.frnd, tF32, subMask 3, fun _ => false, fun _ _ => ⟨.dst false, .src false, .none, .none⟩⟩
  | 0x38 => some ⟨.frcp, tF32, sub0, fun _ => false, fun _ _ => ⟨.dst false, .src false, .none, .none⟩⟩
  | 0x39 => some ⟨.frsq, tF32, sub0, fun _ => false, fun _ _ => ⟨.dst false, .src false, .none, .none⟩⟩
  | 0x3A => some ⟨.fsqrt, tF32, sub0, fun _ => false, fun _ _ => ⟨.dst false, .src false, .none, .none⟩⟩
  | 0x3B => some ⟨.fexp2, tF32, sub0, fun _ => false, fun _ _ => ⟨.dst false, .src false, .none, .none⟩⟩
  | 0x3C => some ⟨.flog2, tF32, sub0, fun _ => false, fun _ _ => ⟨.dst false, .src false, .none, .none⟩⟩
  | 0x3D => some ⟨.fsin, tF32, sub0, fun _ => false, fun _ _ => ⟨.dst false, .src false, .none, .none⟩⟩
  | 0x3E => some ⟨.fcos, tF32, sub0, fun _ => false, fun _ _ => ⟨.dst false, .src false, .none, .none⟩⟩
  | 0x3F => some ⟨.ftanh, tF32, sub0, fun _ => false, fun _ _ => ⟨.dst false, .src false, .none, .none⟩⟩
  | 0x40 => some ⟨.fscale, tF32, subMask 3, fun _ => false, fun _ _ => ⟨.dst false, .src false, .src false, .none⟩⟩
  | 0x48 => some ⟨.hadd2, tH, subMask 15, fun _ => false, fun _ _ => ⟨.dst false, .src false, .src false, .none⟩⟩
  | 0x49 => some ⟨.hmul2, tH, subMask 15, fun _ => false, fun _ _ => ⟨.dst false, .src false, .src false, .none⟩⟩
  | 0x4A => some ⟨.hfma2, tH, subMask 31, fun _ => false, fun _ _ => ⟨.dst false, .src false, .src false, .src false⟩⟩
  | 0x4B => some ⟨.hmnmx2, tH, subMask 1, fun _ => false, fun _ _ => ⟨.dst false, .src false, .src false, .none⟩⟩
  | 0x4C => some ⟨.hset2, tH, subMask 7, fun _ => false, fun _ _ => ⟨.dst false, .src false, .src false, .none⟩⟩
  | 0x51 => some ⟨.cvtsr, tNarrowF, subMask 1, fun _ => false, fun _ _ => ⟨.dst false, .src false, .src true, .none⟩⟩
  | 0x52 => some ⟨.pack2, tNarrowF, subPack, fun _ => false, fun ty _ => ⟨.dst false, .src false, .src false, (if isFp8 ty then .src false else .none)⟩⟩
  | 0x53 => some ⟨.quant, tQuant, subQuant, fun _ => false, fun ty _ => ⟨.dst false, .src false, (if ty == .cb4 then .book else .src false), .src false⟩⟩
  | 0x54 => some ⟨.deq, tQuant, subDeq, fun _ => false, fun ty _ => ⟨.dst false, .src false, (if ty == .cb4 then .book else .src false), .none⟩⟩
  | 0x58 => some ⟨.plop, tB32, sub0, fun _ => false, fun _ _ => ⟨.dstP, .pred, .pred, .const⟩⟩
  | 0x59 => some ⟨.ppack, tB32, sub0, fun _ => false, fun _ _ => ⟨.dst false, .none, .none, .none⟩⟩
  | 0x5A => some ⟨.punpack, tB32, sub0, fun _ => false, fun _ _ => ⟨.none, .src false, .none, .none⟩⟩
  | 0x60 => some ⟨.shfl, tBits, subShfl, fun _ => false, fun ty _ => ⟨.dst (wide ty), .src (wide ty), .src (wide ty), .none⟩⟩
  | 0x61 => some ⟨.vote, tB32, subMask 3, fun _ => false, fun _ _ => ⟨.dstRP, .pred, .none, .none⟩⟩
  | 0x62 => some ⟨.ballot, tB32, sub0, fun _ => false, fun _ _ => ⟨.dst false, .pred, .none, .none⟩⟩
  | 0x63 => some ⟨.matchw, tBits, subMask 1, fun _ => false, fun ty _ => ⟨.dst (wide ty), .src (wide ty), .none, .none⟩⟩
  | 0x64 => some ⟨.redux, tRedux, subRedux, fun _ => false, fun ty _ => ⟨.dst (wide ty), .src (wide ty), .none, .none⟩⟩
  | 0x65 => some ⟨.reduxi, tF32, sub0, fun _ => false, fun _ _ => ⟨.dstPair, .src false, .src false, .none⟩⟩
  | 0x66 => some ⟨.scan, tRedux, subScan, fun _ => false, fun ty _ => ⟨.dst (wide ty), .src (wide ty), .none, .none⟩⟩
  | _ => none
/-- The class-00 opcode (R223) and the word of an instruction in G or I form. -/
def cwOf (i : Instr) : Option (BitVec 8 × CW) :=
  match i with
  | .iadd w => some (0x01#8, w)
  | .isub w => some (0x02#8, w)
  | .imul w => some (0x03#8, w)
  | .imulh w => some (0x04#8, w)
  | .imad w => some (0x05#8, w)
  | .imadw w => some (0x06#8, w)
  | .imin w => some (0x07#8, w)
  | .imax w => some (0x08#8, w)
  | .iabs w => some (0x09#8, w)
  | .isad w => some (0x0A#8, w)
  | .idp4 w => some (0x0B#8, w)
  | .lop3 w => some (0x0C#8, w)
  | .shl w => some (0x0D#8, w)
  | .shr w => some (0x0E#8, w)
  | .sar w => some (0x0F#8, w)
  | .shf w => some (0x10#8, w)
  | .bfe w => some (0x11#8, w)
  | .bfi w => some (0x12#8, w)
  | .brev w => some (0x13#8, w)
  | .popc w => some (0x14#8, w)
  | .clz w => some (0x15#8, w)
  | .prmt w => some (0x16#8, w)
  | .iset w => some (0x17#8, w)
  | .sel w => some (0x18#8, w)
  | .mov w => some (0x20#8, w)
  | .rdlane w => some (0x22#8, w)
  | .aadd w => some (0x24#8, w)
  | .amad w => some (0x25#8, w)
  | .aset w => some (0x26#8, w)
  | .ajoin w => some (0x27#8, w)
  | .asplit w => some (0x28#8, w)
  | .fadd w => some (0x30#8, w)
  | .fmul w => some (0x31#8, w)
  | .ffma w => some (0x32#8, w)
  | .fmin w => some (0x33#8, w)
  | .fmax w => some (0x34#8, w)
  | .fset w => some (0x35#8, w)
  | .fclass w => some (0x36#8, w)
  | .frnd w => some (0x37#8, w)
  | .frcp w => some (0x38#8, w)
  | .frsq w => some (0x39#8, w)
  | .fsqrt w => some (0x3A#8, w)
  | .fexp2 w => some (0x3B#8, w)
  | .flog2 w => some (0x3C#8, w)
  | .fsin w => some (0x3D#8, w)
  | .fcos w => some (0x3E#8, w)
  | .ftanh w => some (0x3F#8, w)
  | .fscale w => some (0x40#8, w)
  | .hadd2 w => some (0x48#8, w)
  | .hmul2 w => some (0x49#8, w)
  | .hfma2 w => some (0x4A#8, w)
  | .hmnmx2 w => some (0x4B#8, w)
  | .hset2 w => some (0x4C#8, w)
  | .cvtsr w => some (0x51#8, w)
  | .pack2 w => some (0x52#8, w)
  | .quant w => some (0x53#8, w)
  | .deq w => some (0x54#8, w)
  | .plop w => some (0x58#8, w)
  | .ppack w => some (0x59#8, w)
  | .punpack w => some (0x5A#8, w)
  | .shfl w => some (0x60#8, w)
  | .vote w => some (0x61#8, w)
  | .ballot w => some (0x62#8, w)
  | .matchw w => some (0x63#8, w)
  | .redux w => some (0x64#8, w)
  | .reduxi w => some (0x65#8, w)
  | .scan w => some (0x66#8, w)
  | _ => none
/-- The form of a class-00 word agrees with its row (R214, R215, R237, R240): the types and SUB bits are listed, the I form is
permitted, and unused fields are zero. -/
def Row00.formOk (r : Row00) (w : CW) : Bool :=
  let sh := r.shapes w.ty w.sub
  r.types w.ty && r.sub w.ty w.sub
  && (sh.d != .none || w.d == Opd.zero) && (sh.a != .none || w.a == Opd.zero)
  && match w.imm with
     | none => (sh.b != .none || w.b == Opd.zero) && (sh.c != .none || w.c == Opd.zero)
     | some _ => r.iform w.sub && w.b == Opd.zero && w.c == Opd.zero && (sh.b != .none || w.a == Opd.zero)

/-- The operands of a class-00 word are of the kinds its row admits (R218 to R222, R237, R80). -/
def Row00.opdsOk (cap : Nat) (r : Row00) (w : CW) : Bool :=
  let sh := r.shapes w.ty w.sub
  sh.d.ok cap w.d
  && (match w.imm with
      | none => sh.a.ok cap w.a && sh.b.ok cap w.b && sh.c.ok cap w.c
      | some _ => sh.b == .none || sh.a.ok cap w.a)

/-- R211, R212: class, opcode and guard before the 50 bits of the form. -/
def packWord (cls : BitVec 2) (opc : BitVec 8) (g : Guard) (body : BitVec 50) : W64 :=
  cls ++ (opc ++ (BitVec.ofBool g.neg ++ (g.p ++ body)))

/-- R212, R215, R235: the G form, or the I form when imm20 is present. -/
def encodeCW (opc : BitVec 8) (w : CW) : W64 :=
  packWord 0b00#2 opc w.g
    (encodeOpd w.d ++ (encodeOpd w.a ++
      ((match w.imm with
        | none => encodeOpd w.b ++ encodeOpd w.c
        | some i => i) ++
       (BitVec.ofBool w.imm.isSome ++ (encodeTy w.ty ++ w.sub)))))

def decodeGuard (w : W64) : Guard := ⟨bit w 53, fld w 50 3⟩

/-- An operand field, with a stand-in that is not v0 where its encoding is reserved (R218): a field the word does not use
must be zero, so the stand-in fails it as an illegal instruction (R214). -/
def opdOr (stand : Opd) (e : BitVec 10) : Opd := (decodeOpd e).getD stand

/-- The G and I forms (R212, R235). -/
def decodeCW (opc : BitVec 8) (w : W64) : Except DecErr Instr :=
  match row00 opc, decodeTy (fld w 5 4) with
  | some r, some ty =>
    let i := bit w 9
    let opd := fun lo => opdOr (.c 0#8) (fld w lo 10)
    let cw : CW := ⟨decodeGuard w, opd 40, opd 30, if i then Opd.zero else opd 20, if i then Opd.zero else opd 10,
      if i then some (fld w 10 20) else none, ty, fld w 0 5⟩
    if r.formOk cw then
      (if (decodeOpd (fld w 40 10)).isSome && (decodeOpd (fld w 30 10)).isSome
          && (i || ((decodeOpd (fld w 20 10)).isSome && (decodeOpd (fld w 10 10)).isSome)) then .ok (r.ctor cw)
       else .error .operand)
    else .error .instruction
  | _, _ => .error .instruction

/-! ## CVT and MOVW (R256, R249) -/

/-- R256: the types CVT converts between. -/
def cvtTy (t : Ty) : Bool := t != .b32 && t != .cb4

/-- R256: element indexes of a packed narrow source. -/
def cvtElems (t : Ty) : Nat :=
  match t with
  | .i16 | .n16 | .f16 | .bf16 => 2
  | .i8 | .n8 | .e4m3 | .e5m2 => 4
  | _ => 1

def CvtW.formOk (w : CvtW) : Bool :=
  cvtTy w.ty && cvtTy w.sty && w.ty != w.sty && w.esel.toNat < cvtElems w.sty

def CvtW.opdsOk (cap : Nat) (w : CvtW) : Bool := dstOk cap (wide w.ty) w.d && srcOk cap (wide w.sty) w.a

def encodeCvt (w : CvtW) : W64 :=
  packWord 0b00#2 0x50#8 w.g
    (encodeOpd w.d ++ (encodeOpd w.a ++ (0b000#3 ++ (BitVec.ofBool w.sat ++ (w.rm ++ (encodeTy w.sty ++
      (0#10 ++ (0b0#1 ++ (encodeTy w.ty ++ (0b00#2 ++ w.esel))))))))))

def decodeCvt (w : W64) : Except DecErr Instr :=
  match decodeTy (fld w 5 4), decodeTy (fld w 20 4) with
  | some ty, some sty =>
    if fld w 27 3 = 0#3 ∧ fld w 10 10 = 0#10 ∧ bit w 9 = false ∧ fld w 3 2 = 0#2 ∧ cvtTy ty ∧ cvtTy sty ∧ ty ≠ sty
        ∧ (fld w 0 3).toNat < cvtElems sty then
      match decodeOpd (fld w 40 10), decodeOpd (fld w 30 10) with
      | some d, some a => .ok (.cvt ⟨decodeGuard w, d, a, ty, sty, fld w 24 2, bit w 26, fld w 0 3⟩)
      | _, _ => .error .operand
    else .error .instruction
  | _, _ => .error .instruction

def MovW.opdsOk (cap : Nat) (w : MovW) : Bool := dstOk cap (w.kind != 0#2) w.d

def encodeMovW (w : MovW) : W64 :=
  packWord 0b00#2 0x21#8 w.g (encodeOpd w.d ++ (0#6 ++ (w.kind ++ w.imm)))

def decodeMovW (w : W64) : Except DecErr Instr :=
  if fld w 34 6 = 0#6 then
    match decodeOpd (fld w 40 10) with
    | some d => .ok (.movw ⟨decodeGuard w, d, fld w 32 2, fld w 0 32⟩)
    | none => .error .operand
  else .error .instruction

/-! ## Class 01, the M form (R212, R216, R271) -/

def decodeSpace (s : BitVec 3) : Option Space :=
  match s.toNat with
  | 0 => some .glb | 1 => some .scr | 2 => some .cls | 3 => some .stk | 4 => some .cst | 5 => some .gen
  | _ => none

def encodeSpace (s : Space) : BitVec 3 :=
  match s with
  | .glb => 0#3 | .scr => 1#3 | .cls => 2#3 | .stk => 3#3 | .cst => 4#3 | .gen => 5#3

/-- SCO codes (R216); 101 to 111 are reserved. -/
def decodeScope (s : BitVec 3) : Option Scope :=
  match s.toNat with
  | 0 => some .core | 1 => some .die | 2 => some .pkg | 3 => some .tray | 4 => some .rack
  | _ => none

/-- ORDR codes (R216). -/
def decodeOrder (o : BitVec 3) : Option Order :=
  match o.toNat with
  | 0 => some .rlx | 1 => some .acq | 2 => some .rel | 3 => some .acqrel | 4 => some .sc
  | _ => none

/-! MX as R216 numbers it: MX[15] is bit 5 of the six. -/
def MW.modw (w : MW) : Bool := w.mx.getLsbD 5
def MW.msel (w : MW) : BitVec 3 := w.mx.extractLsb' 2 3
def MW.sx (w : MW) : Bool := w.mx.getLsbD 1
def MW.sco (w : MW) : BitVec 3 := w.mx.extractLsb' 3 3
def MW.ordr (w : MW) : BitVec 3 := w.mx.extractLsb' 0 3
def MW.scope (w : MW) : Scope := (decodeScope w.sco).getD .core
def MW.order (w : MW) : Order := (decodeOrder w.ordr).getD .rlx
/-- OP, bits [29:26] (R271). -/
def MW.op (w : MW) : Nat := (w.off.extractLsb' 10 4).toNat
/-- imm10, bits [25:16] (R271). -/
def MW.imm10 (w : MW) : BitVec 10 := w.off.extractLsb' 0 10
/-- Bytes of an element (R216). -/
def MW.bytes (w : MW) : Nat := 2 ^ w.sz.toNat

def isA (o : Opd) : Bool := match o with | .a _ => true | _ => false

/-- A weak MX (R216): bit [10] is zero; SX only where `sxOk`. -/
def MW.weakMx (w : MW) (load : Bool) : Bool := !w.mx.getLsbD 0 && (!w.sx || (load && w.sz.toNat < 2))

/-- A strong MX (R216) whose order is one of the codes listed. -/
def MW.strongMx (w : MW) (orders : List Nat) : Bool := w.sco.toNat < 5 && orders.contains w.ordr.toNat

/-- A row of R271: its constructor and the values its cells allow (the illegal-instruction rules). -/
structure RowM where
  ctor : MW → Instr
  ok   : MW → Bool

/-- Post-increment needs an address register (R217). -/
def MW.piOk (w : MW) : Bool := !w.pi || isA w.base

/-- The sizes ATOM permits per OP (R283). -/
def atomOpOk (w : MW) : Bool := w.op < 11 && (w.op == 8 || w.sz != 4#3)

/-- The sizes and spaces RED permits per OP (R286, R282). -/
def redOpOk (w : MW) : Bool := w.op != 8 && (w.op < 11 || (w.sz == 2#3 && w.sp != .cls))

/-- The table of R271; CCTL is split by OP into the rows of the opcode table. -/
def rowM (opc : BitVec 8) (op : Nat) : Option RowM :=
  match opc.toNat with
  | 0x01 => some ⟨.ld, fun w => w.weakMx true && w.sz.toNat < 5 && w.piOk⟩
  | 0x02 => some ⟨.st, fun w => w.weakMx false && w.sz.toNat < 5 && w.sp != .cst && !w.fs && w.piOk⟩
  | 0x03 => some ⟨.ldq, fun w => w.weakMx true && w.sz.toNat < 5 && w.sp != .stk && w.piOk⟩
  | 0x04 => some ⟨.stq, fun w => w.weakMx false && w.sz.toNat < 5 && w.sp != .stk && w.sp != .cst && !w.fs && w.piOk⟩
  | 0x05 => some ⟨.lda, fun w => w.strongMx [0, 1] && w.sz.toNat < 5 && w.piOk⟩
  | 0x06 => some ⟨.stl, fun w => w.strongMx [0, 2] && w.sz.toNat < 5 && w.sp != .cst && !w.fs && w.piOk⟩
  | 0x07 => some ⟨.ldc, fun w => w.weakMx true && !w.modw && w.msel != 7#3 && w.sz.toNat < 5 && w.piOk⟩
  | 0x08 => some ⟨.atom, fun w => w.strongMx [0, 1, 2, 3] && (w.sz == 2#3 || w.sz == 3#3 || w.sz == 4#3) && w.sp != .cst && !w.pi
      && atomOpOk w && (w.sz != 4#3 || w.sp != .cls)⟩
  | 0x09 => some ⟨.cas, fun w => w.strongMx [0, 1, 2, 3] && (w.sz == 2#3 || w.sz == 3#3 || w.sz == 4#3) && w.sp != .cst && !w.pi
      && w.op == 0 && (w.sz != 4#3 || w.sp != .cls)⟩
  | 0x0A => some ⟨.atomf, fun w => w.strongMx [0, 1, 2, 3] && w.sz == 2#3 && w.sp != .cst && w.sp != .cls && !w.pi && w.op < 9⟩
  | 0x0B => some ⟨.red, fun w => w.strongMx [0, 2] && (w.sz == 2#3 || w.sz == 3#3) && w.sp != .cst && !w.pi && !w.fs && redOpOk w⟩
  | 0x10 => some ⟨.fence, fun w => w.strongMx [1, 2, 3, 4] && w.data == Opd.zero && w.base == Opd.zero && w.off == 0#14 && w.sz == 0#3
      && w.sp == .glb && w.cp == 0#2 && !w.fs && !w.pi⟩
  | 0x11 => some ⟨.pref, fun w => w.weakMx false && w.data == Opd.zero && w.sz == 0#3 && (w.sp == .glb || w.sp == .cst || w.sp == .gen)
      && !w.fs && w.piOk⟩
  | 0x12 =>
    let common := fun (w : MW) => w.data == Opd.zero && w.mx == 0#6 && w.sz == 0#3 && w.cp == 0#2 && !w.fs && !w.pi
    let noAddr := fun (w : MW) => common w && w.base == Opd.zero && w.imm10 == 0#10 && w.sp == .glb
    (match op with
     | 0 => some ⟨.cctlInv, fun w => common w && w.op == 0 && (w.sp == .glb || w.sp == .cst || w.sp == .gen)⟩
     | 1 => some ⟨.cctlUnpin, fun w => common w && w.op == 1 && (w.sp == .glb || w.sp == .gen)⟩
     | 2 => some ⟨.cctlInvl1, fun w => noAddr w && w.op == 2⟩
     | 3 => some ⟨.cctlInvdie, fun w => noAddr w && w.op == 3⟩
     | 4 => some ⟨.cctlIinv, fun w => noAddr w && w.op == 4⟩
     | _ => none)
  | 0x18 => some ⟨.bar, fun w => w.mx.extractLsb' 0 4 == 0#4 && (w.mx.getLsbD 5 || w.data == Opd.zero) && w.base == Opd.zero
      && w.off.extractLsb' 4 10 == 0#10 && w.sz == 0#3 && w.sp == .glb && w.cp == 0#2 && !w.fs && !w.pi⟩
  | 0x19 => some ⟨.cbar, fun w => w.mx.extractLsb' 0 4 == 0#4 && (w.mx.getLsbD 5 || w.data == Opd.zero) && w.base == Opd.zero
      && w.off.extractLsb' 2 12 == 0#12 && w.sz == 0#3 && w.sp == .glb && w.cp == 0#2 && !w.fs && !w.pi⟩
  | 0x1A => some ⟨.arv, fun w => w.strongMx [2] && w.sz == 3#3 && w.sp != .cst && w.cp == 0#2 && !w.fs && !w.pi⟩
  | 0x1B => some ⟨.await, fun w => w.strongMx [1] && w.sz == 3#3 && !w.cp.getLsbD 1 && !w.pi⟩
  | _ => none

def encodeMW (opc : BitVec 8) (w : MW) : W64 :=
  packWord 0b01#2 opc w.g
    (encodeOpd w.data ++ (encodeOpd w.base ++ (w.off ++ (w.mx ++
      (BitVec.ofBool w.pi ++ (BitVec.ofBool w.fs ++ (w.cp ++ (encodeSpace w.sp ++ w.sz))))))))

def decodeMW (opc : BitVec 8) (w : W64) : Except DecErr Instr :=
  match rowM opc (fld w 26 4).toNat, decodeSpace (fld w 3 3) with
  | some r, some sp =>
    let mw : MW := ⟨decodeGuard w, opdOr (.c 0#8) (fld w 40 10), opdOr (.a 0#4) (fld w 30 10), fld w 16 14, fld w 10 6,
      fld w 0 3, sp, fld w 6 2, bit w 8, bit w 9⟩
    if r.ok mw then
      (if (decodeOpd (fld w 40 10)).isSome && (decodeOpd (fld w 30 10)).isSome then .ok (r.ctor mw) else .error .operand)
    else .error .instruction
  | _, _ => .error .instruction

/-- R273: a per-thread element of `n` bytes, as destination or source. -/
def elemOk (cap : Nat) (n : Nat) (dst : Bool) (o : Opd) : Bool :=
  let k := (n + 3) / 4
  match o with
  | .v r => r.toNat % k == 0 && r.toNat + k ≤ cap
  | .o r => r.toNat % k == 0
  | .x _ => !dst && n ≤ 8
  | .c _ => !dst && n ≤ 4
  | _ => false

/-- R273: a per-wave element of `n` bytes. -/
def elemQOk (n : Nat) (dst : Bool) (o : Opd) : Bool :=
  let k := (n + 3) / 4
  match o with
  | .s r => r.toNat % k == 0
  | .a _ => n ≤ 8
  | .m _ => !dst && n ≤ 4
  | .sr r => !dst && n ≤ 4 && r != 15#4
  | .c _ => !dst && n ≤ 4
  | _ => false

/-- R284, R285: a group of `k` registers that starts at a multiple of k. -/
def groupOk (cap k : Nat) (o : Opd) : Bool :=
  match o with
  | .v r => r.toNat % k == 0 && r.toNat + k ≤ cap
  | .o r => r.toNat % k == 0
  | _ => false

/-- R217: the base operand. -/
def baseOk (cap : Nat) (sp : Space) (o : Opd) : Bool :=
  match o with
  | .a _ => true
  | .v r => (match sp with
      | .glb | .cst | .gen => r.toNat % 2 == 0 && r.toNat + 1 < cap
      | _ => r.toNat < cap)
  | _ => false

/-- The count operand of a barrier (R288). -/
def cntOk (w : MW) : Bool :=
  !w.mx.getLsbD 5 || (match w.data with | .s _ => true | .c _ => true | _ => false)

/-! ## Class 10 (R264, R297, R299) -/

def isS (o : Opd) : Bool := match o with | .s _ => true | _ => false
def isSPair (o : Opd) : Bool := match o with | .s n => n.toNat % 2 == 0 | _ => false
def isS8 (o : Opd) : Bool := match o with | .s n => n.toNat % 8 == 0 | _ => false
def isSC (o : Opd) : Bool := match o with | .s _ => true | .c _ => true | _ => false
def isVPair (cap : Nat) (o : Opd) : Bool := match o with | .v n => n.toNat % 2 == 0 && n.toNat + 1 < cap | _ => false
def isV (cap : Nat) (o : Opd) : Bool := match o with | .v n => n.toNat < cap | _ => false
def isO (o : Opd) : Bool := match o with | .o _ => true | _ => false
def isC (o : Opd) : Bool := match o with | .c _ => true | _ => false
def isSr (o : Opd) : Bool := match o with | .sr n => n != 15#4 | _ => false
def isM (o : Opd) : Bool := match o with | .m _ => true | _ => false
def isZ (o : Opd) : Bool := o == Opd.zero

/-! X as R297 numbers it: X[19:9], so X[n] is bit n - 9. -/
def AW.xb (w : AW) (n : Nat) : Bool := w.x.getLsbD (n - 9)
def AW.handle (w : AW) : Nat := (w.y.extractLsb' 0 3).toNat
/-- The CSR number, X[19:8] (R299). -/
def AW.csr (w : AW) : Nat := w.x.toNat * 2 + w.fs.toNat
/-- W, Y[0] (R334). -/
def AW.w64 (w : AW) : Bool := w.y.getLsbD 0
def AW.sco (w : AW) : Nat := (w.x.extractLsb' 8 3).toNat
/-- TRY, X[16] (R299). -/
def AW.try_ (w : AW) : Bool := w.xb 16
/-- MEPI: TY, X[19:16]. -/
def AW.mty (w : AW) : BitVec 4 := w.x.extractLsb' 7 4

/-- Only the X bits of the mask (numbered from bit 9) are used. -/
def AW.xOnly (w : AW) (m : Nat) : Bool := w.x &&& BitVec.ofNat 11 m == w.x
def AW.yOnly (w : AW) (m : Nat) : Bool := w.y &&& BitVec.ofNat 8 m == w.y

/-- Element types MEPI writes (R307). -/
def mepiTy (t : BitVec 4) : Bool := t == 9#4 || t == 10#4 || t == 11#4 || t == 12#4 || t == 13#4 || t == 3#4

/-- W is 1 only for an s operand (R334). -/
def AW.wOk (w : AW) (o : Opd) : Bool := !w.w64 || isS o

/-- The rows of CSRW by CSR number (R335). -/
def csrwRow (csr : Nat) : AW → Instr :=
  if csr = 0x006 then .cmdqWrite
  else if csr = 0x014 then .tagwinWrite
  else if 0x020 ≤ csr ∧ csr < 0x050 then .rangeBoundWrite
  else if 0x050 ≤ csr ∧ csr < 0x060 then .rngattrWrite
  else .csrw

/-- A row of R299: its constructor, and the values its X, Y and unused fields allow (illegal instruction). -/
structure RowA where
  ctor : AW → Instr
  ok   : AW → Bool

def rowA (opc : BitVec 8) (w : AW) : Option RowA :=
  match opc.toNat with
  | 0x10 => if w.xb 15 then some ⟨.shapeRel, fun w => isZ w.s1 && isZ w.s2 && isZ w.s3 && w.x == 64#11 && w.yOnly 7⟩
            else some ⟨.shape, fun w => isZ w.s1 && isZ w.s2 && isZ w.s3 && w.xOnly 0x780 && w.yOnly 0x1F⟩
  | 0x11 => some ⟨.mzero, fun w => isZ w.d && isZ w.s1 && isZ w.s2 && isZ w.s3 && w.x == 0#11 && w.yOnly 7⟩
  | 0x12 => some ⟨.mloop, fun w => isZ w.d && isZ w.s2 && isZ w.s3 && w.xOnly 0x7F8 && w.yOnly 7
      && (!w.xb 19 || w.xb 17) && (!w.xb 18 || w.xb 16)⟩
  | 0x13 => if w.y.getLsbD 7 then
        some ⟨.mepiCol, fun w => isZ w.d && isZ w.s2 && isZ w.s3 && w.x == 0#11 && w.y.getLsbD 7 && w.yOnly 0x87⟩
      else some ⟨.mepi, fun w => isZ w.s3 && mepiTy w.mty && !(w.xb 12 && w.xb 11) && w.yOnly 0x47 && (w.xb 9 || isZ w.d)⟩
  | 0x14 => some ⟨.mlda, fun w => isZ w.d && isZ w.s3 && w.xOnly 2 && w.yOnly 7⟩
  | 0x15 => some ⟨.msta, fun w => isZ w.d && isZ w.s2 && isZ w.s3 && w.xOnly 2 && w.yOnly 7⟩
  | 0x16 => some ⟨.mcb, fun w => isZ w.d && isZ w.s2 && isZ w.s3 && w.xOnly 1 && w.yOnly 7⟩
  | 0x20 => some ⟨.xfer, fun w => isZ w.s2 && isZ w.s3 && w.x == 0#11 && !w.fs && w.y == 0#8⟩
  | 0x21 => some ⟨.xring, fun w => isZ w.s2 && isZ w.s3 && w.x == 0#11 && !w.fs && w.y == 0#8⟩
  | 0x22 => if w.xb 9 then some ⟨.xslotRel, fun w => isZ w.d && isZ w.s2 && isZ w.s3 && w.x == 1#11 && !w.fs && w.y == 0#8⟩
            else some ⟨.xslotAcq, fun w => isZ w.s2 && isZ w.s3 && w.x == 0#11 && !w.fs && w.y == 0#8⟩
  | 0x23 => some ⟨.xwait, fun w => isZ w.s2 && isZ w.s3 && w.xOnly 1 && w.y == 0#8⟩
  | 0x24 => some ⟨.xcancel, fun w => isZ w.d && isZ w.s2 && isZ w.s3 && w.x == 0#11 && !w.fs && w.y == 0#8⟩
  | 0x28 => some ⟨.spawn, fun w => isZ w.s2 && isZ w.s3 && w.x == 0#11 && w.y == 0#8⟩
  | 0x29 => some ⟨.csig, fun w => isZ w.d && isZ w.s3 && w.xOnly 0x700 && w.sco < 5 && !w.fs && w.y == 0#8⟩
  | 0x2A => some ⟨.cwait, fun w => isZ w.s3 && w.xOnly 0x780 && w.sco < 5 && w.y == 0#8⟩
  | 0x2C => some ⟨.tagpub, fun w => isZ w.d && isZ w.s2 && isZ w.s3 && w.x == 0#11 && !w.fs && w.y == 0#8⟩
  | 0x2D => some ⟨.tagwait, fun w => isZ w.s2 && isZ w.s3 && w.xOnly 0x80 && w.y == 0#8⟩
  | 0x2E => some ⟨.colsend, fun w => w.x == 0#11 && w.yOnly 1⟩
  | 0x31 => some ⟨.logmark, fun w => isZ w.d && isZ w.s2 && isZ w.s3 && w.x == 0#11 && !w.fs && w.yOnly 1 && w.wOk w.s1⟩
  | 0x32 => some ⟨.trapf, fun w => isZ w.d && isZ w.s2 && isZ w.s3 && w.x == 0#11 && !w.fs && w.y == 0#8⟩
  | 0x33 => some ⟨.trap, fun w => isZ w.d && isZ w.s3 && w.xOnly 1 && !w.fs && w.y == 0#8⟩
  | 0x34 => some ⟨.csrr, fun w => isZ w.s1 && isZ w.s2 && isZ w.s3 && w.yOnly 1 && w.wOk w.d⟩
  | 0x35 => some ⟨csrwRow w.csr, fun w => isZ w.d && isZ w.s2 && isZ w.s3 && w.yOnly 1 && w.wOk w.s1⟩
  | 0x36 => some ⟨.clock, fun w => isZ w.s1 && isZ w.s2 && isZ w.s3 && w.x == 0#11 && !w.fs && w.y == 0#8⟩
  | 0x37 => some ⟨.sleep, fun w => isZ w.d && isZ w.s2 && isZ w.s3 && w.x == 0#11 && !w.fs && w.y == 0#8⟩
  | 0x38 => some ⟨.bpt, fun w => isZ w.d && isZ w.s1 && isZ w.s2 && isZ w.s3 && w.x == 0#11 && !w.fs⟩
  | _ => none

/-- The A form (R297). COLSEND (0x2E) has an S3 operand in [19:10]; its bit [9] is zero. -/
def encodeAW (opc : BitVec 8) (w : AW) : W64 :=
  packWord 0b10#2 opc w.g
    (encodeOpd w.d ++ (encodeOpd w.s1 ++ (encodeOpd w.s2 ++
      ((if opc = 0x2E#8 then encodeOpd w.s3 ++ 0b0#1 else w.x) ++ (BitVec.ofBool w.fs ++ w.y)))))

def decodeAW (opc : BitVec 8) (w : W64) : Except DecErr Instr :=
  let col := opc == 0x2E#8
  let opd := fun lo => opdOr (.s 0#6) (fld w lo 10)
  let aw : AW := ⟨decodeGuard w, opd 40, opd 30, opd 20, if col then opd 10 else Opd.zero,
    if col then 0#10 ++ fld w 9 1 else fld w 9 11, bit w 8, fld w 0 8⟩
  match rowA opc aw with
  | some r =>
    if r.ok aw then
      (if (decodeOpd (fld w 40 10)).isSome && (decodeOpd (fld w 30 10)).isSome && (decodeOpd (fld w 20 10)).isSome
          && (!col || (decodeOpd (fld w 10 10)).isSome) then .ok (r.ctor aw)
       else .error .operand)
    else .error .instruction
  | none => .error .instruction

/-- The B form (R212): bits [49:32] are zero. PHINT has the same fields (R329). -/
def encodeB (opc : BitVec 8) (g : Guard) (off : W32) : W64 := packWord 0b10#2 opc g (0#18 ++ off)

def rowB (opc : BitVec 8) : Option (Guard → W32 → Instr) :=
  match opc.toNat with
  | 0x01 => some .bra | 0x03 => some .call | 0x06 => some .meet | 0x07 => some .meets | 0x30 => some .phint
  | _ => none

/-- The control words with no operand (R264). -/
def rowZ (opc : BitVec 8) : Option (Guard → Instr) :=
  match opc.toNat with
  | 0x05 => some .ret | 0x08 => some .meetl | 0x09 => some .exit | 0x0A => some .yield | 0x0B => some .nop
  | _ => none

def rowR (opc : BitVec 8) : Option (Guard → Opd → Instr) :=
  match opc.toNat with
  | 0x02 => some .brx | 0x04 => some .callx
  | _ => none

/-- A G-form control word with its SA alone (R264). -/
def encodeR (opc : BitVec 8) (g : Guard) (a : BitVec 10) : W64 := packWord 0b10#2 opc g (0#10 ++ (a ++ 0#30))

def decode10 (opc : BitVec 8) (w : W64) : Except DecErr Instr :=
  match rowB opc, rowZ opc, rowR opc with
  | some mk, _, _ => if fld w 32 18 = 0#18 then .ok (mk (decodeGuard w) (fld w 0 32)) else .error .instruction
  | _, some mk, _ => if fld w 0 50 = 0#50 then .ok (mk (decodeGuard w)) else .error .instruction
  | _, _, some mk =>
    if fld w 40 10 = 0#10 ∧ fld w 0 30 = 0#30 then
      match decodeOpd (fld w 30 10) with
      | some a => .ok (mk (decodeGuard w) a)
      | none => .error .operand
    else .error .instruction
  | none, none, none => decodeAW opc w

/-! ## Any word -/

/-- The instruction a 64-bit word holds, or the fault it takes (R211, R214, R218, R223). Log entries 22, 87. -/
def decode (w : W64) : Except DecErr Instr :=
  if fld w 62 2 = 0b00#2 then
    (if fld w 54 8 = 0x50#8 then decodeCvt w
     else if fld w 54 8 = 0x21#8 then decodeMovW w
     else decodeCW (fld w 54 8) w)
  else if fld w 62 2 = 0b01#2 then decodeMW (fld w 54 8) w
  else if fld w 62 2 = 0b10#2 then decode10 (fld w 54 8) w
  else .error .clause

/-- The class-01 opcode and the word of an instruction (R223). -/
def mwOf (i : Instr) : Option (BitVec 8 × MW) :=
  match i with
  | .ld w => some (0x01#8, w) | .st w => some (0x02#8, w) | .ldq w => some (0x03#8, w) | .stq w => some (0x04#8, w)
  | .lda w => some (0x05#8, w) | .stl w => some (0x06#8, w) | .ldc w => some (0x07#8, w) | .atom w => some (0x08#8, w)
  | .cas w => some (0x09#8, w) | .atomf w => some (0x0A#8, w) | .red w => some (0x0B#8, w) | .fence w => some (0x10#8, w)
  | .pref w => some (0x11#8, w) | .cctlInv w => some (0x12#8, w) | .cctlUnpin w => some (0x12#8, w)
  | .cctlInvl1 w => some (0x12#8, w) | .cctlInvdie w => some (0x12#8, w) | .cctlIinv w => some (0x12#8, w)
  | .bar w => some (0x18#8, w) | .cbar w => some (0x19#8, w) | .arv w => some (0x1A#8, w) | .await w => some (0x1B#8, w)
  | _ => none

/-- The class-10 opcode and the A-form word of an instruction (R223). -/
def awOf (i : Instr) : Option (BitVec 8 × AW) :=
  match i with
  | .shape w => some (0x10#8, w) | .shapeRel w => some (0x10#8, w) | .mzero w => some (0x11#8, w) | .mloop w => some (0x12#8, w)
  | .mepi w => some (0x13#8, w) | .mepiCol w => some (0x13#8, w) | .mlda w => some (0x14#8, w) | .msta w => some (0x15#8, w)
  | .mcb w => some (0x16#8, w) | .xfer w => some (0x20#8, w) | .xring w => some (0x21#8, w) | .xslotAcq w => some (0x22#8, w)
  | .xslotRel w => some (0x22#8, w) | .xwait w => some (0x23#8, w) | .xcancel w => some (0x24#8, w) | .spawn w => some (0x28#8, w)
  | .csig w => some (0x29#8, w) | .cwait w => some (0x2A#8, w) | .tagpub w => some (0x2C#8, w) | .tagwait w => some (0x2D#8, w)
  | .colsend w => some (0x2E#8, w) | .logmark w => some (0x31#8, w) | .trapf w => some (0x32#8, w) | .trap w => some (0x33#8, w)
  | .csrr w => some (0x34#8, w) | .csrw w => some (0x35#8, w) | .cmdqWrite w => some (0x35#8, w) | .rngattrWrite w => some (0x35#8, w)
  | .rangeBoundWrite w => some (0x35#8, w) | .tagwinWrite w => some (0x35#8, w)
  | .clock w => some (0x36#8, w) | .sleep w => some (0x37#8, w) | .bpt w => some (0x38#8, w)
  | _ => none

/-- The control words and PHINT: their encoding (R264, R329). -/
def ctlOf (i : Instr) : Option W64 :=
  match i with
  | .bra g off => some (encodeB 0x01#8 g off) | .call g off => some (encodeB 0x03#8 g off)
  | .meet g off => some (encodeB 0x06#8 g off) | .meets g off => some (encodeB 0x07#8 g off)
  | .phint g off => some (encodeB 0x30#8 g off)
  | .brx g a => some (encodeR 0x02#8 g (encodeOpd a)) | .callx g a => some (encodeR 0x04#8 g (encodeOpd a))
  | .ret g => some (encodeR 0x05#8 g 0#10) | .meetl g => some (encodeR 0x08#8 g 0#10) | .exit g => some (encodeR 0x09#8 g 0#10)
  | .yield g => some (encodeR 0x0A#8 g 0#10) | .nop g => some (encodeR 0x0B#8 g 0#10)
  | _ => none

/-- The word of an instruction; none for an event row, which has no encoding. Log entries 22, 87. -/
def encode (i : Instr) : Option W64 :=
  match cwOf i, mwOf i, awOf i, ctlOf i with
  | some (opc, w), _, _, _ => some (encodeCW opc w)
  | _, some (opc, w), _, _ => some (encodeMW opc w)
  | _, _, some (opc, w), _ => some (encodeAW opc w)
  | _, _, _, some w => some w
  | none, none, none, none =>
    match i with
    | .cvt w => some (encodeCvt w)
    | .movw w => some (encodeMovW w)
    | _ => none

/-- What the decoder reads from the bits of one word of the opcode table's numbering (bit 0 the least significant bit of the
first and only 64-bit word; the word's bytes lie little-endian in memory, R4). Log entry 7. -/
def decodeTableWord (_nbits w : Nat) : Option Instr :=
  match decode (BitVec.ofNat 64 w) with
  | .ok i => some i
  | .error _ => none

/-! ## Well-formedness: the form (what decoding guarantees) and the operands -/

/-- R217, R273, R279, R284, R285, R288, R292, R293: the operands of a class-01 word. -/
def mwOpdsOk (cap : Nat) (i : Instr) : Bool :=
  match i with
  | .ld w => baseOk cap w.sp w.base && elemOk cap w.bytes true w.data
  | .ldc w => baseOk cap w.sp w.base && elemOk cap w.bytes true w.data
  | .lda w => baseOk cap w.sp w.base && elemOk cap w.bytes true w.data
  | .st w => baseOk cap w.sp w.base && (elemOk cap w.bytes false w.data || elemQOk w.bytes false w.data)
  | .stl w => baseOk cap w.sp w.base && (elemOk cap w.bytes false w.data || elemQOk w.bytes false w.data)
  | .ldq w => isA w.base && elemQOk w.bytes true w.data
  | .stq w => isA w.base && elemQOk w.bytes false w.data
  | .atom w => baseOk cap w.sp w.base && elemOk cap w.bytes true w.data
  | .cas w => baseOk cap w.sp w.base && groupOk cap (w.bytes / 2) w.data
  | .atomf w => baseOk cap w.sp w.base && groupOk cap 2 w.data
  | .red w => baseOk cap w.sp w.base && (elemOk cap w.bytes false w.data || elemQOk w.bytes false w.data)
  | .pref w => baseOk cap w.sp w.base
  | .cctlInv w => baseOk cap w.sp w.base
  | .cctlUnpin w => baseOk cap w.sp w.base
  | .bar w => cntOk w
  | .cbar w => cntOk w
  | .arv w => baseOk cap w.sp w.base && (elemOk cap 4 false w.data || elemQOk 4 false w.data)
  | .await w => baseOk cap w.sp w.base && groupOk cap 2 w.data
  | _ => true

/-- R298, R299, R334: the operands of an A-form word. -/
def awOpdsOk (cap : Nat) (i : Instr) : Bool :=
  match i with
  | .shape w => isSPair w.d
  | .shapeRel w => isSPair w.d
  | .mloop w => isS8 w.s1
  | .mepi w => isS8 w.s1 && isSC w.s2 && (!w.xb 9 || isSPair w.d)
  | .mepiCol w => isS8 w.s1
  | .mlda w => isA w.s1 && isSC w.s2
  | .msta w => isA w.s1
  | .mcb w => isA w.s1
  | .xfer w => isS w.d && isS8 w.s1
  | .xring w => isS w.d && isS8 w.s1
  | .xslotAcq w => isS w.d && isSC w.s1
  | .xslotRel w => isSC w.s1
  | .xwait w => isS w.d && isSC w.s1
  | .xcancel w => isSC w.s1
  | .spawn w => (isV cap w.d || isO w.d || isS w.d) && (isV cap w.s1 || isSC w.s1)
  | .csig w => (isA w.s1 || isVPair cap w.s1) && (isV cap w.s2 || isO w.s2 || isSC w.s2)
  | .cwait w => (isVPair cap w.d || isSPair w.d) && (isA w.s1 || isVPair cap w.s1)
      && (isVPair cap w.s2 || isSPair w.s2 || isA w.s2 || isC w.s2)
  | .tagpub w => isSPair w.s1
  | .tagwait w => isS w.d && isSPair w.s1
  | .colsend w => isS w.d && isA w.s1 && isSC w.s2 && isSC w.s3
  | .logmark w => (if w.w64 then isSPair w.s1 else isS w.s1 || isA w.s1 || isSr w.s1 || isC w.s1)
  | .trapf w => isSC w.s1
  | .trap w => isSC w.s1 && (isSPair w.s2 || isA w.s2)
  | .csrr w => (if w.w64 then isSPair w.d else isS w.d || isA w.d)
  | .csrw w | .cmdqWrite w | .rngattrWrite w | .rangeBoundWrite w | .tagwinWrite w =>
      (if w.w64 then isSPair w.s1 else isS w.s1 || isA w.s1 || isM w.s1 || isC w.s1)
  | .clock w => isSPair w.d || isA w.d
  | .sleep w => isSC w.s1
  | _ => true

/-- R264: SA of BRX and CALLX is an address register, an even v, o or s pair, or x0. -/
def brxOk (cap : Nat) (o : Opd) : Bool :=
  match o with
  | .a _ => true
  | .v n => n.toNat % 2 == 0 && n.toNat + 1 < cap
  | .o n => n.toNat % 2 == 0
  | .s n => n.toNat % 2 == 0
  | .x n => n == 0#1
  | _ => false

/-- The operands of a word are legal for a wave whose register cap is `cap`. Log entry 12. -/
def operandsOk (cap : Nat) (i : Instr) : Bool :=
  match cwOf i with
  | some (opc, w) => (match row00 opc with | some r => r.opdsOk cap w | none => false)
  | none =>
    match i with
    | .cvt w => w.opdsOk cap
    | .movw w => w.opdsOk cap
    | .brx _ a => brxOk cap a
    | .callx _ a => brxOk cap a
    | _ => mwOpdsOk cap i && awOpdsOk cap i

def CW.named (w : CW) : Bool := w.d.named && w.a.named && w.b.named && w.c.named
def AW.named (w : AW) : Bool := w.d.named && w.s1.named && w.s2.named && w.s3.named

/-- The form of an instruction is one that a word can hold (R214, R215, R223, R240, R264, R271, R299). -/
def formOk (i : Instr) : Bool :=
  match cwOf i, mwOf i, awOf i with
  | some (opc, w), _, _ => (match row00 opc with | some r => r.formOk w && w.named | none => false)
  | _, some (opc, w), _ => (match rowM opc w.op with | some r => r.ok w && w.data.named && w.base.named && decide (r.ctor w = i) | none => false)
  | _, _, some (opc, w) => (match rowA opc w with | some r => r.ok w && w.named && decide (r.ctor w = i) | none => false)
  | none, none, none =>
    match i with
    | .cvt w => w.formOk && w.d.named && w.a.named
    | .movw w => w.d.named
    | .brx _ a => a.named
    | .callx _ a => a.named
    | _ => true

/-! ## Clause headers (R203 to R206) -/

/-- A decoded clause header. -/
structure Header where
  ecl  : Nat
  cnt  : Nat          -- CNT, the number of words minus one
  wait : BitVec 12
  seta : Nat
  setb : Nat
  yld  : Bool
  deriving DecidableEq, Repr

/-- R203: bits [63:62] mark a header. -/
def isHeader (w : W64) : Bool := fld w 62 2 == 0b11#2

/-- A set-flag field names f0 to f11 or none (15) (R203). -/
def setOk (f : BitVec 4) : Bool := f.toNat < 12 || f == 15#4

/-- R203, R204: a header's fields, none where ECL, SETA, SETB or the reserved bits break R204. -/
def decodeHeader (w : W64) : Option Header :=
  if isHeader w ∧ (fld w 59 3).toNat < 4 ∧ setOk (fld w 39 4) ∧ setOk (fld w 35 4) ∧ fld w 0 34 = 0#34 then
    some ⟨(fld w 59 3).toNat, (fld w 55 4).toNat, fld w 43 12, (fld w 39 4).toNat, (fld w 35 4).toNat, bit w 34⟩
  else none

def encodeHeader (h : Header) : W64 :=
  0b11#2 ++ (BitVec.ofNat 3 h.ecl ++ (BitVec.ofNat 4 h.cnt ++ (h.wait ++ (BitVec.ofNat 4 h.seta ++
    (BitVec.ofNat 4 h.setb ++ (BitVec.ofBool h.yld ++ 0#34))))))

/-- R206: the flag-setting opcodes. -/
def flagSetting (cls opc : Nat) : Bool :=
  match cls with
  | 1 => opc ∈ [0x01, 0x03, 0x05, 0x07, 0x08, 0x09, 0x0A, 0x1B]
  | 2 => opc ∈ [0x10, 0x11, 0x12, 0x13, 0x14, 0x15, 0x16, 0x23, 0x28, 0x2A, 0x2D, 0x2E]
  | _ => false

/-- R205: the control transfers. -/
def ctlTransfer (cls opc : Nat) : Bool := cls == 2 && opc ∈ [0x01, 0x02, 0x03, 0x04, 0x05, 0x09, 0x0A]

/-- R223: the opcode is listed. -/
def opcodeListed (cls opc : Nat) : Bool :=
  match cls with
  | 0 => (row00 (BitVec.ofNat 8 opc)).isSome || opc == 0x50 || opc == 0x21
  | 1 => opc ∈ [0x01, 0x02, 0x03, 0x04, 0x05, 0x06, 0x07, 0x08, 0x09, 0x0A, 0x0B, 0x10, 0x11, 0x12, 0x18, 0x19, 0x1A, 0x1B]
  | 2 => (1 ≤ opc && opc ≤ 0x0B) || (0x10 ≤ opc && opc ≤ 0x16) || (0x20 ≤ opc && opc ≤ 0x24) || (0x28 ≤ opc && opc ≤ 0x2A)
      || (0x2C ≤ opc && opc ≤ 0x2E) || (0x30 ≤ opc && opc ≤ 0x38)
  | _ => false

/-- R205: the words a clause class admits. -/
def admitted (ecl cls opc : Nat) : Bool :=
  match cls with
  | 0 => true
  | 1 => ecl == 1 || (ecl == 3 && (opc == 0x10 || opc == 0x18 || opc == 0x19))
  | 2 => (1 ≤ opc && opc ≤ 0x0B) || (ecl == 2 && 0x10 ≤ opc && opc ≤ 0x2E) || ecl == 3
  | _ => false

/-- R204: one word of a clause, the i-th of its cnt + 1 words. -/
def clauseWordOk (h : Header) (i : Nat) (w : W64) : Bool :=
  let cls := (fld w 62 2).toNat
  let opc := (fld w 54 8).toNat
  let fs := bit w 8
  cls != 3 && admitted h.ecl cls opc && (!ctlTransfer cls opc || i == h.cnt)
  && (!flagSetting cls opc || (if fs then h.setb else h.seta) != 15)

/-- R204: the whole clause. -/
def clauseOk (h : Header) (ws : List W64) : Bool :=
  ws.length == h.cnt + 1 && (ws.zipIdx.all fun p => clauseWordOk h p.2 p.1)

end Sys2Proof
end

