-- ==== Sys2Proof/Machine/Rows.lean ====
section
/-! DEFINITION. The copies of a package's retired-row list as bytes, and their signatures (spec/03_translation_tiers.md R76, R77). -/

namespace Sys2Proof.Machine

/-- The n low bytes of a value, the lowest first (R4). -/
def leBytes (n v : Nat) : List Byte :=
  match n with
  | 0 => []
  | k + 1 => BitVec.ofNat 8 v :: leBytes k (v / 256)

/-- R76: an 8-byte entry of the list. Log entry 96. -/
def rowWord (x : RowId × Nat) : W64 :=
  BitVec.ofNat 64 (x.1.home.stack % 2 ^ 4 + x.1.pc % 2 ^ 6 * 2 ^ 4 + x.1.bank % 2 ^ 6 * 2 ^ 10 + x.1.row % 2 ^ 18 * 2 ^ 16 + x.2 % 2 ^ 13 * 2 ^ 34)

/-- R76: the header and the entries of a copy, over whose SHA3-256 digest its signature stands. Log entry 96. -/
def rowBytes (l : RowList) : List Byte :=
  leBytes 8 l.seq ++ leBytes 8 l.entries.length ++ leBytes 48 0 ++ l.entries.flatMap fun x => leBytes 8 (rowWord x).toNat

/-- R76: the copy as the root of trust of a package signs it. DESIGN CHOICE (log entry 99). -/
def signList (pkg : Nat) (l : RowList) : RowList := { l with sig := some (pkg, rowBytes l) }

/-- R76, R77: the copy's signature verifies: the package's own device key made it over these bytes. DESIGN CHOICE (log entry 99). -/
def listValid (pkg : Nat) (l : RowList) : Bool := l.sig == some (pkg, rowBytes l)

end Sys2Proof.Machine
end

