-- ==== Sys2Proof/Machine/State.lean ====
section
/-! DEFINITION. The state of the machine: every piece of state the spec gives it, as plain data, and the state after reset
(INVENTORY.md, State). -/

namespace Sys2Proof.Machine

/-- MR value NONE (R158). -/
def mrNone : W64 := 0xFFFFFFFFFFFFFFFF#64

/-! ## Waves -/

/-- The clause a wave is issuing: the VA of its header, the header, its words, the next word, and the active lanes (R163, R203). -/
structure Clause where
  hva   : W64
  hdr   : Header
  words : List W64
  k     : Nat
  lanes : BitVec 32
  deriving DecidableEq, Repr

/-- A wave's place: what the specials of R219 report of the block and grid, and T, the block's threads (R164, R170). -/
structure Dims where
  t   : Nat
  bx  : Nat
  by_ : Nat
  kx  : Nat
  ky  : Nat
  kz  : Nat
  gx  : Nat
  gy  : Nat
  gz  : Nat
  deriving DecidableEq, Repr

/-- Why a wave issues nothing (R162, R167, R287, R289, R333, R337, R358, R363). -/
inductive Run where
  | run
  | sleep                          -- SLEEP, until its expiry
  | barrier (cb : Bool) (n : Nat)  -- after a .sync arrival
  | trapped (code : Nat) (k : Option Nat)  -- restartable trap; its ring index once posted
  | posting                        -- stalled until its ordinary record has a slot
  | breakpoint
  | stopped                        -- at a liveness point or by the bound, for a save
  | halted                         -- by a fatal trap of its block, or revocation
  | exiting                        -- no thread left; the end waits for flags and stores
  deriving DecidableEq, Repr

/-- A wave (R78, R158, R162, R198, R199, R335). -/
structure Wave where
  id      : WaveId
  v       : Tab W32
  o       : Tab W32
  x       : Tab W64
  p       : Tab Bool
  s       : Tab W32
  a       : Tab W64
  m       : Tab W32
  flags   : Tab Nat
  pc      : Tab W64
  mr      : Tab W64
  mstack  : Tab (List W64)
  exited  : BitVec 32
  freed   : BitVec 32           -- released at this PC and not issued since (R160)
  stamp   : Tab Nat
  clauses : Nat
  ordinal : Nat
  astk    : W64
  fpctl   : W64
  srseed  : W64
  stklim  : W64
  colroute : W64
  merr    : W64
  depth   : Nat
  tserial : Nat
  cap     : Nat
  core    : CoreId
  quad    : Nat
  dims    : Dims
  lser    : Nat
  fw      : Bool                -- firmware mode (R12, R334)
  clause  : Option Clause
  run     : Run
  live    : Option (List W64)   -- the liveness record of the PHINT it stopped at (R329)
  waitC   : Nat                 -- wait counter (R367)
  heldC   : Tab Nat             -- held counters (R367)
  fell    : List (W64 × Nat)    -- where lanes have fallen through to, each with the ordinal of the last word before it (R224)
  deriving DecidableEq, Repr

/-! ## Operations in flight -/

/-- An operation of a wave in flight: a flag-setting operation until its completion, or a store until it has landed
(R121, R206). `data` holds bytes that have arrived, at key 16 lane + byte; `ok` the lanes that are performed; `early` the
registers written before completion (R209). -/
structure Op where
  id     : Nat
  wave   : WaveId
  ctx    : Nat
  ins    : Instr
  flag   : Option Nat
  pc     : W64
  ord    : Nat
  addr   : Tab W64           -- per-lane addresses
  arg    : Tab W64           -- per-lane operands read at issue (object word, threshold, count)
  ok     : BitVec 32
  left   : Nat               -- pieces not answered
  data   : Tab Byte
  early  : List Nat
  sticky : Nat               -- ASTK bits to set at completion
  acq    : Bool              -- R277: stalls later memory words
  cleared : Bool             -- its first request has been performed: no lane drew an error response then (R50)
  store  : Bool              -- counts as a store for landing
  fault  : Option TrapRec
  pol    : Policy
  deriving DecidableEq, Repr

/-- Events of a wave held until operations it covers have landed or returned (R122, R126). -/
structure Deferred where
  wave  : WaveId
  waits : List Nat
  evs   : List Instr
  deriving DecidableEq, Repr

/-- A wait registered at a counter or an arrival object (R173, R293, R324). -/
inductive Watcher where
  | task (ctx serial ctr : Nat)
  | cwait (op lane : Nat)
  | await (op lane : Nat)
  deriving DecidableEq, Repr

structure Watch where
  key : Nat          -- memory key or scratchpad key of the location
  who : Watcher
  il  : Bool         -- the location lies in a lane-interleaved stack (R43)
  deriving DecidableEq, Repr

/-! ## Blocks and tasks -/

/-- A matrix operation on a handle: the operation that holds its flag, the word, its descriptor as read at issue, its address,
option and tag operands, FPCTL.FTZ at issue, and the next K step (R302, R304, R307, R308). -/
structure MatOp where
  op    : Nat
  ins   : Instr
  desc  : List W32
  addr  : W64
  opt   : W32
  tag   : W64
  route : W64
  ftz   : Bool
  step  : Nat
  contrib : Bool     -- MEPI.col: its contribution waits to be taken (R374)
  deriving DecidableEq, Repr

/-- A tile handle (R185, R300). `grant` is the granted shape, `req` the shape and kind class the latest SHAPE asked for. -/
structure Tile where
  grant  : Option (Nat × Nat)
  kc     : Nat
  sums   : Tab W128
  nans   : Tab Bool
  count  : Nat
  anchor : Option Int
  cbA    : List W16
  cbB    : List W16
  req    : Option (Nat × Nat × Nat)
  queue  : List MatOp
  deriving DecidableEq, Repr

/-- A slot of a slot ring (R318). -/
inductive Slot where
  | free | filling | full | held | filled | draining
  deriving DecidableEq, Repr

/-- A stream command or slot ring published in a block's command ring (R311 to R321). `pos` counts the boxes or bytes moved. -/
structure Cmd where
  idx    : Nat
  words  : List W64
  wave   : Option WaveId
  ord    : Nat
  xring  : Bool
  ftz    : Bool              -- FPCTL.FTZ of the publishing wave (R286, R313)
  taken  : Bool
  srcd   : Bool
  srcOk  : Bool              -- every source byte has been read (R317, R320)
  done   : Bool
  status : Nat
  fcode  : Nat
  left   : Nat               -- writes not landed
  failed : Bool
  box    : Nat               -- slot rings: next box to load or store
  acq    : Nat               -- slots acquired
  rel    : Nat               -- slots released
  land   : Nat               -- boxes landed
  slots  : List Slot
  deriving DecidableEq, Repr

/-- A barrier phase: arrivals, expected count (none: every wave), completions, and the waves that wait (R289). -/
structure Bar where
  tally : Nat
  count : Option Nat
  open_ : Bool
  done  : Nat
  wait  : List WaveId
  deriving DecidableEq, Repr

/-- Who holds a Lockring entry (R127). -/
inductive LockBy where
  | op (id : Nat)
  | cmd (b : BlkId) (idx : Nat)
  deriving DecidableEq, Repr

/-- A Lockring entry: a scratchpad span of a block, or an IA span; source or destination (R127). -/
structure Lock where
  by_ : LockBy
  scr : Option BlkId
  lo  : Nat
  hi  : Nat
  dst : Bool
  deriving DecidableEq, Repr

inductive BlkState where
  | pending    -- in a die's list
  | placed     -- on a core, waiting for leases or its gate
  | running
  | exitRead   -- ended; its exit-fired contribution is being read (R373)
  | over       -- ended; it keeps its scratchpad for its cluster (R82), or leases for its task tree (R52)
  | saved
  deriving DecidableEq, Repr

/-- A declared interval: ACC, first VA (57-bit), length, PERBLK (R51). -/
structure Interval where
  acc    : Nat
  base   : Nat
  len    : Nat
  perblk : Bool
  deriving DecidableEq, Repr

/-- A block or task (R165, R168, R171, R300, R311). -/
structure Blk where
  id      : BlkId
  state   : BlkState
  key     : Nat × Nat             -- placement key: logical package and die (R347)
  at_     : Nat × Nat             -- package and die whose list holds it
  core    : CoreId
  was     : CoreId                -- the core it was saved on
  dims    : Dims
  nwaves  : Nat
  ended   : Nat
  cap     : Nat
  size    : Nat                   -- scratchpad bytes, S
  scratch : Tab Byte
  cmdq    : W64
  wi      : Nat
  ri      : Nat
  tiles   : Tab Tile
  bars    : Tab Bar
  cbars   : Tab Bar               -- of the cluster, in its rank-0 block
  cmds    : List Cmd
  intervals : List Interval
  leases  : List LeaseReq         -- granted
  wanted  : List LeaseReq         -- requested, not answered
  cluster : List BlkId
  task    : Option TaskRec
  entry   : W64
  save    : Bool                  -- a save is pending
  full    : Bool                  -- a full save is due
  image   : List Wave             -- the waves of a saved block
  images  : List Op               -- its operations kept across the save
  evs     : List Instr            -- its events held at order points, kept across the save (R156)
  locks   : List Lock             -- the Lockring entries to register again (R369)
  waits   : List Watch            -- its watches to make afresh
  cycles  : Nat                   -- cycles resident, for its cost
  l2b     : Nat                   -- L2 bytes its accesses have requested (R346)
  fops    : Nat                   -- matrix multiply-accumulates and FP32 vector FMAs it has made (R346)
  failed  : Bool
  deriving DecidableEq, Repr

/-! ## Cores and dies -/

/-- A line of L1 or a non-home copy of L2: line IA, context, generation at its fill, data, the context whose pin holds it (R85, R93,
R94). -/
structure Line where
  ia   : Nat
  ctx  : Nat
  gen  : Nat
  data : List Byte
  pin  : Option Nat
  stale : Bool       -- invalidated in place: keeps its pin and refills (R93)
  strm : Bool        -- allocated under policy strm: the first candidate for eviction (R90)
  deriving DecidableEq, Repr

/-- A write-combining buffer: line IA, context, home, the stores it holds, the bytes each brought with their offset in the line, in
order, the place of its last store among the requests issued, and whether it has been sent: a drain on its way to the home, no longer
one of the eight (R92). -/
structure WcBuf where
  ia    : Nat
  ctx   : Nat
  home  : HomeId
  ops   : List Nat
  parts : List (Nat × Nat × List Byte)
  seq   : Nat
  sent  : Bool
  deriving DecidableEq, Repr

/-- A worker core (R15, R16, R85, R92, R94, R127, R174, R225, R336). -/
structure Core where
  id    : CoreId
  l1    : List Line
  gl    : Tab Nat
  wc    : List WcBuf
  locks : List Lock
  deque : List TaskRec
  cycle : Nat
  iseq  : Nat                  -- `seq` at the last block start or instruction invalidate (R225)
  deriving DecidableEq, Repr

/-- Line migration of a line in a die's L2, kept at its home slice: region of the last requesting core, run count (R88). -/
structure Mig where
  ia    : Nat
  reg   : Nat
  run   : Nat
  deriving DecidableEq, Repr

/-- A compute die: non-home copies and pins, generations, line migration with its forwarding entries, the die distributor (R86, R93, R94, R97, R348 to R350). -/
structure Die where
  pkg   : Nat
  die   : Nat
  l2    : List Line
  pins  : List (Nat × Nat)      -- pinned home-cached lines: line IA and context
  g     : Tab Nat
  migs  : List Mig
  fwd   : List (Nat × Nat)      -- forwarding entries, oldest first: line IA, region whose near slice holds it (R88)
  list  : List BlkId
  phase : Tab Nat               -- by 64 context + queue
  age   : Nat
  drain : Option Nat
  deriving DecidableEq, Repr

/-! ## Homes -/

/-- A translation entry (R57), at a home, for one page. -/
structure Entry where
  home  : HomeId
  ia    : Nat
  loc   : Nat
  shr   : Bool
  faddr : Nat
  acc   : Nat
  d     : Bool
  rpf   : Nat
  mst   : Nat
  owner : Nat
  lcnt  : Nat
  heat  : Nat
  swc   : W64
  deriving DecidableEq, Repr

/-- What a shoot-down is for (R62). -/
inductive ShootFor where
  | unmap | evict | resetacc
  deriving DecidableEq, Repr

/-- A home command or page operation under way on a page: MIGRATE waiting, copying; a shoot-down with the dies still to
acknowledge; a page request and the lease requests it holds (R62, R67, R68, R70, R71). Log entry 91. -/
structure PageOp where
  home  : HomeId
  ia    : Nat
  cmd   : Option HomeCmd
  copy  : Option Nat              -- MIGRATE, FILL: next sector
  wait  : Bool                    -- MIGRATE waiting for a slot
  acks  : List (Nat × Nat)
  shoot : Option ShootFor
  held  : List LeaseReq
  reqs  : List Req                -- accesses held during a shoot-down
  behind : List Instr             -- commands that run after it
  back  : List (Nat × List Byte)  -- sectors of the frame reused before the shoot-down ended, with their old bytes (R71)
  deriving DecidableEq, Repr

/-- A row being retired, with the accesses it holds (R74). -/
structure RowOp where
  row  : RowId
  bad  : List Nat
  held : List Req
  deriving DecidableEq, Repr

/-- A stack base beside its entries (R59, R60, R73, R74, R138). -/
structure Home where
  id     : HomeId
  pins   : Nat
  queue  : List LeaseReq        -- lease requests that wait for a pin (R60)
  remap  : List (RowId × Nat)
  rows   : List RowOp
  dead   : List Nat             -- contexts it has rejected
  cap    : Nat                  -- XSTCAP: entries its store holds (R56)
  landing : Nat                 -- landing slots in use (R380)
  failing : List Nat            -- failing sectors of rows that found no spare (R75)
  deriving DecidableEq, Repr

/-! ## Order log -/

/-- An event at an order point (R143, R144): its point, type, issuer, ordinal, and the payload where the key holds it. -/
structure LogEv where
  ctx  : Nat
  lpkg : Nat
  opt  : Nat
  typ  : Nat
  ph   : Bool
  lser : Nat
  tk   : Bool
  iid  : Nat
  wv   : Nat
  lane : Nat
  ord  : Nat
  pay  : W64
  deriving DecidableEq, Repr

/-- A replayed access to a host or CXL frame whose payload is compared when its read completion returns (R142): the request, the
event, its sequence number, the record expected. -/
structure Owed where
  req : Nat
  ev  : LogEv
  seq : Nat
  want : List W64
  deriving DecidableEq, Repr

/-- An event held at an order point by replay or by a full ring (R150, R152): the event, the cycles it has been held, and whether it is
on its way to its point again. -/
structure Held where
  id  : Nat
  ctx : Nat
  lpkg : Nat
  opt : Nat
  ev  : Instr
  age : Nat
  again : Bool
  deriving DecidableEq, Repr

/-- The log ring of a context in one package (R146 to R152). -/
structure LogRing where
  lpkg   : Nat
  lrsz   : Nat
  base   : Nat
  desc   : Nat               -- IA of the entry in the context descriptor
  pi     : Nat
  ci     : Nat
  hiw    : Bool
  lost   : Bool
  preempt : Bool             -- the full-save PREEMPT record is written (R156)
  window : List (List W64)
  ended  : Bool
  ring   : List (List W64)   -- records waiting for a slot (HIWATER, PREEMPT, END)
  claimed : List (Option Nat × List W64) -- slots claimed from PI on: the request whose completion fills PAY, the record (R142)
  deriving DecidableEq, Repr

/-! ## Contexts -/

/-- A range register (R32 to R36); `wr` marks RNGBASE, RNGLIM, RNGIA as written since creation. -/
structure Range where
  base : W64
  lim  : W64
  ia   : W64
  attr : W64
  wr   : BitVec 3
  deriving DecidableEq, Repr

/-- A launch (R341 to R345, R356, R200). -/
structure Launch where
  id      : Nat
  q       : Nat
  lser    : Nat
  slot    : Nat
  words   : List W64
  phase   : Nat
  prev    : Option Nat
  nblk    : Nat
  next    : Nat              -- blocks handed down
  out     : Nat              -- blocks handed down and not ended
  tasks   : Nat              -- tasks of its trees not ended, parked ones included
  bad     : Bool             -- invalid or failed
  fallback : Bool
  fbcount : Nat
  ended   : Bool
  stats   : Tab Nat          -- key 4 tensor + counter
  ests    : Tab Nat          -- est charged for a block, by chunk of 64 (R345)
  deriving DecidableEq, Repr

/-- A command queue (R96, R339, R340, R345, R385, R386). -/
structure Queue where
  num   : Nat
  va    : Nat
  logs  : Nat
  wq    : Nat
  ri    : Nat
  wi    : Nat
  phase : Nat
  def_  : Int
  nread : Nat
  hold  : List (W64 × W64)     -- WAIT, BARRIER-AND: addresses and thresholds
  held  : Nat                  -- the TYPE of the packet that holds it
  met   : Bool                 -- the packet completed while the context was switched off (R357)
  sigs  : List (Packet × List Nat)  -- SIGNALs and the launches they wait for
  deriving DecidableEq, Repr

/-- A parked task and the counter it watches, the number of its counters once it is ready (R173). -/
structure Parked where
  task : TaskRec
  core : CoreId
  ctr  : Nat
  deriving DecidableEq, Repr

/-- A chunk instance at one package whose partial has not been sent: contributions counted, the sums so far or the bytes (R374). -/
structure Chunk where
  chunk : Nat
  lpkg  : Nat
  inst  : Nat
  got   : Nat
  elems : List (BitVec 128 × Bool)
  bytes : List Byte
  deriving DecidableEq, Repr

/-- A shadow instance: partials combined so far, and the elements that a raw NaN has entered (R376). -/
structure Shadow where
  chunk : Nat
  inst  : Nat
  got   : Nat
  nans  : List Bool
  deriving DecidableEq, Repr

/-- A binding of a named buffer (R371 to R381), with the translations of its addresses made when it was read: destination of an all-reduce, shadow,
signal, arrival object, slot-release counters. -/
structure Binding where
  buf    : Nat
  words  : List W64
  failed : Bool
  dst    : Option (Range × Nat)
  sh     : Option (Range × Nat)
  sg     : Option (Range × Nat)
  av     : Option (Range × Nat)
  rl     : Option (Range × Nat)
  chunks : List Chunk
  shadows : List Shadow
  waiting : List Contrib           -- contributions held at their sources
  counts : Tab Nat                 -- contributions counted, by 2^24 lpkg + chunk
  shards : List Shard              -- shards that wait to be forwarded
  landed : Tab Nat                 -- chunks landed, by instance, participant and shard
  tries  : Tab Nat                 -- refused reservations, by transfer
  deriving DecidableEq, Repr

/-- Triggered work recorded while its context is switched off a package (R357): an event, or the readiness of a task. -/
inductive Trig where
  | event (e : Instr)
  | ready (serial : Nat)
  deriving DecidableEq, Repr

/-- The life of a context (R138). -/
inductive Life where
  | live | stopping | revoking | rejecting | dead
  deriving DecidableEq, Repr

/-- A context (R31 to R38, R46, R47, R93, R138, R147, R335, R358, R365, R385). Log entry 98. -/
structure Ctx where
  id     : Nat
  life   : Life
  auto   : Bool                     -- torn down by the device, not by CTXCMD: CTXST reports nothing
  desc   : Nat                      -- IA of its descriptor
  dies   : List (Nat × Nat × Nat)   -- partition: logical package, physical package, die, in slot order
  ranges : List Range
  staged : Option (List Range)      -- range registers written while the context ran, in force when it is next scheduled (R37)
  tagwin : W64
  dbgctl : W64
  pindrop : Nat
  ctl    : W64
  save   : Nat
  svsz   : Nat
  trd    : W64                      -- LOGN, ALR, RBASE
  wdlog  : Nat
  logmode : Nat
  dstop  : Bool
  logst  : W64                      -- DIV, ABAN, LOST, DCAUSE
  rings  : List LogRing
  queues : List Queue
  launches : List Launch
  nlaunch : Nat
  parked : List Parked
  trig   : List (Nat × Trig)        -- recorded triggered work, by package, in the order of its triggers (R357)
  off    : List Nat                 -- packages it is switched off
  saved  : List (Nat × Tab (Nat × Nat)) -- its Cassette entries saved there, by package (R370)
  preempts : Nat
  preempting : Bool
  revoked : List CoreId
  binds  : List Binding
  trapq  : List TrapRec             -- ordinary records waiting for a slot (R366)
  recs   : List (Nat × WaveId × Nat) -- posted restartable records: index, wave, code
  resp   : List (WaveId × Nat × W64) -- responses to saved waves (R363)
  moved  : List Nat                 -- pages of its save areas that the driver has migrated or evicted (R385)
  deriving DecidableEq, Repr

/-! ## Functions, packages, the rack -/

/-- A posted BAR2 write not landed: requester ID, place among the writes of that requester, context, IA, bytes (R384). -/
structure HostWrite where
  req   : Nat
  seq   : Nat
  ctx   : Nat
  ia    : Nat
  bytes : List Byte
  deriving DecidableEq, Repr

/-- A PCI Express function: BAR0 registers, the MSI-X table and pending bits of BAR4, and PF settings (R382, R383, R387). -/
structure Fn where
  num    : Nat
  ctxtab : W64
  tabWr  : Bool                  -- CTXTAB has been written (R7)
  ctxst  : W64
  hcq    : W64
  hcqpi  : W64
  hcqci  : W64
  hcc    : W64
  hccpi  : W64
  hccci  : W64
  prq    : W64
  prqpi  : W64
  prqci  : W64
  barwin : W64
  fpart  : BitVec 576
  wf     : Nat
  hbmsh  : Nat
  lanesh : Nat
  prqWait : List (List W64)      -- page-request records waiting for a slot (R67)
  hccWait : List (List W64)      -- completion records waiting for a slot
  writes : List HostWrite
  msix   : Tab (W64 × W64)       -- by vector: message address; message data [31:0] and vector control [63:32]
  pba    : List Nat              -- vectors that are pending
  hmap   : List (Nat × Nat)       -- home map rewritten by recovery: failed package and the spare it names (R47, R393)
  deriving DecidableEq, Repr

/-- A package's Hub (R18, R19, R24, R76, R77, R174, R346, R355, R356, R389, R390). -/
structure Pkg where
  id     : Nat
  up     : Bool
  fault  : Option Nat               -- the bring-up step that failed
  joined : Bool
  failed : Bool
  meas   : List (List Byte)
  listA  : RowList
  listB  : RowList
  cxlmode : Nat
  fwCore : List (Nat × Nat)
  coreMap : List (List (Nat × Nat)) -- by die: array and position of the worker cores with IDs 0 to 47 (R13)
  cxl    : Nat                      -- bytes of its CXL window (R389)
  ports  : Nat × Nat                -- installed capacity of its CXL ports (R389)
  rcAtomics : Bool                  -- the root complex completes AtomicOp requests (R72)
  corrected : Nat                   -- corrected soft errors, counted for the management interface (R81)
  lanes  : List Nat                 -- failed scale-up lanes
  links  : List (Nat × Nat)         -- failed die links
  mhz    : Tab Nat                  -- island frequencies lowered from the nominal 3,000 MHz
  volt   : Tab W64                  -- island voltages, which no rule gives a value (R23)
  tags   : Tab (Nat × Nat)          -- Cassette, by entry: generation, SCO
  resv   : List (Nat × Nat × Nat × Nat)  -- reservations: context, launch, first entry, TN
  ovfl   : List TaskRec             -- the overflow rings of its contexts, oldest record first
  serials : Tab Nat                      -- tasks accepted, by context
  klass  : List (Nat × W64 × Nat × Nat × Nat)  -- context, ENTRY, blocks measured, L2 bytes, operations
  landing : Nat                     -- landing slots in use (R380)
  boot   : Option BootCfg           -- a bring-up that waits for a signed list (R390)
  deriving DecidableEq, Repr

/-- The rack (R25, R26, R46, R345, R352). -/
structure Rack where
  hsalt  : W64
  ests   : List (Nat × W64 × Nat × Nat)   -- mean costs: context, ENTRY, sum, blocks
  lens   : List (Nat × Nat × Nat × Nat)   -- pending-list lengths: context, package, die, length
  costs  : List (Nat × BlkId × Nat)       -- block ends and costs gathered, by tray, oldest first
  clamps : Nat                            -- clamp events of the deficits (R345)
  standby : List (Nat × List (Nat × Nat × Nat × Nat))  -- standby copies by tray
  slot1  : List Nat                       -- trays whose slot-1 standby has taken over
  lost   : List Nat                       -- packages fenced
  stops  : List (Nat × Nat)               -- pre-emptions under way: context, and a tray still to report its packages stopped (R352, R358)
  deriving DecidableEq, Repr

/-- What the device sends out: interrupts, posted writes, read completions, management reports (R366, R384, R391). -/
inductive Sent where
  | msix (fn vec : Nat)
  | posted (fn addr : Nat) (bytes : List Byte)
  | read (fn addr n : Nat)                               -- a read of a host frame, in its owner's name (R59)
  | atomicOp (fn addr op : Nat) (data data2 : List Byte) -- 0 add, 1 swap, 2 compare-and-swap (R72)
  | completion (fn tag : Nat) (bytes : List Byte) (poisoned : Bool)
  | cxl (pkg port addr n : Nat) (write : Bool)           -- an access of a CXL port, at its port address (R389)
  | unsupported (fn tag : Nat)
  | report (pkg code : Nat)
  | retire (pkg : Nat) (rec : List W64)                  -- a frame-retire record for the control complex (R75)
  | attestation (pkg : Nat) (bytes : List Byte)
  deriving DecidableEq, Repr

/-- What no opcode row brings about: errors of the memory arrays (R81, R100, R101), a host's read of a function register (R5, R383), and its accesses to BAR4 (R382).
The outside places them; each is taken as a step of its own. Log entry 89. -/
inductive Input where
  | wordError (w : WaveId)                -- an uncorrectable error in a register, scratchpad or accumulator value the wave reads
  | corrected (pkg : Nat)                 -- a corrected soft error
  | hbmError (h : HomeId) (sector : Nat)  -- an uncorrectable HBM error in a sector, by its number in the stack
  | copyError (pkg die : Nat) (core : Option Nat) (ia : Nat) -- a clean L1 line or non-home copy that cannot be corrected
  | lineError (h : HomeId) (ia : Nat)     -- a dirty home-cached line that cannot be corrected
  | bar0Read (fn off tag : Nat)
  | bar4Read (fn off tag : Nat)           -- of the MSI-X table and pending bits (R382)
  | bar4Write (fn off : Nat) (v : W32)
  | evict (src : CoreId) (l1 : Bool) (ia : Nat)              -- replacement takes an L1 line of a core, or a copy of its die (R85, R89)
  deriving DecidableEq, Repr

/-- The state of the machine. `pending` holds the events that are due, oldest first; `order` the choices of who moves next
(0: issue; n from 1 to the number of due events: event n; above: switch the issue to another wave), `turn` who moves where it names none; `seq` numbers operations
and requests; `free` counts the free values drawn. -/
structure State where
  wave    : Wave
  waves   : List Wave
  blks    : List Blk
  cores   : List Core
  dies    : List Die
  homes   : List Home
  entries : List Entry
  pageops : List PageOp
  pkgs    : List Pkg
  ctxs    : List Ctx
  fns     : List Fn
  rack    : Rack
  mem     : List Host.Cell
  poison  : List Nat
  hist    : List (Nat × Nat × W64)   -- overwritten code words: place, `seq` at the store, old word (R225)
  ops     : List Op
  deferred : List Deferred
  watches : List Watch
  copySco : Tab Nat                 -- by counter location: one more than the widest scope of a copy that arrived there (R130)
  held    : List Held
  owed    : List Owed
  inputs  : List Input
  seqs    : Tab Nat
  pending : List Instr
  order   : List Nat
  turn    : Bool                    -- with no choice given, due events and issue take turns
  seq     : Nat
  free    : Nat
  outbox  : List Sent
  deriving DecidableEq, Repr

/-! ## Stops of the model -/

/-- Why the model stops with a fault. -/
inductive Fault where
  /-- An event row names a package, die, core, home, function, context, wave, block, launch or operation that the state does not
  hold: no such event comes about. Raised by the event rows. Safe: the hardware raises no such event. -/
  | noSuchUnit
  deriving DecidableEq, Repr

/-- Why the model refuses. -/
inductive Refusal where
  /-- No meaning yet for a row of the opcode table. Raised by Machine/Dispatch.lean alone. Safe: the run stops. -/
  | notModelled (mnemonic : String)
  deriving DecidableEq, Repr

abbrev Out := Host.Outcome State Fault Refusal

/-! ## Reset -/

def BlkId.none : BlkId := ⟨0, false, 0, 0⟩
def CoreId.none : CoreId := ⟨0, 0, 0⟩

/-- The focus record while no wave has issued: every thread exited, no clause open. DESIGN CHOICE (log entry 2). -/
def Wave.idle : Wave :=
  { id := ⟨BlkId.none, 0⟩, v := [], o := [], x := [], p := [], s := [], a := [], m := [], flags := [], pc := [], mr := [],
    mstack := [], exited := 0xFFFFFFFF#32, freed := 0, stamp := [], clauses := 0, ordinal := 0, astk := 0, fpctl := 0, srseed := 0,
    stklim := 0, colroute := 0, merr := 0, depth := 0, tserial := 0, cap := 256, core := CoreId.none, quad := 0,
    dims := ⟨0, 1, 1, 0, 0, 0, 1, 1, 1⟩, lser := 0, fw := false, clause := .none, run := .halted, live := .none, waitC := 0,
    heldC := [], fell := [] }

/-- The list of a package that has retired no row. Log entry 5. -/
def RowList.empty (pkg : Nat) : RowList := signList pkg ⟨0, [], .none⟩

/-- A package at package reset, before PACKAGE_BOOT (R390). Log entry 5. -/
def Pkg.atReset (id : Nat) : Pkg :=
  { id := id, up := false, fault := .none, joined := false, failed := false, meas := [], listA := RowList.empty id,
    listB := RowList.empty id, cxlmode := 0, fwCore := [], coreMap := [], cxl := 0, ports := (0, 0), rcAtomics := false, corrected := 0, lanes := [], links := [], mhz := [], volt := [], tags := [], resv := [], ovfl := [],
    serials := [], klass := [], landing := 0, boot := .none }

def Rack.atReset : Rack := ⟨0, [], [], [], 0, [], [], [], []⟩

/-- The machine right after package reset: one package, nothing booted, no context, no wave, memory lists nothing (R7, R390). -/
def State.reset : State :=
  { wave := Wave.idle, waves := [], blks := [], cores := [], dies := [], homes := [], entries := [], pageops := [],
    pkgs := [Pkg.atReset 0], ctxs := [], fns := [], rack := Rack.atReset, mem := [], poison := [], hist := [], ops := [], deferred := [],
    watches := [], copySco := [], held := [], owed := [], inputs := [], seqs := [], pending := [], order := [], turn := false, seq := 0, free := 0, outbox := [] }

end Sys2Proof.Machine
end

