-- ==== Sys2Proof/Machine/Tab.lean ====
section
/-! DEFINITION. Sparse tables with strictly rising keys: register files, memory and the other arrays of the state. An entry that
equals what an unlisted key reads as is never listed, so equal tables are equal lists. -/

namespace Sys2Proof

variable {α : Type}

/-- The value at key k; d where k is not listed. -/
def Tab.get (d : α) (t : Tab α) (k : Nat) : α :=
  match t with
  | [] => d
  | (j, v) :: r => if j = k then v else Tab.get d r k

/-- t without key k. -/
def Tab.del (t : Tab α) (k : Nat) : Tab α :=
  match t with
  | [] => []
  | (j, v) :: r => if j = k then Tab.del r k else (j, v) :: Tab.del r k

/-- t with v listed at key k. -/
def Tab.put (t : Tab α) (k : Nat) (v : α) : Tab α :=
  match t with
  | [] => [(k, v)]
  | (j, w) :: r => if j = k then (k, v) :: r else if k < j then (k, v) :: (j, w) :: r else (j, w) :: Tab.put r k v

/-- t with key k reading v: the default is not listed. -/
def Tab.set [DecidableEq α] (d : α) (t : Tab α) (k : Nat) (v : α) : Tab α :=
  if v = d then Tab.del t k else Tab.put t k v

/-- Keys rise strictly from `lo` on. -/
def Tab.sortedFrom (lo : Nat) (t : Tab α) : Bool :=
  match t with
  | [] => true
  | (k, _) :: r => decide (lo ≤ k) && Tab.sortedFrom (k + 1) r

/-- The canonical form: strictly rising keys and no entry equal to the default. -/
def Tab.wf [DecidableEq α] (d : α) (t : Tab α) : Bool := Tab.sortedFrom 0 t && t.all fun p => decide (p.2 ≠ d)

/-- Change the first element that satisfies p. -/
def updFirst (p : α → Bool) (f : α → α) (l : List α) : List α :=
  match l with
  | [] => []
  | a :: r => if p a then f a :: r else a :: updFirst p f r

/-- Remove the first element that satisfies p. -/
def delFirst (p : α → Bool) (l : List α) : List α :=
  match l with
  | [] => []
  | a :: r => if p a then r else a :: delFirst p r

end Sys2Proof
end

