-- ==== Sys2Proof/Machine/Operands.lean ====
section
/-! DEFINITION. The operand forms of class-00 words (spec/09_encoding.md R213, R218 to R222, spec/10_isa_compute.md R236 to R239,
spec/04_hierarchy.md R78 to R80): what an operand reads as in a lane, and how results are written. -/

namespace Sys2Proof.Machine

/-- The lanes of a mask, in ascending order. -/
def lanesOf (m : BitVec 32) : List Nat := (List.range 32).filter m.getLsbD

/-- A per-lane key of a register file. -/
def lkey (r l : Nat) : Nat := 32 * r + l

/-! ## Register files -/

def Wave.getV (w : Wave) (r l : Nat) : W32 := w.v.get 0 (lkey r l)
def Wave.setV (w : Wave) (r l : Nat) (d : W32) : Wave := { w with v := w.v.set 0 (lkey r l) d }
def Wave.getO (w : Wave) (r l : Nat) : W32 := w.o.get 0 (lkey r l)
def Wave.setO (w : Wave) (r l : Nat) (d : W32) : Wave := { w with o := w.o.set 0 (lkey r l) d }
def Wave.getX (w : Wave) (r l : Nat) : W64 := w.x.get 0 (lkey r l)
def Wave.getS (w : Wave) (r : Nat) : W32 := w.s.get 0 r
def Wave.setS (w : Wave) (r : Nat) (d : W32) : Wave := { w with s := w.s.set 0 r d }
def Wave.getA (w : Wave) (r : Nat) : W64 := w.a.get 0 r
def Wave.setA (w : Wave) (r : Nat) (d : W64) : Wave := { w with a := w.a.set 0 r d }
def Wave.getM (w : Wave) (r : Nat) : W32 := w.m.get 0 r
def Wave.setM (w : Wave) (r : Nat) (d : W32) : Wave := { w with m := w.m.set 0 r d }

/-- A predicate; p7 always reads 1 (R78). -/
def Wave.getP (w : Wave) (r l : Nat) : Bool := r == 7 || w.p.get false (lkey r l)
/-- A write to p7 is never made (R221 refuses it as a destination). -/
def Wave.setP (w : Wave) (r l : Nat) (b : Bool) : Wave := if r = 7 then w else { w with p := w.p.set false (lkey r l) b }

/-- R79: x1 <- x0, then x0 <- the result, zero-extended to 64 bits. -/
def Wave.pushX (w : Wave) (l : Nat) (d : W64) : Wave :=
  { w with x := (w.x.set 0 (lkey 1 l) (w.getX 0 l)).set 0 (lkey 0 l) d }

/-- A 64-bit value from its halves. -/
def join (hi lo : W32) : W64 := hi ++ lo
def lo32 (d : W64) : W32 := d.extractLsb' 0 32
def hi32 (d : W64) : W32 := d.extractLsb' 32 32

/-! ## Active and participating lanes -/

/-- The active lanes of the open clause (R163); none where no clause is open. -/
def Wave.active (w : Wave) : BitVec 32 := match w.clause with | some c => c.lanes | none => 0#32

/-- R213: the guard of a lane. -/
def Wave.guardOk (w : Wave) (g : Guard) (l : Nat) : Bool := w.getP g.p.toNat l != g.neg

/-- R238: the participating lanes. -/
def Wave.part (w : Wave) (g : Guard) : List Nat := (lanesOf w.active).filter (w.guardOk g)

/-! ## Special registers and inline constants -/

/-- R220: an inline constant under an operand type, in the low bits of 64. Log entry 18. -/
def constBits (t : Ty) (n : BitVec 8) : W64 :=
  let f := fun (F : Fmt) => (F.encode 0 false false (e4m3.decode false n.toNat)).1
  match t with
  | .f32 => BitVec.ofNat 64 (f fp32)
  | .f16 => BitVec.ofNat 64 (f fp16 * 0x10001)
  | .bf16 => BitVec.ofNat 64 (f bf16 * 0x10001)
  | .e4m3 => BitVec.ofNat 64 (n.toNat * 0x01010101)
  | .e5m2 => BitVec.ofNat 64 (f e5m2 * 0x01010101)
  | .cb4 => BitVec.ofNat 64 (n.toNat % 16 * 0x11111111)
  | .i8 | .n8 => BitVec.ofNat 64 (n.toNat * 0x01010101)
  | .i16 | .n16 => BitVec.ofNat 64 ((n.signExtend 16).toNat * 0x10001)
  | _ => n.signExtend 64

/-- R219: a special register in lane l; `env` is the core's cycle counter and its package's ID (R25). Log entry 21. -/
def Wave.special (w : Wave) (env : Nat × Nat) (n : BitVec 4) (l : Nat) : W64 :=
  let t := 32 * w.id.wid + l
  let d := w.dims
  BitVec.ofNat 64 (match n.toNat with
    | 0 => t % d.bx
    | 1 => t / d.bx % d.by_
    | 2 => t / (d.bx * d.by_)
    | 3 => w.id.wid
    | 4 => d.kx
    | 5 => d.ky
    | 6 => d.kz
    | 7 => d.gx
    | 8 => d.gy
    | 9 => d.gz
    | 10 => w.core.core
    | 11 => w.core.die
    | 12 => env.2
    | 13 => l
    | _ => env.1)

def State.core? (s : State) (c : CoreId) : Option Core := s.cores.find? fun x => decide (x.id = c)

/-- The cycle counter of a core (R336). Log entry 11. -/
def State.cycleOf (s : State) (c : CoreId) : Nat := match s.core? c with | some x => x.cycle | none => 0

/-- R25: the ID a package reports: zero where it is not joined to a rack. -/
def State.pkgNo (s : State) (p : Nat) : Nat :=
  match s.pkgs.find? fun x => x.id == p with | some x => if x.joined then p else 0 | none => p

/-- What the specials of a wave's core report beside its wave. -/
def State.envOf (s : State) (c : CoreId) : Nat × Nat := (s.cycleOf c, s.pkgNo c.pkg)

/-! ## Reading (R221, R222, R237) -/

/-- A 64-bit operand in lane l. -/
def Wave.rd64 (w : Wave) (env : Nat × Nat) (t : Ty) (o : Opd) (l : Nat) : W64 :=
  match o with
  | .v n => join (w.getV (n.toNat + 1) l) (w.getV n.toNat l)
  | .o n => join (w.getO (n.toNat + 1) l) (w.getO n.toNat l)
  | .s n => join (w.getS (n.toNat + 1)) (w.getS n.toNat)
  | .x n => w.getX n.toNat l
  | .a n => w.getA n.toNat
  | .m n => (w.getM n.toNat).setWidth 64
  | .p n => BitVec.ofNat 64 (w.getP n.toNat l).toNat
  | .sr n => if n = 14#4 then w.special env n l else (lo32 (w.special env n l)).setWidth 64
  | .c n => constBits t n

/-- A 32-bit operand in lane l: x, a and %clock give bits [31:0]. -/
def Wave.rd32 (w : Wave) (env : Nat × Nat) (t : Ty) (o : Opd) (l : Nat) : W32 :=
  match o with
  | .v n => w.getV n.toNat l
  | .o n => w.getO n.toNat l
  | .s n => w.getS n.toNat
  | .m n => w.getM n.toNat
  | o => lo32 (w.rd64 env t o l)

/-- An operand in lane l, 64 bits when wd, else 32 bits zero-extended. -/
def Wave.rd (w : Wave) (env : Nat × Nat) (wd : Bool) (t : Ty) (o : Opd) (l : Nat) : W64 :=
  if wd then w.rd64 env t o l else (w.rd32 env t o l).setWidth 64

/-- An operand of the focus wave. -/
def State.rd (s : State) (wd : Bool) (t : Ty) (o : Opd) (l : Nat) : W64 := s.wave.rd (s.envOf s.wave.core) wd t o l

end Sys2Proof.Machine
namespace Sys2Proof
open Machine
/-- Source B, or the I form's immediate sign-extended to the operand width (R237). -/
def CW.rdB (w : CW) (s : State) (wd : Bool) (t : Ty) (l : Nat) : W64 :=
  match w.imm with
  | some i => if wd then i.signExtend 64 else (i.signExtend 32).setWidth 64
  | none => s.rd wd t w.b l

end Sys2Proof
namespace Sys2Proof.Machine
/-! ## Writing (R79, R221, R222, R237, R238) -/

/-- One lane's write of a per-thread destination, with its update of the last-result file. -/
def Wave.putLane (w : Wave) (dw : Bool) (d : Opd) (l : Nat) (r : W64) : Wave :=
  let r' := if dw then r else (lo32 r).setWidth 64
  match d with
  | .v n => (if dw then (w.setV n.toNat l (lo32 r)).setV (n.toNat + 1) l (hi32 r) else w.setV n.toNat l (lo32 r)).pushX l r'
  | .o n => (if dw then (w.setO n.toNat l (lo32 r)).setO (n.toNat + 1) l (hi32 r) else w.setO n.toNat l (lo32 r)).pushX l r'
  | .x _ => w.pushX l r'
  | _ => w

/-- A write of a per-wave destination. -/
def Wave.putWave (w : Wave) (dw : Bool) (d : Opd) (r : W64) : Wave :=
  match d with
  | .s n => if dw then (w.setS n.toNat (lo32 r)).setS (n.toNat + 1) (hi32 r) else w.setS n.toNat (lo32 r)
  | .a n => w.setA n.toNat (if dw then r else (lo32 r).setWidth 64)
  | .m n => w.setM n.toNat (lo32 r)
  | _ => w

/-- A result to its destination: every participating lane for a per-thread register, the lowest one for a per-wave register. -/
def Wave.putD (w : Wave) (dw : Bool) (d : Opd) (ls : List Nat) (f : Nat → W64) : Wave :=
  match d with
  | .v _ | .o _ | .x _ => ls.foldl (fun w l => w.putLane dw d l (f l)) w
  | _ => match ls with
    | [] => w
    | l :: _ => w.putWave dw d (f l)

/-- A bit to a predicate in every participating lane. -/
def Wave.putP (w : Wave) (r : Nat) (ls : List Nat) (f : Nat → Bool) : Wave := ls.foldl (fun w l => w.setP r l (f l)) w

/-- A predicate destination receives the bit; a register receives all ones or zero (R247). -/
def Wave.putMask (w : Wave) (d : Opd) (ls : List Nat) (f : Nat → Bool) : Wave :=
  match d with
  | .p n => w.putP n.toNat ls f
  | d => w.putD false d ls fun l => if f l then 0xFFFFFFFF#64 else 0#64

end Sys2Proof.Machine
namespace Sys2Proof
open Machine
/-- The number a predicate operand names. -/
def Opd.pred (o : Opd) : Nat := match o with | .p n => n.toNat | _ => 7

/-- The number an inline constant holds. -/
def Opd.const (o : Opd) : BitVec 8 := match o with | .c n => n | _ => 0#8

end Sys2Proof
namespace Sys2Proof.Machine
/-- A class-00 word that writes one register destination. -/
def State.alu (s : State) (w : CW) (dw : Bool) (f : Nat → W64) : State :=
  { s with wave := s.wave.putD dw w.d (s.wave.part w.g) f }

end Sys2Proof.Machine
end

