-- ==== Sys2Proof/Machine/Flags.lean ====
section
/-! DEFINITION. The sticky flags of ASTK (spec/08_numbers.md R198), conditions (spec/10_isa_compute.md R247), and completion flags
(spec/09_encoding.md R206 to R208). -/

namespace Sys2Proof.Machine

/-- Sticky bits are ORed into ASTK. -/
def Wave.stick (w : Wave) (fl : Nat) : Wave := { w with astk := w.astk ||| BitVec.ofNat 64 fl }

/-- The OR of sticky bits over lanes. -/
def orAll (ls : List Nat) (f : Nat → Nat) : Nat := ls.foldl (fun a l => a ||| f l) 0

/-- A floating-point word: each participating lane gives a result and sticky bits. -/
def State.aluF (s : State) (g : Guard) (d : Opd) (f : Nat → Nat × Nat) : State :=
  let ls := s.wave.part g
  { s with wave := (s.wave.putD false d ls fun l => BitVec.ofNat 64 (f l).1).stick (orAll ls fun l => (f l).2) }

/-- FPCTL.FTZ (R199). Log entry 19. -/
def Wave.ftz (w : Wave) : Bool := w.fpctl.getLsbD 0

/-- R247: an integer condition. -/
def condInt (c : Nat) (a b : Int) : Bool :=
  match c with
  | 0 => decide (a = b)
  | 1 => decide (a ≠ b)
  | 2 => decide (a < b)
  | 3 => decide (a ≤ b)
  | 4 => decide (a > b)
  | _ => decide (a ≥ b)

/-- R247: a floating-point condition, and IV where an ordered comparison other than .eq and .ne meets a NaN. -/
def condFp (c : Nat) (a b : FV) : Bool × Nat :=
  let un := a.isNan || b.isNan
  match c with
  | 0 => (a.eq b, 0)
  | 1 => (!a.eq b, 0)
  | 2 => (a.lt b, if un then fIV else 0)
  | 3 => (!un && !b.lt a, if un then fIV else 0)
  | 4 => (b.lt a, if un then fIV else 0)
  | 5 => (!un && !a.lt b, if un then fIV else 0)
  | 6 => (!un, 0)
  | _ => (un, 0)

/-- R247: the comparison combined with a predicate. -/
def combine (k : Nat) (c p : Bool) : Bool :=
  match k with
  | 0 => c
  | 1 => c && p
  | 2 => c || p
  | _ => c != p

/-! ## Completion flags -/

def Wave.flag (w : Wave) (f : Nat) : Nat := w.flags.get 0 f

/-- R206: a flag-setting word adds one at issue. -/
def Wave.flagUp (w : Wave) (f : Nat) : Wave := { w with flags := w.flags.set 0 f (w.flag f + 1) }

/-- R206: a completion subtracts one. -/
def Wave.flagDown (w : Wave) (f : Nat) : Wave := { w with flags := w.flags.set 0 f (w.flag f - 1) }

/-- R208: every flag whose WAIT bit is set reads zero. -/
def Wave.waitOk (w : Wave) (m : BitVec 12) : Bool := (List.range 12).all fun f => !m.getLsbD f || w.flag f == 0

end Sys2Proof.Machine
end

