-- ==== Sys2Proof/Machine/Ops.lean ====
section
/-! DEFINITION. The named operations over the state: records by name, memory, waves and their clauses, taking a trap
(spec/14_traps_preemption.md R359 to R363, R366) and returning from one (R365). -/

namespace Sys2Proof.Machine

/-! ## Records by name -/

def State.wave? (s : State) (id : WaveId) : Option Wave :=
  if s.wave.id = id ∧ s.wave ≠ Wave.idle then some s.wave else s.waves.find? fun w => decide (w.id = id)

/-- Change a wave wherever it stands. -/
def State.modWave (s : State) (id : WaveId) (f : Wave → Wave) : State :=
  if s.wave.id = id ∧ s.wave ≠ Wave.idle then { s with wave := f s.wave }
  else { s with waves := updFirst (fun w => decide (w.id = id)) f s.waves }

/-- Every resident wave. Log entry 2. -/
def State.allWaves (s : State) : List Wave := if s.wave = Wave.idle then s.waves else s.wave :: s.waves

def State.blk? (s : State) (id : BlkId) : Option Blk := s.blks.find? fun b => decide (b.id = id)
def State.modBlk (s : State) (id : BlkId) (f : Blk → Blk) : State := { s with blks := updFirst (fun b => decide (b.id = id)) f s.blks }
def State.ctx? (s : State) (id : Nat) : Option Ctx := s.ctxs.find? fun c => c.id == id
def State.modCtx (s : State) (id : Nat) (f : Ctx → Ctx) : State := { s with ctxs := updFirst (fun c => c.id == id) f s.ctxs }
def State.modCore (s : State) (id : CoreId) (f : Core → Core) : State :=
  { s with cores := updFirst (fun c => decide (c.id = id)) f s.cores }
def State.die? (s : State) (p d : Nat) : Option Die := s.dies.find? fun x => x.pkg == p && x.die == d
def State.modDie (s : State) (p d : Nat) (f : Die → Die) : State := { s with dies := updFirst (fun x => x.pkg == p && x.die == d) f s.dies }
def State.home? (s : State) (h : HomeId) : Option Home := s.homes.find? fun x => decide (x.id = h)
def State.modHome (s : State) (h : HomeId) (f : Home → Home) : State := { s with homes := updFirst (fun x => decide (x.id = h)) f s.homes }
def State.pkg? (s : State) (p : Nat) : Option Pkg := s.pkgs.find? fun x => x.id == p
def State.modPkg (s : State) (p : Nat) (f : Pkg → Pkg) : State := { s with pkgs := updFirst (fun x => x.id == p) f s.pkgs }
def State.fn? (s : State) (n : Nat) : Option Fn := s.fns.find? fun x => x.num == n
def State.modFn (s : State) (n : Nat) (f : Fn → Fn) : State := { s with fns := updFirst (fun x => x.num == n) f s.fns }
def State.op? (s : State) (id : Nat) : Option Op := s.ops.find? fun o => o.id == id
def State.modOp (s : State) (id : Nat) (f : Op → Op) : State := { s with ops := updFirst (fun o => o.id == id) f s.ops }

/-- The function of a context (R57 OWNER: function [15:10], context [9:0]). -/
def fnOf (ctx : Nat) : Nat := ctx / 1024

/-- Events become due, behind those already due. Log entry 8. -/
def State.due (s : State) (evs : List Instr) : State := { s with pending := s.pending ++ evs }

/-- A free choice below n (n positive). Log entry 1. -/
def State.choose (s : State) (n : Nat) : Nat × State := (Config.choice s.free % n, { s with free := s.free + 1 })

/-- A free 64-bit value. Log entry 1. -/
def State.anyWord (s : State) : W64 × State := (Config.freeWord s.free, { s with free := s.free + 1 })

/-! ## Memory -/

/-- What a byte that nothing has written reads as: zero. DESIGN CHOICE (log entry 4): the spec gives no contents of frames. Log entry 4. -/
def memDefault : Byte := 0#8

/-- The canonical form of memory: addresses strictly rising, and no entry equal to what an unlisted address reads as. Log entry 4. -/
def Memory.wf (m : List Host.Cell) : Bool := Tab.wf memDefault m

/-- The key of a byte of a frame: its location (R57 LOC: 1 HBM, 2 CXL, 3 host), package, stack and frame address (R59). Host
addresses are one space for every package. Log entry 4. -/
def frameKey (loc pkg stack addr : Nat) : Nat :=
  match loc with
  | 1 => ((256 + pkg) * 16 + stack) * 2 ^ 56 + addr
  | 2 => (512 + pkg) * 16 * 2 ^ 56 + addr
  | _ => 768 * 16 * 2 ^ 56 + addr

def State.memByte (s : State) (k : Nat) : Byte := Tab.get memDefault s.mem k

/-- n bytes from key k on, the lowest first. -/
def readBytes (m : Tab Byte) (k n : Nat) : List Byte := (List.range n).map fun i => m.get 0 (k + i)

def writeBytes (m : Tab Byte) (k : Nat) (bs : List Byte) : Tab Byte :=
  match bs with
  | [] => m
  | b :: r => writeBytes (m.set 0 k b) (k + 1) r

def State.memRead (s : State) (k n : Nat) : List Byte := readBytes s.mem k n
def State.memWrite (s : State) (k : Nat) (bs : List Byte) : State := { s with mem := writeBytes s.mem k bs }

/-- Little-endian value of bytes (R4). -/
def leVal (bs : List Byte) : Nat :=
  match bs with
  | [] => 0
  | b :: r => b.toNat + 256 * leVal r

/-- 64-bit words of bytes. -/
def wordsOf (bs : List Byte) (n : Nat) : List W64 := (List.range n).map fun i => BitVec.ofNat 64 (leVal ((bs.drop (8 * i)).take 8))
def bytesOf (ws : List W64) : List Byte := ws.flatMap fun w => leBytes 8 w.toNat

/-! ## Pages (R31, R56, R57) -/

/-- R31: the page shift of an IA's size class. -/
def pageShift (ia : Nat) : Nat :=
  match ia / 2 ^ 54 % 4 with
  | 0 => 16 | 1 => 21 | 2 => 25 | _ => 29

def pageOf (ia : Nat) : Nat := ia / 2 ^ pageShift ia * 2 ^ pageShift ia
def pageSize (ia : Nat) : Nat := 2 ^ pageShift ia

def State.entry? (s : State) (h : HomeId) (ia : Nat) : Option Entry := s.entries.find? fun e => decide (e.home = h) && e.ia == pageOf ia
def State.modEntry (s : State) (h : HomeId) (ia : Nat) (f : Entry → Entry) : State :=
  { s with entries := updFirst (fun e => decide (e.home = h) && e.ia == pageOf ia) f s.entries }

/-- The memory key of an IA's byte under an entry. -/
def Entry.key (e : Entry) (ia : Nat) : Nat := frameKey e.loc e.home.pkg e.home.stack (e.faddr + (ia - e.ia))

/-- R56: the contexts an entry serves. -/
def Entry.serves (e : Entry) (ctx : Nat) : Bool := e.owner == ctx || (e.shr && fnOf e.owner == fnOf ctx)

/-- The entry that holds an IA for a function, wherever it is homed: how the device reaches the structures its registers and
descriptors name by IA (R64, R67, R146, R365, R385). -/
def State.devEntry? (s : State) (fn ia : Nat) : Option Entry :=
  s.entries.find? fun e => e.ia == pageOf ia && fnOf e.owner == fn && e.loc != 0

/-- The pieces of n bytes at an IA that lie in one sector each. -/
def sectors (fuel ia n : Nat) : List (Nat × Nat) :=
  match fuel with
  | 0 => []
  | f + 1 => if n = 0 then [] else let k := min n (64 - ia % 64); (ia, k) :: sectors f (ia + k) (n - k)

def secsOf (ia n : Nat) : List (Nat × Nat) := sectors (n / 64 + 2) ia n

/-- R57: a page in the frame that a frame word names. -/
def Entry.inFrame (e : Entry) (w : W64) : Entry := { e with loc := (w.extractLsb' 0 2).toNat, faddr := (w.extractLsb' 16 40).toNat * 2 ^ 16 }

/-- R69: the page in the frame that a migration copies it to. -/
def State.copyTarget (s : State) (e : Entry) : Option Entry :=
  if e.mst = 1 then
    match s.pageops.find? fun p => decide (p.home = e.home) && p.ia == e.ia with
    | some p => p.cmd.map fun c => e.inFrame c.fra
    | none => none
  else none

/-- R71: a write to a frame whose old page is still to be unmapped or evicted, its command deferred or its shoot-down under way: the sectors
written keep their old bytes beside, until the write-backs have landed. Log entry 91. -/
def State.noteReuse (s : State) (e : Entry) (k n : Nat) : State :=
  let note := fun (p : PageOp) =>
    match s.entry? p.home p.ia with
    | none => p
    | some o =>
      let lo := o.key o.ia
      let mine := (List.range ((k + n + 63) / 64 - k / 64)).filter fun i =>
        let x := 64 * (k / 64 + i)
        decide (lo ≤ x) && decide (x < lo + pageSize o.ia) && !(p.back.any fun b => b.1 == x)
      if (p.shoot.isNone ∧ o.mst ≠ 3 ∧ o.mst ≠ 4) ∨ o.loc = 0 ∨ (o.home = e.home ∧ o.ia = e.ia) then p
      else { p with back := p.back ++ mine.map fun i => (64 * (k / 64 + i), s.memRead (64 * (k / 64 + i)) 64) }
  { s with pageops := s.pageops.map note }

/-- A sector of a row that found no spare (R75): it keeps returning the error. -/
def State.failing (s : State) (k : Nat) : Bool := s.homes.any fun h => h.failing.contains k

/-- The whole sectors among n bytes from key k on are written with fresh check values: poison goes (R100), but for a sector that keeps
failing (R75). Log entry 45. -/
def State.freshSectors (s : State) (k n : Nat) : State :=
  { s with poison := s.poison.filter fun p => !(decide (k ≤ 64 * p) && decide (64 * p + 64 ≤ k + n)) || s.failing p }

/-- A write of a page's bytes at its home: the frame, and the target of a migration under way (R69). Log entry 45. -/
def State.frameSet (s : State) (e : Entry) (ia : Nat) (bs : List Byte) : State :=
  let k := e.key ia
  let s := (((s.noteReuse e k bs.length).freshSectors k bs.length)).memWrite k bs
  match s.copyTarget e with
  | some t => s.memWrite (t.key ia) bs
  | none => s

/-- R389: port and port address of an address of a CXL window, by the package's CXLMODE and the size of its port 0. -/
def cxlPort (mode size0 a : Nat) : Nat × Nat :=
  match mode with
  | 0 => (0, a)
  | 1 => (1, a)
  | 2 => (a / 2 ^ 12 % 2, a / 2 ^ 13 * 2 ^ 12 + a % 2 ^ 12)
  | _ => if a < size0 then (0, a) else (1, a - size0)

/-- An access of n bytes of a frame leaves by the port it lies behind: a CXL port (R389), or the host port in the owner's name (R59, R384). -/
def State.egress (s : State) (e : Entry) (ia n : Nat) (write : Option (List Byte)) : State :=
  let a := e.faddr + (ia - e.ia)
  match e.loc, write with
  | 2, w =>
    let (mode, size0) := match s.pkg? e.home.pkg with | some p => (p.cxlmode, p.ports.1) | none => (0, 0)
    { s with outbox := s.outbox ++ [.cxl e.home.pkg (cxlPort mode size0 a).1 (cxlPort mode size0 a).2 n w.isSome] }
  | 3, some bs => { s with outbox := s.outbox ++ [.posted (fnOf e.owner) a bs] }
  | 3, none => { s with outbox := s.outbox ++ [.read (fnOf e.owner) a n] }
  | _, _ => s

/-- A write of a page's bytes; one to a host or CXL frame, or with the frame to such a target of a migration, leaves its port. -/
def State.framePut (s : State) (e : Entry) (ia : Nat) (bs : List Byte) : State :=
  let t := (s.frameSet e ia bs).egress e ia bs.length (some bs)
  match s.copyTarget e with
  | some x => t.egress x ia bs.length (some bs)
  | none => t

/-- R74: a row under retirement that n bytes of a page touch. Log entry 55. -/
def State.rowAt (s : State) (e : Entry) (ia n : Nat) : Option RowId :=
  match s.home? e.home with
  | some h =>
    if e.loc != 1 then none
    else (h.rows.find? fun x => (secsOf ia n).any fun p => Config.inRow x.row ((e.faddr + (p.1 - e.ia)) / 64)).map fun x => x.row
  | none => none

/-- R62, R74: the home holds accesses to the page during a shoot-down, and to a row that is being retired. Log entry 88. -/
def State.pageHeld (s : State) (e : Entry) (ia n : Nat) : Bool := e.mst == 5 || (s.rowAt e ia n).isSome

/-- The spans of n bytes at an IA, as (position, IA, bytes): one, or one for each 4-byte group of a lane-interleaved element (R43). -/
def ilSpans (il : Bool) (ia n : Nat) : List (Nat × Nat × Nat) :=
  if il && decide (4 < n) then (List.range (n / 4)).map fun i => (4 * i, ia + 128 * i, 4) else [(0, ia, n)]

end Sys2Proof.Machine
namespace Sys2Proof
open Machine
/-- The spans of a request, as (position in it, IA, bytes). -/
def Req.spans (r : Req) : List (Nat × Nat × Nat) := ilSpans r.il r.ia r.size

/-- A request that may change its location. -/
def ReqKind.writes (k : ReqKind) : Bool := match k with | .store => true | .rmw _ _ => true | _ => false

/-- The event that brings a request to the place that performs it. -/
def Req.atHome (r : Req) : Instr :=
  match r.kind with | .rmw .arv _ => .arvPerform r | .rmw .csig _ => .counterSignalPerform r | _ => .homeAccess r

end Sys2Proof
namespace Sys2Proof.Machine
/-- The Hub as the source of a request: no compute die of the package (R61). Log entry 46. -/
def hubCore (h : HomeId) : CoreId := ⟨h.pkg, 4, 0⟩

/-- A store of the Hub on its way to a page's home. -/
def hubReq (e : Entry) (ia : Nat) (bs : List Byte) (seq : Nat) : Req :=
  { op := 0, wave := ⟨⟨e.owner, false, 0, 0⟩, 0⟩, lane := 0, ord := 0, kind := .store, ctx := e.owner, src := hubCore e.home, home := e.home,
    ia := ia, size := bs.length, pos := 0, data := bs, data2 := [], strong := false, pol := .uncached, seq := seq, rcv := seq,
    il := false, gl := 0, g := 0 }

/-- The row under retirement that a request touches. -/
def State.reqRow (s : State) (e : Entry) (r : Req) : Option RowId := r.spans.findSome? fun p => s.rowAt e p.2.1 p.2.2

/-- A request joins those the home holds for its page, or for the row it touches (R62, R74). -/
def State.holdReq (s : State) (e : Entry) (r : Req) : State :=
  if e.mst == 5 then
    { s with pageops := updFirst (fun p => decide (p.home = r.home) && p.ia == pageOf r.ia) (fun p => { p with reqs := p.reqs ++ [r] }) s.pageops }
  else
    s.modHome r.home fun h => { h with rows := updFirst (fun x => some x.row == s.reqRow e r) (fun x => { x with held := x.held ++ [r] }) h.rows }

def State.devRead (s : State) (fn ia n : Nat) : Option (List Byte) := (s.devEntry? fn ia).map fun e => s.memRead (e.key ia) n

/-- R62, R74: the home of a structure of the Hub holds accesses to n bytes of it. Log entry 88. -/
def State.devHeld (s : State) (fn ia n : Nat) : Bool := (secsOf ia n).any fun p => match s.devEntry? fn p.1 with | some e => s.pageHeld e p.1 p.2 | none => false

/-- A write of the Hub to one of its structures: performed at the page's home, or held there (R62, R74). Log entry 88. -/
def State.devWrite (s : State) (fn ia : Nat) (bs : List Byte) : Option State :=
  (s.devEntry? fn ia).map fun e => if s.pageHeld e ia bs.length then s.holdReq e (hubReq e ia bs s.seq) else s.framePut e ia bs
def State.devWord (s : State) (fn ia : Nat) : W64 := BitVec.ofNat 64 (leVal ((s.devRead fn ia 8).getD []))
def State.devPut (s : State) (fn ia : Nat) (w : W64) : State := (s.devWrite fn ia (leBytes 8 w.toNat)).getD s

/-! ## Waves: threads, clauses, the focus -/

def Wave.getPc (w : Wave) (l : Nat) : W64 := w.pc.get 0 l
def Wave.setPc (w : Wave) (l : Nat) (d : W64) : Wave := { w with pc := w.pc.set 0 l d }
def Wave.getMr (w : Wave) (l : Nat) : W64 := w.mr.get mrNone l
def Wave.setMr (w : Wave) (l : Nat) (d : W64) : Wave := { w with mr := w.mr.set mrNone l d }
def Wave.getStack (w : Wave) (l : Nat) : List W64 := w.mstack.get [] l
def Wave.setStack (w : Wave) (l : Nat) (d : List W64) : Wave := { w with mstack := w.mstack.set [] l d }

/-- The threads that have not exited. -/
def Wave.live_ (w : Wave) : List Nat := lanesOf (~~~w.exited)

/-- R159: a thread whose PC equals its MR is held. Log entry 23. -/
def Wave.held (w : Wave) (l : Nat) : Bool := !w.exited.getLsbD l && w.getPc l == w.getMr l

/-- The VA of word i of the open clause (word 0 follows the header) (R203). -/
def Clause.va (c : Clause) (i : Nat) : W64 := c.hva + BitVec.ofNat 64 (8 * (i + 1))

/-- E of R265: the VA after the clause. -/
def Clause.next (c : Clause) : W64 := c.hva + BitVec.ofNat 64 (8 * (c.hdr.cnt + 2))

/-- The VA of the word a wave is at: the next word of its open clause; the lowest live PC where none is open. -/
def Wave.curPc (w : Wave) : W64 :=
  match w.clause with
  | some c => c.va c.k
  | none => match w.live_ with | [] => 0 | l :: _ => w.getPc l

/-- Put the focus back into the queue, behind the other waves. Log entry 2. -/
def State.unfocus (s : State) : State :=
  if s.wave = Wave.idle then s else { s with wave := Wave.idle, waves := s.waves ++ [s.wave] }

/-- Make wave `id` the focus. Log entry 2. -/
def State.focus (s : State) (id : WaveId) : State :=
  let t := s.unfocus
  match t.waves.find? fun w => decide (w.id = id) with
  | some w => { t with wave := w, waves := delFirst (fun w => decide (w.id = id)) t.waves }
  | none => t

/-- The end of a wave becomes due (R166). -/
def State.dueEnd (s : State) (id : WaveId) : State := if s.pending.contains (.waveEnd id) then s else s.due [.waveEnd id]

/-- A trap has ended the wave's block (R362). -/
def State.blkDead (s : State) (id : WaveId) : Bool := match s.blk? id.blk with | some b => b.failed | none => false

/-- R362 step 1: the focus wave stops. -/
def State.haltFocus (s : State) : State := { s with wave := { s.wave with run := .halted, clause := none } }.dueEnd s.wave.id

/-- A word that waits at issue (R127, R207, R287, R316): it is not performed, and other waves issue before it is tried again; a wave whose
block has ended stops at the wait (R362). Log entry 12. -/
def State.stall (s : State) : State := if s.blkDead s.wave.id then s.haltFocus.unfocus else s.unfocus

/-! ## Interrupts (R382) -/

/-- Words of a vector of the MSI-X table: the message's address, its data [31:0] and the vector control [63:32]. Log entry 100. -/
def Fn.vector (f : Fn) (vec : Nat) : W64 × W64 := f.msix.get (0, 0x100000000#64) vec

/-- A masked vector sends nothing. PRESUMED (log entry 100). -/
def Fn.masked (f : Fn) (vec : Nat) : Bool := (f.vector vec).2.getLsbD 32

/-- A function's vector is raised: its message goes out; a masked one is pending. PRESUMED (log entry 100). -/
def State.raise (s : State) (fn vec : Nat) : State :=
  match s.fn? fn with
  | some f =>
    if f.masked vec then s.modFn fn fun f => { f with pba := if f.pba.contains vec then f.pba else f.pba ++ [vec] }
    else { s with outbox := s.outbox ++ [.msix fn vec] }
  | none => s

/-! ## Taking a trap -/

/-- Restartable trap codes (R361). -/
def trapRestart (code : Nat) : Bool := code == 0x04 || code == 0x05 || code == 0x06

/-- Codes whose records take the urgent lane (R361). Log entry 39. -/
def trapUrgent (code : Nat) : Bool := !(trapRestart code || code == 0x1B || code == 0x1C)

/-- A record of a wave (R360): who, where, and the details of R361. Log entry 38. -/
def Wave.record (w : Wave) (code sub : Nat) (pc : W64) (addr aux0 aux1 : W64) (lane : Nat) : TrapRec :=
  { code := code, urg := trapUrgent code, prec := true, rst := trapRestart code, sub := sub, lser := w.lser,
    iid := if w.id.blk.task then w.tserial else w.id.blk.idx, tk := w.id.blk.task, wv := w.id.wid, lane := lane, pc := pc,
    ord := w.ordinal % 2 ^ 32, pkg := w.core.pkg, die := w.core.die, core := w.core.core, addr := addr, aux0 := aux0,
    aux1 := aux1, aux2 := 0, cont := [], who := some w.id }

/-- A record that concerns no wave (R360): zero in w1, ORD and CORE. Log entry 38. -/
def ctxRecord (code sub : Nat) (addr aux0 aux1 : W64) (lser : Nat) : TrapRec :=
  { code := code, urg := true, prec := false, rst := false, sub := sub, lser := lser, iid := 0, tk := false, wv := 0, lane := 0,
    pc := 0, ord := 0, pkg := 0, die := 0, core := 0, addr := addr, aux0 := aux0, aux1 := aux1, aux2 := 0, cont := [],
    who := none }

/-- A record of a context that no wave and no die brings about names the first package and die of its partition. DESIGN CHOICE (log entry 58). -/
def State.fromFirst (s : State) (ctx : Nat) (r : TrapRec) : TrapRec :=
  match (s.ctx? ctx).bind fun c => c.dies.head? with
  | some d => { r with pkg := d.2.1, die := d.2.2 }
  | none => r

/-- R346: L2 bytes and operations of a block count toward the measurement of its entry. Log entry 64. -/
def State.addWork (s : State) (id : BlkId) (bytes ops : Nat) : State := s.modBlk id fun b => { b with l2b := b.l2b + bytes, fops := b.fops + ops }

/-- R362 step 1, R138: a wave stops. One in the middle of a clause stops at its boundary. -/
def Wave.halt (w : Wave) : Wave := if w.clause.isSome ∧ w.run = .run then w else { w with run := .halted }

/-- R364: with ALR set, the words a Lockring conflict stopped restart when an entry is released. -/
def State.autoRestarts (s : State) : List Instr :=
  (s.allWaves.filter fun w => w.run == .trapped 0x06 none && (match s.ctx? w.id.blk.ctx with | some c => c.trd.getLsbD 5 | none => false)
    && !s.pending.contains (.lockringAutoRestart w.id)).map fun w => .lockringAutoRestart w.id

/-- The blocks a fatal trap ends: the task alone, the block, or its whole cluster (R362). -/
def Blk.fate (b : Blk) : List BlkId := if b.id.task ∨ b.cluster.isEmpty then [b.id] else b.cluster

/-- R362 step 2: a command not at DONE is cancelled (R321). Log entry 50. -/
def Cmd.cancel (c : Cmd) : Cmd := if c.done then c else { c with srcd := true, done := true, status := 4, failed := true }

/-- R362 steps 1 to 4 for the blocks a trap ends; the wave itself is halted at once, and what its failed launch drops is dropped by the
distributor's next append for it. -/
def State.fatal (s : State) (id : WaveId) : State :=
  match s.blk? id.blk with
  | none => (s.modWave id fun w => { w with run := .halted, clause := none }).dueEnd id
  | some b =>
    let ids := b.fate
    let dies := fun (x : BlkId) => ids.contains x
    let s := s.modWave id fun w => { w with run := .halted, clause := none }
    let h := fun (w : Wave) => if dies w.id.blk then w.halt else w
    let s := { s with wave := h s.wave, waves := s.waves.map h }
    let kill := fun (x : Blk) => if dies x.id then { x with failed := true, cmds := x.cmds.map Cmd.cancel, tiles := [] } else x
    let own := fun (o : Nat) => match s.op? o with | some y => dies y.wave.blk | none => true
    let keep := fun (k : Lock) => match k.by_ with | .cmd x _ => !dies x | .op o => !own o
    let unlock := fun (c : Core) => { c with locks := c.locks.filter keep }
    let free := s.cores.any fun c => c.locks.any fun k => !keep k
    let s := { s with blks := s.blks.map kill, cores := s.cores.map unlock }
    let s := if free then s.due s.autoRestarts else s
    let ends := (s.allWaves.filter fun (w : Wave) => dies w.id.blk && w.run == .halted).map fun (w : Wave) => w.id
    let s := ends.foldl State.dueEnd s
    if b.id.task then s
    else (s.due [.chunkAppend b.id.ctx b.id.launch b.core.pkg []]).modCtx b.id.ctx fun c => { c with launches := updFirst (fun l => l.id == b.id.launch) (fun l => { l with bad := true }) c.launches }

/-- Taking a trap of a wave (R359): a fatal trap ends its block under R362, a restartable one leaves the word unperformed and the
wave trapped (R363); the record goes to the context's ring (R366). With ALR = 1 a Lockring conflict writes none (R364). -/
def State.takeTrap (s : State) (id : WaveId) (r : TrapRec) : State :=
  let ctx := id.blk.ctx
  if r.rst then
    let s := s.modWave id fun w => { w with run := .trapped r.code none }
    let alr := match s.ctx? ctx with | some c => c.trd.getLsbD 5 | none => false
    if r.code == 0x06 && alr then s else s.due [.trapRecordPost ctx r]
  else (s.fatal id).due [.trapRecordPost ctx r]

/-- A trap of the focus wave at the word it is at. -/
def State.trapHere (s : State) (code sub : Nat) (addr aux0 aux1 : W64) (lane : Nat) : State :=
  s.takeTrap s.wave.id (s.wave.record code sub s.wave.curPc addr aux0 aux1 lane)

/-- Returning from a trap (R365): the wave issues the faulting word again, with the state it kept. -/
def State.resume (s : State) (id : WaveId) : State := s.modWave id fun w => { w with run := .run }

/-- R139: a wave whose wait ends context-dead, or that meets a revoked range, exits; no record is written. -/
def State.ctxDead (s : State) (id : WaveId) : State :=
  (s.modWave id fun w => { w with run := .halted, clause := none, exited := 0xFFFFFFFF#32 }).dueEnd id

end Sys2Proof.Machine
end

