-- ==== Sys2Proof/Machine/Translate.lean ====
section
/-! DEFINITION. Range registers, translation at the issuing core, address spaces and the home hash
(spec/02_address_spaces.md R29 to R48, R52). -/

namespace Sys2Proof.Machine

/-! ## Range registers (R32 to R38) -/

def Range.baseVa (r : Range) : Nat := (r.base.extractLsb' 16 41).toNat * 2 ^ 16
def Range.limVa (r : Range) : Nat := (r.lim.extractLsb' 16 41).toNat * 2 ^ 16
def Range.iaBase (r : Range) : Nat := (r.ia.extractLsb' 16 40).toNat * 2 ^ 16
def Range.valid (r : Range) : Bool := r.attr.getLsbD 0
def Range.rd (r : Range) : Bool := r.attr.getLsbD 1
def Range.wrOk (r : Range) : Bool := r.attr.getLsbD 2
def Range.ex (r : Range) : Bool := r.attr.getLsbD 3
def Range.at_ (r : Range) : Bool := r.attr.getLsbD 4
def Range.pgsz (r : Range) : Nat := (r.attr.extractLsb' 5 2).toNat
def Range.mt (r : Range) : Nat := (r.attr.extractLsb' 7 2).toNat
def Range.ares (r : Range) : Bool := r.attr.getLsbD 9
def Range.stk (r : Range) : Bool := r.attr.getLsbD 10
def Range.pcls (r : Range) : Nat := (r.attr.extractLsb' 12 2).toNat
def Range.hdie (r : Range) : Nat := (r.attr.extractLsb' 14 2).toNat
def Range.hstk (r : Range) : Nat := (r.attr.extractLsb' 16 4).toNat
def Range.hpkg (r : Range) : Nat := (r.attr.extractLsb' 20 8).toNat

/-- The page size of a size class (R31). -/
def classSize (q : Nat) : Nat := 2 ^ (match q with | 0 => 16 | 1 => 21 | 2 => 25 | _ => 29)

/-- R36: the placement names a package, die or stack outside the partition when PCLS uses it. -/
def Range.placeBad (r : Range) (dies : List (Nat × Nat × Nat)) : Bool :=
  match r.pcls with
  | 0 => false
  | 1 => !(dies.any fun d => d.1 == r.hpkg)
  | 2 => !(dies.any fun d => d.1 == r.hpkg && d.2.2 == r.hdie)
  | _ => !(dies.any fun d => d.1 == r.hpkg && d.2.2 == r.hstk / 4)

/-- The window block of R30, as 57-bit VAs. -/
def windowLo : Nat := 2 ^ 56
def windowHi : Nat := windowLo + 2 ^ 49

/-- R36: the whole check of a write that sets V; true where the write is rejected. -/
def Range.rejected (r : Range) (dies : List (Nat × Nat × Nat)) : Bool :=
  let ps := classSize r.pgsz
  decide (r.baseVa ≥ r.limVa)
  || r.baseVa % ps != 0 || r.limVa % ps != 0 || r.iaBase % ps != 0
  || r.iaBase / 2 ^ 54 != r.pgsz
  || decide (r.iaBase % 2 ^ 54 + (r.limVa - r.baseVa) > 2 ^ 54)
  || (decide (r.baseVa < windowHi) && decide (windowLo < r.limVa))
  || r.mt == 3
  || (r.at_ && !(r.rd && r.wrOk))
  || r.placeBad dies
  || r.wr != 7#3

/-- The bits of RNGATTR that hold fields (R35); the others are RsvdZ, and REJ is read-only. -/
def attrMask : W64 := 0x000000000FFFF7FF#64
def rejBit : W64 := 0x8000000000000000#64

/-- R36, R6: a write of RNGATTR. -/
def Range.writeAttr (r : Range) (dies : List (Nat × Nat × Nat)) (v : W64) : Range :=
  let n := v &&& attrMask
  if r.valid && n.getLsbD 0 then
    -- V stays 1: a change of another field is ignored and rejected
    (if n = (r.attr &&& attrMask) then { r with attr := n } else { r with attr := r.attr ||| rejBit })
  else if n.getLsbD 0 then
    (if { r with attr := n }.rejected dies then { r with attr := (n &&& ~~~1#64) ||| rejBit } else { r with attr := n })
  else if n.extractLsb' 7 2 = 3#2 then
    { r with attr := (n &&& ~~~0x180#64) ||| (r.attr &&& 0x180#64) ||| rejBit }
  else { r with attr := n }

/-- R36: a write of RNGBASE (which 0), RNGLIM (1) or RNGIA (2): ignored with REJ while the range is valid. -/
def Range.writeBound (r : Range) (which : Nat) (v : W64) : Range :=
  if r.valid then { r with attr := r.attr ||| rejBit }
  else
    let attr := r.attr &&& ~~~rejBit
    match which with
    | 0 => { r with base := v &&& 0x01FFFFFFFFFF0000#64, attr := attr, wr := r.wr ||| 1#3 }
    | 1 => { r with lim := v &&& 0x01FFFFFFFFFF0000#64, attr := attr, wr := r.wr ||| 2#3 }
    | _ => { r with ia := v &&& 0x00FFFFFFFFFF0000#64, attr := attr, wr := r.wr ||| 4#3 }

/-! ## Translation (R29, R39, R52) -/

/-- The kinds of access R39 checks. -/
inductive Kind where
  | load | store | atomic | fetch | cst | stk
  deriving DecidableEq, Repr

/-- The failed check, in the FCODE numbering of R313: 1 non-canonical, 2 no range, 3 permission, 4 lease, 5 scratch bound,
6 cluster address, 7 window. -/
abbrev FCode := Nat

def canonical (va : W64) : Bool := va.extractLsb' 57 7 == (if va.getLsbD 56 then 0x7F#7 else 0#7)

def Range.permits (r : Range) (k : Kind) : Bool :=
  match k with
  | .load | .cst => r.rd
  | .store => r.wrOk
  | .atomic => r.at_
  | .fetch => r.ex
  | .stk => r.stk

/-- R52: the ACC codes a kind needs. -/
def accOk (k : Kind) (acc : Nat) : Bool :=
  match k with
  | .load | .cst => acc == 1 || acc == 3
  | .store => acc == 2 || acc == 3
  | .atomic => acc == 3
  | _ => true

/-- R52: every byte from v on lies in a declared interval that permits the kind; `n` bounds the intervals crossed. -/
def leased (ivs : List Interval) (k : Kind) (n v size : Nat) : Bool :=
  if size = 0 then true else
  match n with
  | 0 => false
  | m + 1 =>
    match ivs.find? fun i => accOk k i.acc && decide (i.base ≤ v) && decide (v < i.base + i.len) with
    | some i => let k' := min size (i.base + i.len - v); leased ivs k m (v + k') (size - k')
    | none => false

/-- Where a VA translates to: IA and the range that translated it. -/
structure Xl where
  ia  : Nat
  rng : Range
  deriving DecidableEq, Repr

/-- The lowest-numbered valid range that holds a VA (R38). -/
def findRange (rs : List Range) (v : Nat) : Option Range := rs.find? fun r => r.valid && decide (r.baseVa ≤ v) && decide (v < r.limVa)

/-- The VA form of a 57-bit address (R29). -/
def vaOf (a : Nat) : W64 := (BitVec.ofNat 57 a).signExtend 64

/-- The VA that a range translates to an IA. -/
def Range.vaAt (r : Range) (ia : Nat) : W64 := vaOf (r.baseVa + (ia + 2 ^ 56 - r.iaBase) % 2 ^ 56)

/-- R39, made on every byte: the lowest-numbered valid range that holds any of `size` bytes from v on, where it holds them all; an
access that spans two range registers has none. -/
def spanRange (rs : List Range) (v size : Nat) : Option Range :=
  match rs.find? fun r => r.valid && decide (r.baseVa < v + size) && decide (v < r.limVa) with
  | some r => if r.baseVa ≤ v ∧ v + size ≤ r.limVa then some r else none
  | none => none

/-- R39: xlate for `size` bytes at va, with the lease check against the intervals given. -/
def xlate (rs : List Range) (ivs : List Interval) (va : W64) (size : Nat) (k : Kind) : Except FCode Xl :=
  if !canonical va then .error 1
  else
    let v := (va.extractLsb' 0 57).toNat
    match spanRange rs v size with
    | none => .error 2
    | some r =>
      if !r.permits k then .error 3
      else
        let ia := (r.iaBase + (v - r.baseVa)) % 2 ^ 56
        if !r.ares && k != .fetch && k != .stk && !leased ivs k (ivs.length + 1) v size then .error 4
        else .ok ⟨ia, r⟩

/-! ## Homes (R46 to R48) -/

/-- The home slot list: logical package, physical package, stack, in slot order (R47). -/
def Ctx.slots (c : Ctx) : List (Nat × HomeId) :=
  c.dies.flatMap fun d => (List.range 4).map fun k => (d.1, ⟨d.2.1, 4 * d.2.2 + k⟩)

/-- The physical package of a logical index (R47); the index itself where the partition has none. -/
def Ctx.phys (c : Ctx) (l : Nat) : Nat := match c.dies.find? fun d => d.1 == l with | some d => d.2.1 | none => l

/-- The logical index of a physical package. -/
def Ctx.logical (c : Ctx) (p : Nat) : Nat := match c.dies.find? fun d => d.2.1 == p with | some d => d.1 | none => 0

/-- h of R48. -/
def homeHash (hsalt : W64) (ia : Nat) : Nat :=
  let q := ia / 2 ^ 54 % 4
  let P := ia % 2 ^ 54 / 2 ^ pageShift ia
  let x := (q * 2 ^ 38 + P) ^^^ (hsalt.toNat % 2 ^ 40)
  (x % 2 ^ 16) ^^^ (x / 2 ^ 16 % 2 ^ 16) ^^^ (x / 2 ^ 32)

/-- HSALT in a package: zero in one that is not joined to a rack (R46). -/
def State.hsalt (s : State) (p : Nat) : W64 := match s.pkg? p with | some k => if k.joined then s.rack.hsalt else 0 | none => 0

/-- HSALT in the packages of a context's partition. -/
def State.saltOf (s : State) (c : Ctx) : W64 := match c.dies with | d :: _ => s.hsalt d.2.1 | [] => 0

/-- R48: the home of an IA under a range's placement. -/
def homeOf (c : Ctx) (hsalt : W64) (r : Range) (ia : Nat) : HomeId :=
  let h := homeHash hsalt ia
  let pick := fun (l : List (Nat × HomeId)) => ((l[h % l.length]?).map (·.2)).getD ⟨0, 0⟩
  match r.pcls with
  | 0 => pick c.slots
  | 1 => pick (c.slots.filter fun x => x.1 == r.hpkg)
  | 2 => ⟨c.phys r.hpkg, 4 * r.hdie + h % 4⟩
  | _ => ⟨c.phys r.hpkg, r.hstk⟩

/-- The ranges of a context as a core sees them: none after revocation there (R138). -/
def Ctx.rangesAt (c : Ctx) (core : CoreId) : List Range := if c.revoked.contains core then [] else c.ranges

/-! ## Spaces (R40 to R44) -/

/-- Where a lane's access goes. -/
inductive Place where
  | mem (x : Xl) (va : W64)                -- global, with its VA
  | stk (xs : List (Nat × Xl))             -- per-byte pieces of a lane-interleaved stack: (position, translation)
  | scr (off : Nat)                        -- own scratchpad
  | cls (blk : BlkId) (off : Nat)          -- a peer's scratchpad
  deriving DecidableEq, Repr

/-- R44: the space a generic pointer resolves to, with the address it uses. -/
def resolveGen (p : W64) : Except FCode (Space × W64) :=
  if p.extractLsb' 49 15 != 0x7F80#15 then .ok (.glb, p)
  else if p.extractLsb' 48 16 == 0xFF01#16 then .ok (.stk, (p.extractLsb' 0 48).setWidth 64)
  else if p.extractLsb' 20 44 == 0xFF000000000#44 then .ok (.scr, (p.extractLsb' 0 20).setWidth 64)
  else if p.extractLsb' 23 41 == (0xFF00000100000000#64).extractLsb' 23 41 then .ok (.cls, (p.extractLsb' 0 23).setWidth 64)
  else .error 7

/-- R43: the VA of byte b of lane l's stack. -/
def stkVa (b l : Nat) : W64 := BitVec.ofNat 64 (32 * (b - b % 4) + 4 * l + b % 4)

/-- R43: the groups of a stack access that stay together: (position, size), split where b crosses a multiple of 4. -/
def stkGroups (a size : Nat) : List (Nat × Nat) :=
  (List.range ((a + size + 3) / 4 - a / 4)).map fun i =>
    let lo := max a (4 * (a / 4 + i))
    let hi := min (a + size) (4 * (a / 4 + i) + 4)
    (lo - a, hi - lo)

end Sys2Proof.Machine
end

