-- ==== Sys2Proof/Machine/Issue.lean ====
section
/-! DEFINITION. Issuing clauses: groups and meeting sets, instruction fetch, the entry check, and the end of a clause
(spec/07_execution.md R158 to R167, spec/09_encoding.md R203 to R208, R224 to R226, spec/11_isa_memory.md R277). -/

namespace Sys2Proof.Machine

/-! ## Meeting sets and groups -/

/-- R159: the threads whose meeting set is complete: each is held, and so is every thread with the same MR. -/
def Wave.complete (w : Wave) (l : Nat) : Bool :=
  w.held l && !w.freed.getLsbD l && w.getMr l != mrNone
  && w.live_.all fun k => w.getMr k != w.getMr l || w.held k

/-- R160: a released thread pops its meeting stack into MR. Log entry 23. -/
def Wave.release (w : Wave) (l : Nat) : Wave :=
  match w.getStack l with
  | [] => { w.setMr l mrNone with freed := w.freed ||| BitVec.ofNat 32 (2 ^ l), heldC := w.heldC.set 0 l 0 }
  | m :: r => { (w.setMr l m).setStack l r with freed := w.freed ||| BitVec.ofNat 32 (2 ^ l), heldC := w.heldC.set 0 l 0 }

/-- R161: release, evaluated at a clause boundary. Log entry 23. -/
def Wave.releaseAll (w : Wave) : Wave := (w.live_.filter w.complete).foldl Wave.release w

/-- The threads that may issue: not exited, and not held unless just released (R159, R160). -/
def Wave.ready (w : Wave) : List Nat := w.live_.filter fun l => !w.held l || w.freed.getLsbD l

/-- The distinct PCs of the threads that may issue: one group each (R162). -/
def Wave.groups (w : Wave) : List W64 := (w.ready.map w.getPc).dedup

def Wave.members (w : Wave) (pc : W64) : List Nat := w.ready.filter fun l => w.getPc l == pc

def minOf (l : List Nat) : Nat := match l with | [] => 0 | a :: r => r.foldl min a

/-- A group's stamp is the smallest of its members' (R162). -/
def Wave.groupStamp (w : Wave) (pc : W64) : Nat := minOf ((w.members pc).map fun l => w.stamp.get 0 l)

/-- The best of the groups: smallest stamp, then lowest PC (R162). -/
def Wave.bestGroup (w : Wave) (ps : List W64) : Option W64 :=
  ps.foldl (fun b p => match b with
    | none => some p
    | some q =>
      let sp := w.groupStamp p
      let sq := w.groupStamp q
      if sp < sq ∨ (sp = sq ∧ p.toNat < q.toNat) then some p else some q) none

/-! ## Instruction fetch (R225) -/

/-- The ranges that translate for a wave. -/
def State.rangesOf (s : State) (w : Wave) : List Range :=
  match s.ctx? w.id.blk.ctx with | some c => c.rangesAt w.core | none => []

/-- A code word's place in the history of overwritten words: the function, the home, the IA. -/
def codeKey (fn : Nat) (h : HomeId) (ia : Nat) : Nat := ((fn * 256 + h.pkg) * 16 + h.stack) * 2 ^ 56 + ia / 8 * 8

/-- R225: where an instruction fetch of 8 bytes finds its word: the check of R39 with kind fetch, then the home. -/
inductive Fetched where
  | word (w : W64) (key : Nat)
  | check (f : FCode)          -- failed R39
  | home (f : Nat) (ia : Nat)  -- 8 home mismatch, 9 resident page absent, 10 integrity
  deriving DecidableEq, Repr

def State.fetchAt (s : State) (w : Wave) (va : W64) : Fetched :=
  match xlate (s.rangesOf w) [] va 8 .fetch with
  | .error f => .check f
  | .ok x =>
    match s.ctx? w.id.blk.ctx with
    | none => .check 2
    | some c =>
      match s.entry? (homeOf c (s.saltOf c) x.rng x.ia) x.ia with
      | none => .home 8 x.ia
      | some e =>
        if !e.serves c.id then .home 8 x.ia
        else if e.loc = 0 then .home 9 x.ia
        else if s.poison.contains (e.key x.ia / 64) then .home 10 x.ia
        else .word (BitVec.ofNat 64 (leVal (s.memRead (e.key x.ia) 8))) (codeKey (fnOf e.owner) e.home x.ia)

/-- The words a fetch may return: the current one, and those overwritten since the core's last block start or invalidate. Log entry 26. -/
def State.codeWords (s : State) (core : CoreId) (cur : W64) (key : Nat) : List W64 :=
  let since := match s.core? core with | some c => c.iseq | none => 0
  cur :: (s.hist.filter fun h => h.1 == key && decide (since ≤ h.2.1)).map fun h => h.2.2

/-- One fetched word, with the free choice among old and new. Log entry 26. -/
def State.fetchWord (s : State) (w : Wave) (va : W64) : Fetched × State :=
  match s.fetchAt w va with
  | .word cur key =>
    (match s.codeWords w.core cur key with
     | [x] => (.word x key, s)
     | xs => let (i, t) := s.choose xs.length; (.word (xs.getD i cur) key, t))
  | f => (f, s)

/-- The words of a clause from va on, or the first that fails. -/
def State.fetchWords (s : State) (w : Wave) (va : W64) (n : Nat) : Except Fetched (List W64) × State :=
  match n with
  | 0 => (.ok [], s)
  | k + 1 =>
    match s.fetchWord w va with
    | (.word x _, t) =>
      (match t.fetchWords w (va + 8) k with
       | (.ok xs, t) => (.ok (x :: xs), t)
       | (.error e, t) => (.error e, t))
    | (f, t) => (.error f, t)

/-- R224: whether a VA holds no clause header, as far as a fetch can tell: misaligned, or fetched and not a header. Log entry 26. -/
def State.notHeader (s : State) (w : Wave) (va : W64) : Bool × State :=
  if va.extractLsb' 0 3 != 0#3 then (true, s)
  else match s.fetchWord w va with
    | (.word x _, t) => (!isHeader x, t)
    | (_, t) => (false, t)

/-- The first of some lanes whose target holds no clause header. Log entry 26. -/
def State.badTarget (s : State) (w : Wave) (ls : List Nat) (tgt : Nat → W64) : Option Nat × State :=
  match ls with
  | [] => (none, s)
  | l :: r => let (b, t) := s.notHeader w (tgt l); if b then (some l, t) else t.badTarget w r tgt

/-- The record and trap of a failed instruction fetch, reported against the header (R224, R225). Log entries 25, 38. -/
def State.fetchTrap (s : State) (w : Wave) (hva : W64) (lanes : List Nat) (f : Fetched) : State :=
  let m := maskLanes lanes
  match f with
  | .check c => s.takeTrap w.id (w.record 0x07 c hva hva m 0 (lanes.headD 0))
  | .home 10 ia => s.takeTrap w.id (w.record 0x09 0 hva (BitVec.ofNat 64 (ia / 64 * 64)) 0 0 (lanes.headD 0))
  | .home c ia => s.takeTrap w.id (w.record 0x08 c hva (BitVec.ofNat 64 (ia / 64 * 64)) 0 0 (lanes.headD 0))
  | .word _ _ => s
where
  maskLanes (ls : List Nat) : W64 := BitVec.ofNat 64 (ls.foldl (fun a l => a + 2 ^ l) 0)

/-! ## Choosing a wave (R162, R167, R208) -/

/-- A header word whose wait mask is satisfied; a word that is no header issues, to take its fault. -/
def Wave.headOk (w : Wave) (x : W64) : Bool := !isHeader x || w.waitOk (fld x 43 12)

/-- A group's next clause has its wait mask satisfied, in some word its fetch may return. -/
def State.groupReady (s : State) (w : Wave) (pc : W64) : Bool :=
  match s.fetchAt w pc with
  | .word x k => (s.codeWords w.core x k).any w.headOk
  | _ => true

/-- The group a wave would issue (R162). -/
def State.nextGroup (s : State) (w : Wave) : Option W64 := w.bestGroup (w.groups.filter (s.groupReady w))

/-- R167: a wave that can issue a clause. -/
def State.eligible (s : State) (w : Wave) : Bool :=
  w.run == .run && w.clause.isNone && (s.nextGroup w).isSome
  && (match s.blk? w.id.blk with | some b => b.state == .running && !b.failed | none => false)

/-! ## The end of a word and of a clause -/

/-- The boundary after a clause: it is closed, release is evaluated, and a wave whose block has ended stops, whatever it waits for (R161,
R362), as does one whose block takes a full save (R358). -/
def State.boundary (s : State) (w : Wave) : State :=
  let full := match s.blk? w.id.blk with | some b => b.save && b.full | none => false
  let w := { w with clause := none }.releaseAll
  if s.blkDead w.id then ({ s with wave := { w with run := .halted } }).dueEnd w.id
  else { s with wave := if full && w.run == .run then { w with run := .stopped } else w }

/-- The fall-through entry fault at va, reported against the last word of the clause before it; not precise (R224, R226). Log entry 25. -/
def State.fellTrap (s : State) (w : Wave) (va : W64) (lane ord : Nat) : State :=
  let r := ({ w with ordinal := ord }).record 0x04 0 (va - 8) va 0 0 lane
  s.takeTrap w.id { r with prec := false }

/-- The end of a clause (R224, R265): its last word has been performed, the lanes `fall` continue at E and `f` has moved the others.
Release is evaluated; where E is no header, the entry fault is raised against the last word: at once, or, where the word has stopped the
wave or a later fetch finds no header there, when the wave goes on. Log entries 12, 25. -/
def State.leave (s : State) (c : Clause) (f : Wave → Wave) (fall : List Nat) : State :=
  let w := s.wave
  let live := fall.filter fun l => !w.exited.getLsbD l
  let w1 := live.foldl (fun w l => w.setPc l c.next) (f { w with ordinal := w.ordinal + 1, waitC := 0 })
  let t := s.boundary w1
  if live.isEmpty then t
  else
    let mark := fun (x : Wave) => { x with fell := (x.fell.filter fun p => p.1 != c.next) ++ [(c.next, w.ordinal)] }
    let t := { t with wave := mark t.wave }
    let (bad, t) := if t.wave.run == .run then t.notHeader w c.next else (false, t)
    if bad then t.fellTrap w c.next (live.headD 0) w.ordinal else t

/-- A word has been performed: the ordinal advances (R145), and the clause goes on to its next word or ends; a wave whose block has ended
and that waits after the word stops (R362). Log entry 25. -/
def State.retire (s : State) : State :=
  match s.wave.clause with
  | none => s
  | some c =>
    if c.k + 1 ≤ c.hdr.cnt then
      let t := { s with wave := { s.wave with ordinal := s.wave.ordinal + 1, clause := some { c with k := c.k + 1 }, waitC := 0 } }
      if s.blkDead s.wave.id && s.wave.run != .run then t.haltFocus else t
    else s.leave c id (lanesOf c.lanes)

/-- The bytes an event asks of the L2 of its core's die. Log entry 64. -/
def l2Bytes (e : Instr) : Nat := match e with | .l2Request r => r.size | _ => 0

/-- R346: what the word at the focus wave has asked of the L2, its requests held back for older stores among them, and its FP32 FMAs, one a
participating lane. Log entry 64. -/
def State.tally (s t : State) : State :=
  let evs := t.pending.drop s.pending.length ++ (t.deferred.drop s.deferred.length).flatMap fun d => d.evs
  let fma := match s.wave.clause with
    | some c => (match decode (c.words.getD c.k 0) with | .ok (.ffma w) => (s.wave.part w.g).length | _ => 0)
    | none => 0
  let bytes := (evs.map l2Bytes).sum
  if bytes + fma = 0 then t else t.addWork s.wave.id.blk bytes fma

/-- What follows a word's meaning: where the wave still stands at the word, it has been performed. A word that waits at issue has
given up the focus; a trap leaves the wave at the word; a control transfer has closed its clause. Log entries 8, 12. -/
def State.after (s t : State) : State :=
  if t.wave.id = s.wave.id ∧ t.wave.clause = s.wave.clause ∧ t.wave.clause.isSome ∧ trapFree t.wave.run then (s.tally t).retire else t
where
  trapFree (r : Run) : Bool := match r with | .trapped _ _ => false | .halted => false | _ => true

/-! ## Waiting at issue (R207, R277) -/

/-- R206, R297: the flag select of a flag-setting word; none for the others. -/
def flagSel (i : Instr) : Option Bool :=
  match i with
  | .ld w | .ldq w | .lda w | .ldc w | .atom w | .cas w | .atomf w | .await w => some w.fs
  | .shape w | .shapeRel w | .mzero w | .mloop w | .mepi w | .mepiCol w | .mlda w | .msta w | .mcb w | .xwait w | .spawn w
  | .cwait w | .tagwait w | .colsend w => some w.fs
  | _ => none

/-- The flag a flag-setting word counts on in the open clause (R206). -/
def Wave.flagOf (w : Wave) (i : Instr) : Option Nat :=
  match flagSel i, w.clause with
  | some fs, some c => some (if fs then c.hdr.setb else c.hdr.seta)
  | _, _ => none

/-- R277: a class-01 word, or a class-10 word with opcode 0x10 to 0x2E. Log entry 30. -/
def acqStalls (i : Instr) : Bool :=
  (mwOf i).isSome || (match awOf i with | some (opc, _) => decide (0x10 ≤ opc.toNat) && decide (opc.toNat ≤ 0x2E) | none => false)

/-- The operations of a wave in flight. -/
def State.opsOf (s : State) (id : WaveId) : List Op := s.ops.filter fun o => decide (o.wave = id)

/-- An AWAIT, CWAIT, TAGWAIT or XWAIT that has not completed. -/
def Op.waiting (o : Op) : Bool := o.left != 0 && (match o.ins with | .await _ | .cwait _ | .tagwait _ | .xwait _ => true | _ => false)

/-- The word a wave stands at waits under R277 for such an operation of the wave. Log entry 33. -/
def State.heldOnWait (s : State) (w : Wave) : Bool :=
  (s.opsOf w.id).any Op.waiting
  && (match w.clause with | some c => (match decode (c.words.getD c.k 0) with | .ok i => acqStalls i | _ => false) | none => false)

/-- R207, R277: the word waits at issue. Log entry 12. -/
def State.issueHeld (s : State) (i : Instr) : Bool :=
  (match s.wave.flagOf i with | some f => decide (s.wave.flag f ≥ 63) | none => false)
  || (acqStalls i && (s.opsOf s.wave.id).any fun o => o.acq)

/-! ## Waiting for landing (R121 to R124) -/

/-- An operation that an EXIT, arrival, FENCE or save of its wave waits for: a store that has not landed, or an access to memory
that can still fault or has not returned. -/
def Op.awaited (o : Op) : Bool := o.store || ((mwOf o.ins).isSome && (o.left != 0 || o.fault.isSome))

/-- R92: no buffer of the core holds a store, and every drain has been acknowledged. Log entries 13, 28. -/
def State.wcQuiet (s : State) (c : CoreId) : Bool :=
  (match s.core? c with | some x => x.wc.isEmpty | none => true)
  && !s.ops.any fun o => o.store && o.pol == .wc && (match s.wave? o.wave with | some w => decide (w.core = c) | none => false)

/-- Every store of the wave has landed, every access has returned, and the core's write-combining buffers have drained (R92, R123). Log entry 13. -/
def State.settled (s : State) (w : Wave) : Bool := !((s.opsOf w.id).any Op.awaited) && s.wcQuiet w.core

/-- The drains of a core's write-combining buffers (R92). -/
def State.drainsOf (s : State) (c : CoreId) : List Instr :=
  match s.core? c with
  | none => []
  | some x => (x.wc.map fun b => Instr.wcBufferDrain c b.ia).filter fun e => !s.pending.contains e

/-- A word that waits for landing, or for an engine: the drains it needs become due, its wait counter runs for a free number of
cycles (R367), and other waves issue meanwhile. -/
def State.await_ (s : State) : State :=
  let (n, t) := s.choose (2 ^ 16)
  let w := { s.wave with waitC := s.wave.waitC + n + 1 }
  let evs := s.drainsOf s.wave.core
  ({ t with wave := w, pending := t.pending ++ evs }).stall

/-- R166: a wave with no live thread whose flags all read zero ends. Log entry 24. -/
def State.checkEnd (s : State) (id : WaveId) : State :=
  match s.wave? id with
  | some w =>
    if w.run == .exiting && (List.range 12).all (fun f => w.flag f == 0) && !s.pending.contains (.waveEnd id)
    then s.due [.waveEnd id] else s
  | none => s

end Sys2Proof.Machine
end

