-- ==== Sys2Proof/Machine/Log.lean ====
section
/-! DEFINITION. The order log: order points, records, recording, admission in replay, divergence (spec/06_order_log.md R141 to
R157). -/

namespace Sys2Proof.Machine

/-- R141: an order point's identifier. -/
def optId (kind lpkg die unit : Nat) : Nat := kind * 2 ^ 28 + lpkg * 2 ^ 20 + die * 2 ^ 18 + unit * 2 ^ 12

/-- R143: the four words of a record. -/
def LogEv.words (e : LogEv) (seq : Nat) (pay : W64) : List W64 :=
  [BitVec.ofNat 64 (e.typ + e.ph.toNat * 2 ^ 5 + e.lser % 2 ^ 16 * 2 ^ 8 + seq % 2 ^ 40 * 2 ^ 24),
   BitVec.ofNat 64 (e.opt + e.ord % 2 ^ 32 * 2 ^ 32),
   BitVec.ofNat 64 (e.wv % 32 + e.lane % 32 * 2 ^ 5 + e.tk.toNat * 2 ^ 10 + e.iid % 2 ^ 53 * 2 ^ 11), pay]

/-! Fields of a record's words. -/
def recW (r : List W64) (i : Nat) : W64 := r.getD i 0
def recTyp (r : List W64) : Nat := ((recW r 0).extractLsb' 0 5).toNat
def recLser (r : List W64) : Nat := ((recW r 0).extractLsb' 8 16).toNat
def recSeq (r : List W64) : Nat := ((recW r 0).extractLsb' 24 40).toNat
def recOpt (r : List W64) : Nat := ((recW r 1).extractLsb' 0 32).toNat
def recOrd (r : List W64) : Nat := ((recW r 1).extractLsb' 32 32).toNat
def recWv (r : List W64) : Nat := ((recW r 2).extractLsb' 0 5).toNat
def recLane (r : List W64) : Nat := ((recW r 2).extractLsb' 5 5).toNat
def recTk (r : List W64) : Bool := (recW r 2).getLsbD 10
def recIid (r : List W64) : Nat := ((recW r 2).extractLsb' 11 53).toNat
def recPay (r : List W64) : W64 := recW r 3

/-- R152: the types that name a wave. -/
def namesWave (t : Nat) : Bool := t ∈ [0x01, 0x03, 0x04, 0x05, 0x06, 0x07, 0x1D]

/-- R152: the records a reader passes over. -/
def passedOver (t : Nat) : Bool := t ∈ [0x0B, 0x1E, 0x1F]

/-- R144: a record's key is the event's. -/
def LogEv.keyEq (e : LogEv) (r : List W64) : Bool :=
  recTyp r == e.typ &&
  (if namesWave e.typ then
    recLser r == e.lser % 2 ^ 16 && recTk r == e.tk && recIid r == e.iid % 2 ^ 53 && recWv r == e.wv % 32 && recLane r == e.lane % 32
      && recOrd r == e.ord % 2 ^ 32
  else match e.typ with
    | 0x02 => recIid r == e.iid % 2 ^ 53 && recPay r == e.pay
    | 0x08 => recIid r == e.iid % 2 ^ 53 && recTk r == e.tk
    | 0x09 => recIid r == e.iid % 2 ^ 53 && recTk r == e.tk && recPay r == e.pay
    | 0x0A => recPay r == e.pay
    | _ => true)

/-- R144: the part of the payload that replay compares. -/
def payMask (t : Nat) : W64 :=
  match t with
  | 0x01 | 0x03 | 0x06 | 0x07 | 0x1D => 0xFFFFFFFFFFFFFFFF#64
  | 0x04 => 0xFF#64
  | 0x05 => 0x3FFFFFFFFF#64
  | _ => 0

/-- The event and the record name the same wave, lane ignored. -/
def LogEv.sameWave (e : LogEv) (r : List W64) : Bool :=
  namesWave e.typ && namesWave (recTyp r) && recLser r == e.lser % 2 ^ 16 && recTk r == e.tk && recIid r == e.iid % 2 ^ 53
    && recWv r == e.wv % 32

/-! ## State of the log -/

/-- DIV or ABAN of LOGST: enforcement is off (R147). -/
def Ctx.logOff (c : Ctx) : Bool := c.logst.getLsbD 4 || c.logst.getLsbD 5

def Ctx.ring? (c : Ctx) (lpkg : Nat) : Option LogRing := c.rings.find? fun r => r.lpkg == lpkg
def Ctx.modRing (c : Ctx) (lpkg : Nat) (f : LogRing → LogRing) : Ctx := { c with rings := updFirst (fun r => r.lpkg == lpkg) f c.rings }
/-- The free space of a ring; a slot claimed at an admission is not free (R142, R150). -/
def LogRing.room (r : LogRing) : Nat := 2 ^ r.lrsz - (r.pi + r.claimed.length - r.ci)

def seqKey (ctx opt : Nat) : Nat := ctx * 2 ^ 32 + opt
def State.nextSeq (s : State) (ctx opt : Nat) : Nat := s.seqs.get 0 (seqKey ctx opt)
def State.bumpSeq (s : State) (ctx opt : Nat) : State :=
  { s with seqs := s.seqs.set 0 (seqKey ctx opt) ((s.nextSeq ctx opt + 1) % 2 ^ 40) }

/-- The launch of a block or task. -/
def Ctx.launch? (c : Ctx) (id : Nat) : Option Launch := c.launches.find? fun l => l.id == id
def Ctx.modLaunch (c : Ctx) (id : Nat) (f : Launch → Launch) : Ctx := { c with launches := updFirst (fun l => l.id == id) f c.launches }

/-- The launch serial of a block or task (R143). -/
def State.lserOf (s : State) (b : BlkId) : Nat :=
  match s.ctx? b.ctx with
  | some c => (match c.launch? b.launch with | some l => l.lser | none => 0)
  | none => 0

/-- An event of a wave's lane (R144). -/
def State.waveEv (s : State) (lpkg opt typ : Nat) (w : WaveId) (lane ord : Nat) : LogEv :=
  { ctx := w.blk.ctx, lpkg := lpkg, opt := opt, typ := typ, ph := false, lser := s.lserOf w.blk, tk := w.blk.task, iid := w.blk.idx,
    wv := w.wid, lane := lane, ord := ord, pay := 0 }

/-- An event of a block or task. -/
def State.blkEv (s : State) (lpkg opt typ : Nat) (b : BlkId) (pay : W64) : LogEv :=
  { ctx := b.ctx, lpkg := lpkg, opt := opt, typ := typ, ph := false, lser := s.lserOf b, tk := b.task, iid := b.idx, wv := 0, lane := 0,
    ord := 0, pay := pay }

/-- A block that has ended: it keeps at most its scratchpad or its leases. -/
def Blk.done (b : Blk) : Bool := b.state == .over || b.state == .exitRead

/-- A block of a launch is on its way to a die's list. -/
def State.handing (s : State) (ctx launch idx : Nat) : Bool :=
  s.pending.any fun e => match e with
    | .chunkAppend c l _ is => c == ctx && l == launch && is.any fun i => i % 2 ^ 53 == idx
    | _ => false

/-- R152: the wave, block or task a record names has ended. -/
def State.recEnded (s : State) (c : Ctx) (r : List W64) : Bool :=
  let gone := fun (b : Blk) => b.done || (namesWave (recTyp r) &&
    ((b.state == .running && !(s.allWaves.any fun w => decide (w.id = ⟨b.id, recWv r⟩)))
      || (b.state == .saved && !(b.image.any fun w => decide (w.id = ⟨b.id, recWv r⟩)))))
  if recTyp r = 0x0A then false
  else if recTk r then
    let n := recIid r
    let p := c.phys (n / 2 ^ 45)
    let is := fun (t : TaskRec) => t.ctx == c.id && t.serial == n
    let acc := match s.pkg? p with | some k => decide (n % 2 ^ 45 < k.serials.get 0 c.id) | none => false
    let waits := (s.cores.any fun k => k.deque.any is) || (c.parked.any fun k => is k.task) || s.pkgs.any fun k => k.ovfl.any is
    (match s.blks.find? fun b => b.id.task && b.id.ctx == c.id && b.id.idx == n with
     | some b => gone b
     | none => acc && !waits)
  else
    match c.launches.reverse.find? fun l => l.lser == recLser r with
    | none => false
    | some l =>
      match s.blks.find? fun b => !b.id.task && b.id.ctx == c.id && b.id.launch == l.id && b.id.idx % 2 ^ 53 == recIid r with
      | some b => gone b
      | none => decide (recIid r < l.next) && !s.handing c.id l.id (recIid r)

/-! ## Recording (R148 to R150) -/

/-- A ring write that fails: the package logs no more, and a hardware-error record is posted (R146). -/
def State.logLost (s : State) (c : Ctx) (lpkg : Nat) (ia : Nat) : State :=
  let s := s.modCtx c.id fun c => { c.modRing lpkg (fun r => { r with lost := true }) with logst := c.logst ||| 0x40#64 }
  s.due [.trapRecordPost c.id { ctxRecord 0x15 2 (BitVec.ofNat 64 ia) 0 0 0 with pkg := c.phys lpkg }]

/-- One record is written at slot PI, then PI advances; the descriptor's PI follows. A write that meets no frame, or a bad sector,
fails. -/
def State.logPut (s : State) (ctx lpkg : Nat) (ws : List W64) : State :=
  match s.ctx? ctx with
  | none => s
  | some c =>
    match c.ring? lpkg with
    | none => s
    | some r =>
      if r.lost then s
      else
        let ia := r.base + 32 * (r.pi % 2 ^ r.lrsz)
        let bad := match s.devEntry? (fnOf ctx) ia with | some e => s.poison.contains (e.key ia / 64) | none => true
        match (if bad then none else s.devWrite (fnOf ctx) ia (bytesOf ws)) with
        | none => s.logLost c lpkg ia
        | some t =>
          (t.devPut (fnOf ctx) (r.desc + 8) (BitVec.ofNat 64 (r.pi + 1))).modCtx ctx fun c =>
            c.modRing lpkg fun r => { r with pi := r.pi + 1 }

/-- A record takes the next free slot: written at once, or behind slots claimed whose payload has not come (R142, R149). -/
def State.logWrite (s : State) (ctx lpkg : Nat) (ws : List W64) : State :=
  match (s.ctx? ctx).bind fun c => c.ring? lpkg with
  | some r =>
    if r.claimed.isEmpty then s.logPut ctx lpkg ws
    else s.modCtx ctx fun c => c.modRing lpkg fun r => { r with claimed := r.claimed ++ [(none, ws)] }
  | none => s

/-- R142: an admitted access to a host frame claims its slot; request `req` fills in PAY. -/
def State.logClaim (s : State) (ctx lpkg req : Nat) (ws : List W64) : State :=
  s.modCtx ctx fun c => c.modRing lpkg fun r => if r.lost then r else { r with claimed := r.claimed ++ [(some req, ws)] }

/-- R142: the payload of request `req` has come: its record is complete, and every record before the next unfilled slot is written. -/
def State.logFill (s : State) (ctx req : Nat) (pay : W64) : State :=
  match s.ctx? ctx with
  | none => s
  | some c =>
    match c.rings.find? fun r => r.claimed.any fun x => x.1 == some req with
    | none => s
    | some r =>
      let all := r.claimed.map fun x => if x.1 = some req then (none, x.2.take 3 ++ [pay]) else x
      let go := (all.takeWhile fun x => x.1.isNone).map (·.2)
      let s := s.modCtx ctx fun c => c.modRing r.lpkg fun r => { r with claimed := all.drop go.length }
      go.foldl (fun s ws => s.logPut ctx r.lpkg ws) s

/-- A HIWATER, PREEMPT or END record: written at once, or waiting where the ring is full (R150). -/
def State.logExtra (s : State) (ctx lpkg : Nat) (ws : List W64) : State :=
  match s.ctx? ctx with
  | none => s
  | some c =>
    match c.ring? lpkg with
    | none => s
    | some r =>
      if r.room = 0 then s.modCtx ctx fun c => c.modRing lpkg fun r => { r with ring := r.ring ++ [ws] }
      else s.logWrite ctx lpkg ws

/-- A record without issuer or sequence number. -/
def plainRec (typ : Nat) (pay : W64) : List W64 := [BitVec.ofNat 64 typ, 0, 0, pay]

/-- R150 step 1: the HIWATER record when the free space has fallen to 64. -/
def State.logHiwater (s : State) (ctx lpkg : Nat) : State :=
  match s.ctx? ctx with
  | none => s
  | some c =>
    match c.ring? lpkg with
    | none => s
    | some r =>
      if decide (r.room ≤ 64) && !r.hiw && !r.lost then
        (s.modCtx ctx fun c => c.modRing lpkg fun r => { r with hiw := true }).logExtra ctx lpkg (plainRec 0x1E (BitVec.ofNat 64 (r.pi + r.claimed.length)))
      else s

/-- A PREEMPT or END record, and the HIWATER record after it where the free space has fallen to 64 (R150). -/
def State.logSpecial (s : State) (ctx lpkg : Nat) (ws : List W64) : State := (s.logExtra ctx lpkg ws).logHiwater ctx lpkg

/-- An admitted event's record (R148); its PAY comes later where a request of the host port returns it (R142). -/
def State.logRecord (s : State) (e : LogEv) (late : Option Nat) (pay : W64) : State :=
  let t := match late with
    | some req => s.logClaim e.ctx e.lpkg req (e.words (s.nextSeq e.ctx e.opt) 0)
    | none => s.logWrite e.ctx e.lpkg (e.words (s.nextSeq e.ctx e.opt) pay)
  (t.bumpSeq e.ctx e.opt).logHiwater e.ctx e.lpkg

/-! ## Replay (R152 to R154) -/

/-- What an order point does with an event. -/
inductive Admit where
  | free                                        -- not logged, or enforcement is off
  | wait                                        -- behind an event that arrived before it and is on its way again
  | record                                      -- record mode, with room
  | hold
  | replay (rec : List W64)
  | diverge (cause : Nat) (rec : List W64)
  deriving DecidableEq, Repr

/-- The next record of an order point in a window. -/
def winNext (win : List (List W64)) (opt seq : Nat) : Option (List W64) := win.find? fun r => recOpt r == opt && recSeq r == seq && !passedOver (recTyp r)

/-- The events held at a point that arrived there before ev (R150, R154). Log entry 70. -/
def State.heldBefore (s : State) (e : LogEv) (ev : Instr) : List Held :=
  (s.held.takeWhile fun h => h.ev != ev).filter fun h => h.ctx == e.ctx && h.lpkg == e.lpkg && h.opt == e.opt

/-- R150 step 2, R152: the admission of event e, brought about by ev. Log entry 70. -/
def State.admitEv (s : State) (e : LogEv) (ev : Instr) : Admit :=
  match s.ctx? e.ctx with
  | none => .free
  | some c =>
    match c.ring? e.lpkg with
    | none => .free
    | some r =>
      let before := s.heldBefore e ev
      if before.any fun h => h.again && s.pending.contains h.ev then .wait
      else if r.lost then .free
      else if c.logmode = 1 then (if r.room ≤ 32 || before.any (fun h => !h.again) then .hold else .record)
      else if c.logmode = 2 ∧ !c.logOff then
        let late := s.held.any fun h => h.ev == ev && decide (h.age > 2 ^ 24)
        match winNext r.window e.opt (s.nextSeq e.ctx e.opt) with
        | some rec =>
          if e.keyEq rec then .replay rec
          else if e.sameWave rec || s.recEnded c rec then .diverge 2 rec
          else if late then .diverge 4 rec
          else .hold
        | none =>
          if r.ended && !r.window.any (fun x => recOpt x == e.opt) then .diverge 1 []
          else if late then .diverge 4 []
          else .hold
      else .free

/-- In replay, the task starts and steals of a context whose PLACE and STEAL records are next (R152). Log entry 35. -/
def State.replayTasks (s : State) (c : Ctx) : List Instr :=
  c.rings.flatMap fun g => g.window.filterMap fun r =>
    let core := fun (k : Nat) => (⟨c.phys g.lpkg, recOpt r / 2 ^ 18 % 4, k⟩ : CoreId)
    let here := fun (k : Nat) (e : CoreId → Instr) => if (s.core? (core k)).isSome then some (e (core k)) else none
    if recSeq r ≠ s.nextSeq c.id (recOpt r) ∨ !recTk r then none
    else match recTyp r with
      | 0x08 => here ((recPay r).toNat % 64) .taskStart
      | 0x09 => here (recOpt r / 2 ^ 12 % 64) .taskSteal
      | _ => none

/-- In replay the distributors and deques look again at what they may start (R152). -/
def State.replayKicks (s : State) (ctx : Nat) : List Instr :=
  match s.ctx? ctx with
  | none => []
  | some c =>
    if c.logmode != 2 then []
    else
      let mine := fun (i : BlkId) => i.ctx == ctx
      let tasks := (s.cores.filter fun k => k.deque.any fun t => t.ctx == ctx).map fun k => Instr.taskStart k.id
      let dies := (s.dies.filter fun d => d.list.any mine).map fun d => Instr.dieDistributorRound d.pkg d.die
      let stolen := fun (lp opt : Nat) => match c.ring? lp with
        | some r => (match winNext r.window opt (s.nextSeq ctx opt) with | some x => recTyp x == 0x09 | none => false)
        | none => false
      let within := (c.dies.filter fun d => stolen d.1 (optId 6 d.1 d.2.2 0)).map fun d => Instr.stealWithinPackage d.2.1 d.2.2
      let between := (c.dies.filter fun d => stolen d.1 (optId 7 d.1 0 0)).map fun d => Instr.stealBetweenPackages d.2.1 d.2.2 false
      let starts := (s.blks.filter fun b => mine b.id && b.state == .placed).map fun b => Instr.blockStart b.id
      (dies ++ starts ++ (tasks ++ s.replayTasks c).dedup ++ within ++ between).filter fun e => !s.pending.contains e

/-- Events held for a context are submitted to their points again; each keeps its place (R150, R152, R154). -/
def State.unhold (s : State) (ctx : Nat) : State :=
  let live := s.held.filter fun h => !h.again || s.pending.contains h.ev || s.blks.any fun b => b.evs.contains h.ev
  let mine := live.filter fun h => h.ctx == ctx && !h.again
  let evs := mine.map (fun h => h.ev) ++ s.replayKicks ctx
  { s with held := live.map fun h => if h.ctx = ctx then { h with again := true } else h, pending := s.pending ++ evs }

/-- The record of a divergence that no wave's event meets: it names the package, and the die of its order point. Log entry 69. -/
def bareDiverge (cause pkg opt lser : Nat) : TrapRec := { ctxRecord 0x1A cause 0 0 0 lser with pkg := pkg, die := opt / 2 ^ 18 % 4 }

/-- The record of a divergence without its images: of the wave the event names, at the event's word, else of the context (R154, R360). Log entry 69. -/
def State.divRecord (s : State) (e : LogEv) (cause : Nat) : TrapRec :=
  let is := fun (w : Wave) =>
    w.id.blk.ctx == e.ctx && w.id.blk.task == e.tk && w.id.blk.idx == e.iid && w.id.wid == e.wv && w.lser % 2 ^ 16 == e.lser % 2 ^ 16
  match (if namesWave e.typ then s.allWaves.find? is else none) with
  | none => bareDiverge cause (match s.ctx? e.ctx with | some c => c.phys e.lpkg | none => 0) e.opt e.lser
  | some w =>
    let back := fun (c : Clause) => c.k + e.ord - w.ordinal
    let pc := match s.ops.find? fun o => decide (o.wave = w.id) && o.ord == e.ord, w.clause with
      | some o, _ => o.pc
      | none, some c => if w.ordinal ≤ c.k + e.ord ∧ back c ≤ c.hdr.cnt then c.va (back c) else 0
      | none, none => 0
    { w.record 0x1A cause pc 0 0 0 e.lane with urg := true, prec := false, rst := false, ord := e.ord, who := none }

/-- R154: a replay divergence, with the observed and the expected image. Log entry 69. -/
def State.diverge (s : State) (ctx cause : Nat) (r : TrapRec) (obs exp : List W64) : State :=
  let s := s.modCtx ctx fun c =>
    { c with logst := c.logst ||| 0x10#64 ||| (if c.logst.extractLsb' 8 8 = 0#8 then BitVec.ofNat 64 (cause * 256) else 0) }
  let r : TrapRec := { r with
    sub := cause, cont := [if obs.isEmpty then [0, 0, 0, 0] else obs, if exp.isEmpty then [0, 0, 0, 0] else exp] }
  let s := (s.due [.trapRecordPost ctx r]).unhold ctx
  match s.ctx? ctx with
  | some c => if c.dstop then (s.modCtx ctx fun c => { c with auto := true }).due [.ctxcmdTeardown (fnOf ctx) (ctx % 1024)] else s
  | none => s

/-- Replay is enforced. -/
def Ctx.replays (c : Ctx) : Bool := c.logmode == 2 && !c.logOff

/-- The replay reader goes on while its ring holds records it has not taken (R152). -/
def State.wantRecs (s : State) (ctx lpkg : Nat) : State :=
  match (s.ctx? ctx).bind fun c => if c.replays then c.ring? lpkg else none with
  | none => s
  | some r =>
    if r.ended || decide ((s.devWord (fnOf ctx) (r.desc + 8)).toNat ≤ r.ci) || s.pending.contains (.replayReaderTake ctx lpkg) then s
    else s.due [.replayReaderTake ctx lpkg]

/-- Hold an event at its point; one that was held before keeps its place (R152, R154). Log entry 70. -/
def State.holdAt (s : State) (e : LogEv) (ev : Instr) : State :=
  let t : State :=
    if s.held.any fun h => h.ev == ev then { s with held := updFirst (fun h => h.ev == ev) (fun h => { h with again := false }) s.held }
    else { s with held := s.held ++ [⟨s.seq, e.ctx, e.lpkg, e.opt, ev, 0, false⟩], seq := s.seq + 1 }
  t.wantRecs e.ctx e.lpkg

/-- The event has been admitted in replay: its record leaves the window, the hold counters of the package restart, and the other held
events may be next (R152). -/
def State.logConsume (s : State) (e : LogEv) (rec : List W64) : State :=
  let fresh := fun (h : Held) => if h.ctx = e.ctx ∧ h.lpkg = e.lpkg then { h with age := 0 } else h
  ((({ s with held := s.held.map fresh }.modCtx e.ctx fun c => c.modRing e.lpkg fun r => { r with window := delFirst (fun x => x == rec) r.window }).bumpSeq e.ctx
    e.opt).unhold e.ctx).wantRecs e.ctx e.lpkg

/-- The payload an event gave, against its record's (R152): the divergence where they differ in what is compared. -/
def State.comparePay (s : State) (e : LogEv) (seq : Nat) (pay : W64) (rec : List W64) : State :=
  let on := match s.ctx? e.ctx with | some c => c.replays | none => false
  if !on || (pay ^^^ recPay rec) &&& payMask e.typ == 0 then s else s.diverge e.ctx 3 (s.divRecord e 3) (e.words seq pay) rec

/-- An event at an order point: performed when it is admitted, and logged or compared with the payload it gives; `late` names the
request of the host port that brings the payload (R142). Log entry 70. -/
def State.atPointLate (s : State) (e : LogEv) (ev : Instr) (late : Option Nat) (perform : State → State × W64) : State :=
  let s' := { s with held := s.held.filter fun h => h.ev != ev }
  let seq := s.nextSeq e.ctx e.opt
  match s.admitEv e ev with
  | .free => (perform s').1
  | .wait => s.due [ev]
  | .hold => s.holdAt e ev
  | .record => let r := perform s'; r.1.logRecord e late r.2
  | .replay rec =>
    let r := perform s'
    let t := r.1.logConsume e rec
    (match late with
     | some req => { t with owed := t.owed ++ [⟨req, e, seq, rec⟩] }
     | none => t.comparePay e seq r.2 rec)
  | .diverge cause rec =>
    let r := perform s'
    r.1.diverge e.ctx cause (s.divRecord e cause) (e.words seq r.2) rec

/-- An event at an order point whose payload is known when it is performed. Log entry 70. -/
def State.atPoint (s : State) (e : LogEv) (ev : Instr) (perform : State → State × W64) : State := s.atPointLate e ev none perform

/-- R142: the payload of request `req` comes back: it fills the record's slot, or is compared with the record replay admitted. -/
def State.payReturns (s : State) (ctx req : Nat) (pay : W64) : State :=
  let s := s.logFill ctx req pay
  match s.owed.find? fun o => o.req == req with
  | none => s
  | some o => ({ s with owed := s.owed.filter fun o => o.req != req }).comparePay o.ev o.seq pay o.want

/-- R143: a 16-byte value folded. -/
def foldPay (bs : List Byte) : W64 :=
  if bs.length = 16 then BitVec.ofNat 64 (leVal (bs.take 8)) ^^^ BitVec.ofNat 64 (leVal (bs.drop 8)) else BitVec.ofNat 64 (leVal bs)

end Sys2Proof.Machine
end

