-- ==== Sys2Proof/Machine/IntAlu.lean ====
section
/-! DEFINITION. Integer arithmetic, bits and fields, compare and select, moves and address words
(spec/10_isa_compute.md R241 to R251). -/

namespace Sys2Proof.Machine

/-! ## Values at an operand width (R236) -/

def wbits (wd : Bool) : Nat := if wd then 64 else 32

/-- The unsigned value of an operand. -/
def uval (wd : Bool) (x : W64) : Nat := if wd then x.toNat else (lo32 x).toNat

/-- The value of an operand under its signedness. -/
def ival (sg wd : Bool) (x : W64) : Int :=
  if sg then (if wd then x.toInt else (lo32 x).toInt) else (uval wd x : Int)

/-- An exact integer reduced to the operand width (R9). -/
def ofI (wd : Bool) (i : Int) : W64 := if wd then BitVec.ofInt 64 i else (BitVec.ofInt 32 i).setWidth 64

def clampI (lo hi i : Int) : Int := if i < lo then lo else if i > hi then hi else i

end Sys2Proof.Machine
namespace Sys2Proof
open Machine
/-- The three sources of a class-00 word in a lane, at its type's width. -/
def CW.valA (w : CW) (s : State) (l : Nat) : W64 := s.rd (wide w.ty) w.ty w.a l
def CW.valB (w : CW) (s : State) (l : Nat) : W64 := w.rdB s (wide w.ty) w.ty l
def CW.valC (w : CW) (s : State) (l : Nat) : W64 := s.rd (wide w.ty) w.ty w.c l
def CW.intA (w : CW) (s : State) (l : Nat) : Int := ival (tySigned w.ty) (wide w.ty) (w.valA s l)
def CW.intB (w : CW) (s : State) (l : Nat) : Int := ival (tySigned w.ty) (wide w.ty) (w.valB s l)
def CW.intC (w : CW) (s : State) (l : Nat) : Int := ival (tySigned w.ty) (wide w.ty) (w.valC s l)

/-- The predicate in SC, in a lane. -/
def CW.predC (w : CW) (s : State) (l : Nat) : Bool := s.wave.getP w.c.pred l

end Sys2Proof
namespace Sys2Proof.Machine
/-- A word that writes an exact integer reduced to the type's width. -/
def State.aluI (s : State) (w : CW) (f : Nat → Int) : State := s.alu w (wide w.ty) fun l => ofI (wide w.ty) (f l)

/-! ## IADD, ISUB (R241) -/

/-- t of R241, exact. -/
def addT (sub : Bool) (wd : Bool) (a b : W64) (ci : Bool) : Int :=
  if sub then (uval wd a : Int) - uval wd b - ci.toNat else (uval wd a : Int) + uval wd b + ci.toNat

/-- The result of IADD or ISUB. -/
def addD (sub : Bool) (t : Ty) (sat : Bool) (a b : W64) (ci : Bool) : W64 :=
  let wd := wide t
  let sg := tySigned t
  if sat then
    ofI wd (clampI (intMin (wbits wd) sg) (intMax (wbits wd) sg)
      (if sub then ival sg wd a - ival sg wd b else ival sg wd a + ival sg wd b))
  else ofI wd (addT sub wd a b ci)

/-- Carry of IADD, borrow of ISUB. -/
def addC (sub : Bool) (wd : Bool) (a b : W64) (ci : Bool) : Bool :=
  if sub then decide (addT sub wd a b ci < 0) else decide (addT sub wd a b ci ≥ 2 ^ wbits wd)

/-- IADD and ISUB: the destination, then the carry-out predicate. -/
def State.addSub (s : State) (w : CW) (sub : Bool) : State :=
  let ci := fun l => w.sub.getLsbD 1 && w.predC s l
  let ls := s.wave.part w.g
  let w1 := s.wave.putD (wide w.ty) w.d ls fun l => addD sub w.ty (w.sub.getLsbD 0) (w.valA s l) (w.valB s l) (ci l)
  { s with wave :=
      if w.sub.getLsbD 2 then w1.putP w.c.pred ls fun l => addC sub (wide w.ty) (w.valA s l) (w.valB s l) (ci l) else w1 }

def execIadd (w : CW) (s : State) : Out := .next (s.addSub w false)
def execIsub (w : CW) (s : State) : Out := .next (s.addSub w true)

/-! ## Multiplies (R242) -/

def execImul (w : CW) (s : State) : Out := .next (s.aluI w fun l => w.intA s l * w.intB s l)

def execImulh (w : CW) (s : State) : Out :=
  .next (s.aluI w fun l => w.intA s l * w.intB s l / (2 ^ wbits (wide w.ty) : Nat))

def execImad (w : CW) (s : State) : Out := .next (s.aluI w fun l => w.intA s l * w.intB s l + w.intC s l)

/-- 32-bit factors, 64-bit addend and result. -/
def execImadw (w : CW) (s : State) : Out :=
  .next (s.alu w true fun l => ofI true (w.intA s l * w.intB s l + ival (tySigned w.ty) true (s.rd true w.ty w.c l)))

/-! ## Minimum, maximum, absolute values, dot product (R243) -/

def execImin (w : CW) (s : State) : Out := .next (s.aluI w fun l => min (w.intA s l) (w.intB s l))

def execImax (w : CW) (s : State) : Out := .next (s.aluI w fun l => max (w.intA s l) (w.intB s l))

def execIabs (w : CW) (s : State) : Out :=
  let sat := w.sub.getLsbD 0
  .next (s.aluI w fun l =>
    let v : Int := (w.intA s l).natAbs
    if sat then min v (intMax (wbits (wide w.ty)) true) else v)

def execIsad (w : CW) (s : State) : Out :=
  .next (s.aluI w fun l => ((w.intA s l - w.intB s l).natAbs : Int) + w.intC s l)

/-- Byte i of a packed register under a signedness. -/
def byteI (sg : Bool) (x : W64) (i : Nat) : Int :=
  let b : Byte := x.extractLsb' (8 * i) 8
  if sg then b.toInt else (b.toNat : Int)

def idp4 (t : Ty) (sat : Bool) (a b c : W64) : W64 :=
  let sg := tySigned t
  let sum := (List.range 4).foldl (fun acc i => acc + byteI sg a i * byteI sg b i) (ival sg false c)
  ofI false (if sat then clampI (intMin 32 sg) (intMax 32 sg) sum else sum)

/-- IDP4: A and B hold packed bytes; C and D are 32-bit, so an inline constant in C is read at 32 bits. Log entry 17. -/
def execIdp4 (w : CW) (s : State) : Out :=
  .next (s.alu w false fun l => idp4 w.ty (w.sub.getLsbD 0) (w.valA s l) (w.valB s l) (s.rd false .b32 w.c l))

/-! ## Bits and fields (R244 to R246) -/

/-- A word built bit by bit. -/
def ofBits (n : Nat) (f : Nat → Bool) : W64 :=
  BitVec.ofNat 64 ((List.range n).foldl (fun acc i => acc + (f i).toNat * 2 ^ i) 0)

/-- Bit of a truth table at the index Dold + 2A + 4B. -/
def lutBit (lut : BitVec 8) (d a b : Bool) : Bool := lut.getLsbD (d.toNat + 2 * a.toNat + 4 * b.toNat)

def lop3 (n : Nat) (lut : BitVec 8) (d a b : W64) : W64 :=
  ofBits n fun k => lutBit lut (d.getLsbD k) (a.getLsbD k) (b.getLsbD k)

def execLop3 (w : CW) (s : State) : Out :=
  let wd := wide w.ty
  .next (s.alu w wd fun l => lop3 (wbits wd) w.c.const (s.rd wd w.ty w.d l) (w.valA s l) (w.valB s l))

end Sys2Proof.Machine
namespace Sys2Proof
open Machine
/-- The shift amount: B[31:0]. Log entry 17. -/
def CW.shiftN (w : CW) (s : State) (l : Nat) : Nat := (lo32 (w.valB s l)).toNat

end Sys2Proof
namespace Sys2Proof.Machine
def execShl (w : CW) (s : State) : Out :=
  .next (s.alu w (wide w.ty) fun l =>
    let n := w.shiftN s l
    if n ≥ wbits (wide w.ty) then 0#64 else ofI (wide w.ty) ((uval (wide w.ty) (w.valA s l) * 2 ^ n : Nat)))

def execShr (w : CW) (s : State) : Out :=
  .next (s.alu w (wide w.ty) fun l =>
    let n := w.shiftN s l
    if n ≥ wbits (wide w.ty) then 0#64 else ofI (wide w.ty) ((uval (wide w.ty) (w.valA s l) / 2 ^ n : Nat)))

def execSar (w : CW) (s : State) : Out :=
  .next (s.alu w (wide w.ty) fun l =>
    let n := min (w.shiftN s l) (wbits (wide w.ty))
    ofI (wide w.ty) (ival true (wide w.ty) (w.valA s l) / (2 ^ n : Nat)))

def execShf (w : CW) (s : State) : Out :=
  .next (s.alu w false fun l =>
    let n := min (uval false (w.valC s l)) 32
    let y := uval false (w.valB s l) * 2 ^ 32 + uval false (w.valA s l)
    BitVec.ofNat 64 (if w.sub.getLsbD 0 then y * 2 ^ n / 2 ^ 32 % 2 ^ 32 else y / 2 ^ n % 2 ^ 32))

/-- R246: BFE. -/
def bfe (sg wd : Bool) (a b : W64) : W64 :=
  let n := wbits wd
  let pos := (b.extractLsb' 0 8).toNat
  let len := (b.extractLsb' 8 8).toNat
  let top := a.getLsbD (n - 1)
  if len = 0 then 0#64
  else
    let m := min len n
    let f := fun i => if pos + i < n then a.getLsbD (pos + i) else sg && top
    ofBits n fun i => if i < m then f i else sg && f (m - 1)

def execBfe (w : CW) (s : State) : Out :=
  .next (s.alu w (wide w.ty) fun l => bfe (tySigned w.ty) (wide w.ty) (w.valA s l) (w.valB s l))

/-- R246: BFI. -/
def bfi (wd : Bool) (a b c : W64) : W64 :=
  let pos := (c.extractLsb' 0 8).toNat
  let len := (c.extractLsb' 8 8).toNat
  ofBits (wbits wd) fun i => if pos ≤ i ∧ i < pos + len then a.getLsbD (i - pos) else b.getLsbD i

def execBfi (w : CW) (s : State) : Out :=
  .next (s.alu w (wide w.ty) fun l => bfi (wide w.ty) (w.valA s l) (w.valB s l) (w.valC s l))

def execBrev (w : CW) (s : State) : Out :=
  let n := wbits (wide w.ty)
  .next (s.alu w (wide w.ty) fun l => ofBits n fun i => (w.valA s l).getLsbD (n - 1 - i))

def execPopc (w : CW) (s : State) : Out :=
  .next (s.alu w false fun l =>
    BitVec.ofNat 64 ((List.range (wbits (wide w.ty))).filter (w.valA s l).getLsbD).length)

/-- Leading zeros of an n-bit value. -/
def clz (n : Nat) (x : Nat) : Nat := if x = 0 then n else n - 1 - x.log2

def execClz (w : CW) (s : State) : Out :=
  .next (s.alu w false fun l => BitVec.ofNat 64 (clz (wbits (wide w.ty)) (uval (wide w.ty) (w.valA s l))))

/-- R246: one output byte of PRMT, from the bytes y and the selector s. -/
def prmtByte (y : W64) (s : BitVec 5) : Byte :=
  let e : Byte := y.extractLsb' (8 * (s.extractLsb' 0 3).toNat) 8
  match (s.extractLsb' 3 2).toNat with
  | 0 => e
  | 1 => 0#8
  | 2 => if e.getLsbD 7 then 0xFF#8 else 0#8
  | _ => (ofBits 8 fun i => e.getLsbD (7 - i)).setWidth 8

def prmt (a b c : W64) : W64 :=
  let y := join (lo32 b) (lo32 a)
  let d := fun i => prmtByte y (c.extractLsb' (5 * i) 5)
  (d 3 ++ d 2 ++ d 1 ++ d 0).setWidth 64

def execPrmt (w : CW) (s : State) : Out :=
  .next (s.alu w false fun l => prmt (w.valA s l) (w.valB s l) (w.valC s l))

/-! ## Compare and select (R247, R248) -/

end Sys2Proof.Machine
namespace Sys2Proof
open Machine
def CW.cond (w : CW) : Nat := (w.sub.extractLsb' 0 3).toNat
def CW.comb (w : CW) : Nat := (w.sub.extractLsb' 3 2).toNat

end Sys2Proof
namespace Sys2Proof.Machine
def execIset (w : CW) (s : State) : Out :=
  let f := fun l => combine w.comb (condInt w.cond (w.intA s l) (w.intB s l)) (w.predC s l)
  .next { s with wave := s.wave.putMask w.d (s.wave.part w.g) f }

def execSel (w : CW) (s : State) : Out :=
  .next (s.alu w (wide w.ty) fun l => if w.predC s l then w.valA s l else w.valB s l)

/-! ## Moves (R249, R250) -/

/-- MOV: the I form moves its immediate; SA is zero there. -/
def execMov (w : CW) (s : State) : Out :=
  .next (s.alu w (wide w.ty) fun l => match w.imm with | some _ => w.valB s l | none => w.valA s l)

/-- R249: the value MOVW writes, of the destination's old value. -/
def movwVal (kind : BitVec 2) (imm : W32) (old : W64) : W64 :=
  match kind.toNat with
  | 0 => imm.setWidth 64
  | 1 => imm.setWidth 64
  | 2 => imm.signExtend 64
  | _ => join imm (lo32 old)

def execMovw (w : MovW) (s : State) : Out :=
  let dw := w.kind != 0#2
  .next { s with wave := s.wave.putD dw w.d (s.wave.part w.g) fun l => movwVal w.kind w.imm (s.rd dw .b32 w.d l) }

/-- RDLANE: lane B[4:0] of the lowest participating lane. Log entry 17. -/
def execRdlane (w : CW) (s : State) : Out :=
  match s.wave.part w.g with
  | [] => .next s
  | l0 :: _ =>
    let src := (s.rd (wide w.ty) w.ty w.b l0).toNat % 32
    .next (s.alu w (wide w.ty) fun _ => s.rd (wide w.ty) w.ty w.a src)

/-! ## Address words (R251) -/

end Sys2Proof.Machine
namespace Sys2Proof
open Machine
/-- B of AADD, extended by TY. -/
def CW.addrB (w : CW) (s : State) (l : Nat) : W64 :=
  let b : W64 := match w.imm with | some i => i.signExtend 64 | none => s.rd (wide w.ty) w.ty w.b l
  if wide w.ty then b else ofI true (ival (tySigned w.ty) false b)

end Sys2Proof
namespace Sys2Proof.Machine
def execAadd (w : CW) (s : State) : Out := .next (s.alu w true fun l => s.rd true .n64 w.a l + w.addrB s l)

def execAmad (w : CW) (s : State) : Out :=
  .next (s.alu w true fun l => s.rd true .n64 w.a l + ofI true (w.intB s l * w.intC s l))

/-- R251: the window pointer of a space and an offset. -/
def windowPtr (space : Nat) (a : W64) : W64 :=
  match space with
  | 0 => 0xFF00000000000000#64 + (a.extractLsb' 0 20).setWidth 64
  | 1 => 0xFF00000100000000#64 + (a.extractLsb' 0 23).setWidth 64
  | _ => 0xFF01000000000000#64 + (a.extractLsb' 0 48).setWidth 64

def execAset (w : CW) (s : State) : Out := .next (s.alu w true fun l => windowPtr w.sub.toNat (w.valA s l))

def execAjoin (w : CW) (s : State) : Out := .next (s.alu w true fun l => join (lo32 (w.valB s l)) (lo32 (w.valA s l)))

def execAsplit (w : CW) (s : State) : Out :=
  .next (s.alu w false fun l =>
    let a := s.rd true .n64 w.a l
    ((if w.sub.getLsbD 0 then hi32 a else lo32 a)).setWidth 64)

end Sys2Proof.Machine
end

