-- ==== Sys2Proof/Machine/Special.lean ====
section
/-! DEFINITION. FSQRT and the special functions (spec/08_numbers.md R194, spec/10_isa_compute.md R254). FSQRT is correctly rounded.
The others are free inside R194's bounds: the result is the opaque `Config.special` of the input bits and FTZ where that lies
within the bound, and the rounded exact result elsewhere. The exact results are computed in fixed point, far finer than the bound. -/

namespace Sys2Proof.Machine

/-- Newton's iteration for the integer square root. -/
def isqrtFrom (fuel n x : Nat) : Nat :=
  match fuel with
  | 0 => x
  | k + 1 => let y := (x + n / x) / 2; if y < x then isqrtFrom k n y else x

/-- The integer square root. -/
def isqrt (n : Nat) : Nat := if n = 0 then 0 else isqrtFrom 600 n (2 ^ (n.log2 / 2 + 1))

/-- pi in units of 2^-320. -/
def piFx : Nat := 6710401180212168915155840974220003240804194089427148950727106424351713218671805380099500388914039
/-- ln 2 in units of 2^-200. -/
def ln2Fx : Nat := 1113844574712631719546256151097547306333272293549090750737802

/-- Sum of t^k / k! from the term for k - 1 on, in units of 2^-p. -/
def expSum (p fuel k term t : Nat) : Nat :=
  match fuel with
  | 0 => term
  | n + 1 => term + expSum p n (k + 1) (term * t / 2 ^ p / k) t

/-- Alternating sum of t2^k / ((2k+c)!/c!) in units of 2^-p: cosine for c = 0, sine over t for c = 1. -/
def trigSum (p fuel k term t2 : Nat) : Int :=
  match fuel with
  | 0 => term
  | n + 1 => (term : Int) - trigSum p n (k + 2) (term * t2 / 2 ^ p / (k * (k + 1))) t2

/-- Sum of z^(2k+1) / (2k+1), in units of 2^-p. -/
def atanhSum (p fuel k pw z2 : Nat) : Nat :=
  match fuel with
  | 0 => pw / k
  | n + 1 => pw / k + atanhSum p n (k + 2) (pw * z2 / 2 ^ p) z2

/-- A positive approximation am 2^ae (or zero), and whether it is exact. -/
structure Approx where
  neg   : Bool
  m     : Nat
  e     : Int
  exact : Bool
  deriving DecidableEq, Repr

/-- 2^x for x in units of 2^-200. -/
def exp2Fx (x : Int) (exact : Bool) : Approx :=
  let n := x / (2 ^ 200 : Nat)
  let r := (x % (2 ^ 200 : Nat)).toNat
  ⟨false, expSum 200 60 1 (2 ^ 200) (r * ln2Fx / 2 ^ 200), n - 200, exact && r == 0⟩

/-- m 2^e in units of 2^-p, rounded down in magnitude. -/
def toFx (p m : Nat) (e : Int) : Nat := if 0 ≤ e + p then m * 2 ^ (e + p).toNat else m / 2 ^ (-(e + p)).toNat

def exp2A (s : Bool) (m : Nat) (e : Int) : Approx :=
  if msb m e ≥ 9 then ⟨false, 1, if s then -600 else 600, false⟩
  else exp2Fx (FV.sgn s (toFx 200 m e)) (decide (0 ≤ e + 200))

def log2A (m : Nat) (e : Int) : Approx :=
  let F := m * 2 ^ (200 - m.log2)
  let z := (F - 2 ^ 200) * 2 ^ 200 / (F + 2 ^ 200)
  let l : Nat := 2 * atanhSum 200 70 1 z (z * z / 2 ^ 200) * 2 ^ 200 / ln2Fx
  let t := msb m e * (2 ^ 200 : Nat) + l
  ⟨decide (t < 0), t.natAbs, -200, z == 0⟩

/-- sin (cosine = false) or cos of (-1)^s m 2^e. -/
def trigA (cosine s : Bool) (m : Nat) (e : Int) : Approx :=
  let h := piFx / 2
  let n := toFx 320 m e
  let q := (n / h + (if cosine then 1 else 0)) % 4
  let r := n % h / 2 ^ 64
  let r2 := (r * r + (2 ^ 256 - 1)) / 2 ^ 256
  let v : Int := if q % 2 = 1 then trigSum 256 40 1 (2 ^ 256) r2 else trigSum 256 40 2 r r2
  let v := if q ≥ 2 then -v else v
  let v := if s && !cosine then -v else v
  ⟨decide (v < 0), v.natAbs, -256, m == 0⟩

def tanhA (s : Bool) (m : Nat) (e : Int) : Approx :=
  if msb m e < -40 then
    -- x - x^3 / 3, rounded away from x
    ⟨s, m * 2 ^ 120 - 1 - (if 2 * e + 120 ≥ 0 then m * m * m * 2 ^ (2 * e + 120).toNat / 3 else m * m * m / 3 / 2 ^ (-(2 * e + 120)).toNat), e - 120, false⟩
  else if msb m e ≥ 5 then ⟨s, 2 ^ 60 - 1, -60, false⟩
  else
    let y := exp2Fx ((2 * toFx 200 m e * 2 ^ 200 / ln2Fx : Nat) : Int) false
    let E := toFx 200 y.m y.e
    ⟨s, (E - 2 ^ 200) * 2 ^ 200 / (E + 2 ^ 200), -200, false⟩

def rcpA (s : Bool) (m : Nat) (e : Int) : Approx := ⟨s, 2 ^ 300 / m, -300 - e, m == 2 ^ m.log2⟩

def rsqA (m : Nat) (e : Int) : Approx :=
  let odd := e % 2 ≠ 0
  let m' := if odd then 2 * m else m
  let e' := if odd then e - 1 else e
  ⟨false, isqrt (2 ^ 400 / m'), -200 - e' / 2, m' == 2 ^ m'.log2 && m'.log2 % 2 == 0⟩

/-- The exponent of an FP32 ulp at m 2^e. -/
def ulpExp (m : Nat) (e : Int) : Int := if m = 0 then -149 else max (msb m e) (-126) - 23

/-- c lies within `k` ulp of the result a, or within 2^b (R194). Log entry 20. -/
def Approx.admits (a : Approx) (k : Nat) (b : Option Int) (c : FV) : Bool :=
  let u := ulpExp a.m a.e
  let l := min (min u a.e) (-200)
  let at_ := fun (m : Nat) (e : Int) => m * 2 ^ (e - l).toNat
  let tol := match b with | some x => max (at_ k u) (at_ 1 x) | none => at_ k u
  match c with
  | .nan => false
  | .inf s => s == a.neg && decide (at_ a.m a.e + tol ≥ at_ (2 ^ 25 - 1) 103)
  | .fin s m e =>
    let l' := min l e
    let x := FV.sgn a.neg (at_ a.m a.e * 2 ^ (l - l').toNat)
    let y := FV.sgn s (m * 2 ^ (e - l').toNat)
    (m != 0 || s == a.neg) && decide ((x - y).natAbs ≤ tol * 2 ^ (l - l').toNat)

/-- R194, R254: the result of a special function whose exact result is finite, and its sticky flags. Log entry 20. -/
def specialResult (a : Approx) (k : Nat) (b : Option Int) (ftz : Bool) (cand : W32) : Nat × Nat :=
  let c := fp32.decode false cand.toNat
  let r := if a.admits k b c then cand.toNat else (fp32.encode 0 false false (.fin a.neg a.m a.e)).1
  let v := fp32.decode false r
  let exact := a.exact && v.eq (.fin a.neg a.m a.e)
  let below := (fp32.encode 0 false false (.fin a.neg (2 * a.m + 1) (a.e - 1))).2 &&& fUF != 0
  let tiny := decide (r % 2 ^ 31 < 2 ^ 23) || (decide (r % 2 ^ 31 = 2 ^ 23) && below)
  let fl := (if exact then 0 else fNX) ||| (if v.isInf then fOF else 0) ||| (if tiny && !exact then fUF else 0)
  if ftz && r % 2 ^ 31 < 2 ^ 23 && r % 2 ^ 31 ≠ 0 then (v.sign.toNat * 2 ^ 31, fl ||| fUF ||| fNX) else (r, fl)

/-- FSQRT, correctly rounded. -/
def fsqrtV (x : FV) : FV × Nat :=
  match x with
  | .nan => (.nan, 0)
  | .inf s => if s then (.nan, fIV) else (.inf false, 0)
  | .fin s m e =>
    if m = 0 then (x, 0) else if s then (.nan, fIV) else
    let odd := e % 2 ≠ 0
    let m' := (if odd then 2 * m else m) * 2 ^ 80
    let e' := (if odd then e - 1 else e) - 80
    let q := isqrt m'
    (.fin false (2 * q + (if q * q = m' then 0 else 1)) (e' / 2 - 1), 0)

/-- The special functions by opcode number in class 00. -/
inductive SpFn where
  | rcp | rsq | exp2 | log2 | sin | cos | tanh
  deriving DecidableEq, Repr

/-- The number under which `Config.special` names a function: its class-00 opcode (R223). -/
def SpFn.code (f : SpFn) : Nat :=
  match f with
  | .rcp => 0x38 | .rsq => 0x39 | .exp2 => 0x3B | .log2 => 0x3C | .sin => 0x3D | .cos => 0x3E | .tanh => 0x3F

/-- R194: special values first, then the bound. Log entry 20. -/
def special (f : SpFn) (ftz : Bool) (bits : W32) : Nat × Nat :=
  let cand := Config.special f.code ftz bits
  let enc := fun (v : FV) => (fp32.encode 0 false ftz v).1
  match f, fp32.decode ftz bits.toNat with
  | _, .nan => (fp32.nan, 0)
  | .rcp, .inf s => (enc (.fin s 0 0), 0)
  | .rcp, .fin s m e => if m = 0 then (enc (.inf s), fDZ) else specialResult (rcpA s m e) 1 none ftz cand
  | .rsq, .inf s => if s then (fp32.nan, fIV) else (enc (.fin false 0 0), 0)
  | .rsq, .fin s m e =>
    if m = 0 then (enc (.inf s), fDZ) else if s then (fp32.nan, fIV) else specialResult (rsqA m e) 1 none ftz cand
  | .exp2, .inf s => (enc (if s then .fin false 0 0 else .inf false), 0)
  | .exp2, .fin s m e => specialResult (if m = 0 then ⟨false, 1, 0, true⟩ else exp2A s m e) 2 none ftz cand
  | .log2, .inf s => if s then (fp32.nan, fIV) else (enc (.inf false), 0)
  | .log2, .fin s m e =>
    if m = 0 then (enc (.inf true), fDZ) else if s then (fp32.nan, fIV)
    else specialResult (log2A m e) 2 (if msb m e = 0 ∨ msb m e = -1 ∨ (msb m e = 1 ∧ m = 2 ^ m.log2) then some (-22) else none) ftz cand
  | .sin, .inf _ => (fp32.nan, fIV)
  | .sin, .fin s m e => if m = 0 then (enc (.fin s 0 0), 0) else specialResult (trigA false s m e) 2 (some (-22)) ftz cand
  | .cos, .inf _ => (fp32.nan, fIV)
  | .cos, .fin s m e => specialResult (if m = 0 then ⟨false, 1, 0, true⟩ else trigA true s m e) 2 (some (-22)) ftz cand
  | .tanh, .inf s => (enc (.fin s 1 0), 0)
  | .tanh, .fin s m e => if m = 0 then (enc (.fin s 0 0), 0) else specialResult (tanhA s m e) 2 none ftz cand

end Sys2Proof.Machine
end

