-- ==== Sys2Proof/Machine/FpAlu.lean ====
section
/-! DEFINITION. FP32 and packed 16-bit arithmetic, and the conversions (spec/10_isa_compute.md R247, R252 to R259). -/

namespace Sys2Proof.Machine

/-- An FP32 source of the focus wave in a lane, with its sign flipped when neg (R252), subnormals under R193. -/
def State.f32 (s : State) (o : Opd) (neg : Bool) (l : Nat) : FV :=
  fp32.decode s.wave.ftz (lo32 (s.rd false .f32 o l) ^^^ (if neg then 0x80000000#32 else 0#32)).toNat

end Sys2Proof.Machine
namespace Sys2Proof
open Machine
/-- The rounding field rm (R240). -/
def CW.rm (w : CW) : Mode := (w.sub.extractLsb' 0 2).toNat

end Sys2Proof
namespace Sys2Proof.Machine
/-- An exact result, with the flags its operation raised, rounded to FP32. -/
def State.round32 (s : State) (mode : Mode) (r : FV × Nat) : Nat × Nat :=
  let e := fp32.encode mode false s.wave.ftz r.1
  (e.1, r.2 ||| e.2)

/-! ## FP32 arithmetic (R252, R253) -/

def faddV (mode : Mode) (F : Fmt) (ftz : Bool) (a b : FV) : Nat × Nat :=
  let r := FV.add mode a b
  let e := F.encode mode false ftz r.1
  (e.1, r.2 ||| e.2)

def fmulV (mode : Mode) (F : Fmt) (ftz : Bool) (a b : FV) : Nat × Nat :=
  let r := FV.mul a b
  let e := F.encode mode false ftz r.1
  (e.1, r.2 ||| e.2)

/-- One rounding of the exact A x B + C. -/
def ffmaV (mode : Mode) (F : Fmt) (ftz : Bool) (a b c : FV) : Nat × Nat :=
  let p := FV.mul a b
  let r := FV.add mode p.1 c
  let e := F.encode mode false ftz r.1
  (e.1, p.2 ||| r.2 ||| e.2)

def fminmaxV (mx : Bool) (F : Fmt) (ftz : Bool) (a b : FV) : Nat × Nat := F.encode 0 false ftz (FV.minmax mx a b)

def execFadd (w : CW) (s : State) : Out :=
  .next (s.aluF w.g w.d fun l => faddV w.rm fp32 s.wave.ftz (s.f32 w.a (w.sub.getLsbD 2) l) (s.f32 w.b (w.sub.getLsbD 3) l))

def execFmul (w : CW) (s : State) : Out :=
  .next (s.aluF w.g w.d fun l => fmulV w.rm fp32 s.wave.ftz (s.f32 w.a (w.sub.getLsbD 2) l) (s.f32 w.b (w.sub.getLsbD 3) l))

def execFfma (w : CW) (s : State) : Out :=
  .next (s.aluF w.g w.d fun l =>
    ffmaV w.rm fp32 s.wave.ftz (s.f32 w.a (w.sub.getLsbD 2) l) (s.f32 w.b (w.sub.getLsbD 3) l) (s.f32 w.c (w.sub.getLsbD 4) l))

def execFmin (w : CW) (s : State) : Out :=
  .next (s.aluF w.g w.d fun l => fminmaxV false fp32 s.wave.ftz (s.f32 w.a false l) (s.f32 w.b false l))

def execFmax (w : CW) (s : State) : Out :=
  .next (s.aluF w.g w.d fun l => fminmaxV true fp32 s.wave.ftz (s.f32 w.a false l) (s.f32 w.b false l))

def execFset (w : CW) (s : State) : Out :=
  let c := fun l => condFp w.cond (s.f32 w.a false l) (s.f32 w.b false l)
  let ls := s.wave.part w.g
  .next { s with wave := (s.wave.putMask w.d ls fun l => combine w.comb (c l).1 (w.predC s l)).stick (orAll ls fun l => (c l).2) }

/-- R253: the class bit of an FP32 encoding. -/
def classBit (x : W32) : Nat :=
  let sg := x.getLsbD 31
  let ex := (x.extractLsb' 23 8).toNat
  let fr := (x.extractLsb' 0 23).toNat
  if ex = 255 then (if fr = 0 then (if sg then 0 else 7) else if x.getLsbD 22 then 9 else 8)
  else if ex = 0 then (if fr = 0 then (if sg then 3 else 4) else if sg then 2 else 5)
  else if sg then 1 else 6

/-- FCLASS: the mask of A's class AND B[9:0]. Log entry 17. -/
def execFclass (w : CW) (s : State) : Out :=
  let m := fun l => (BitVec.ofNat 64 (2 ^ classBit (lo32 (s.rd false .f32 w.a l)))) &&& s.rd false .b32 w.b l &&& 0x3FF#64
  let ls := s.wave.part w.g
  .next { s with wave := match w.d with
    | .p n => s.wave.putP n.toNat ls fun l => m l != 0#64
    | d => s.wave.putD false d ls m }

def execFrnd (w : CW) (s : State) : Out :=
  .next (s.alu w false fun l =>
    BitVec.ofNat 64 (fp32.encode 0 false s.wave.ftz (FV.integral w.rm (s.f32 w.a false l))).1)

/-- A times 2^n; beyond 1,000 every product rounds as at 1,000. -/
def fscaleV (a : FV) (n : Int) : FV :=
  match a with
  | .fin s m e => .fin s m (e + clampI (-1000) 1000 n)
  | v => v

def execFscale (w : CW) (s : State) : Out :=
  .next (s.aluF w.g w.d fun l => s.round32 w.rm (fscaleV (s.f32 w.a false l) (lo32 (s.rd false .i32 w.b l)).toInt, 0))

/-! ## Special functions (R254) -/

def State.specialW (s : State) (w : CW) (f : SpFn) : State :=
  s.aluF w.g w.d fun l => special f s.wave.ftz (lo32 (s.rd false .f32 w.a l))

def execFrcp (w : CW) (s : State) : Out := .next (s.specialW w .rcp)
def execFrsq (w : CW) (s : State) : Out := .next (s.specialW w .rsq)
def execFsqrt (w : CW) (s : State) : Out := .next (s.aluF w.g w.d fun l => s.round32 0 (fsqrtV (s.f32 w.a false l)))
def execFexp2 (w : CW) (s : State) : Out := .next (s.specialW w .exp2)
def execFlog2 (w : CW) (s : State) : Out := .next (s.specialW w .log2)
def execFsin (w : CW) (s : State) : Out := .next (s.specialW w .sin)
def execFcos (w : CW) (s : State) : Out := .next (s.specialW w .cos)
def execFtanh (w : CW) (s : State) : Out := .next (s.specialW w .tanh)

/-! ## Packed 16-bit floats (R255) -/

/-- The format of a packed type. -/
def hFmt (t : Ty) : Fmt := match t with | .bf16 => bf16 | _ => fp16

/-- Half h of a packed operand, its sign flipped when neg. -/
def State.half (s : State) (t : Ty) (o : Opd) (neg : Bool) (l h : Nat) : FV :=
  let x : W16 := (s.rd false t o l).extractLsb' (16 * h) 16
  (hFmt t).decode s.wave.ftz (x ^^^ (if neg then 0x8000#16 else 0#16)).toNat

/-- Both halves of a packed result. -/
def halves (f : Nat → Nat × Nat) : Nat × Nat := ((f 0).1 + (f 1).1 * 2 ^ 16, (f 0).2 ||| (f 1).2)

def execHadd2 (w : CW) (s : State) : Out :=
  .next (s.aluF w.g w.d fun l => halves fun h =>
    faddV w.rm (hFmt w.ty) s.wave.ftz (s.half w.ty w.a (w.sub.getLsbD 2) l h) (s.half w.ty w.b (w.sub.getLsbD 3) l h))

def execHmul2 (w : CW) (s : State) : Out :=
  .next (s.aluF w.g w.d fun l => halves fun h =>
    fmulV w.rm (hFmt w.ty) s.wave.ftz (s.half w.ty w.a (w.sub.getLsbD 2) l h) (s.half w.ty w.b (w.sub.getLsbD 3) l h))

def execHfma2 (w : CW) (s : State) : Out :=
  .next (s.aluF w.g w.d fun l => halves fun h =>
    ffmaV w.rm (hFmt w.ty) s.wave.ftz (s.half w.ty w.a (w.sub.getLsbD 2) l h) (s.half w.ty w.b (w.sub.getLsbD 3) l h)
      (s.half w.ty w.c (w.sub.getLsbD 4) l h))

def execHmnmx2 (w : CW) (s : State) : Out :=
  .next (s.aluF w.g w.d fun l => halves fun h =>
    fminmaxV (w.sub.getLsbD 0) (hFmt w.ty) s.wave.ftz (s.half w.ty w.a false l h) (s.half w.ty w.b false l h))

def execHset2 (w : CW) (s : State) : Out :=
  .next (s.aluF w.g w.d fun l => halves fun h =>
    let c := condFp w.cond (s.half w.ty w.a false l h) (s.half w.ty w.b false l h)
    (if c.1 then 0xFFFF else 0, c.2))

/-! ## Conversions (R195, R256 to R259) -/

/-- A converted value in the low bits of its destination (R256, Placement), and the flags. Log entry 19. -/
def convert (t : Ty) (mode : Mode) (sat ftz : Bool) (v : FV) : W64 × Nat :=
  match fmtOf t with
  | some F => let e := F.conv mode sat ftz v; (BitVec.ofNat 64 e.1, e.2)
  | none =>
    let i := FV.toInt mode (tyBits t) (tySigned t) v
    (match t with
      | .i64 | .n64 => ofI true i.1
      | _ => ofI false i.1, i.2)

/-- R193: FTZ as a conversion to a type applies it: one to E4M3, E5M2 or CB4 never flushes, its sources included. DEDUCED (log entry 19). -/
def cvtFtz (t : Ty) (ftz : Bool) : Bool := match t with | .e4m3 | .e5m2 | .cb4 => false | _ => ftz

/-- The value of one element of a source type. -/
def elemVal (t : Ty) (ftz : Bool) (x : W64) : FV :=
  match fmtOf t with
  | some F => F.decode ftz (x.toNat % 2 ^ F.width)
  | none =>
    let n := x.toNat % 2 ^ tyBits t
    FV.ofInt false (if tySigned t && n ≥ 2 ^ (tyBits t - 1) then (n : Int) - (2 ^ tyBits t : Nat) else n) 0

def execCvt (w : CvtW) (s : State) : Out :=
  let f := fun l =>
    let x := s.rd (wide w.sty) w.sty w.a l
    convert w.ty w.rm.toNat w.sat s.wave.ftz (elemVal w.sty (cvtFtz w.ty s.wave.ftz) (x >>> (tyBits w.sty * w.esel.toNat)))
  let ls := s.wave.part w.g
  .next { s with wave := (s.wave.putD (wide w.ty) w.d ls fun l => (f l).1).stick (orAll ls fun l => (f l).2) }

/-- The FP32 source of a conversion of a word's type (R193). -/
def State.cvtSrc (s : State) (t : Ty) (o : Opd) (l : Nat) : FV :=
  fp32.decode (cvtFtz t s.wave.ftz) (lo32 (s.rd false .f32 o l)).toNat

/-- The narrow float format of a conversion's type. -/
def narrowFmt (t : Ty) : Fmt := (fmtOf t).getD fp16

def execCvtsr (w : CW) (s : State) : Out :=
  .next (s.aluF w.g w.d fun l =>
    cvtsr (narrowFmt w.ty) (w.sub.getLsbD 0) s.wave.ftz s.wave.srseed l (s.rd true .n64 w.b l) (s.cvtSrc w.ty w.a l))

/-- x with n bits at bit lo replaced. -/
def replaceBits (x : Nat) (lo n v : Nat) : Nat := x % 2 ^ lo + (v % 2 ^ n) * 2 ^ lo + x / 2 ^ (lo + n) * 2 ^ (lo + n)

def execPack2 (w : CW) (s : State) : Out :=
  .next (s.aluF w.g w.d fun l =>
    let F := narrowFmt w.ty
    let a := F.conv w.rm (w.sub.getLsbD 2) s.wave.ftz (s.cvtSrc w.ty w.a l)
    let b := F.conv w.rm (w.sub.getLsbD 2) s.wave.ftz (s.cvtSrc w.ty w.b l)
    let v := a.1 + b.1 * 2 ^ F.width
    (if isFp8 w.ty then replaceBits (s.rd false w.ty w.c l).toNat (if w.sub.getLsbD 3 then 16 else 0) 16 v else v, a.2 ||| b.2))

/-- The sixteen entries of a codebook in eight registers (R182, R259). -/
def State.codebook (s : State) (o : Opd) (l : Nat) : List FV :=
  (List.range 16).map fun i =>
    let r : W32 := match o with
      | .v n => s.wave.getV (n.toNat + i / 2) l
      | .s n => s.wave.getS (n.toNat + i / 2)
      | _ => 0#32
    bf16.decode false (r.extractLsb' (16 * (i % 2)) 16).toNat

end Sys2Proof.Machine
namespace Sys2Proof
open Machine
def CW.esel (w : CW) : Nat := (w.sub.extractLsb' 0 3).toNat

end Sys2Proof
namespace Sys2Proof.Machine
def execQuant (w : CW) (s : State) : Out :=
  .next (s.aluF w.g w.d fun l =>
    let c := (s.rd false w.ty w.c l).toNat
    let a := s.cvtSrc w.ty w.a l
    if w.ty == .cb4 then
      let q := cbQuant a (s.codebook w.b l)
      (replaceBits c (4 * w.esel) 4 q.1, q.2.1)
    else
      let p := FV.mul a (s.cvtSrc w.ty w.b l)
      let e := (narrowFmt w.ty).conv 0 (w.sub.getLsbD 3) s.wave.ftz p.1
      (replaceBits c (8 * w.esel) 8 e.1, p.2 ||| e.2))

def execDeq (w : CW) (s : State) : Out :=
  .next (s.aluF w.g w.d fun l =>
    let a := (s.rd false w.ty w.a l).toNat
    if w.ty == .cb4 then
      s.round32 0 ((s.codebook w.b l).getD (a / 2 ^ (4 * w.esel) % 16) .nan, 0)
    else
      s.round32 0 (FV.mul ((narrowFmt w.ty).decode false (a / 2 ^ (8 * w.esel) % 256)) (s.f32 w.b false l)))

end Sys2Proof.Machine
end

