-- ==== Sys2Proof/Machine/Rmw.lean ====
section
/-! DEFINITION. The read-modify-write operations a home or a scratchpad performs (spec/11_isa_memory.md R283 to R286, R292;
spec/12_isa_async.md R323). -/

namespace Sys2Proof.Machine

/-- One float operation on the elements of F in a 32-bit word (R285): 0 add, 1 min, 2 max. -/
def rmwFloat (F : Fmt) (k : Nat) (ftz : Bool) (o v : Nat) : Nat × Nat :=
  let f := fun (a b : Nat) =>
    let x := F.decode ftz a
    let y := F.decode ftz b
    match k with
    | 0 => faddV 0 F ftz x y
    | 1 => fminmaxV false F ftz x y
    | _ => fminmaxV true F ftz x y
  if F.width = 32 then f o v
  else
    let l := f (o % 2 ^ 16) (v % 2 ^ 16)
    let h := f (o / 2 ^ 16) (v / 2 ^ 16)
    (l.1 + h.1 * 2 ^ 16, l.2 ||| h.2)

/-- R292: the object word after an arrival of k. -/
def arvWord (w : W64) (k : Nat) : W64 :=
  let pend := (w.extractLsb' 0 16).toNat
  let exp := w.extractLsb' 16 16
  let phase := w.extractLsb' 32 31
  if k = 0 then w
  else if exp = 0#16 ∨ k ≥ pend then BitVec.ofBool (w.getLsbD 63) ++ ((phase + 1#31) ++ (exp ++ exp))
  else BitVec.ofBool (w.getLsbD 63) ++ (phase ++ (exp ++ BitVec.ofNat 16 (pend - k)))

/-- The signed value of n bytes. -/
def sVal (n v : Nat) : Int := if v < 2 ^ (8 * n - 1) then v else (v : Int) - 2 ^ (8 * n)

/-- The bytes a read-modify-write leaves, and the sticky flags it raises: `old` at the location, `v` the operand, `v2` the new
value of a CAS. -/
def rmwApply (op : Rmw) (ftz : Bool) (old v v2 : List Byte) : List Byte × Nat :=
  let n := old.length
  let o := leVal old
  let x := leVal v
  let int := fun (r : Nat) => (leBytes n r, 0)
  let flt := fun (F : Fmt) (k : Nat) => let r := rmwFloat F k ftz o x; (leBytes n r.1, r.2)
  match op with
  | .add => int (o + x)
  | .smin => int (if sVal n o ≤ sVal n x then o else x)
  | .smax => int (if sVal n o ≥ sVal n x then o else x)
  | .umin => int (min o x)
  | .umax => int (max o x)
  | .band => int (o &&& x)
  | .bor => int (o ||| x)
  | .bxor => int (o ^^^ x)
  | .swap => int x
  | .incw => int (if o ≥ x then 0 else o + 1)
  | .decw => int (if o = 0 ∨ o > x then x else o - 1)
  | .cas => (if old = v then v2 else old, 0)
  | .fadd => flt fp32 0
  | .fmin => flt fp32 1
  | .fmax => flt fp32 2
  | .hadd => flt fp16 0
  | .hmin => flt fp16 1
  | .hmax => flt fp16 2
  | .badd => flt bf16 0
  | .bmin => flt bf16 1
  | .bmax => flt bf16 2
  | .arv => (leBytes n (arvWord (BitVec.ofNat 64 o) x).toNat, 0)
  | .csig => int (o + x)

/-- The operation of an ATOM's or integer RED's OP (R283). -/
def atomOp (op : Nat) : Rmw :=
  match op with
  | 0 => .add | 1 => .smin | 2 => .smax | 3 => .umin | 4 => .umax | 5 => .band | 6 => .bor | 7 => .bxor | 8 => .swap
  | 9 => .incw | _ => .decw

/-- The operation of an ATOMF's OP (R285). -/
def atomfOp (op : Nat) : Rmw :=
  match op with
  | 0 => .fadd | 1 => .fmin | 2 => .fmax | 3 => .hadd | 4 => .hmin | 5 => .hmax | 6 => .badd | 7 => .bmin | _ => .bmax

/-- The operation of a RED's OP (R286). -/
def redOp (op : Nat) : Rmw :=
  match op with
  | 11 => .fadd | 12 => .fmin | 13 => .fmax | 14 => .hadd | 15 => .badd | n => atomOp n

end Sys2Proof.Machine
end

