-- ==== Sys2Proof/Machine/Access.lean ====
section
/-! DEFINITION. What a memory word does at its core: addresses, the checks of R274, the pieces of an access, L1 lines,
write-combining buffers, pins, the Lockring check, and the operations in flight (spec/11_isa_memory.md R271 to R277,
spec/04_hierarchy.md R85 to R94, spec/05_consistency.md R102, R127, R128). -/

namespace Sys2Proof
open Machine

/-- The base value of a lane (R217): an address register, a v pair for .glb, .cst and .gen, one v register otherwise. -/
def MW.baseVal (w : MW) (s : State) (l : Nat) : W64 :=
  match w.base with
  | .a n => s.wave.getA n.toNat
  | o => if w.sp = .glb ∨ w.sp = .cst ∨ w.sp = .gen then s.rd true .b32 o l else (lo32 (s.rd false .b32 o l)).setWidth 64

/-- The address of a lane: imm14 form (R217). -/
def MW.addr14 (w : MW) (s : State) (l : Nat) : W64 :=
  if w.pi then w.baseVal s l else w.baseVal s l + w.off.signExtend 64

/-- The address of a lane: imm10 form (R271). -/
def MW.addr10 (w : MW) (s : State) (l : Nat) : W64 := w.baseVal s l + w.imm10.signExtend 64

/-- R217: the base after a post-increment, wrapped below bit w of the modulo register. -/
def MW.stepBase (w : MW) (weak : Bool) (a m : W64) : W64 :=
  let k := if weak && w.modw then (m.extractLsb' 0 5).toNat else 0
  let n := a + w.off.signExtend 64
  let mask := BitVec.ofNat 64 (2 ^ k - 1)
  if k = 0 then n else (a &&& ~~~mask) ||| (n &&& mask)

end Sys2Proof
namespace Sys2Proof.Machine

/-- R217: the update of the base register after the instruction. -/
def State.postInc (s : State) (w : MW) (weak : Bool) : State :=
  match w.pi, w.base with
  | true, .a n =>
    { s with wave := s.wave.setA n.toNat (w.stepBase weak (s.wave.getA n.toNat) ((s.wave.getM w.msel.toNat).setWidth 64)) }
  | _, _ => s

/-! ## Pieces (R102, R43) -/

/-- Where a piece of an access lies: an IA under a range, or an offset of a block's scratchpad. -/
inductive Spot where
  | ia (ia : Nat) (rng : Range)
  | scr (blk : BlkId) (off : Nat)
  deriving DecidableEq, Repr

/-- A naturally aligned piece: its place in the element, its size, its location; `il`: its 4-byte groups lie 128 bytes apart (R43). -/
structure Piece where
  pos  : Nat
  size : Nat
  spot : Spot
  il   : Bool
  deriving DecidableEq, Repr

/-- The largest naturally aligned size at address a that fits n bytes (R102). -/
def natSize (a n : Nat) : Nat :=
  if a % 16 = 0 ∧ 16 ≤ n then 16 else if a % 8 = 0 ∧ 8 ≤ n then 8 else if a % 4 = 0 ∧ 4 ≤ n then 4
  else if a % 2 = 0 ∧ 2 ≤ n then 2 else 1

/-- The naturally aligned pieces of n bytes at address a, as (position, size). Log entry 47. -/
def natPieces (fuel a pos n : Nat) : List (Nat × Nat) :=
  match fuel with
  | 0 => []
  | f + 1 => if n = 0 then [] else
    let k := natSize a n
    (pos, k) :: natPieces f (a + k) (pos + k) (n - k)

/-! ## The checks of a lane (R274) -/

/-- The first failed check of a lane: the stack limit, an address check (FCODE), or the Lockring with the entry met. -/
inductive LaneErr where
  | stk
  | addr (f : FCode)
  | lock (dst : Bool) (a lo hi : Nat)
  | align
  deriving DecidableEq, Repr

/-- R128: a Lockring entry an access conflicts with. -/
def Lock.conflicts (k : Lock) (scr : Option BlkId) (lo hi : Nat) (write : Bool) : Bool :=
  decide (k.scr = scr) && (write || k.dst) && decide (k.lo ≤ hi) && decide (lo ≤ k.hi)

def State.locksAt (s : State) (c : CoreId) : List Lock := match s.core? c with | some x => x.locks | none => []

/-- The parts of a Lockring entry, as (first byte, last byte, destination): of a slot ring's entry, a slot the engine fills is a
destination, one it drains a source, any other none (R318); every other entry is one part. -/
def State.lockParts (s : State) (k : Lock) : List (Nat × Nat × Bool) :=
  let slots : List Slot := match k.by_, k.scr with
    | .cmd b i, some _ => (match s.blk? b with
        | some x => (match x.cmds.find? fun c => c.idx == i with | some c => c.slots | none => [])
        | none => [])
    | _, _ => []
  if slots.isEmpty then [(k.lo, k.hi, k.dst)]
  else
    let n := (k.hi + 1 - k.lo) / slots.length
    slots.zipIdx.filterMap fun p =>
      let part := fun (dst : Bool) => some (k.lo + p.2 * n, k.lo + (p.2 + 1) * n - 1, dst)
      match p.1 with | .filling => part true | .draining => part false | _ => none

/-- R128, R318: an access to bytes lo to hi meets a part of an entry. -/
def State.lockHits (s : State) (k : Lock) (lo hi : Nat) (write : Bool) : Bool :=
  (s.lockParts k).any fun p => decide (p.1 ≤ hi) && decide (lo ≤ p.2.1) && (p.2.2 || write)

/-- R128: the check of one piece, at the accessing core for IAs and at the core that holds the scratchpad; the trap names a VA, or an
offset of the scratchpad (R361). -/
def State.lockCheck (s : State) (w : Wave) (write : Bool) (p : Piece) : Option LaneErr :=
  match p.spot with
  | .ia a r =>
    (ilSpans p.il a p.size).findSome? fun q =>
      ((s.locksAt w.core).find? fun k => k.conflicts none q.2.1 (q.2.1 + q.2.2 - 1) write).map fun k => .lock k.dst (r.vaAt q.2.1).toNat k.lo k.hi
  | .scr b o =>
    match s.blk? b with
    | none => none
    | some x => ((s.locksAt x.core).find? fun k => k.conflicts (some b) o (o + p.size - 1) write && s.lockHits k o (o + p.size - 1) write).map fun k => .lock k.dst o k.lo k.hi

/-- The block of a rank in a block's cluster; a block without a cluster is rank 0 of its own (R42). -/
def Blk.peer (b : Blk) (rank : Nat) : Option BlkId := if b.cluster.isEmpty then (if rank = 0 then some b.id else none) else b.cluster[rank]?

/-- The check of one group of a stack access (R39, R43): under kind stk and under its instruction's kind, in the same range register as
the groups before it. -/
def stkGroup (rs : List Range) (ivs : List Interval) (kind : Kind) (a l : Nat) (g : Nat × Nat) (was : List (Nat × Nat × Xl)) :
    Except LaneErr (List (Nat × Nat × Xl)) :=
  let va := stkVa (a + g.1) l
  match xlate rs ivs va g.2 .stk, xlate rs ivs va g.2 kind with
  | .error f, _ => .error (.addr f)
  | _, .error f => .error (.addr f)
  | .ok x, .ok _ => if was.all fun y => decide (y.2.2.rng = x.rng) then .ok (was ++ [(g.1, g.2, x)]) else .error (.addr 2)

/-- R39: the groups of a stack access lie in one range register; an access that spans two has no range, whatever else it lacks. -/
def stkOneRange (rs : List Range) (a l : Nat) (gs : List (Nat × Nat)) : Bool :=
  let at_ := gs.map fun g => spanRange rs ((stkVa (a + g.1) l).extractLsb' 0 57).toNat g.2
  at_.all fun x => x.isSome && decide (some x = at_.head?)

/-- R39, R43: the pieces of a stack access: each 4-byte group by itself, or the whole element of a strong word (R104). -/
def stkPieces (rs : List Range) (ivs : List Interval) (kind : Kind) (whole : Bool) (a size l : Nat) : Except LaneErr (List Piece) :=
  if a + size > 2 ^ 48 ∨ !stkOneRange rs a l (stkGroups a size) then .error (.addr 2)
  else
    match (stkGroups a size).foldl (fun (acc : Except LaneErr (List (Nat × Nat × Xl))) g => match acc with
        | .error e => .error e
        | .ok was => stkGroup rs ivs kind a l g was) (.ok []) with
    | .error e => .error e
    | .ok gs =>
      if whole && decide (a % size = 0) then .ok ((gs.take 1).map fun g => ⟨0, size, .ia g.2.2.ia g.2.2.rng, true⟩)
      else .ok (gs.flatMap fun g => (natPieces 8 g.2.2.ia 0 g.2.1).map fun q => ⟨g.1 + q.1, q.2, .ia (g.2.2.ia + q.1) g.2.2.rng, false⟩)

/-- R274 steps 1 to 3: the pieces of a lane's access. `narrow`: a read-modify-write that a peer scratchpad does not permit (R282);
`noStk`: a .gen address may not resolve to .stk (R279); `whole`: a strong access. -/
def State.lanePieces (s : State) (w : Wave) (sp : Space) (kind : Kind) (narrow noStk whole : Bool) (size : Nat) (a : W64) (l : Nat) :
    Except LaneErr (List Piece) :=
  let rs := s.rangesOf w
  let ivs := match s.blk? w.id.blk with | some b => b.intervals | none => []
  match (if sp = .gen then resolveGen a else .ok (sp, a)) with
  | .error f => .error (.addr f)
  | .ok (sp', a') =>
    let n := a'.toNat
    match sp' with
    | .stk =>
      if noStk && sp == .gen then .error (.addr 7)
      else if n < w.stklim.toNat then .error .stk
      else stkPieces rs ivs kind whole n size l
    | .scr =>
      (match s.blk? w.id.blk with
       | some b => if n + size ≤ b.size then .ok ((natPieces 32 n 0 size).map fun q => ⟨q.1, q.2, .scr b.id (n + q.1), false⟩) else .error (.addr 5)
       | none => .error (.addr 5))
    | .cls =>
      (match s.blk? w.id.blk with
       | some b =>
         let off := n % 2 ^ 20
         match (if n < 2 ^ 23 then b.peer (n / 2 ^ 20) else none) with
         | some t =>
           if off + size > b.size then .error (.addr 6)
           else if narrow && sp == .gen then .error (.addr 3)
           else .ok ((natPieces 32 off 0 size).map fun q => ⟨q.1, q.2, .scr t (off + q.1), false⟩)
         | none => .error (.addr 6)
       | none => .error (.addr 6))
    | _ =>
      (match xlate rs ivs a' size (if sp = .cst then .cst else kind) with
       | .error f => .error (.addr f)
       | .ok x => .ok ((natPieces 32 x.ia 0 size).map fun q => ⟨q.1, q.2, .ia (x.ia + q.1) x.rng, false⟩))

/-- R274: all checks of a lane. -/
def State.laneCheck (s : State) (w : Wave) (sp : Space) (kind : Kind) (narrow noStk whole : Bool) (size : Nat) (a : W64) (l : Nat) :
    Except LaneErr (List Piece) :=
  match s.lanePieces w sp kind narrow noStk whole size a l with
  | .error e => .error e
  | .ok ps => match ps.findSome? (s.lockCheck w (kind == .store || kind == .atomic)) with
    | some e => .error e
    | none => .ok ps

/-- The trap code of a failed check. Log entry 14. -/
def LaneErr.code (e : LaneErr) : Nat := match e with | .stk => 0x05 | .addr _ => 0x07 | .lock _ _ _ _ => 0x06 | .align => 0x0A

/-- The trap of a failed check in the lowest faulting lane; `m` is the mask of the lanes that fail (R361). Log entry 14. -/
def State.laneTrap (s : State) (e : LaneErr) (l : Nat) (a m : W64) : State :=
  match e with
  | .stk => s.trapHere 0x05 0 a s.wave.stklim 0 l
  | .addr f => s.trapHere 0x07 f a m 0 l
  | .lock d x lo hi => s.trapHere 0x06 d.toNat (BitVec.ofNat 64 x) (BitVec.ofNat 64 lo) (BitVec.ofNat 64 hi) l
  | .align => s.trapHere 0x0A 0 a m 0 l

/-! ## Policies (R90, R91) -/

/-- R91: the effective policy of a word's policy under a range's memory type. -/
def effPolicy (cp : BitVec 2) (mt : Nat) : Policy :=
  match mt with
  | 1 => .uncached
  | 2 => .wc
  | _ => match cp.toNat with | 0 => .keep | 1 => .strm | 2 => .nc | _ => .pin

end Sys2Proof.Machine
namespace Sys2Proof
open Machine
/-- The policies that may be served from an L1 line or non-home copy (R114). -/
def Policy.cached (p : Policy) : Bool := p == .keep || p == .strm || p == .pin
/-- The policies that allocate in L1 (R85). -/
def Policy.inL1 (p : Policy) : Bool := p == .keep || p == .pin

end Sys2Proof
namespace Sys2Proof.Machine
/-! ## L1 lines and non-home copies (R85, R86, R94) -/

def lineOf (ia : Nat) : Nat := ia / 64 * 64

/-- R94: a copy serves only its context, at the current generation. -/
def Line.valid (x : Line) (ctx gen ia : Nat) : Bool := x.ia == lineOf ia && x.ctx == ctx && x.gen == gen && !x.stale

def lineBytes (x : Line) (ia n : Nat) : List Byte := (x.data.drop (ia - x.ia)).take n

/-- Bytes replaced in a list from place i on. -/
def patch (d : List Byte) (i : Nat) (bs : List Byte) : List Byte := d.take i ++ bs ++ d.drop (i + bs.length)

def Line.update (x : Line) (ia : Nat) (bs : List Byte) : Line := { x with data := patch x.data (ia - x.ia) bs }

/-- A store updates every present copy of its line in a list of copies. -/
def updLines (ls : List Line) (ia : Nat) (bs : List Byte) : List Line := ls.map fun x => if x.ia = lineOf ia then x.update ia bs else x

/-- A copy is invalidated: a pinned one keeps its pin and place (R93). -/
def dropLine (ls : List Line) (ia : Nat) : List Line :=
  (ls.filter fun x => x.ia != lineOf ia || x.pin.isSome).map fun x => if x.ia = lineOf ia then { x with stale := true } else x

/-- A fill replaces the copy of its line; a pin stays with the context that set it (R93, R94). -/
def fillLine (ls : List Line) (ia ctx gen : Nat) (d : List Byte) (pin : Option Nat) (strm : Bool) : List Line :=
  let was := (ls.find? fun x => x.ia == lineOf ia).bind (·.pin)
  ⟨lineOf ia, ctx, gen, d, was.or pin, false, strm⟩ :: ls.filter fun x => x.ia != lineOf ia

/-- R94: a bump of a core's L1 generation; past 0xFFFF every L1 line of the context is invalidated. Log entry 30. -/
def Core.bump (c : Core) (ctx : Nat) : Core :=
  let g := (c.gl.get 0 ctx + 1) % 2 ^ 16
  { c with gl := c.gl.set 0 ctx g, l1 := if g = 0 then c.l1.filter (fun x => x.ctx != ctx) else c.l1 }

/-- R94: a bump of a die's fill generation. Log entry 30. -/
def Die.bump (d : Die) (ctx : Nat) : Die :=
  let g := (d.g.get 0 ctx + 1) % 2 ^ 16
  { d with
    g := d.g.set 0 ctx g
    l2 := if g = 0 then (d.l2.filter fun x => x.ctx != ctx || x.pin.isSome).map (fun x => if x.ctx = ctx then { x with stale := true } else x)
      else d.l2 }

/-- R95: the bumps of an acquire at a scope by a wave on core c. Log entry 30. -/
def State.acquireBump (s : State) (ctx : Nat) (c : CoreId) (sc : Scope) : State :=
  match sc with
  | .core => s
  | .die => s.modCore c fun x => x.bump ctx
  | _ => (s.modCore c fun x => x.bump ctx).modDie c.pkg c.die fun d => d.bump ctx

/-! ## Slices and line migration (R17, R87, R88) -/

/-- R87: the home slice of a line. -/
def hslice (ia : Nat) : Nat :=
  (List.range 8).foldl (fun h i => h ^^^ (ia / 2 ^ (6 * (i + 1)) % 64)) 0

/-- R87: the near slice of a region for a line. -/
def nearSlice (region ia : Nat) : Nat := 8 * region + hslice ia % 8

/-- R17: a slice of 4 MiB holds 65,536 lines; R15: an L1 of 256 KiB holds 4,096. Log entry 29. -/
def sliceLines : Nat := 65536
def l1Lines : Nat := 4096
/-- R88: forwarding entries of a slice. -/
def fwdMax : Nat := 4096

/-- The slice that holds a line of the die: its home slice, or the near slice it has moved to (R88). -/
def Die.place (d : Die) (ia : Nat) : Nat :=
  match d.fwd.find? fun f => f.1 == lineOf ia with | some f => nearSlice f.2 ia | none => hslice ia

/-- The line is pinned in the die (R93). -/
def Die.isPinned (d : Die) (ia : Nat) : Bool :=
  (d.pins.any fun p => p.1 == lineOf ia) || d.l2.any fun x => x.ia == lineOf ia && x.pin.isSome

/-- R88: the line is evicted, or held at its home slice again: its run and its forwarding entry are dropped. -/
def Die.unmove (d : Die) (ia : Nat) : Die :=
  { d with migs := d.migs.filter (fun m => m.ia != lineOf ia), fwd := d.fwd.filter fun f => f.1 != lineOf ia }

/-- R90: the line is evicted from the die. -/
def Die.drop (d : Die) (ia : Nat) : Die := { d.unmove ia with l2 := d.l2.filter fun x => x.ia != lineOf ia }

/-- The lines a slice holds: non-home copies, pins, and home-cached lines that have moved to it. Log entry 29. -/
def Die.used (d : Die) (slice : Nat) : Nat :=
  (d.l2.filter fun x => d.place x.ia == slice).length + (d.pins.filter fun p => hslice p.1 == slice).length
    + (d.fwd.filter fun f => nearSlice f.2 f.1 == slice && !d.l2.any fun x => x.ia == f.1).length

/-- What replacement may take from a slice: an unpinned copy or a moved home-cached line, `keep` excepted; the copies allocated under
policy strm first (R90). Log entry 29. -/
def Die.victims (d : Die) (slice : Nat) (keep : List Nat) : List Nat :=
  let free := d.l2.filter fun x => x.pin.isNone && d.place x.ia == slice && !keep.contains x.ia
  if free.any (·.strm) then (free.filter (·.strm)).map (·.ia)
  else free.map (·.ia) ++ (d.fwd.filter fun f => nearSlice f.2 f.1 == slice && !keep.contains f.1 && !d.l2.any fun x => x.ia == f.1).map (·.1)

/-- R17, R28: a full slice loses a line, by a free choice, before another comes to it. Log entry 29. -/
def State.makeRoom (s : State) (pkg die slice : Nat) (keep : List Nat) : State :=
  match s.die? pkg die with
  | none => s
  | some d =>
    if d.used slice < sliceLines then s
    else match d.victims slice keep with
      | [] => s
      | v :: vs => let (i, t) := s.choose (vs.length + 1); t.modDie pkg die fun d => d.drop ((v :: vs).getD i v)

/-- R88: the line whose forwarding entry is the oldest of a home slice whose entries are full: it returns when another moves. -/
def Die.returns (d : Die) (ia : Nat) : Option Nat :=
  let same := d.fwd.filter fun f => f.1 != lineOf ia && hslice f.1 == hslice ia
  if same.length < fwdMax then none else same.head?.map (·.1)

/-- R88: the line moves to a region's near slice. DESIGN CHOICE (log entry 108): a move that updates a forwarding entry makes it the
newest. -/
def Die.moveTo (d : Die) (ia region : Nat) : Die :=
  { d with fwd := (d.fwd.filter fun f => f.1 != lineOf ia) ++ [(lineOf ia, region)] }

/-- R88: a move takes its place in the near slice, and the line that returns its place in the home slice. Log entry 29. -/
def State.moveLine (s : State) (pkg die ia region : Nat) : State :=
  let back := (s.die? pkg die).bind fun d => d.returns ia
  let s := (s.makeRoom pkg die (nearSlice region ia) [lineOf ia]).modDie pkg die fun d => d.moveTo ia region
  match back with
  | some o => (s.makeRoom pkg die (hslice o) [o, lineOf ia]).modDie pkg die fun d => { d with fwd := d.fwd.filter fun f => f.1 != o }
  | none => s

/-- R87, R88: a request of a region's core for a line: looked up in the near slice, then, where it is not there, at the home slice, which
counts the run; true where the line is to move. A pinned line does not migrate. Log entry 29. -/
def Die.route (d : Die) (ia region : Nat) : Bool × Die :=
  let near := nearSlice region ia
  if d.isPinned ia || (d.place ia == near && hslice ia != near) then (false, d)
  else
    let m := (d.migs.find? fun m => m.ia == lineOf ia).getD ⟨lineOf ia, region, 0⟩
    let run := if m.reg = region then m.run + 1 else 1
    (decide (4 ≤ run) && d.place ia != near, { d with migs := (d.migs.filter fun x => x.ia != lineOf ia) ++ [⟨lineOf ia, region, run⟩] })

/-- A request of a core for a line at its die (R87, R88). -/
def State.routeLine (s : State) (c : CoreId) (ia : Nat) : State :=
  match s.die? c.pkg c.die with
  | none => s
  | some d =>
    let r := d.route ia (c.core / 8)
    let s := s.modDie c.pkg c.die fun _ => r.2
    if r.1 then s.moveLine c.pkg c.die ia (c.core / 8) else s

/-! ## Pins (R93) -/

/-- R93: the pins a slice of a die covers. Log entry 44. -/
def Die.pinned (d : Die) (slice : Nat) : Nat :=
  (d.pins.filter fun p => hslice p.1 == slice).length + (d.l2.filter fun x => x.pin.isSome && hslice x.ia == slice).length

/-- R93: the pins of one slice. -/
def pinMax : Nat := 16384

/-- R93: an access that would pass the limit is counted in PINDROP. -/
def State.pinDrop (s : State) (ctx : Nat) : State := s.modCtx ctx fun c => { c with pindrop := min (c.pindrop + 1) (2 ^ 32 - 1) }

/-- R93: a pin of a home-cached line in its home die. Log entry 44. -/
def State.pinHome (s : State) (ctx : Nat) (h : HomeId) (ia : Nat) : State :=
  match s.die? h.pkg (h.stack / 4) with
  | none => s
  | some d =>
    if d.pins.any fun p => p.1 == lineOf ia then s
    else if d.pinned (hslice ia) ≥ pinMax then s.pinDrop ctx
    else (s.makeRoom h.pkg (h.stack / 4) (hslice ia) [lineOf ia]).modDie h.pkg (h.stack / 4) fun d => { d.unmove ia with pins := d.pins ++ [(lineOf ia, ctx)] }

/-- R93: a pin of a present non-home copy of a die. Log entry 44. -/
def State.pinCopy (s : State) (ctx pkg die ia : Nat) : State :=
  match s.die? pkg die with
  | none => s
  | some d =>
    if d.isPinned ia then s
    else if d.pinned (hslice ia) ≥ pinMax then s.pinDrop ctx
    else (if d.place ia = hslice ia then s else s.makeRoom pkg die (hslice ia) [lineOf ia]).modDie pkg die fun d => { d.unmove ia with l2 := d.l2.map fun x => if x.ia = lineOf ia then { x with pin := some ctx } else x }

/-! ## Replacement (R15, R17, R89, R90) -/

/-- A line that replacement takes, by a free choice; none while there is room. -/
def State.victim (s : State) (room : Nat) (ls : List Line) : Option Nat × State :=
  if ls.length < room then (none, s)
  else match ls with
    | [] => (none, s)
    | l :: _ => let (i, t) := s.choose ls.length; (some (ls.getD i l).ia, t)

/-- An L1 line is allocated: a full L1 loses a line first (R15, R85). Log entry 29. -/
def State.allocL1 (s : State) (c : CoreId) (ia ctx gen : Nat) (d : List Byte) : State :=
  match s.core? c with
  | none => s
  | some k =>
    let (v, s) := if k.l1.any fun x => x.ia == lineOf ia then (none, s) else s.victim l1Lines k.l1
    s.modCore c fun k => { k with l1 := fillLine (k.l1.filter fun x => some x.ia != v) ia ctx gen d none false }

/-- A non-home copy is allocated: a full slice loses a line first (R17, R86, R90). Log entry 29. -/
def State.allocL2 (s : State) (pkg die ia ctx gen : Nat) (d : List Byte) (strm : Bool) : State :=
  let s := match s.die? pkg die with
    | some k => if k.l2.any fun x => x.ia == lineOf ia then s else s.makeRoom pkg die (k.place ia) [lineOf ia]
    | none => s
  s.modDie pkg die fun k => { k with l2 := fillLine k.l2 ia ctx gen d none strm }

/-! ## Write-combining buffers (R92) -/

/-- The buffers of a core that gather stores: those not sent. -/
def Core.filling (c : Core) : List WcBuf := c.wc.filter fun b => !b.sent

/-- A store's bytes in a buffer. -/
def WcBuf.put (b : WcBuf) (ia op seq : Nat) (bs : List Byte) : WcBuf :=
  { b with ops := if b.ops.contains op then b.ops else b.ops ++ [op], parts := b.parts ++ [(op, ia - b.ia, bs)], seq := seq }

/-- Byte i of a buffer as the stores `ok` leave it: the last of them that wrote it (R92). Log entry 28. -/
def WcBuf.byte (b : WcBuf) (ok : List Nat) (i : Nat) : Option Byte :=
  b.parts.foldl (fun x p => if ok.contains p.1 && decide (p.2.1 ≤ i) && decide (i < p.2.1 + p.2.2.length) then p.2.2[i - p.2.1]? else x) none

/-- Byte i of a buffer is valid. -/
def WcBuf.valid (b : WcBuf) (i : Nat) : Bool := (b.byte b.ops i).isSome

/-- The buffer that gathers stores of a context to a line. -/
def WcBuf.gathers (b : WcBuf) (ia ctx : Nat) : Bool := !b.sent && b.ia == lineOf ia && b.ctx == ctx

/-- Buffers that satisfy p are sent: their drains become due (R92). -/
def State.sendBufs (s : State) (c : CoreId) (p : WcBuf → Bool) : State :=
  match s.core? c with
  | none => s
  | some k =>
    let go : List WcBuf := k.wc.filter fun b => !b.sent && p b
    if go.isEmpty then s
    else (s.modCore c fun k => { k with wc := k.wc.map fun b => if p b then { b with sent := true } else b }).due
      ((go.map fun b => Instr.wcBufferDrain c b.ia).filter fun e => !s.pending.contains e)

/-- A store merges into the buffer of its line, or takes a free one; of eight in use the oldest is sent first. Log entry 28. -/
def State.wcStore (s : State) (c : CoreId) (ctx : Nat) (h : HomeId) (ia : Nat) (op : Nat) (bs : List Byte) : State :=
  match s.core? c with
  | none => s
  | some x =>
    let t := { s with seq := s.seq + 1 }
    if x.wc.any fun b => b.gathers ia ctx then
      t.modCore c fun x => { x with wc := updFirst (fun b => b.gathers ia ctx) (fun b => b.put ia op t.seq bs) x.wc }
    else
      let old := x.filling
      let t := match old with
        | b :: _ => if old.length < 8 then t else t.sendBufs c fun y => decide (y = b)
        | [] => t
      let new : WcBuf := WcBuf.put ⟨lineOf ia, ctx, h, [], [], 0, false⟩ ia op t.seq bs
      (t.modCore c fun x => { x with wc := x.wc ++ [new] }).due [.wcBufferDrain c (lineOf ia)]

/-- An access of a core that is not write-combining sends the buffer that holds its line. DESIGN CHOICE (log entry 90): the spec does not say how such
an access is served. -/
def State.wcMeet (s : State) (c : CoreId) (ias : List Nat) : State := s.sendBufs c fun b => ias.any fun a => b.ia == lineOf a

/-! ## Operations in flight -/

/-- The bytes of a lane's element that an operation has received. -/
def Op.bytes (o : Op) (l n : Nat) : List Byte := (List.range n).map fun i => o.data.get 0 (16 * l + i)

/-- Bytes of a lane arrive. -/
def Op.put (o : Op) (l pos : Nat) (bs : List Byte) : Op := { o with data := writeBytes o.data (16 * l + pos) bs }

/-- Operation `id` has landed or returned: nothing waits for it any more, and events held for it alone become due (R122). -/
def State.unwait (s : State) (id : Nat) : State :=
  let ds := s.deferred.map fun d => { d with waits := d.waits.filter fun x => x != id }
  let go : List Deferred := ds.filter fun d => d.waits.isEmpty
  ({ s with deferred := ds.filter fun d => !d.waits.isEmpty }).due (go.flatMap fun (d : Deferred) => d.evs)

/-- A write-combining buffer of a core holds bytes of an operation. -/
def State.buffered (s : State) (c : CoreId) (op : Nat) : Bool := match s.core? c with | some k => k.wc.any fun b => b.ops.contains op | none => false

/-- The write-combining stores of a core that have not landed: those of its waves, and those its buffers hold, whose wave may have gone
(R92). Log entry 28. -/
def State.coreWc (s : State) (c : CoreId) : List Nat :=
  (s.ops.filter fun o => o.store && o.pol == .wc
    && (s.buffered c o.id || (match s.wave? o.wave with | some w => decide (w.core = c) | none => false))).map fun o => o.id

/-- Events of a wave that take effect when the operations named have landed or returned. -/
def State.defer (s : State) (id : WaveId) (waits : List Nat) (evs : List Instr) : State :=
  if waits.isEmpty then s.due evs else { s with deferred := s.deferred ++ [⟨id, waits, evs⟩] }

/-- What a strong access of a wave waits for before it is performed, its own operation `except_` apart: the write-combining stores of its
core (R92), and for a release everything it covers (R122, R123, R126). -/
def State.relWaits (s : State) (id : WaveId) (except_ : Nat) (rel : Bool) : List Nat :=
  let own := if rel then ((s.opsOf id).filter Op.awaited).map fun o => o.id else []
  let wc := match s.wave? id with | some w => s.coreWc w.core | none => []
  ((own ++ wc).dedup).filter fun x => x != except_

/-- The write-combining buffers of a wave's core are sent (R92). -/
def State.sendAll (s : State) (id : WaveId) : State :=
  match s.wave? id with | some w => s.sendBufs w.core fun _ => true | none => s

/-- Events of a release of a wave. -/
def State.release (s : State) (id : WaveId) (except_ : Nat) (evs : List Instr) : State :=
  (s.sendAll id).defer id (s.relWaits id except_ true) evs

end Sys2Proof.Machine
end

