-- ==== Sys2Proof/Machine/Inputs.lean ====
section
/-! DEFINITION. What comes from outside without an opcode row: errors of the memory arrays, replacement of copies, the host's reads of
function registers, and its accesses to the MSI-X table (spec/04_hierarchy.md R81, R89, R100, R101, spec/16_system.md R382, R383). -/

namespace Sys2Proof.Machine

/-! ## Errors of the arrays -/

/-- R81: an uncorrectable error in a register, scratchpad or accumulator value a wave reads: its block or task ends, and a hardware-error
record goes to the urgent lane, at the word the wave is at. Log entry 92. -/
def State.wordError (s : State) (id : WaveId) : State :=
  match s.wave? id with
  | some w => s.takeTrap id { w.record 0x15 1 w.curPc 0 0 0 0 with prec := false }
  | none => s

/-- R101: an integrity record of a page's owner, for the host port, a migration or a write-back; it names the home's package and die, and
core 0. DESIGN CHOICE (log entry 107): the spec names no place for these requesters. -/
def State.ownerRecord (s : State) (e : Entry) (det ia : Nat) : State :=
  s.due [.trapRecordPost e.owner { ctxRecord 0x09 det (BitVec.ofNat 64 (ia / 64 * 64)) 0 0 0 with
    pkg := e.home.pkg, die := e.home.stack / 4 }]

/-- R100: a sector is poisoned. Log entry 86. -/
def State.poisonAt (s : State) (sector : Nat) : State := if s.poison.contains sector then s else { s with poison := s.poison ++ [sector] }

/-- R101: a dirty home-cached line that cannot be corrected is written back poisoned; at the egress of a port its check fails (R100). -/
def State.lineError (s : State) (h : HomeId) (ia : Nat) : State :=
  match s.entry? h ia with
  | none => s
  | some e =>
    if e.loc = 0 then s
    else
      let t := s.poisonAt (e.key ia / 64)
      match e.loc with | 2 => t.ownerRecord e 5 ia | 3 => t.ownerRecord e 4 ia | _ => t

/-- R101: a clean L1 line of a core, or a non-home copy of a die, that cannot be corrected is dropped without a record. -/
def State.copyError (s : State) (pkg die : Nat) (core : Option Nat) (ia : Nat) : State :=
  match core with
  | some c => s.modCore ⟨pkg, die, c⟩ fun k => { k with l1 := dropLine k.l1 ia }
  | none => s.modDie pkg die fun d => { d with l2 := dropLine d.l2 ia }

/-! ## Replacement -/

/-- The request that evicts an L1 line of a core, or a copy of its die (R85, R89). Log entry 29. -/
def evictReq (src : CoreId) (l1 : Bool) (ia : Nat) : Req :=
  { op := 0, wave := ⟨BlkId.none, 0⟩, lane := 0, ord := 0, kind := if l1 then .evictL1 else .evict, ctx := 0, src := src, home := ⟨src.pkg, 0⟩,
    ia := ia, size := 1, pos := 0, data := [], data2 := [], strong := false, pol := .keep, seq := 0, rcv := 0, il := false, gl := 0, g := 0 }

/-! ## Function registers (R383) -/

/-- The dies of a function's partition (R387). -/
def Fn.dieCount (f : Fn) : Nat := ((List.range 576).filter fun i => f.fpart.getLsbD i).length

/-- R5, R383: what a read of a function register returns, by its BAR0 offset; a write-only one reads zero. Log entry 93. -/
def Fn.readReg (f : Fn) (off : Nat) : Option W64 :=
  match off with
  | 0x0000 => some (BitVec.ofNat 64 (f.num % 64 + f.dieCount * 2 ^ 8))
  | 0x0008 => some f.ctxtab
  | 0x0010 => some 0
  | 0x0018 => some f.ctxst
  | 0x0020 => some f.hcq
  | 0x0028 => some f.hcqpi
  | 0x0030 => some f.hcqci
  | 0x0038 => some f.hcc
  | 0x0040 => some f.hccpi
  | 0x0048 => some f.hccci
  | 0x0050 => some f.prq
  | 0x0058 => some f.prqpi
  | 0x0060 => some f.prqci
  | 0x0068 => some f.barwin
  | 0x0070 => some (BitVec.ofNat 64 Config.svreq)
  | 0x0100 => some 0
  | _ => none

/-- R387: what the PF reads of another function's settings. Log entry 93. -/
def State.readPf (s : State) (off : Nat) : Option W64 :=
  let j := (off - 0x2400) / 72
  if 0x2000 ≤ off ∧ off < 0x2200 ∧ off % 8 = 0 then
    (s.fn? ((off - 0x2000) / 8)).map fun f => BitVec.ofNat 64 (f.wf + f.hbmsh * 2 ^ 8 + f.lanesh * 2 ^ 16)
  else if 0x2400 ≤ off ∧ j < 64 ∧ off % 8 = 0 then (s.fn? j).map fun f => f.fpart.extractLsb' (64 * ((off - 0x2400) % 72 / 8)) 64
  else none

/-- A host's read of a function register; an offset that holds none is an unsupported request. Log entry 93. -/
def State.bar0Read (s : State) (fn off tag : Nat) : State :=
  match ((s.fn? fn).bind fun f => f.readReg off).or (if fn = 0 then s.readPf off else none) with
  | some v => { s with outbox := s.outbox ++ [.completion fn tag (leBytes 8 v.toNat) false] }
  | none => { s with outbox := s.outbox ++ [.unsupported fn tag] }

/-! ## MSI-X (R382) -/

/-- Vectors of a function's MSI-X table (R382). Log entry 56. -/
def vectors (fn : Nat) : Nat := if fn = 0 then 1024 else 64

/-- A 32-bit word of BAR4: the table's entries of 16 bytes from offset 0, the pending bits from 0x8000. PRESUMED (log entry 100). -/
def Fn.bar4Get (f : Fn) (off : Nat) : Option W32 :=
  if off % 4 ≠ 0 then none
  else if off < 16 * vectors f.num then
    let x := f.vector (off / 16)
    let w := if off % 16 < 8 then x.1 else x.2
    some (w.extractLsb' (8 * (off % 8)) 32)
  else if 0x8000 ≤ off ∧ off < 0x8000 + vectors f.num / 8 then
    some ((List.range 32).foldl (fun w i => if f.pba.contains (8 * (off - 0x8000) + i) then w ||| BitVec.ofNat 32 (2 ^ i) else w) 0#32)
  else none

/-- The two words of an entry with 32 bits of it written: the message address, the data, or the control with its mask bit. Log entry 100. -/
def vectorPut (x : W64 × W64) (off : Nat) (v : W32) : W64 × W64 :=
  match off % 16 / 4 with
  | 0 => (x.1.extractLsb' 32 32 ++ v, x.2)
  | 1 => (v ++ x.1.extractLsb' 0 32, x.2)
  | 2 => (x.1, x.2.extractLsb' 32 32 ++ v)
  | _ => (x.1, (v &&& 1#32) ++ x.2.extractLsb' 0 32)

/-- A write to the table; a vector no longer masked that is pending sends its message. PRESUMED (log entry 100). -/
def State.bar4Write (s : State) (fn off : Nat) (v : W32) : State :=
  match s.fn? fn with
  | none => s
  | some f =>
    let vec := off / 16
    if off % 4 ≠ 0 ∨ vectors fn ≤ vec then s
    else
      let f' := { f with msix := f.msix.set (0, 0x100000000#64) vec (vectorPut (f.vector vec) off v) }
      let send := f'.pba.contains vec && !f'.masked vec
      let s := s.modFn fn fun _ => if send then { f' with pba := f'.pba.filter fun x => x != vec } else f'
      if send then s.raise fn vec else s

/-- A read of BAR4; an offset that holds nothing is an unsupported request. Log entry 100. -/
def State.bar4Read (s : State) (fn off tag : Nat) : State :=
  match (s.fn? fn).bind fun f => f.bar4Get off with
  | some v => { s with outbox := s.outbox ++ [.completion fn tag (leBytes 4 v.toNat) false] }
  | none => { s with outbox := s.outbox ++ [.unsupported fn tag] }

/-- One input. Log entry 89. -/
def State.input (s : State) (i : Input) : State :=
  match i with
  | .wordError w => s.wordError w
  | .corrected p => s.modPkg p fun k => { k with corrected := k.corrected + 1 }
  | .hbmError h k => s.poisonAt (frameKey 1 h.pkg h.stack (64 * k) / 64)
  | .copyError p d c ia => s.copyError p d c ia
  | .lineError h ia => s.lineError h ia
  | .bar0Read fn off tag => s.bar0Read fn off tag
  | .bar4Read fn off tag => s.bar4Read fn off tag
  | .bar4Write fn off v => s.bar4Write fn off v
  | .evict c l1 ia => s.due [.l2Request (evictReq c l1 ia)]

end Sys2Proof.Machine
end

