-- ==== Sys2Proof/Machine/Control.lean ====
section
/-! DEFINITION. The control instructions (spec/10_isa_compute.md R264 to R270) and the choice of what moves next
(spec/07_execution.md R162, R167). -/

namespace Sys2Proof.Machine

/-- R264: the target of a B form. -/
def Clause.target (c : Clause) (off : W32) : W64 := c.hva + 8 * off.signExtend 64

def lanesMask (ls : List Nat) : W64 := BitVec.ofNat 64 (ls.foldl (fun a l => a + 2 ^ l) 0)

/-- R265: a transfer of the lanes T to their targets, the other active lanes to E; CALL and CALLX link in a12. -/
def State.branch (s : State) (g : Guard) (link : Bool) (tgt : Clause → Nat → W64) : State :=
  match s.wave.clause with
  | none => s
  | some c =>
    let T := s.wave.part g
    match s.badTarget s.wave T (tgt c) with
    | (some l, s) => s.trapHere 0x04 0 (tgt c l) 0 0 l
    | (none, s) =>
      let f := fun (w : Wave) =>
        T.foldl (fun w l => w.setPc l (tgt c l)) (if link && !T.isEmpty then w.setA 12 c.next else w)
      s.leave c f ((lanesOf c.lanes).filter fun l => !T.contains l)

def execBra (g : Guard) (off : W32) (s : State) : Out := .next (s.branch g false fun c _ => c.target off)
def execBrx (g : Guard) (a : Opd) (s : State) : Out := .next (s.branch g false fun _ l => s.rd true .b32 a l)
def execCall (g : Guard) (off : W32) (s : State) : Out := .next (s.branch g true fun c _ => c.target off)
def execCallx (g : Guard) (a : Opd) (s : State) : Out := .next (s.branch g true fun _ l => s.rd true .b32 a l)
def execRet (g : Guard) (s : State) : Out := .next (s.branch g false fun _ _ => s.wave.getA 12)

/-- R267: a change of MR and meeting stack in the lanes T. Log entry 23. -/
def State.meetLanes (s : State) (g : Guard) (f : Wave → Nat → Wave) : State := { s with wave := (s.wave.part g).foldl f s.wave }

/-- The target of a B form of the focus wave. -/
def State.targetHere (s : State) (off : W32) : W64 := match s.wave.clause with | some c => c.target off | none => 0

def execMeet (g : Guard) (off : W32) (s : State) : Out := .next (s.meetLanes g fun w l => w.setMr l (s.targetHere off))

/-- R267: eight entries in any lane of T: the meeting-stack fault, with the mask of those lanes. -/
def execMeets (g : Guard) (off : W32) (s : State) : Out :=
  let full := (s.wave.part g).filter fun l => decide (8 ≤ (s.wave.getStack l).length)
  .next (match full with
    | [] => s.meetLanes g fun w l => (w.setStack l (w.getMr l :: w.getStack l)).setMr l (s.targetHere off)
    | l :: _ => s.trapHere 0x0C 0 0 (lanesMask full) 0 l)

def execMeetl (g : Guard) (s : State) : Out :=
  .next (s.meetLanes g fun w l => match w.getStack l with
    | [] => w.setMr l mrNone
    | m :: r => (w.setMr l m).setStack l r)

/-- R268, R123: EXIT waits for landing; then the lanes T exit and the others go on at E. Log entry 24. -/
def execExit (g : Guard) (s : State) : Out :=
  .next (match s.wave.clause with
    | none => s
    | some c =>
      if s.settled s.wave then
        let T := s.wave.part g
        let t := s.leave c (fun w => { w with exited := T.foldl (fun m l => m ||| BitVec.ofNat 32 (2 ^ l)) w.exited })
          ((lanesOf c.lanes).filter fun l => !T.contains l)
        (if t.wave.exited = 0xFFFFFFFF#32 ∧ (t.wave.run = .run ∨ t.wave.run = .stopped) then
          ({ t with wave := { t.wave with run := .exiting } }).checkEnd s.wave.id
        else t)
      else s.await_)

/-- R269: every active lane moves to E, whatever the guard, and the other eligible waves issue first. -/
def execYield (_g : Guard) (s : State) : Out :=
  .next (match s.wave.clause with
    | none => s
    | some c => (s.leave c id (lanesOf c.lanes)).unfocus)

def execNop (_g : Guard) (s : State) : Out := .next s

/-! ## What moves next -/

/-- A word of the focus wave to perform, a due event to bring about, or a step in which no instruction runs: a decoding fault, a
wait at issue, a change of focus, or nothing to do. -/
inductive Move where
  | word (i : Instr) (t : State)
  | event (i : Instr) (t : State)
  | quiet (t : State)
  deriving DecidableEq, Repr

/-- The word the open clause stands at. -/
def Clause.word (c : Clause) : W64 := c.words.getD c.k 0

/-- The next word of the open clause c (R207, R226, R277): decoded, its operands checked, and held at issue where it must wait. -/
def State.nextWord (s : State) (c : Clause) : Move :=
  match decode c.word with
  | .error .operand => .quiet (s.trapHere 0x03 0 0 0 0 0)
  | .error _ => .quiet (s.trapHere 0x02 0 0 0 0 0)
  | .ok i =>
    if !operandsOk s.wave.cap i then .quiet (s.trapHere 0x03 0 0 0 0 0)
    else if s.issueHeld i then .quiet s.stall
    else .word i s

/-- The wave stands inside a clause. -/
def Wave.open_ (w : Wave) : Bool := w.clause.isSome && w.run == .run

/-- A wave's turn: it takes the focus to go on inside its clause, or its quadrant issues a clause. -/
def State.turnOf (s : State) (w : Wave) : Move := if w.open_ then .quiet (s.focus w.id) else .event (.clauseIssue w.core w.quad) s

/-- The issue: the focus wave's open clause goes on; else the first wave in the queue, the focus last, that stands inside a clause or is
eligible. A wave that waits at issue goes to the end of the queue, and holds no other up (R167, R177). Log entry 8. -/
def State.issue (s : State) : Move :=
  match s.wave.clause, s.wave.run with
  | some c, .run => s.nextWord c
  | _, _ =>
    match (s.waves ++ [s.wave]).find? fun w => w.open_ || s.eligible w with
    | some w => s.turnOf w
    | none => .quiet s

/-- The due event at place n. Log entries 8, 12. -/
def State.fire (s : State) (n : Nat) : Move :=
  match s.pending[n]? with
  | some e => .event e { s with pending := s.pending.eraseIdx n }
  | none => s.issue

/-- What moves next: as `order` says; where it is silent, what has come from outside, then the oldest due event and the issue in turns.
Log entries 7, 8, 89. -/
def State.nextMove (s : State) : Move :=
  match s.order with
  | [] => (match s.inputs with
    | i :: r => .quiet ({ s with inputs := r }.input i)
    | [] => if s.turn then { s with turn := false }.issue else { s with turn := true }.fire 0)
  | n :: r =>
    let s := { s with order := r }
    if n = 0 then s.issue
    else if n ≤ s.pending.length then s.fire (n - 1)
    else match s.waves[n - s.pending.length - 1]? with
      | some w => if w.open_ || s.eligible w then s.turnOf w else s.issue
      | none => (match s.inputs with
        | i :: r => .quiet ({ s with inputs := r }.input i)
        | [] => s.issue)

/-- The wave with a one-word clause open at that word, every thread active, no flag counted. Log entry 7. -/
def Wave.atWord (w : Wave) (x : W64) : Wave :=
  { w with clause := some ⟨w.getPc 0, ⟨3, 0, 0, 0, 1, false⟩, [x], 0, 0xFFFFFFFF#32⟩, exited := 0, run := .run, flags := [] }

end Sys2Proof.Machine
end

