-- ==== Sys2Proof/Machine/Complete.lean ====
section
/-! DEFINITION. Answers to operations in flight: data, landing, errors, and the completion of flag-setting operations
(spec/09_encoding.md R206, R209, spec/11_isa_memory.md R277 to R285, spec/05_consistency.md R121 to R126). -/

namespace Sys2Proof.Machine

/-! ## Elements and destinations (R273) -/

/-- The 32-bit words of an element; 1 and 2 bytes fill one register, extended as sx states. -/
def elemWords (bs : List Byte) (sx : Bool) : List W32 :=
  match bs.length with
  | 0 => []
  | 1 => [if sx then (BitVec.ofNat 8 (leVal bs)).signExtend 32 else BitVec.ofNat 32 (leVal bs)]
  | 2 => [if sx then (BitVec.ofNat 16 (leVal bs)).signExtend 32 else BitVec.ofNat 32 (leVal bs)]
  | n => (List.range (n / 4)).map fun i => BitVec.ofNat 32 (leVal ((bs.drop (4 * i)).take 4))

/-- Word j of an element to its destination register in a lane. -/
def Wave.putWord (w : Wave) (o : Opd) (l j : Nat) (x : W32) : Wave :=
  match o with
  | .v n => w.setV (n.toNat + j) l x
  | .o n => w.setO (n.toNat + j) l x
  | .s n => w.setS (n.toNat + j) x
  | .a n => w.setA n.toNat (if j = 0 then x.setWidth 64 else (w.getA n.toNat &&& 0xFFFFFFFF#64) ||| (x.setWidth 64 <<< 32))
  | _ => w

/-- The destination of a flag-setting word, the bytes of its element, and sign extension; none where it writes no register. -/
def destOf (i : Instr) : Option (Opd × Nat × Bool) :=
  match i with
  | .ld w | .ldq w | .ldc w => some (w.data, w.bytes, w.sx)
  | .lda w | .atom w | .cas w => some (w.data, w.bytes, false)
  | .atomf w => some (w.data, 4, false)
  | .await w => some (w.data, 8, false)
  | .spawn w | .xwait w | .tagwait w | .colsend w => some (w.d, 4, false)
  | .cwait w | .shape w | .shapeRel w => some (w.d, 8, false)
  | _ => none

/-- A per-thread destination. -/
def perThread (o : Opd) : Bool := match o with | .v _ | .o _ => true | _ => false

/-- The lanes whose element is written: every performed lane, or the lowest one for a per-wave destination. -/
def Op.outLanes (o : Op) (d : Opd) : List Nat := if perThread d then lanesOf o.ok else (lanesOf o.ok).take 1

/-- One destination write of an operation: (lane, word number, value). -/
def Op.outs (o : Op) : List (Nat × Nat × W32) :=
  match destOf o.ins with
  | none => []
  | some (d, n, sx) => (o.outLanes d).flatMap fun l => ((elemWords (o.bytes l n) sx).zipIdx).map fun p => (l, p.2, p.1)

/-- A register of a lane that a write names: an address register is one, whatever its width. Log entry 27. -/
def earlyKey (d : Opd) (l j : Nat) : Nat := match d with | .a _ => 8 * l | _ => 8 * l + j

/-- R280: LDC's predicate, and zero in the lanes whose check failed. -/
def Op.ldcWrites (o : Op) : List (Nat × (Wave → Wave)) :=
  match o.ins with
  | .ldc m =>
    let bad := (List.range 32).filter fun l => o.arg.get 0 l != 0#64
    let p := fun (b : Bool) (l : Nat) => (512 + l, fun (w : Wave) => w.putP m.msel.toNat [l] fun _ => b)
    (bad.flatMap fun l => (List.range ((m.bytes + 3) / 4)).map fun j => (earlyKey m.data l j, fun (w : Wave) => w.putWord m.data l j 0))
      ++ (lanesOf o.ok).map (p true) ++ bad.map (p false)
  | _ => []

/-- What an operation writes in its wave, each by the register and lane it changes. Log entry 27. -/
def Op.writes (o : Op) : List (Nat × (Wave → Wave)) :=
  (match destOf o.ins with
   | some (d, _, _) => o.outs.map fun p => (earlyKey d p.1 p.2.1, fun (w : Wave) => w.putWord d p.1 p.2.1 p.2.2)
   | none => []) ++ o.ldcWrites

/-- The writes that satisfy `sel`, made in the wave. Log entry 27. -/
def Op.write (o : Op) (sel : Nat → Bool) (w : Wave) : Wave := (o.writes.filter fun p => sel p.1).foldl (fun w p => p.2 w) w

/-- A free choice for each of some keys. -/
def State.pick (s : State) (ks : List Nat) : List Nat × State :=
  ((ks.zipIdx.filter fun p => Config.choice (s.free + p.2) % 2 == 1).map (·.1), { s with free := s.free + ks.length })

/-- R209: before an operation completes, any of its registers may already hold the value it writes, lane by lane and register by register:
a free choice. Those registers are not written again at completion. Log entry 27. -/
def State.writeEarly (s : State) (id : Nat) : State :=
  match s.op? id with
  | none => s
  | some o =>
    let (ks, t) := s.pick ((o.writes.map (·.1)).dedup)
    if ks.isEmpty then t
    else (t.modWave o.wave (o.write ks.contains)).modOp id fun o => { o with early := ks }

/-! ## Answers -/

/-- The last piece of an operation is answered: a flag-setting operation completes, a store lands; a weak store that drew an error
response has not landed, and waits for the report (R121, R125). Log entry 16. -/
def State.finishOp (s : State) (id : Nat) : State :=
  match s.op? id with
  | none => s
  | some o =>
    if o.left ≠ 0 then s
    else if (o.fault.map (·.prec)) = some false then s
    else if o.fault.isSome then s.due [if o.flag.isSome then .flagCompletion id else .storeLanded id]
    else if o.flag.isSome then
      ((s.modOp id fun o => { o with store := false }).writeEarly id |>.unwait id).due [.flagCompletion id]
    else s.due [.storeLanded id]

/-- A piece of an operation is answered with bytes. -/
def State.answer (s : State) (id l pos : Nat) (bs : List Byte) : State :=
  (s.modOp id fun o => { o.put l pos bs with left := o.left - 1 }).finishOp id

end Sys2Proof.Machine
namespace Sys2Proof
open Machine
/-- The trap code, SUB and whether a record is written, of a home's error response (R361). -/
def HomeErr.code (e : HomeErr) : Nat × Nat :=
  match e with
  | .mismatch => (0x08, 8)
  | .absent => (0x08, 9)
  | .integrity c => (0x09, c)
  | .ctxDead => (0, 0)

end Sys2Proof
namespace Sys2Proof.Machine
/-- The record of a home-detected fault of an operation, at its word (R124, R125). -/
def State.opRecord (s : State) (o : Op) (e : HomeErr) (l ia : Nat) (prec : Bool) : TrapRec :=
  let w := (s.wave? o.wave).getD { Wave.idle with id := o.wave }
  let c := e.code
  { w.record c.1 c.2 o.pc (BitVec.ofNat 64 (ia / 64 * 64)) 0 0 l with ord := o.ord % 2 ^ 32, prec := prec }

/-- A weak store (R103). -/
def Op.weakStore (o : Op) : Bool := match o.ins with | .st _ | .stq _ => true | _ => false

/-- The watches of a wait (R293, R324). -/
def Watch.of (x : Watch) (id : Nat) : Bool := match x.who with | .cwait o _ | .await o _ => o == id | .task _ _ _ => false

/-- A lane of a wait that draws an error response ends the watches of the others, which are answered with it (R338). Log entry 14. -/
def State.endWatches (s : State) (id : Nat) : State :=
  { s.modOp id fun o => { o with left := o.left - (s.watches.filter fun x => x.of id).length } with watches := s.watches.filter fun x => !x.of id }

/-- A piece of an operation is answered with an error: a weak store has not landed and is reported when the response reaches the core
(R121, R125), every other access takes the fault when all its pieces are answered; a dead context ends the wave without a record
(R139). Log entry 15. -/
def State.refusePiece (s : State) (id l ia : Nat) (e : HomeErr) : State :=
  match s.op? id with
  | none => s
  | some o =>
    match e with
    | .ctxDead => ({ s.ctxDead o.wave with ops := s.ops.filter fun x => x.id != id }).unwait id
    | _ =>
      if o.weakStore then
        if o.fault.isSome then s.modOp id fun o => { o with left := o.left - 1 }
        else
          let f := fun (o : Op) => { o with
            left := o.left - 1, arg := o.arg.set 0 65 (BitVec.ofNat 64 l), fault := some (s.opRecord o e l ia false) }
          (s.modOp id f).due [.weakStoreError id e ia]
      else
        ((s.endWatches id).modOp id fun o => { o with left := o.left - 1, fault := o.fault.or (some (s.opRecord o e l ia true)) }).finishOp id

/-- An operation leaves the machine. -/
def State.dropOp (s : State) (id : Nat) : State := { s with ops := s.ops.filter fun o => o.id != id }

/-- R126: what a wave has waiting behind a store that failed never takes effect. -/
def State.dropDeferred (s : State) (w : WaveId) : State := { s with deferred := s.deferred.filter fun d => decide (d.wave ≠ w) }

/-- R217: a word that takes a precise fault leaves its base register as it was: its number plus one stands at key 70 of the operands, its
value at key 71. -/
def Op.restoreBase (o : Op) (w : Wave) : Wave :=
  match (o.arg.get 0 70).toNat with | 0 => w | n + 1 => w.setA n (o.arg.get 0 71)

/-- A precise fault leaves the base register and the flag's count as they were before the word (R217, R338). Log entry 14. -/
def Op.undo (o : Op) (w : Wave) : Wave := match o.flag with | some g => (o.restoreBase w).flagDown g | none => o.restoreBase w

/-- A fault of an operation in flight is taken by its wave. One of a block that has already ended writes no further record, except
an integrity record (R362). Log entry 14. -/
def State.opFault (s : State) (o : Op) (r : TrapRec) : State :=
  let s := ((s.dropOp o.id).dropDeferred o.wave).unwait o.id
  let s := if r.prec then s.modWave o.wave o.undo else s
  let gone := match s.blk? o.wave.blk with | some b => b.failed | none => true
  if gone then (if r.code = 0x09 then s.due [.trapRecordPost o.ctx { r with who := none }] else s) else s.takeTrap o.wave r

/-! ## Acquires (R95, R118) -/

/-- The acquire scope an operation carries: R95's code plus one, at key 64 of its operands; zero for none. Log entry 30. -/
def Op.acquires (o : Op) : Option Scope :=
  match (o.arg.get 0 64).toNat with
  | 0 => none
  | n + 1 => decodeScope (BitVec.ofNat 3 n)

/-! ## Completion (R206) -/

/-- The operation completes: destinations not yet written, sticky flags, LDC's predicate, its acquire, and its flag. Log entry 27. -/
def State.complete (s : State) (o : Op) : State :=
  let f := fun (w : Wave) =>
    let w := o.write (fun k => !o.early.contains k) w
    match o.flag with
    | some g => (w.stick o.sticky).flagDown g
    | none => w.stick o.sticky
  let s := ((s.modWave o.wave f).dropOp o.id).unwait o.id
  let s := match o.acquires, s.wave? o.wave with
    | some sc, some w => s.acquireBump o.ctx w.core sc
    | _, _ => s
  s.checkEnd o.wave

/-- An operation whose pieces are all answered: its fault is taken, or it completes. -/
def State.flagDone (s : State) (id : Nat) : State :=
  match s.op? id with
  | none => s
  | some o => match o.fault with
    | some r => s.opFault o r
    | none => s.complete o

/-- R121: the store has landed; what waited for it alone becomes due. -/
def State.storeDone (s : State) (id : Nat) : State :=
  match s.op? id with
  | none => s
  | some o => match o.fault with
    | some r => s.opFault o r
    | none => (s.dropOp id).unwait id

/-- R125: an error response for a weak store reaches the core: the block ends with an imprecise fault. Log entry 15. -/
def execWeakStoreError (id : Nat) (e : HomeErr) (ia : Nat) (s : State) : Out :=
  .next (match s.op? id with
    | none => s
    | some o => s.opFault o (s.opRecord o e (o.arg.get 0 65).toNat ia false))

end Sys2Proof.Machine
end

