-- ==== Sys2Proof/Machine/HomePath.lean ====
section
/-! DEFINITION. The way of a request: the L2 slice of its die, its home or its scratchpad, the order point there, and the answer
(spec/03_translation_tiers.md R56 to R72, spec/04_hierarchy.md R85 to R101, spec/05_consistency.md R104, R112 to R123). -/

namespace Sys2Proof.Machine

/-! ## Watches (R173, R293, R324) -/

/-- The location of an IA at its home, as a key of watches. -/
def iaKey (h : HomeId) (ia : Nat) : Nat := ((h.pkg * 16 + h.stack) * 2 ^ 56 + ia) * 2

/-- The location of a scratchpad byte of a block, as a key of watches. -/
def scrKey (b : BlkId) (off : Nat) : Nat :=
  (((b.ctx * 2 + b.task.toNat) * 2 ^ 32 + b.launch) * 2 ^ 64 + b.idx) * 2 ^ 21 * 2 + off * 2 + 1

/-- PHASE of an object word (R291). -/
def phaseOf (w : W64) : BitVec 31 := w.extractLsb' 32 31

/-- The word `w` at its location meets a lane's watch: an AWAIT's, a new phase (R293); a CWAIT's, the threshold reached (R324). -/
def State.watchMet (s : State) (x : Watch) (w : W64) : Bool :=
  match x.who with
  | .await op l => (match s.op? op with | some o => phaseOf w != phaseOf (o.arg.get 0 l) | none => true)
  | .cwait op l => (match s.op? op with | some o => decide ((o.arg.get 0 l).toNat ≤ w.toNat) | none => true)
  | .task _ _ _ => false

/-- The lane of a watch that is met receives the word. -/
def State.answerWatch (s : State) (x : Watch) (w : W64) : State :=
  match x.who with
  | .await op l | .cwait op l => s.answer op l 0 (leBytes 8 w.toNat)
  | .task _ _ _ => s

/-- R293, R324: the watches of a kind at a location that the word there now meets are answered. -/
def State.wake (s : State) (kind : Watcher → Bool) (key : Nat) (w : W64) : State :=
  let due := s.watches.filter fun x => x.key == key && kind x.who && s.watchMet x w
  due.foldl (fun s x => s.answerWatch x w) { s with watches := s.watches.filter fun x => !due.contains x }

/-- R293: an AWAIT's lanes whose object word shows a new phase receive it. -/
def State.wakeAwaits (s : State) (key : Nat) (w : W64) : State := s.wake (fun x => match x with | .await _ _ => true | _ => false) key w

/-- R324: a CWAIT's lanes whose threshold the counter has reached receive its value. -/
def State.wakeCwaits (s : State) (key : Nat) (v : W64) : State := s.wake (fun x => match x with | .cwait _ _ => true | _ => false) key v

/-! ## Deques and ready tasks (R173, R174) -/

/-- R12: a worker core of its die; core 48 is the firmware core, which no block or task runs on. -/
def worker (c : CoreId) : Bool := decide (c.core < 48)

def Blk.holds (b : Blk) : Bool := b.state == .placed || b.state == .running || b.state == .exitRead || b.state == .over

/-- A context that is scheduled in the core's package has work on the core: a wave, or a record in its deque (R174). -/
def State.hasWork (s : State) (k : Core) (ctx : Nat) : Bool :=
  (match s.ctx? ctx with | some c => !c.off.contains k.id.pkg | none => false)
  && (k.deque.any (fun t => t.ctx == ctx) || s.blks.any fun b => b.id.ctx == ctx && decide (b.core = k.id) && b.holds)

/-- R174: a refill of a worker core's deque is due: it holds fewer than 32 records, and one waits for it in a ring. -/
def State.kickRefill (s : State) (c : CoreId) : State :=
  match s.core? c, s.pkg? c.pkg with
  | some k, some p =>
    if worker c && k.deque.length < 32 && p.ovfl.any (fun t => s.hasWork k t.ctx) && !s.pending.contains (.dequeRefill c) then s.due [.dequeRefill c]
    else s
  | _, _ => s

/-- The refills that records of a package's rings wait for. -/
def State.kickRefills (s : State) (pkg : Nat) : State :=
  match s.pkg? pkg with
  | some p => if p.ovfl.isEmpty then s else ((s.cores.filter fun k => k.id.pkg == pkg).map fun k => k.id).foldl State.kickRefill s
  | none => s

/-- A steal of a core of the die is due. Log entry 35. -/
def State.thiefDue (s : State) (pkg die : Nat) : Bool :=
  s.pending.any fun e => match e with | .taskSteal c => c.pkg == pkg && c.die == die | _ => false

/-- The first worker core of a die with an empty deque that may steal is set off, where no other steal of the die is due (R175). Log entry 35. -/
def State.askThief (s : State) (pkg die : Nat) (may : CoreId → Bool) : State :=
  if s.thiefDue pkg die then s
  else match s.cores.find? fun k => worker k.id && k.id.pkg == pkg && k.id.die == die && k.deque.isEmpty && may k.id with
    | some k => s.due [.taskSteal k.id]
    | none => s

/-- A core with records in its deque looks for one to start (R174); one without looks for a steal where its die has records (R175). -/
def State.kickTask (s : State) (c : CoreId) : State :=
  match s.core? c with
  | none => s
  | some k =>
    if k.deque.isEmpty then
      (if s.cores.any fun x => x.id.pkg == c.pkg && x.id.die == c.die && !x.deque.isEmpty then s.askThief c.pkg c.die fun i => decide (i = c) else s)
    else if s.pending.contains (.taskStart c) then s
    else s.due [.taskStart c]

/-- R152: in replay the log says where a task of the context starts: the cores it names look again. -/
def State.kickReplay (s : State) (ctx : Nat) : State :=
  match s.ctx? ctx with
  | some c => if c.replays then s.due ((s.replayTasks c).dedup.filter fun e => !s.pending.contains e) else s
  | none => s

/-- R174: a ready task goes to the head of its core's deque, or to the overflow ring of its context; with both full it stays out. Log entry 34. -/
def State.pushTask (s : State) (c : CoreId) (t : TaskRec) : Option (Bool × State) :=
  match s.core? c with
  | none => none
  | some k =>
    if k.deque.length < 64 then
      some (false, ((((s.modCore c fun k => { k with deque := t :: k.deque }).kickTask c).kickRefill c).askThief c.pkg c.die fun _ => true).kickReplay t.ctx)
    else match s.pkg? c.pkg with
      | none => none
      | some p =>
        if (p.ovfl.filter fun o => o.ctx == t.ctx).length < 4096 then
          some (true, ((s.modPkg c.pkg fun p => { p with ovfl := p.ovfl ++ [t] }).kickRefills c.pkg).kickReplay t.ctx)
        else none

end Sys2Proof.Machine
namespace Sys2Proof
open Machine
/-- The counter of a task at index k: address, scope, threshold. -/
def TaskRec.ctr (t : TaskRec) (k : Nat) : Nat × Nat × Nat := t.ctrs.getD k (0, 0, 0)

end Sys2Proof
namespace Sys2Proof.Machine
/-- Where a context's VA lies: its home and IA. -/
def State.locate (s : State) (ctx : Nat) (va : W64) (size : Nat) (k : Kind) : Option (HomeId × Nat) :=
  match s.ctx? ctx with
  | none => none
  | some c => match xlate c.ranges [] va size k with
    | .ok x => some (homeOf c (s.saltOf c) x.rng x.ia, x.ia)
    | .error 4 => (match findRange c.ranges (va.extractLsb' 0 57).toNat with
        | some r => let ia := (r.iaBase + ((va.extractLsb' 0 57).toNat - r.baseVa)) % 2 ^ 56; some (homeOf c (s.saltOf c) r ia, ia)
        | none => none)
    | .error _ => none

/-- The value the device's own read of a counter or object finds at its home (R173, R369): zero where the home has no entry or the page is
absent, the bytes as they stand in a poisoned sector. DESIGN CHOICE (log entry 109): the spec says nothing of an error there. -/
def State.homeWord (s : State) (h : HomeId) (ia : Nat) : W64 :=
  match s.entry? h ia with
  | some e => if e.loc = 0 then 0 else BitVec.ofNat 64 (leVal (s.memRead (e.key ia) 8))
  | none => 0

/-- The home holds the read of a counter (R62, R74). Log entry 88. -/
def State.ctrHeld (s : State) (h : HomeId) (ia : Nat) : Bool := match s.entry? h ia with | some e => s.pageHeld e ia 8 | none => false

/-- The counter a parked task is at. -/
def State.setCtr (s : State) (p : Parked) (k : Nat) : State :=
  s.modCtx p.task.ctx fun c => { c with parked := c.parked.map fun q => if q.task.serial = p.task.serial then { q with ctr := k } else q }

/-- R173: a parked task is ready: it is pushed, and stays parked while there is no room; while its context is switched off the readiness is
recorded among the triggered work (R357). The acquire of its readiness is made where it starts (R132). Log entry 34. -/
def State.readyTask (s : State) (p : Parked) : State :=
  let s := s.setCtr p p.task.ctrs.length
  let mark : Nat × Trig := (p.core.pkg, .ready p.task.serial)
  match s.ctx? p.task.ctx with
  | none => s
  | some c =>
    if c.off.contains p.core.pkg then
      (if c.trig.contains mark then s else s.modCtx p.task.ctx fun c => { c with trig := c.trig ++ [mark] })
    else match s.pushTask p.core p.task with
      | some (_, t) => t.modCtx p.task.ctx fun c => { c with parked := c.parked.filter fun q => q.task.serial != p.task.serial }
      | none => s

/-- R173: the parked task watches its first counter that is not met, from index k on; none unmet: it is ready. A counter whose home holds the
read (R62, R74) is read when the home goes on. Log entry 34. -/
def State.watchTask (s : State) (p : Parked) (n k : Nat) : State :=
  match n with
  | 0 => s.readyTask p
  | m + 1 =>
    let c := p.task.ctr k
    match s.locate p.task.ctx (vaOf c.1) 8 .load with
    | none => s.watchTask p m (k + 1)
    | some (h, ia) =>
      if s.ctrHeld h ia then s.setCtr p k
      else if (s.homeWord h ia).toNat ≥ c.2.2 then s.watchTask p m (k + 1)
      else
        let s := s.setCtr p k
        { s with watches := s.watches ++ [⟨iaKey h ia, .task p.task.ctx p.task.serial k, false⟩] }

/-- Parked tasks without a watch, which wait for room or for a home, are tried again from the counter they are at (R62, R173). -/
def State.retryParked (s : State) (mine : Parked → Bool) : State :=
  let idle := s.ctxs.flatMap fun c => c.parked.filter fun p => mine p && !s.watches.any fun x => match x.who with
    | .task i n _ => i == c.id && n == p.task.serial
    | _ => false
  idle.foldl (fun s p => s.watchTask p (p.task.ctrs.length - p.ctr) p.ctr) s

/-- Parked tasks that wait for room in a package (R173). -/
def State.retryReady (s : State) (pkg : Nat) : State := s.retryParked fun p => p.core.pkg == pkg && p.ctr == p.task.ctrs.length

/-- Parked tasks whose counter's home held the read (R62, R74). -/
def State.retryHeld (s : State) : State := s.retryParked fun p => decide (p.ctr < p.task.ctrs.length)

/-- R173: a counter has been incremented: the tasks that watch it are evaluated again. Log entry 34. -/
def State.wakeTasks (s : State) (key : Nat) : State :=
  let due := s.watches.filter fun x => x.key == key && (match x.who with | .task _ _ _ => true | _ => false)
  let s := { s with watches := s.watches.filter fun x => !due.contains x }
  due.foldl (fun s x => match x.who with
    | .task ctx n k => (match s.ctx? ctx with
        | some c => (match c.parked.find? fun p => p.task.serial == n with
            | some p => s.watchTask p (p.task.ctrs.length - k) k
            | none => s)
        | none => s)
    | _ => s) s

/-! ## At a home -/

/-- R49, R53, R56, R73: what a home finds for a context's access to an IA. -/
def State.homeFind (s : State) (ctx : Nat) (h : HomeId) (ia : Nat) : Except HomeErr Entry :=
  if (match s.home? h with | some x => x.dead.contains ctx | none => false) then .error .ctxDead
  else match s.entry? h ia with
    | none => .error .mismatch
    | some e => if !e.serves ctx then .error .mismatch else if e.loc = 0 then .error .absent else .ok e

/-- R393: the lanes between two packages are disabled, one of them having failed. Log entry 82. -/
def State.cut (s : State) (a b : Nat) : Bool := a != b && (s.rack.lost.contains a || s.rack.lost.contains b)

/-- R101: the failed check a request meets: the detection point, none where the sector is sound. Log entries 45, 86. -/
def State.sectorBad (s : State) (k : ReqKind) (key n : Nat) : Option Nat :=
  if s.poison.contains (key / 64) then
    match k with
    | .store => if n = 64 ∧ key % 64 = 0 ∧ !s.failing (key / 64) then none else some 2
    | .rmw _ _ => some 3
    | _ => some 0
  else none

/-- The failed check of a request at its page's frame. -/
def State.reqBad (s : State) (e : Entry) (r : Req) : Option Nat := r.spans.findSome? fun p => s.sectorBad r.kind (e.key p.2.1) p.2.2

/-- The error response a request draws, if any; one that no lane can carry ends as its context does, whose teardown has begun (R138, R393).
DESIGN CHOICE (log entry 82). -/
def State.reqErr (s : State) (r : Req) : Option HomeErr :=
  if s.cut r.src.pkg r.home.pkg then some .ctxDead
  else match s.homeFind r.ctx r.home r.ia with
    | .error e => some e
    | .ok e => (s.reqBad e r).map .integrity

/-- R61, R63: the companion word and heat counter after a request of a core, an engine or a cache. What the Hub brings from outside is
none, and sets nothing. Log entry 46. -/
def Entry.touch (e : Entry) (src : CoreId) (write : Bool) : Entry :=
  if src.die ≥ 4 then e
  else
    { e with
      acc := if src.pkg = e.home.pkg then e.acc ||| 2 ^ src.die else e.acc
      rpf := if src.pkg = e.home.pkg then e.rpf else e.rpf ||| 2 ^ (src.pkg % 56)
      d := e.d || write
      heat := min (e.heat + 1) 0xFFFF }

/-- The companion bit that stands for a source is set (R61). -/
def Entry.knows (e : Entry) (src : CoreId) : Bool :=
  if src.pkg = e.home.pkg then e.acc.testBit src.die else e.rpf.testBit (src.pkg % 56)

/-- R225: the code words a write replaces, where a context's executable range holds the IA. Log entry 26. -/
def State.noteCode (s : State) (e : Entry) (ia n : Nat) : State :=
  let ex := s.ctxs.any fun c => c.ranges.any fun r =>
    r.valid && r.ex && decide (r.iaBase < ia + n) && decide (ia < r.iaBase + (r.limVa - r.baseVa))
  if ex then
    let lo := ia / 8
    let hi := (ia + n - 1) / 8
    { s with hist := s.hist ++ ((List.range (hi + 1 - lo)).map fun i =>
        (codeKey (fnOf e.owner) e.home (8 * (lo + i)), s.seq, BitVec.ofNat 64 (leVal (s.memRead (e.key (8 * (lo + i))) 8)))) }
  else s

/-- Bytes of the trap ring descriptor's ACT, PI, CI (R365), from its context's descriptor (R385). -/
def Ctx.actIa (c : Ctx) : Nat := c.desc + 568

/-- What a write of n bytes at an IA of a function sets off in the Hub and the distributors: a trap response (R365), ordinary trap
records that wait for space (R366), waits of queues on memory (R340), the replay reader (R152). -/
def State.noticed (s : State) (fn ia n : Nat) : List Instr :=
  (s.ctxs.filter fun c => fnOf c.id == fn).flatMap fun c =>
    let k := (s.devWord fn (c.desc + 552)).toNat
    let resp : List Instr :=
      if ia < c.actIa + 8 ∧ c.actIa < ia + n then
        (match (s.devWord fn c.actIa).toNat % 4 with
         | 1 => [.trapResponseResume c.id k]
         | 2 => [.trapResponseStklim c.id k (s.devWord fn (c.desc + 560))]
         | 3 => [.trapResponseEnd c.id k]
         | _ => [])
      else []
    let posts : List Instr := match c.trapq with | [] => [] | r :: _ => [.trapRecordPost c.id r]
    let waits : List Instr := (c.queues.filter fun q => !q.hold.isEmpty).map fun q => .waitRecheck c.id q.num
    let recs : List Instr := if c.replays then (c.rings.filter fun r => ia < r.desc + 16 && r.desc + 8 < ia + n).map fun r => .replayReaderTake c.id r.lpkg else []
    resp ++ (posts ++ waits ++ recs).filter fun e => !s.pending.contains e

/-- Bytes written to a page at its home, with what the write sets off. Log entry 45. -/
def State.frameWrite (s : State) (e : Entry) (ia : Nat) (bs : List Byte) : State :=
  let s := (s.noteCode e ia bs.length).framePut e ia bs
  s.due (s.noticed (fnOf e.owner) ia bs.length)

/-- R59, R389: a read of n bytes of a host or CXL frame leaves its port; a host frame's as a request of the owner's function. -/
def State.portRead (s : State) (e : Entry) (ia n : Nat) : State := s.egress e ia n none

/-- R72: the AtomicOp a read-modify-write of n bytes on a host frame is performed as: add, swap, compare-and-swap of 4 or 8 bytes, where
the root complex completes them. -/
def State.atomicCode (s : State) (e : Entry) (op : Rmw) (n : Nat) : Option Nat :=
  let on := match s.pkg? e.home.pkg with | some p => p.rcAtomics | none => false
  if !on || e.loc != 3 || (n != 4 && n != 8) then none
  else match op with
    | .add | .csig => some 0
    | .swap => some 1
    | .cas => some 2
    | _ => none

/-- The AtomicOp of a request. -/
def State.atomicOp (s : State) (e : Entry) (r : Req) : Option Nat :=
  match r.kind with | .rmw op _ => if r.il then none else s.atomicCode e op r.size | _ => none

/-- An AtomicOp leaves the port: the operand, the new value of a compare-and-swap; the bytes it leaves are `bs` (R72). -/
def State.sendAtomic (s : State) (e : Entry) (ia k : Nat) (d d2 bs : List Byte) (changes : Bool) : State :=
  let t := if changes then (s.noteCode e ia bs.length).frameSet e ia bs else s
  { t with outbox := t.outbox ++ [Sent.atomicOp (fnOf e.owner) (e.faddr + (ia - e.ia)) k d d2] }.due
    (if changes then s.noticed (fnOf e.owner) ia bs.length else [])

/-- The bytes of a request's location. -/
def State.reqRead (s : State) (e : Entry) (r : Req) : List Byte := r.spans.flatMap fun p => s.memRead (e.key p.2.1) p.2.2

/-- What a request does to its location, where it leaves bytes `bs`: an AtomicOp of the host port, which compares there; else the home
reads what it needs of a host frame (R59), and writes where the request changes the location. -/
def State.reqWrite (s : State) (e : Entry) (r : Req) (bs : List Byte) (changes : Bool) : State :=
  match s.atomicOp e r with
  | some k => s.sendAtomic e r.ia k r.data r.data2 bs changes
  | none =>
    let t := if r.kind == .store then s else r.spans.foldl (fun s p => s.portRead e p.2.1 p.2.2) s
    if changes then r.spans.foldl (fun s p => s.frameWrite e p.2.1 ((bs.drop p.1).take p.2.2)) t else t

/-- The operation performed on a request's bytes at its location: the old bytes, the bytes it leaves, sticky flags. -/
def reqApply (r : Req) (old : List Byte) : List Byte × Nat :=
  match r.kind with
  | .store => (r.data, 0)
  | .rmw op ftz => rmwApply op ftz old r.data r.data2
  | _ => (old, 0)

end Sys2Proof.Machine
namespace Sys2Proof
open Machine
/-- A request changes its location: a store, or a read-modify-write but for a comparison that fails (R61, R123). -/
def Req.changes (r : Req) (old : List Byte) : Bool :=
  match r.kind with | .store => true | .rmw .cas _ => old == r.data | .rmw _ _ => true | _ => false

end Sys2Proof
namespace Sys2Proof.Machine
/-- The record type of a strong request (R144), and whether it belongs to a wave's word. -/
def reqTyp (k : ReqKind) : Nat := match k with | .rmw .arv _ => 0x03 | .rmw .csig _ => 0x06 | _ => 0x01

/-- R144: the payload of a strong request's event: the word after an arrival or a signal, zero for a store or a RED, else the value
returned. Log entry 47. -/
def State.reqPay (s : State) (r : Req) (old new : List Byte) : W64 :=
  match r.kind with
  | .rmw .arv _ => foldPay new
  | .rmw .csig _ => foldPay new
  | .store => 0
  | .rmw _ _ => (match s.op? r.op with | some o => if o.flag.isSome then foldPay old else 0 | none => 0)
  | _ => foldPay old

/-- The event of a strong request. -/
def State.reqEv (s : State) (lpkg opt : Nat) (r : Req) : LogEv :=
  { s.waveEv lpkg opt (reqTyp r.kind) r.wave r.lane r.ord with ph := r.size == 16 && !(r.kind == .store) }

/-- What a performed request sets off at its location: sticky flags, watches, the acquire of a wait that finds its condition met. -/
def State.reqEffect (s : State) (r : Req) (key : Nat) (old new : List Byte) (fl : Nat) : State :=
  let w := BitVec.ofNat 64 (leVal new)
  let s := if fl = 0 then s else s.modOp r.op fun o => if o.flag.isSome then { o with sticky := o.sticky ||| fl } else o
  match r.kind with
  | .rmw .arv _ => s.wakeAwaits key w
  | .rmw .csig _ => (s.wakeCwaits key w).wakeTasks key
  | .tryRead thr =>
    -- AWAIT.try and CWAIT.try acquire only where they find the condition met
    let met := match (s.op? r.op).map (fun o => o.ins) with
      | some (Instr.await _) => phaseOf (BitVec.ofNat 64 (leVal old)) != phaseOf (BitVec.ofNat 64 thr)
      | _ => decide (thr ≤ leVal old)
    if met then s.modOp r.op fun o => { o with arg := o.arg.set 0 64 (o.arg.get 0 67) } else s
  | _ => s

end Sys2Proof.Machine
namespace Sys2Proof
open Machine
/-- The bytes a performed request returns. -/
def Req.returns (r : Req) (old : List Byte) : List Byte :=
  match r.kind with | .store | .rmw .arv _ | .rmw .csig _ => [] | _ => old

end Sys2Proof
namespace Sys2Proof.Machine
/-- A request performed where its data is at hand: the answer to its operation, and what it sets off. -/
def State.reqDone (s : State) (r : Req) (key : Nat) (old new : List Byte) (fl : Nat) : State :=
  (s.modOp r.op fun o => { o with cleared := true }).reqEffect r key old new fl |>.answer r.op r.lane r.pos (r.returns old)

/-- R293, R324: a waiting AWAIT or CWAIT, evaluated at registration: answered, or watching the location. -/
def State.waitRead (s : State) (r : Req) (key : Nat) (old : List Byte) : Option State :=
  let w := BitVec.ofNat 64 (leVal old)
  match r.kind, s.op? r.op with
  | .load, some o =>
    (match o.ins with
     | .await _ =>
       some (if phaseOf w != phaseOf (o.arg.get 0 r.lane) then s.answer r.op r.lane r.pos old
         else { s with watches := s.watches ++ [⟨key, .await r.op r.lane, r.il⟩] })
     | .cwait _ =>
       some (if (o.arg.get 0 r.lane).toNat ≤ w.toNat then s.answer r.op r.lane r.pos old
         else { s with watches := s.watches ++ [⟨key, .cwait r.op r.lane, r.il⟩] })
     | _ => none)
  | _, _ => none

/-! ## At a scratchpad (R82, R83) -/

def Blk.scrRead (b : Blk) (off n : Nat) : List Byte := readBytes b.scratch off n
def State.scrWrite (s : State) (b : BlkId) (off : Nat) (bs : List Byte) : State :=
  s.modBlk b fun x => { x with scratch := writeBytes x.scratch off bs }

/-! CMDQ (R311). -/
def Blk.roff (b : Blk) : Nat := (b.cmdq.extractLsb' 0 20).toNat
def Blk.logn (b : Blk) : Nat := (b.cmdq.extractLsb' 20 4).toNat
def Blk.noff (b : Blk) : Nat := (b.cmdq.extractLsb' 24 20).toNat
/-- The notify word as the ring's indices give it. -/
def Blk.notify (b : Blk) : W64 := BitVec.ofNat 64 (b.wi % 2 ^ 32 + b.ri % 2 ^ 32 * 2 ^ 32)

/-- A command published at index i, its words still in the ring. -/
def Cmd.at_ (i : Nat) (words : List W64) (w : Option WaveId) (ord : Nat) (xring ftz : Bool) : Cmd :=
  { idx := i, words := words, wave := w, ord := ord, xring := xring, ftz := ftz, srcOk := false, taken := false, srcd := false, done := false, status := 0,
    fcode := 0, left := 0, failed := false, box := 0, acq := 0, rel := 0, land := 0, slots := [] }

/-- R311: entries from WI up to v are published by wave w's word. -/
def State.publish (s : State) (b : BlkId) (v : Nat) (w : WaveId) (ord : Nat) : State :=
  match s.blk? b with
  | none => s
  | some x =>
    let n := (v + 2 ^ 32 - x.wi) % 2 ^ 32
    let ftz := match s.wave? w with | some y => y.ftz | none => false
    let new := (List.range n).map fun i => Cmd.at_ ((x.wi + i) % 2 ^ 32) [] (some w) ord false ftz
    -- the publication is a release at .core (R129): the engine takes the entries when what it covers has landed
    (s.modBlk b fun x => { x with wi := v, cmds := x.cmds ++ new }).release w 0 (new.map fun _ => Instr.commandTake b)

/-- A thread's store of bytes at a scratchpad offset. Where it touches the block's notify word, RI is left unchanged, and WI moves only
within the ring, publishing entries (R311); the value that would overrun the ring otherwise. -/
def State.scrStore (s : State) (b : BlkId) (off : Nat) (bs : List Byte) (w : WaveId) (ord : Nat) : Except W64 State :=
  match s.blk? b with
  | none => .ok s
  | some x =>
    let n := x.noff
    let mem := writeBytes x.scratch off bs
    if x.logn = 0 ∨ off + bs.length ≤ n ∨ n + 8 ≤ off then .ok (s.modBlk b fun x => { x with scratch := mem })
    else
      let v := leVal (readBytes mem n 4)
      if (v + 2 ^ 32 - x.wi) % 2 ^ 32 ≤ 2 ^ x.logn - (x.wi + 2 ^ 32 - x.ri) % 2 ^ 32 then
        let mem := writeBytes mem (n + 4) (leBytes 4 x.ri)
        .ok ((s.modBlk b fun x => { x with scratch := mem }).publish b v w ord)
      else .error (BitVec.ofNat 64 v)

/-- The block whose scratchpad a request names: a block of its wave's cluster, by its core. -/
def State.scrTarget (s : State) (r : Req) : Option Blk :=
  match s.blk? r.wave.blk with
  | none => none
  | some b =>
    let at_ := fun (x : Blk) => x.core.pkg == r.home.pkg && 16 + 64 * x.core.die + x.core.core == r.home.stack
    if at_ b then some b else b.cluster.findSome? fun i => match s.blk? i with | some x => if at_ x then some x else none | none => none

/-- A scratchpad as the place of a request. -/
def scrHome (c : CoreId) : HomeId := ⟨c.pkg, 16 + 64 * c.die + c.core⟩

/-! ## Orders kept on the way -/

/-- The request of a due event on the way to a home. -/
def reqOf (e : Instr) : Option Req :=
  match e with
  | .l2Request r | .homeAccess r | .arvPerform r | .counterSignalPerform r => some r
  | _ => none

end Sys2Proof.Machine
namespace Sys2Proof
open Machine
/-- A span of n bytes at an IA and a request have a byte in common. -/
def Req.meets (r : Req) (ia n : Nat) : Bool := r.spans.any fun p => decide (ia < p.2.1 + p.2.2) && decide (p.2.1 < ia + n)

def Req.overlaps (a b : Req) : Bool := decide (a.home = b.home) && a.spans.any fun p => b.meets p.2.1 p.2.2

/-- The lines a request touches. -/
def Req.lines (r : Req) : List Nat := (r.spans.map fun p => lineOf p.2.1).dedup

/-- A request of a wave's word: PREF and the Hub have none. -/
def Req.ofOp (r : Req) : Bool := r.op != 0

end Sys2Proof
namespace Sys2Proof.Machine
/-- The requests a home holds, for a shoot-down of their page or for their row (R62, R74). -/
def State.homeHeld (s : State) : List Req := s.pageops.flatMap (fun p => p.reqs) ++ s.homes.flatMap fun h => h.rows.flatMap fun x => x.held

/-- The requests on their way: due, behind a release, held at an order point, or held by a home. Log entry 29. -/
def State.onWay (s : State) : List Req :=
  s.pending.filterMap reqOf ++ s.deferred.flatMap (fun d => d.evs.filterMap reqOf)
    ++ (s.held.filter fun h => !h.again).filterMap (fun h => reqOf h.ev) ++ s.homeHeld

/-- A number that no operation in flight has, nor one that a request on its way or a write-combining buffer names. Log entry 31. -/
def State.freshId (s : State) : Nat :=
  (s.ops.map (·.id) ++ s.onWay.map (·.op) ++ s.cores.flatMap fun c => c.wc.flatMap fun b => b.ops).foldl max s.seq + 1

/-- LDQ and STQ make one access for every thread of the wave (R279). -/
def State.waveWide (s : State) (r : Req) : Bool :=
  match s.op? r.op with | some o => (match o.ins with | .ldq _ | .stq _ => true | _ => false) | none => false

/-- A write-combining buffer of the request's core holds older stores to its bytes. Log entries 28, 90. -/
def State.bufWait (s : State) (r : Req) : Bool :=
  match s.core? r.src with
  | none => false
  | some c => c.wc.any fun b => decide (b.home = r.home) && decide (b.seq < r.seq)
      && r.spans.any fun p => (List.range p.2.2).any fun i => lineOf (p.2.1 + i) == b.ia && b.valid (p.2.1 + i - b.ia)

/-- R108, R112, R113, R276: a request waits for an older one of its thread, or of its own instruction, that touches the same bytes, and
for a write-combining buffer of its core that holds some of them. Log entry 13. -/
def State.overlapWait (s : State) (r : Req) : Bool :=
  s.bufWait r || s.onWay.any fun q =>
    decide (q.seq < r.seq) && decide (q.wave = r.wave) && q.overlaps r && (q.lane == r.lane || q.op == r.op || s.waveWide q || s.waveWide r)

/-- R117: a strong access reaches its die's strong-order point, or its scratchpad, after every older strong access of its thread has,
except that a load may pass a store to another location. Log entry 13. -/
def State.progWait (s : State) (r : Req) : Bool :=
  r.strong && s.onWay.any fun q =>
    q.strong && q.rcv == 0 && decide (q.seq < r.seq) && decide (q.wave = r.wave) && q.lane == r.lane && q.op != r.op
    && !(q.kind == .store && r.kind == .load && !q.overlaps r)

/-- R112: a request waits for an older weak store of its die to its bytes that the die has taken on: a copy of the die may have shown
it. Log entries 13, 29. -/
def State.dieWait (s : State) (r : Req) : Bool :=
  s.onWay.any fun q =>
    q.kind == .store && !q.strong && q.rcv != 0 && decide (q.rcv < r.rcv) && q.src.pkg == r.src.pkg && q.src.die == r.src.die && q.overlaps r

/-- R117: a die's strong accesses reach each home in the order in which its strong-order point took them on; between dies nothing is kept
(R118). Log entry 13. -/
def State.fifoWait (s : State) (r : Req) : Bool :=
  r.strong && (s.pending.filterMap reqOf ++ s.homeHeld).any fun q =>
    q.strong && q.rcv != 0 && decide (q.rcv < r.rcv) && decide (q.home = r.home) && q.src.pkg == r.src.pkg && q.src.die == r.src.die

/-- A request whose operation has drawn an error response, or has ended with its wave: it has no effect (R50). -/
def State.lapsed (s : State) (r : Req) : Bool := r.ofOp && (match s.op? r.op with | none => true | some o => o.fault.isSome)

/-- The copies of a request's lines in its core and die are invalidated. -/
def State.dropCopies (s : State) (r : Req) : State :=
  let drop := fun (ls : List Line) => r.lines.foldl dropLine ls
  (s.modCore r.src fun c => { c with l1 := drop c.l1 }).modDie r.src.pkg r.src.die fun d => { d with l2 := drop d.l2 }

/-- A weak store that its die has taken on and that changes no memory leaves no copy that shows it (R50). Log entry 45. -/
def State.unshow (s : State) (r : Req) : State := if r.kind == .store && !r.strong && r.rcv != 0 then s.dropCopies r else s

/-- A lapsed request is answered. -/
def State.lapse (s : State) (r : Req) : State := ((s.unshow r).modOp r.op fun o => { o with left := o.left - 1 }).finishOp r.op

/-! ## Error responses to the other lanes (R50, R296) -/

/-- The error response that the drain of a buffer draws. -/
def State.bufErr (s : State) (b : WcBuf) : Option HomeErr :=
  match s.homeFind b.ctx b.home b.ia with
  | .error e => some e
  | .ok e => if s.poison.contains (e.key b.ia / 64) && !((List.range 64).all b.valid) then some (.integrity 2) else none

/-- The error response that a request of an operation on its way, or one of `own`, would draw, that of the lowest lane, else a buffer that holds
its bytes, with the lane and IA; the buffer of line `skip` apart. Log entry 15. -/
def State.opErr (s : State) (op : Nat) (own : List Req) (skip : Option Nat) : Option (Nat × Nat × HomeErr) :=
  let errs := ((own ++ s.onWay).filter fun q => q.op == op && decide (q.home.stack < 16)).filterMap fun q => (s.reqErr q).map fun e => (q.lane, q.ia, e)
  (errs.foldl (fun a x => match a with | some y => if x.1 < y.1 then some x else a | none => some x) none).or
    (s.cores.findSome? fun c => c.wc.findSome? fun b =>
      if b.ops.contains op && some b.ia != skip then (s.bufErr b).map fun e => (0, b.ia, e) else none)

/-- R50, R296: an access one lane of which would draw an error response changes no memory in any lane, and a strong one performs none:
the request of the instruction that draws one, and the error. It is looked for until a lane has been performed. -/
def State.siblingErr (s : State) (r : Req) : Option (Req × HomeErr) :=
  if !(r.kind.writes || r.strong) || (match s.op? r.op with | some o => o.cleared | none => true) then none
  else (s.opErr r.op [r] none).map fun x => ({ r with lane := x.1, ia := x.2.1 }, x.2.2)

/-! ## At a scratchpad (R82, R83) -/

/-- A request performed at its scratchpad, a strong one under the order point of R141. -/
def State.scrAccess (s : State) (ev : Instr) (r : Req) : State :=
  match s.scrTarget r with
  | none => s.refusePiece r.op r.lane r.ia .ctxDead
  | some b =>
    let lp := match s.ctx? r.ctx with | some c => c.logical b.core.pkg | none => 0
    let perform := fun (s : State) =>
      let old := b.scrRead r.ia r.size
      let x := reqApply r old
      match (if r.kind.writes then s.scrStore b.id r.ia x.1 r.wave r.ord else .ok s) with
      | .ok t => (t.reqDone r (scrKey b.id r.ia) old x.1 x.2, s.reqPay r old x.1)
      | .error v =>
        let f := fun (o : Op) =>
          let w := (s.wave? o.wave).getD Wave.idle
          let rec_ := { w.record 0x0E 0 o.pc (BitVec.ofNat 64 b.noff) v 0 r.lane with ord := o.ord % 2 ^ 32 }
          { o with left := o.left - 1, fault := some rec_ }
        ((s.modOp r.op f).finishOp r.op, 0)
    match s.siblingErr r, s.waitRead r (scrKey b.id r.ia) (b.scrRead r.ia r.size) with
    | some (q, e), _ => s.refusePiece r.op q.lane q.ia e
    | none, some t => t
    | none, none => if r.strong then s.atPoint (s.reqEv lp (optId 1 lp b.core.die b.core.core) r) ev perform else (perform s).1

/-! ## L2 (R86 to R89) -/

def homeDie (h : HomeId) : Nat × Nat := (h.pkg, h.stack / 4)

/-- A store of the die to the line is still on its way, or in a write-combining buffer of its cores: a fill that misses it is not kept. -/
def State.storeOnWay (s : State) (c : CoreId) (ia : Nat) : Bool :=
  (s.onWay.any fun q => q.kind.writes && q.lines.contains (lineOf ia) && q.src.pkg == c.pkg && q.src.die == c.die)
  || s.cores.any fun k => k.id.pkg == c.pkg && k.id.die == c.die && k.wc.any fun b => b.ia == lineOf ia

/-- R85, R94: a load allocates an L1 line under its policy; the line is kept only where the generation is that of the request. Log entry 45. -/
def State.fillL1 (s : State) (r : Req) (d : List Byte) : State :=
  let same := match s.core? r.src with | some c => c.gl.get 0 r.ctx == r.gl | none => false
  if r.pol.inL1 && same && !s.storeOnWay r.src r.ia then s.allocL1 r.src r.ia r.ctx r.gl d else s

/-- A weak store of the die, or of the core where one is given, that the die has taken on and the home has not performed has bytes in
common with a span: the copies already hold it, and it stands later in the coherence order than what the home performs now (R112). Log entry 45. -/
def State.shown (s : State) (pkg die : Nat) (core : Option CoreId) (ia n : Nat) : Bool :=
  s.onWay.any fun q => q.kind == .store && !q.strong && q.rcv != 0 && q.src.pkg == pkg && q.src.die == die && q.meets ia n
    && (match core with | some c => decide (q.src = c) | none => true)

/-- Bytes that the home performs now, in the copies of a list: each where no store shown there is later. -/
def State.putLines (s : State) (pkg die : Nat) (core : Option CoreId) (ls : List Line) (ia : Nat) (bs : List Byte) : List Line :=
  if s.shown pkg die core ia bs.length then
    bs.zipIdx.foldl (fun ls b => if s.shown pkg die core (ia + b.2) 1 then ls else updLines ls (ia + b.2) [b.1]) ls
  else updLines ls ia bs

/-- R86, R89: a write of a core or its engines that the home performs updates the copies of its die, and the L1 lines of its core. Log entry 45. -/
def State.putCopies (s : State) (c : CoreId) (ia : Nat) (bs : List Byte) : State :=
  (s.modCore c fun k => { k with l1 := s.putLines c.pkg c.die (some c) k.l1 ia bs }).modDie c.pkg c.die fun d =>
    { d with l2 := s.putLines c.pkg c.die none d.l2 ia bs }

/-- A weak store updates the copies of its core and die (R85, R86). -/
def State.updCopies (s : State) (r : Req) (bs : List Byte) : State :=
  let upd := fun (ls : List Line) => r.spans.foldl (fun ls p => updLines ls p.2.1 ((bs.drop p.1).take p.2.2)) ls
  (s.modCore r.src fun c => { c with l1 := upd c.l1 }).modDie r.src.pkg r.src.die fun d => { d with l2 := upd d.l2 }

/-- A copy shows other bytes of a request's spans than `bs`. Log entry 110. -/
def Line.differs (x : Line) (r : Req) (bs : List Byte) : Bool :=
  r.spans.any fun p => x.ia == lineOf p.2.1 && lineBytes x p.2.1 p.2.2 != (bs.drop p.1).take p.2.2

/-- R85, R112: a load returns bytes that an L1 line of its core does not show: the line is evicted, for a later load of the thread must
return no older write, and other cores' stores never update L1. DESIGN CHOICE (log entry 110). -/
def State.seenL1 (s : State) (r : Req) (bs : List Byte) : State :=
  s.modCore r.src fun c => { c with l1 := c.l1.filter fun x => !x.differs r bs }

/-- R112: the same of the copies of its die; a pinned one keeps its place (R93) and takes the bytes read, but for those that a store of
the die on its way has written there. DESIGN CHOICE (log entry 110). -/
def State.seen (s : State) (r : Req) (bs : List Byte) : State :=
  (s.seenL1 r bs).modDie r.src.pkg r.src.die fun d =>
    let gone := (d.l2.filter fun x => x.pin.isNone && x.differs r bs).map (·.ia)
    let d := gone.foldl (fun d ia => d.drop ia) d
    { d with l2 := d.l2.map fun x =>
        if x.differs r bs then
          { x with data := (r.spans.foldl (fun ls p => s.putLines r.src.pkg r.src.die none ls p.2.1 ((bs.drop p.1).take p.2.2)) [x]).flatMap (·.data) }
        else x }

/-- R90, R93: an access with effective policy pin pins its line: a present copy of its die, else the line at its home. Log entry 44. -/
def State.pinFor (s : State) (r : Req) : State :=
  if r.pol != .pin then s
  else
    let has := match s.die? r.src.pkg r.src.die with | some d => d.l2.any fun x => x.ia == lineOf r.ia | none => false
    if (r.src.pkg, r.src.die) != homeDie r.home && !r.strong && has then s.pinCopy r.ctx r.src.pkg r.src.die r.ia else s.pinHome r.ctx r.home r.ia

/-- The request is at its die: it takes its place in the order in which the die takes requests on, with the die's generation; a core of a
region counts in the line's run (R88, R94, R117). -/
def State.receive (s : State) (r : Req) : Req × State :=
  let (g, present) := match s.die? r.src.pkg r.src.die with
    | some d => (d.g.get 0 r.ctx, (r.src.pkg, r.src.die) == homeDie r.home || d.l2.any fun x => x.ia == lineOf r.ia)
    | none => (0, false)
  let s := { s with seq := s.seq + 1 }
  let s := if present && decide (r.src.core < 48) then s.routeLine r.src r.ia else s
  ({ r with rcv := s.seq, g := g }, s)

/-- R89: what the L2 does with a request it has taken on: a valid copy serves a load, a weak store updates the copies of its core and die;
what the home must serve goes on. -/
def State.atL2 (s : State) (r : Req) : State :=
  match r.kind with
  | .load =>
    let hit := match s.die? r.src.pkg r.src.die with
      | some d => if (r.src.pkg, r.src.die) == homeDie r.home || r.strong || !r.pol.cached then none
          else d.l2.find? fun (x : Line) => x.valid r.ctx r.g r.ia
      | none => none
    (match hit with
     | some x => (((s.pinFor r).seenL1 r (lineBytes x r.ia r.size)).fillL1 r x.data).answer r.op r.lane r.pos (lineBytes x r.ia r.size)
     | none => s.due [r.atHome])
  | .store => (if r.strong then s else s.updCopies r r.data).due [r.atHome]
  | _ => s.due [r.atHome]

/-- Replacement may take a copy: it is unpinned, and allocated under policy strm where its slice holds such a one (R90, R93). Log entry 29. -/
def Die.evictable (d : Die) (ia : Nat) : Bool :=
  !d.isPinned ia
  && (d.l2.all fun x => x.ia != lineOf ia || x.strm || !d.l2.any fun y => y.strm && y.pin.isNone && d.place y.ia == d.place ia)

/-- L2_REQUEST: a request reaches its die's L2 and strong-order point (R86 to R89, R117); the eviction of a copy drops it. Log entries 13, 29. -/
def execL2Request (r : Req) (s : State) : Out :=
  .next (match r.kind with
    | .evict => s.modDie r.src.pkg r.src.die fun d => if d.evictable r.ia then d.drop r.ia else d
    | .evictL1 => s.modCore r.src fun c => { c with l1 := c.l1.filter fun x => x.ia != lineOf r.ia }
    | _ =>
      if s.lapsed r then s.lapse r
      else if s.overlapWait r || s.progWait r then s.due [.l2Request r]
      else let x := s.receive r; x.2.atL2 x.1)

/-- R85, R89, R91, R94: the copies a served load leaves behind: an L1 line and, off the home die, a non-home copy, kept only while the
generations are those of the request; an access with policy pin pins. Log entries 44, 45. -/
def State.fillCopies (s : State) (r : Req) (e : Entry) : State :=
  if r.strong || r.kind != .load then s.pinFor r
  else if !r.pol.cached then s
  else
    let d64 := s.memRead (e.key (lineOf r.ia)) 64
    let s := s.fillL1 r d64
    let away := decide ((r.src.pkg, r.src.die) ≠ homeDie r.home)
    let same := match s.die? r.src.pkg r.src.die with | some d => d.g.get 0 r.ctx == r.g | none => false
    (if away && same && !s.storeOnWay r.src r.ia then s.allocL2 r.src.pkg r.src.die r.ia r.ctx r.g d64 (r.pol == .strm) else s).pinFor r

/-! ## HOME_ACCESS (R56) -/

/-- The order point of a home (R141). -/
def State.homeEv (s : State) (r : Req) : LogEv :=
  let lp := match s.ctx? r.ctx with | some c => c.logical r.home.pkg | none => 0
  s.reqEv lp (optId 0 lp (r.home.stack / 4) r.home.stack) r

/-- R85, R89, R112: the copies of the requester's core and die after a request has been performed at the home: a strong store updates
them, a read-modify-write invalidates them, a read of the current value leaves none that shows an older one. -/
def State.copiesAfter (s : State) (r : Req) (old : List Byte) : State :=
  match r.kind with
  | .store => if r.strong then r.spans.foldl (fun s p => s.putCopies r.src p.2.1 ((r.data.drop p.1).take p.2.2)) s else s
  | .rmw _ _ => s.dropCopies r
  | _ => s.seen r old

end Sys2Proof.Machine
namespace Sys2Proof
open Machine
/-- The payload of an access to a host frame comes with its completion (R142). -/
def Req.paysLate (r : Req) (e : Entry) : Option Nat := if e.loc = 3 ∧ r.kind ≠ .store then some r.seq else none

end Sys2Proof
namespace Sys2Proof.Machine
/-- A request performed on its frame. What is read from a host frame, or loaded from a CXL frame, comes back with a completion of the
port; its payload goes with it (R142). -/
def State.homeServe (s : State) (r : Req) (e : Entry) : State × W64 :=
  let old := s.reqRead e r
  let x := reqApply r old
  let pay := s.reqPay r old x.1
  let t := s.reqWrite e r x.1 (r.changes old)
  let t := (t.modEntry r.home r.ia fun e => e.touch r.src (r.changes old)).copiesAfter r old
  let t := t.modOp r.op fun o => { o with cleared := true }
  let key := iaKey r.home r.ia
  if (e.loc = 3 ∧ r.kind ≠ .store) ∨ (e.loc = 2 ∧ r.kind = .load) then
    ((t.reqEffect r key old x.1 x.2).due
      [.readCompletionReturns { r with kind := .load, data := r.returns old, data2 := leBytes 8 pay.toNat }], pay)
  else ((t.fillCopies r e).reqDone r key old x.1 x.2, pay)

/-- A request that draws an error response, the one `q` of its instruction that does: it has reached the home and counts (R61, R63), and
a weak store leaves no copy that shows it (R50, R99, R101). Log entry 45. -/
def State.homeRefuse (s : State) (r q : Req) (e : HomeErr) : State :=
  ((s.modEntry r.home r.ia fun e => e.touch r.src false).unshow r).refusePiece r.op q.lane q.ia e

/-- One lane's request at its home, under its order point when it is strong. -/
def State.homeOne (s : State) (ev : Instr) (r : Req) : State :=
  match (s.siblingErr r).or ((s.reqErr r).map fun e => (r, e)) with
  | some (q, e) => s.homeRefuse r q e
  | none =>
    match s.entry? r.home r.ia with
    | none => s
    | some e =>
      match s.waitRead r (iaKey r.home r.ia) (s.reqRead e r) with
      | some t => (t.copiesAfter r (s.reqRead e r)).modEntry r.home r.ia fun e => e.touch r.src false
      | none => if r.strong then s.atPointLate (s.homeEv r) ev (r.paysLate e) fun s => s.homeServe r e else (s.homeServe r e).1

/-- R276: the strong requests of one instruction to one location, in ascending lane order, are performed one after another: those
still on their way are taken from the due events with the one that arrives. -/
def State.sameLoc (s : State) (r : Req) : List Req :=
  if r.strong && r.kind.writes then
    s.pending.filterMap fun e => match reqOf e with | some q => if q.op = r.op ∧ q.home = r.home ∧ q.ia = r.ia ∧ r.lane < q.lane then some q else none | none => none
  else []

def State.takeReqs (s : State) (qs : List Req) : State :=
  { s with pending := s.pending.filter fun e => match reqOf e with | some q => !qs.contains q | none => true }

/-- A request held by its home: during a shoot-down of its page, or for its row (R62, R74). -/
def State.homeHolds (s : State) (r : Req) : Option Entry :=
  match s.entry? r.home r.ia with
  | some e => if e.mst = 5 ∨ (s.reqRow e r).isSome then some e else none
  | none => none

/-- A request reaches the page's home, or the scratchpad that holds its bytes. -/
def State.reqArrive (s : State) (r : Req) : State :=
  if s.lapsed r then s.lapse r
  else
    let qs := s.sameLoc r
    if r.home.stack ≥ 16 then
      (if s.overlapWait r || s.progWait r then s.due [r.atHome]
       else qs.foldl (fun s q => s.scrAccess q.atHome q) ((s.takeReqs qs).scrAccess r.atHome r))
    else if s.dieWait r || s.fifoWait r then s.due [r.atHome]
    else match s.homeHolds r with
      | some e => s.holdReq e r
      | none => qs.foldl (fun s q => s.homeOne q.atHome q) ((s.takeReqs qs).homeOne r.atHome r)

def execHomeAccess (r : Req) (s : State) : Out := .next (s.reqArrive r)

/-- R292: an arrival at its object's home. -/
def execArvPerform (r : Req) (s : State) : Out := .next (s.reqArrive r)

/-- R323: a counter addition at its home. -/
def execCounterSignalPerform (r : Req) (s : State) : Out := .next (s.reqArrive r)

/-- R142: a completion brings the data back through its port: the record's payload, the copies R91 allows where no shoot-down has passed
since (R61), and the answer. -/
def execReadCompletionReturns (r : Req) (s : State) : Out :=
  .next (
    let t := match s.entry? r.home r.ia with
      | some e => if e.loc = 0 || e.mst == 5 || !e.knows r.src then s else s.fillCopies r e
      | none => s
    (if r.strong then t.payReturns r.ctx r.seq (BitVec.ofNat 64 (leVal r.data2)) else t).answer r.op r.lane r.pos r.data)

/-! ## WC_BUFFER_DRAIN (R92) -/

/-- Runs of the bytes of a buffer that `ok` stores wrote: (offset, bytes). Log entry 28. -/
def WcBuf.runs (b : WcBuf) (ok : List Nat) : List (Nat × List Byte) :=
  ((List.range 64).foldl (fun (acc : List (Nat × List Byte)) i =>
    match b.byte ok i, acc with
    | some x, (o, bs) :: r => if o + bs.length = i then (o, bs ++ [x]) :: r else (i, [x]) :: acc
    | some x, [] => [(i, [x])]
    | none, _ => acc) []).reverse

/-- An older request of the core to bytes of the buffer is still on its way (R112). Log entry 28. -/
def State.drainWaits (s : State) (c : CoreId) (b : WcBuf) : Bool :=
  s.onWay.any fun q => decide (q.src = c) && decide (q.home = b.home) && decide (q.seq < b.seq)
    && (List.range 64).any fun i => b.valid i && q.meets (b.ia + i) 1

/-- A store of the buffer that has drawn an error response elsewhere, or would draw one, has no effect (R50). -/
def State.bufLapsed (s : State) (b : WcBuf) (o : Nat) : Bool :=
  match s.op? o with
  | none => false
  | some x => x.fault.isSome || (!x.cleared && (s.opErr o [] (some b.ia)).isSome)

/-- A buffer leaves its core as one write of its valid bytes to its home, which answers every store it carries; an error response goes to
each of them. -/
def State.drainPut (s : State) (c : CoreId) (b : WcBuf) (e : Entry) : State :=
  let (bad, ok) := b.ops.partition (s.bufLapsed b)
  let runs := b.runs ok
  let s := runs.foldl (fun s r => s.frameWrite e (b.ia + r.1) r.2) s
  let s := b.parts.foldl (fun s p => match s.op? p.1 with | some o => s.addWork o.wave.blk p.2.2.length 0 | none => s) s
  let s := s.modEntry b.home b.ia fun e => e.touch c true
  let s := s.modDie c.pkg c.die fun d => { d with l2 := runs.foldl (fun l r => s.putLines c.pkg c.die none l (b.ia + r.1) r.2) d.l2 }
  let s := if bad.isEmpty then s else s.modCore c fun k => { k with l1 := dropLine k.l1 b.ia }
  let s := ok.foldl (fun s o => (s.modOp o fun x => { x with cleared := true }).answer o 0 0 []) s
  bad.foldl (fun s o => match s.opErr o [] (some b.ia) with
    | some x => s.refusePiece o x.1 x.2.1 x.2.2
    | none => s.modOp o fun x => { x with left := x.left - 1 }) s

/-- R50, R61: a drain that draws an error response has reached its home and counts; its stores have no effect, and no L1 line shows them. -/
def State.drainRefuse (s : State) (c : CoreId) (b : WcBuf) (e : HomeErr) : State :=
  let s := (s.modEntry b.home b.ia fun e => e.touch c false).modCore c fun k => { k with l1 := dropLine k.l1 b.ia }
  b.ops.foldl (fun s o => s.refusePiece o 0 b.ia e) s

/-- R92: the first buffer of a line drains; it waits for older requests of its core to its bytes, and while its home holds the page. Log entry 28. -/
def State.drainBuf (s : State) (c : CoreId) (line : Nat) : State :=
  match (s.core? c).bind fun x => x.wc.find? fun b => b.ia == line with
  | none => s
  | some b =>
    let out := fun (s : State) => s.modCore c fun x => { x with wc := delFirst (fun b => b.ia == line) x.wc }
    if s.drainWaits c b then s.due [.wcBufferDrain c line]
    else if s.cut c.pkg b.home.pkg then (out s).drainRefuse c b .ctxDead
    else match s.homeFind b.ctx b.home line, s.bufErr b with
      | .ok e, none => if s.pageHeld e line 64 then s.due [.wcBufferDrain c line] else (out s).drainPut c b e
      | .ok e, some r => if s.pageHeld e line 64 then s.due [.wcBufferDrain c line] else (out s).drainRefuse c b r
      | .error r, _ => (out s).drainRefuse c b r

def execWcBufferDrain (c : CoreId) (line : Nat) (s : State) : Out := .next (s.drainBuf c line)

end Sys2Proof.Machine
end

