-- ==== Sys2Proof/Machine/LaneAlu.lean ====
section
/-! DEFINITION. Predicate and cross-lane words (spec/10_isa_compute.md R260 to R263). -/

namespace Sys2Proof.Machine

/-! ## Predicates (R260) -/

def execPlop (w : CW) (s : State) : Out :=
  .next { s with wave := s.wave.putP w.d.pred (s.wave.part w.g) fun l =>
            lutBit w.c.const (s.wave.getP w.d.pred l) (s.wave.getP w.a.pred l) (s.wave.getP w.b.pred l) }

def execPpack (w : CW) (s : State) : Out := .next (s.alu w false fun l => ofBits 8 fun i => s.wave.getP i l)

def execPunpack (w : CW) (s : State) : Out :=
  let a := fun l => s.rd false .b32 w.a l
  let ls := s.wave.part w.g
  .next { s with wave := (List.range 7).foldl (fun v i => v.putP i ls fun l => (a l).getLsbD i) s.wave }

/-! ## SHFL (R261) -/

/-- The source lane of lane l, for the lane operand b. -/
def shflSrc (mode seg : Nat) (b : W32) (l : Nat) : Nat :=
  let W := 32 / 2 ^ seg
  let base := l - l % W
  let r := l % W
  let n := b.toNat
  match mode with
  | 0 => base + n % W
  | 1 => base + (r + n) % W
  | 2 => base + (clampI 0 (W - 1 : Nat) ((r : Int) + b.toInt)).toNat
  | _ => base + (r ^^^ (n % W))

def execShfl (w : CW) (s : State) : Out :=
  .next (s.alu w (wide w.ty) fun l =>
    w.valA s (shflSrc (w.sub.extractLsb' 0 2).toNat (w.sub.extractLsb' 2 3).toNat (lo32 (s.rd (wide w.ty) w.ty w.b l)) l))

/-! ## Votes (R262) -/

def execVote (w : CW) (s : State) : Out :=
  let ls := s.wave.part w.g
  let yes := ls.filter (s.wave.getP w.a.pred)
  let m := yes.length
  let kind := w.sub.toNat
  let c := match kind with | 0 => m == ls.length | 1 => m != 0 | _ => m == 0 || m == ls.length
  .next { s with wave := match w.d with
    | .p n => s.wave.putP n.toNat ls fun _ => if kind = 3 then m % 2 == 1 else c
    | d => s.wave.putD false d ls fun _ => BitVec.ofNat 64 (if kind = 3 then m else c.toNat) }

/-- The 32-bit mask of a list of lanes. -/
def maskOf (ls : List Nat) : W64 := ofBits 32 fun i => ls.contains i

def execBallot (w : CW) (s : State) : Out :=
  let m := maskOf ((s.wave.part w.g).filter (s.wave.getP w.a.pred))
  .next (s.alu w false fun _ => m)

def execMatchw (w : CW) (s : State) : Out :=
  let ls := s.wave.part w.g
  .next (s.alu w (wide w.ty) fun l =>
    let same := ls.filter fun k => w.valA s k == w.valA s l
    if w.sub.getLsbD 0 then BitVec.ofNat 64 (same.headD 0) else maskOf same)

/-! ## REDUX and SCAN (R263) -/

/-- One combination, with the sticky bits it raises: op 0 add, 1 min, 2 max, 3 and, 4 or, 5 xor. -/
def comb (t : Ty) (op : Nat) (ftz : Bool) (a b : W64 × Nat) : W64 × Nat :=
  let fl := a.2 ||| b.2
  if t == .f32 then
    let x := fp32.decode ftz a.1.toNat
    let y := fp32.decode ftz b.1.toNat
    let r := if op = 0 then faddV 0 fp32 ftz x y else fminmaxV (op == 2) fp32 ftz x y
    (BitVec.ofNat 64 r.1, fl ||| r.2)
  else
    let wd := wide t
    let i := ival (tySigned t) wd a.1
    let j := ival (tySigned t) wd b.1
    (match op with
      | 0 => ofI wd (i + j)
      | 1 => ofI wd (min i j)
      | 2 => ofI wd (max i j)
      | 3 => a.1 &&& b.1
      | 4 => a.1 ||| b.1
      | _ => a.1 ^^^ b.1, fl)

/-- ABSENT yields the other operand. -/
def combO (t : Ty) (op : Nat) (ftz : Bool) (a b : Option (W64 × Nat)) : Option (W64 × Nat) :=
  match a, b with
  | none, y => y
  | x, none => x
  | some x, some y => some (comb t op ftz x y)

/-- One level of the tree: neighbours combine. -/
def treeLevel (t : Ty) (op : Nat) (ftz : Bool) (l : List (Option (W64 × Nat))) : List (Option (W64 × Nat)) :=
  match l with
  | a :: b :: r => combO t op ftz a b :: treeLevel t op ftz r
  | l => l

def tree (t : Ty) (op : Nat) (ftz : Bool) (n : Nat) (l : List (Option (W64 × Nat))) : List (Option (W64 × Nat)) :=
  match n with
  | 0 => l
  | k + 1 => tree t op ftz k (treeLevel t op ftz l)

/-- A register result with sticky bits, the same in every participating lane. -/
def execRedux (w : CW) (s : State) : Out :=
  let ls := s.wave.part w.g
  let t0 := (List.range 32).map fun l => if ls.contains l then some (w.valA s l, 0) else none
  match (tree w.ty w.sub.toNat s.wave.ftz 5 t0).headD none with
  | none => .next s
  | some (r, fl) => .next { s with wave := (s.wave.putD (wide w.ty) w.d ls fun _ => r).stick fl }

/-- The identity an exclusive scan starts with. -/
def scanId (t : Ty) (op : Nat) : W64 :=
  if t == .f32 then (match op with | 0 => 0#64 | 1 => 0x7F800000#64 | _ => 0xFF800000#64)
  else
    let wd := wide t
    match op with
    | 1 => ofI wd (intMax (wbits wd) (tySigned t))
    | 2 => ofI wd (intMin (wbits wd) (tySigned t))
    | 3 => ofI wd (-1)
    | _ => 0#64

/-- Left to right over the lanes: each lane's result, and the sticky bits. -/
def scanFrom (t : Ty) (op : Nat) (ftz excl : Bool) (val : Nat → W64) (acc : Option (W64 × Nat)) (ls : List Nat) :
    List (Nat × W64) × Nat :=
  match ls with
  | [] => ([], match acc with | some a => a.2 | none => 0)
  | l :: r =>
    let acc' := match acc with | some a => comb t op ftz a (val l, 0) | none => (val l, 0)
    let here := if excl then (match acc with | some a => a.1 | none => scanId t op) else acc'.1
    let rest := scanFrom t op ftz excl val (some acc') r
    ((l, here) :: rest.1, rest.2)

/-- The lanes that take part in a combination: an exclusive scan's last lane enters none. -/
def execScan (w : CW) (s : State) : Out :=
  let ls := s.wave.part w.g
  let excl := w.sub.getLsbD 3
  let op := (w.sub.extractLsb' 0 3).toNat
  let (r, _) := scanFrom w.ty op s.wave.ftz excl (w.valA s) none ls
  let fl := (scanFrom w.ty op s.wave.ftz excl (w.valA s) none (if excl then ls.dropLast else ls)).2
  .next { s with wave := (s.wave.putD (wide w.ty) w.d ls fun l => ((r.find? fun p => p.1 == l).map (·.2)).getD 0).stick fl }

/-- REDUXI: the winner's bits and index (R197); subnormals are replaced under FTZ. -/
def reduxiBest (ftz : Bool) (cs : List (W32 × W32)) (best : W32 × W32) : W32 × W32 :=
  match cs with
  | [] => best
  | c :: r =>
    let v := fun (x : W32) => fp32.decode ftz x.toNat
    reduxiBest ftz r (if precedes (v c.1) c.2.toNat (v best.1) best.2.toNat then c else best)

/-- A subnormal candidate under FTZ is the zero of its sign. Log entry 19. -/
def flush32 (ftz : Bool) (x : W32) : W32 := if ftz && x.extractLsb' 23 8 == 0#8 then x &&& 0x80000000#32 else x

def execReduxi (w : CW) (s : State) : Out :=
  let cand := fun l => (flush32 s.wave.ftz (lo32 (s.rd false .f32 w.a l)), lo32 (s.rd false .n32 w.b l))
  match s.wave.part w.g with
  | [] => .next s
  | l :: r =>
    let b := reduxiBest s.wave.ftz (r.map cand) (cand l)
    .next (s.alu w true fun _ => join b.2 b.1)

end Sys2Proof.Machine
end

