-- ==== Sys2Proof/Machine/MemInstr.lean ====
section
/-! DEFINITION. The memory words (spec/11_isa_memory.md R271 to R296). -/

namespace Sys2Proof.Machine

/-! ## Sources (R273) -/

/-- An element of n bytes of a source operand in a lane. -/
def State.elem (s : State) (o : Opd) (n l : Nat) : List Byte :=
  match o with
  | .v r => (List.range ((n + 3) / 4)).flatMap (fun j => leBytes 4 (s.wave.getV (r.toNat + j) l).toNat) |>.take n
  | .o r => (List.range ((n + 3) / 4)).flatMap (fun j => leBytes 4 (s.wave.getO (r.toNat + j) l).toNat) |>.take n
  | .s r => (List.range ((n + 3) / 4)).flatMap (fun j => leBytes 4 (s.wave.getS (r.toNat + j)).toNat) |>.take n
  | .c c => leBytes n (c.signExtend 64).toNat
  | o => leBytes n (s.rd true .b32 o l).toNat

/-- Element k of a group of n-byte elements (R284, R285). -/
def State.groupElem (s : State) (o : Opd) (n k l : Nat) : List Byte :=
  match o with
  | .v r => s.elem (.v (r + BitVec.ofNat 8 (k * (n / 4)))) n l
  | .o r => s.elem (.o (r + BitVec.ofNat 3 (k * (n / 4)))) n l
  | o => s.elem o n l

/-! ## One access of a word -/

/-- What a memory word asks: the kind of its checks, its bytes, its addresses, and what each lane's request is. -/
structure MemSpec where
  ins    : Instr
  w      : MW
  kind   : Kind
  size   : Nat
  strong : Bool
  rel    : Bool
  acq    : Bool          -- R277: later memory words wait for it
  scope  : Option Nat    -- the acquire at completion, as a scope code
  single : Bool          -- one access for the wave (R279)
  narrow : Bool          -- no peer scratchpad through .gen (R282)
  addr   : Nat → W64
  req    : ReqKind
  d1     : Nat → List Byte
  d2     : Nat → List Byte
  arg    : Nat → W64

/-- The lanes that make an access. -/
def MemSpec.lanes (m : MemSpec) (s : State) : List Nat := if m.single then (s.wave.part m.w.g).take 1 else s.wave.part m.w.g

/-- The check of every lane (R274). -/
def MemSpec.checks (m : MemSpec) (s : State) : List (Nat × Except LaneErr (List Piece)) :=
  (m.lanes s).map fun l => (l, s.laneCheck s.wave m.w.sp m.kind m.narrow m.single m.strong m.size (m.addr l) l)

/-- R280: LDC takes no fault of an address check. -/
def MemSpec.faults (m : MemSpec) (cs : List (Nat × Except LaneErr (List Piece))) : List (Nat × LaneErr) :=
  cs.filterMap fun c => match c.2 with
    | .error (.addr f) => (match m.ins with | .ldc _ => none | _ => some (c.1, LaneErr.addr f))
    | .error e => some (c.1, e)
    | .ok _ => none

/-- R275: the lanes of a strong word whose address is no multiple of its size. -/
def MemSpec.misaligned (m : MemSpec) (s : State) : List Nat :=
  if m.strong then (m.lanes s).filter fun l => (m.addr l).toNat % m.size != 0 else []

/-- The trap of the lowest faulting lane, with the mask of the lanes that take the same trap. Log entry 14. -/
def State.memTrap (s : State) (m : MemSpec) (errs : List (Nat × LaneErr)) : State :=
  match errs with
  | [] => s
  | (l, e) :: _ => s.laneTrap e l (m.addr l) (maskOf ((errs.filter fun x => x.2.code == e.code).map (·.1)))

/-- R217: the base register a word steps, kept for the case that it takes a precise fault. -/
def State.keepBase (s : State) (w : MW) (arg : Tab W64) : Tab W64 :=
  match w.pi, w.base with
  | true, .a n => (arg.set 0 70 (BitVec.ofNat 64 (n.toNat + 1))).set 0 71 (s.wave.getA n.toNat)
  | _, _ => arg

/-- A new operation in flight of the focus wave's word. Log entry 31. -/
def State.newOp (s : State) (m : MemSpec) (ok : List Nat) (bad : List Nat) (left : Nat) (pol : Policy) : Nat × State :=
  let id := s.freshId
  let arg : Tab W64 := (m.lanes s).foldl (fun (t : Tab W64) l => t.set 0 l (if bad.contains l then 1 else m.arg l)) []
  let arg : Tab W64 := match m.scope with | some c => arg.set 0 (match m.req with | .tryRead _ => 67 | _ => 64) (BitVec.ofNat 64 (c + 1)) | none => arg
  let arg := s.keepBase m.w arg
  let o : Op :=
    { id := id, wave := s.wave.id, ctx := s.wave.id.blk.ctx, ins := m.ins, flag := s.wave.flagOf m.ins, pc := s.wave.curPc,
      ord := s.wave.ordinal, addr := (m.lanes s).foldl (fun (t : Tab W64) l => t.set 0 l (m.addr l)) [], arg := arg,
      ok := ok.foldl (fun a l => a ||| BitVec.ofNat 32 (2 ^ l)) 0, left := left, data := [], early := [], sticky := 0,
      acq := m.acq, cleared := false, store := m.req.writes, fault := none, pol := pol }
  (id, { s with seq := id, ops := s.ops ++ [o] })

/-- The request of a piece. -/
def State.pieceReq (s : State) (m : MemSpec) (id l : Nat) (p : Piece) : Req :=
  let ctx := s.wave.id.blk.ctx
  let base : Req :=
    { op := id, wave := s.wave.id, lane := l, ord := s.wave.ordinal, kind := match m.req with
        | .tryRead _ => .tryRead (m.arg l).toNat
        | k => k,
      ctx := ctx, src := s.wave.core, home := ⟨0, 0⟩, ia := 0, size := p.size, pos := p.pos,
      data := ((m.d1 l).drop p.pos).take p.size, data2 := m.d2 l, strong := m.strong, pol := .nc, seq := s.seq + 1, rcv := 0,
      il := p.il, gl := match s.core? s.wave.core with | some c => c.gl.get 0 ctx | none => 0, g := 0 }
  match p.spot with
  | .scr b o => { base with home := scrHome (((s.blk? b).map (·.core)).getD s.wave.core), ia := o }
  | .ia a r =>
    let h := match s.ctx? ctx with | some c => homeOf c (s.saltOf c) r a | none => ⟨0, 0⟩
    { base with home := h, ia := a, pol := effPolicy m.w.cp r.mt }

/-- A request sets out: an event of its own, with its place in the order of requests. -/
def State.send (s : State) (r : Req) (e : Req → Instr) : State := { s with seq := r.seq, pending := s.pending ++ [e r] }

/-- The line of a request is pinned in its die or at its home. -/
def State.isPinned (s : State) (r : Req) : Bool :=
  (match s.die? r.src.pkg r.src.die with | some d => d.isPinned r.ia | none => false)
  || (match s.die? r.home.pkg (r.home.stack / 4) with | some d => d.isPinned r.ia | none => false)

/-- An L1 line that may serve a load (R85, R94, R114), unless an older access of the thread to its bytes is still on its way, or the load
has a line to pin (R93). Log entry 44. -/
def State.l1Hit (s : State) (r : Req) : Option Line :=
  if r.pol.cached && !s.overlapWait r && (r.pol != .pin || s.isPinned r) then
    match s.core? r.src with
    | some c => c.l1.find? fun x => x.valid r.ctx r.gl r.ia
    | none => none
  else none

/-- An arrival of data at an operation that is still being issued. -/
def State.fill (s : State) (id l pos : Nat) (bs : List Byte) : State :=
  s.modOp id fun o => { o.put l pos bs with left := o.left - 1 }

/-- A piece of a weak load: from scratchpad or an L1 line at once, else a request to the L2. A scratchpad access waits for an older one of
its thread to its bytes (R113); a load that goes to the L2 sends a write-combining buffer of the core that holds its line first (R92,
log entry 90). A .cst load is served as any weak load, also of bytes written since the launch. DESIGN CHOICE (log entry 102): R45 leaves
open which of their values it returns. -/
def State.loadPiece (s : State) (m : MemSpec) (id l : Nat) (p : Piece) : State :=
  let r := s.pieceReq m id l p
  match p.spot with
  | .scr b o =>
    if s.overlapWait r then s.send r .homeAccess
    else s.fill id l p.pos (match s.blk? b with | some x => x.scrRead o p.size | none => [])
  | .ia _ _ =>
    match s.l1Hit r with
    | some x => s.fill id l p.pos (lineBytes x r.ia r.size)
    | none => (s.wcMeet r.src r.lines).send r .l2Request

/-- A piece of a weak store: scratchpad, a write-combining buffer with the present L1 line, or a request to the L2. -/
def State.storePiece (s : State) (m : MemSpec) (id l : Nat) (p : Piece) : Except W64 State :=
  let r := s.pieceReq m id l p
  match p.spot with
  | .scr b o =>
    if s.overlapWait r then .ok (s.send r .homeAccess)
    else match s.siblingErr r with
    | some (q, e) => .ok (s.refusePiece id q.lane q.ia e)
    | none => (s.scrStore b o r.data s.wave.id s.wave.ordinal).map fun t => t.fill id l p.pos []
  | .ia _ _ =>
    if r.pol = .wc then
      let merged := match s.core? r.src with
        | some c => c.wc.any fun b => b.gathers r.ia r.ctx && b.ops.contains id
        | none => false
      let s := s.modCore r.src fun c => { c with l1 := updLines c.l1 r.ia r.data }
      let s := if merged then s.modOp id fun o => { o with left := o.left - 1 } else s
      .ok (s.wcStore r.src r.ctx r.home r.ia id r.data)
    else .ok ((s.wcMeet r.src r.lines).send r .l2Request)

/-- A strong access's requests, in lane order. Log entries 13, 47. -/
def State.strongReqs (s : State) (m : MemSpec) (id : Nat) (ps : List (Nat × Piece)) : List Req :=
  ps.zipIdx.map fun x => { s.pieceReq m id x.1.1 x.1.2 with seq := s.seq + 1 + x.2 }

/-- A strong request sets out: to its die, or to the scratchpad that holds its bytes, which performs it at once where no older access of
its thread comes first. Log entry 13. -/
def State.sendStrong (s : State) (r : Req) : State :=
  if r.home.stack < 16 then s.due [.l2Request r]
  else if s.overlapWait r || s.progWait r then s.due [r.atHome]
  else s.scrAccess r.atHome r

/-- The event a strong request sets out with. -/
def reqSets (r : Req) : Instr := if r.home.stack < 16 then .l2Request r else r.atHome

/-- The end of a word at issue: the flag counts up (R206), the base is updated (R217). -/
def State.issued (s : State) (m : MemSpec) : State :=
  let s := match s.wave.flagOf m.ins with | some f => { s with wave := s.wave.flagUp f } | none => s
  s.postInc m.w (!m.strong)

/-- An operation with nothing left to answer at issue. -/
def State.settleOp (s : State) (id : Nat) : State :=
  match s.op? id with
  | some o =>
    if o.left ≠ 0 then s
    else if o.flag.isSome then s.finishOp id
    else (match o.fault with | some r => s.opFault o r | none => (s.dropOp id).unwait id)
  | none => s

/-- The pieces of the lanes that pass their checks, in lane order. -/
def okPieces (cs : List (Nat × Except LaneErr (List Piece))) : List (Nat × Piece) :=
  cs.flatMap fun c => match c.2 with | .ok ps => ps.map fun p => (c.1, p) | .error _ => []

/-- The pieces of an access with those that go to a home first: a lane in a scratchpad is performed only once the others are on their way
and draw no error response (R50). -/
def homesFirst (ps : List (Nat × Piece)) : List (Nat × Piece) :=
  let (a, b) := ps.partition fun p => match p.2.spot with | .ia _ _ => true | .scr _ _ => false
  a ++ b

/-- R103: a weak store whose checks have passed. -/
def State.weakStore (s : State) (m : MemSpec) (ok bad : List Nat) (ps : List (Nat × Piece)) : State :=
  let pol := if ps.any fun p => match p.2.spot with | .ia _ r => effPolicy m.w.cp r.mt == .wc | _ => false then .wc else .keep
  let (id, t) := s.newOp m ok bad ps.length pol
  match (homesFirst ps).foldl (fun (acc : Except W64 State) p => acc.bind fun s => s.storePiece m id p.1 p.2) (.ok (t.issued m)) with
  | .error v =>
    let n := match s.blk? s.wave.id.blk with | some b => b.noff | none => 0
    s.trapHere 0x0E 0 (BitVec.ofNat 64 n) v 0 (ok.headD 0)
  | .ok t => t.settleOp id

/-- R103: a weak load whose checks have passed. -/
def State.weakLoad (s : State) (m : MemSpec) (ok bad : List Nat) (ps : List (Nat × Piece)) : State :=
  let (id, t) := s.newOp m ok bad ps.length .keep
  (ps.foldl (fun s p => s.loadPiece m id p.1 p.2) (t.issued m)).settleOp id

/-- R104: a strong access whose checks have passed: its requests set out when the core's write-combining buffers have drained (R92), those
of a release when everything it covers has landed or returned (R122). -/
def State.strongAccess (s : State) (m : MemSpec) (ok bad : List Nat) (ps : List (Nat × Piece)) : State :=
  let (id, t) := s.newOp m ok bad ps.length .nc
  let t := t.issued m
  let rs := t.strongReqs m id (homesFirst ps)
  let t := { t with seq := t.seq + rs.length }.sendAll s.wave.id
  let waits := t.relWaits s.wave.id id m.rel
  (if waits.isEmpty then rs.foldl State.sendStrong t else t.defer s.wave.id waits (rs.map reqSets)).settleOp id

/-- R274 to R282: a memory word of the focus wave; with no lane that takes part it only updates its base (R206, R238). -/
def State.memWord (s : State) (m : MemSpec) : State :=
  if (m.lanes s).isEmpty then s.postInc m.w (!m.strong)
  else
    let cs := m.checks s
    match m.faults cs, m.misaligned s with
    | e :: es, _ => s.memTrap m (e :: es)
    | [], l :: ls => s.laneTrap .align l (m.addr l) (maskOf (l :: ls))
    | [], [] =>
      let ps := okPieces cs
      let ok := (cs.filter fun c => match c.2 with | .ok _ => true | .error _ => false).map (·.1)
      let bad := (m.lanes s).filter fun l => !ok.contains l
      if m.strong then s.strongAccess m ok bad ps
      else if m.req.writes then s.weakStore m ok bad ps
      else s.weakLoad m ok bad ps

/-! ## The words -/

/-- A weak load or store. -/
def weakSpec (i : Instr) (w : MW) (kind : Kind) (req : ReqKind) (single : Bool) (s : State) : MemSpec :=
  { ins := i, w := w, kind := kind, size := w.bytes, strong := false, rel := false, acq := false, scope := none, single := single,
    narrow := false, addr := w.addr14 s, req := req, d1 := s.elem w.data w.bytes, d2 := fun _ => [], arg := fun _ => 0 }

/-- A strong word with its order and scope. Log entry 13. -/
def strongSpec (i : Instr) (w : MW) (kind : Kind) (req : ReqKind) (addr : Nat → W64) (s : State) : MemSpec :=
  let a := w.order == .acq || w.order == .acqrel
  { ins := i, w := w, kind := kind, size := w.bytes, strong := true, rel := w.order == .rel || w.order == .acqrel, acq := a,
    scope := if a then some w.sco.toNat else none, single := false, narrow := false, addr := addr, req := req,
    d1 := s.elem w.data w.bytes, d2 := fun _ => [], arg := fun _ => 0 }

def execLd (w : MW) (s : State) : Out := .next (s.memWord (weakSpec (.ld w) w .load .load false s))
def execSt (w : MW) (s : State) : Out := .next (s.memWord (weakSpec (.st w) w .store .store false s))
def execLdq (w : MW) (s : State) : Out := .next (s.memWord (weakSpec (.ldq w) w .load .load true s))
def execStq (w : MW) (s : State) : Out := .next (s.memWord (weakSpec (.stq w) w .store .store true s))
def execLdc (w : MW) (s : State) : Out := .next (s.memWord (weakSpec (.ldc w) w .load .load false s))
def execLda (w : MW) (s : State) : Out := .next (s.memWord (strongSpec (.lda w) w .load .load (w.addr14 s) s))
def execStl (w : MW) (s : State) : Out := .next (s.memWord (strongSpec (.stl w) w .store .store (w.addr14 s) s))

def execAtom (w : MW) (s : State) : Out :=
  .next (s.memWord { strongSpec (.atom w) w .atomic (.rmw (atomOp w.op) false) (w.addr10 s) s with narrow := w.bytes == 16 })

/-- R284: element 0 is the comparison value, element 1 the new value. -/
def execCas (w : MW) (s : State) : Out :=
  .next (s.memWord { strongSpec (.cas w) w .atomic (.rmw .cas false) (w.addr10 s) s with
    narrow := w.bytes == 16, d1 := s.groupElem w.data w.bytes 0, d2 := s.groupElem w.data w.bytes 1 })

/-- R285: element 1 is the operand; FTZ travels with the request. -/
def execAtomf (w : MW) (s : State) : Out :=
  .next (s.memWord { strongSpec (.atomf w) w .atomic (.rmw (atomfOp w.op) s.wave.ftz) (w.addr10 s) s with
    narrow := true, d1 := s.groupElem w.data 4 1 })

def execRed (w : MW) (s : State) : Out :=
  .next (s.memWord { strongSpec (.red w) w .atomic (.rmw (redOp w.op) s.wave.ftz) (w.addr10 s) s with narrow := decide (w.op ≥ 11) })

/-- R292: the count is a 4-byte element of DATA; the object is 8 bytes; release order. -/
def execArv (w : MW) (s : State) : Out :=
  .next (s.memWord { strongSpec (.arv w) w .atomic (.rmw .arv false) (w.addr14 s) s with
    d1 := s.elem w.data 4 })

/-- R293: the pair holds the object word last seen; the acquire is at SCO. -/
def execAwait (w : MW) (s : State) : Out :=
  let seen := fun l => BitVec.ofNat 64 (leVal (s.elem w.data 8 l))
  .next (s.memWord { strongSpec (.await w) w .load (if w.cp.getLsbD 0 then .tryRead 0 else .load) (w.addr14 s) s with arg := seen })

/-- R287: nothing with no participating lane; else the wave waits for landing and returns, then makes the bumps of its acquire. -/
def execFence (w : MW) (s : State) : Out :=
  .next (if (s.wave.part w.g).isEmpty then s
    else if !s.settled s.wave then s.await_
    else if w.order = .rel then s
    else s.acquireBump s.wave.id.blk.ctx s.wave.core w.scope)

/-- R294: the lines of the lanes that pass their checks are fetched under the effective policy; no fault. -/
def execPref (w : MW) (s : State) : Out :=
  let m := weakSpec (.pref w) w .load .load false s
  let reqs := (s.wave.part w.g).flatMap fun l =>
    match s.lanePieces s.wave w.sp .load false false false 1 (m.addr l) l with
    | .ok ps => (ps.filterMap fun p => match p.spot with
        | .ia _ _ => (let r := s.pieceReq m 0 l p; if r.pol == .wc || r.pol == .uncached then none else some (.l2Request r))
        | .scr _ _ => none)
    | .error _ => []
  .next ((s.due reqs).postInc w true)

/-- R295: the IAs of the lanes that pass their checks and reach global memory. -/
def State.cctlIas (s : State) (w : MW) : List (Range × Nat) :=
  (s.wave.part w.g).flatMap fun l =>
    match (if w.sp = .gen then (match resolveGen (w.addr10 s l) with | .ok (.glb, _) => true | _ => false) else true),
      s.lanePieces s.wave w.sp .load false false false 1 (w.addr10 s l) l with
    | true, .ok ps => ps.filterMap fun p => match p.spot with | .ia a r => some (r, a) | .scr _ _ => none
    | _, _ => []

def execCctlInv (w : MW) (s : State) : Out :=
  let c := s.wave.core
  .next ((s.cctlIas w).foldl (fun s x =>
    (s.modCore c fun k => { k with l1 := dropLine k.l1 x.2 }).modDie c.pkg c.die fun d => { d with l2 := dropLine d.l2 x.2 }) s)

def execCctlUnpin (w : MW) (s : State) : Out :=
  let c := s.wave.core
  let ctx := s.wave.id.blk.ctx
  .next ((s.cctlIas w).foldl (fun s x =>
    let h := match s.ctx? ctx with | some k => homeOf k (s.saltOf k) x.1 x.2 | none => ⟨0, 0⟩
    let free := fun (l : Line) => if l.ia = lineOf x.2 ∧ l.pin = some ctx then { l with pin := none } else l
    let s := s.modDie h.pkg (h.stack / 4) fun d => { d with pins := d.pins.filter fun p => p != (lineOf x.2, ctx) }
    s.modDie c.pkg c.die fun d => { d with l2 := d.l2.map free }) s)

/-- R295: OP 2 to 4 act when at least one active lane's guard is true. -/
def State.cctlWave (s : State) (w : MW) (f : State → State) : State := if (s.wave.part w.g).isEmpty then s else f s

def execCctlInvl1 (w : MW) (s : State) : Out :=
  .next (s.cctlWave w fun s => s.modCore s.wave.core fun c => c.bump s.wave.id.blk.ctx)

def execCctlInvdie (w : MW) (s : State) : Out :=
  .next (s.cctlWave w fun s =>
    let c := s.wave.core
    let ctx := s.wave.id.blk.ctx
    (s.modCore c fun k => k.bump ctx).modDie c.pkg c.die fun d => d.bump ctx)

/-- R225, R295: from now on the core's fetches see every store made before this word. Log entry 26. -/
def execCctlIinv (w : MW) (s : State) : Out :=
  .next (s.cctlWave w fun s => { s.modCore s.wave.core fun c => { c with iseq := s.seq + 1 } with seq := s.seq + 1 })

/-- R288, R289: an arrival at a barrier: the count is checked, the wave's stores land, and the arrival is on its way to
registration. -/
def State.arrive (s : State) (w : MW) (cb : Bool) : State :=
  if (s.wave.part w.g).isEmpty then s
  else
    let n := (w.off.extractLsb' 0 4).toNat
    let cnt := if w.mx.getLsbD 5 then some (lo32 (s.rd false .n32 w.data 0)).toNat else none
    let bad := match cnt with | some c => decide (c = 0) || decide (c > if cb then 256 else 32) | none => false
    if bad then s.trapHere 0x0B 0 0 (BitVec.ofNat 64 (cnt.getD 0)) 0 ((s.wave.part w.g).headD 0)
    else if !s.settled s.wave then s.await_
    else ({ s with wave := { s.wave with run := .barrier cb n } }).due
      [.barrierArrivalRegister s.wave.id cb n cnt (w.mx.getLsbD 4)]

def execBar (w : MW) (s : State) : Out := .next (s.arrive w false)
def execCbar (w : MW) (s : State) : Out := .next (s.arrive w true)

end Sys2Proof.Machine
end

