-- ==== Sys2Proof/Machine/Engine.lean ====
section
/-! DEFINITION. What the matrix unit and the stream engine share: Lockring entries (spec/05_consistency.md R127 to R129), the checks,
reads and writes of an engine (spec/02_address_spaces.md R39 to R42, R52), class-10 operands and operations in flight
(spec/12_isa_async.md R298), bound buffers (spec/15_collectives.md R371, R373). -/

namespace Sys2Proof.Machine

/-! ## Lockring -/

/-- R16: 32 entries. -/
def lockSlots : Nat := 32

def State.lockRoom (s : State) (c : CoreId) (n : Nat) : Bool := decide ((s.locksAt c).length + n ≤ lockSlots)

def State.addLocks (s : State) (c : CoreId) (ks : List Lock) : State := s.modCore c fun x => { x with locks := x.locks ++ ks }

/-- The entries that satisfy p are released at a core. -/
def State.freeLocks (s : State) (c : CoreId) (p : Lock → Bool) : State :=
  if (s.locksAt c).any p then
    let t := s.modCore c fun x => { x with locks := x.locks.filter fun k => !p k }
    t.due t.autoRestarts
  else s

/-- Two entries have a byte in common, in a part that is a destination of one of them; of a slot ring's entry only the slots that the
engine fills or drains count (R128, R318). -/
def State.lockOverlap (s : State) (a b : Lock) : Bool :=
  decide (a.scr = b.scr) && (s.lockParts a).any fun p => (s.lockParts b).any fun q =>
    decide (p.1 ≤ q.2.1) && decide (q.1 ≤ p.2.1) && (p.2.2 || q.2.2)

/-- An entry of `by_` stands behind an older one of another operation that overlaps it, one of the two being a destination. -/
def State.lockBehind (s : State) (by_ : LockBy) (seen ls : List Lock) : Bool :=
  match ls with
  | [] => false
  | k :: r => (decide (k.by_ = by_) && seen.any fun q => !decide (q.by_ = by_) && s.lockOverlap q k) || s.lockBehind by_ (k :: seen) r

/-- R128: engine operations of a core whose ranges overlap run in issue order. -/
def State.lockWaits (s : State) (c : CoreId) (by_ : LockBy) : Bool := s.lockBehind by_ [] (s.locksAt c)

/-- R129: an operation that a wave issued reads and writes scratchpads after the accesses to them that the wave made before it: none of
those is still on its way. Log entry 48. -/
def State.scrOwed (s : State) (op : Nat) : Bool :=
  match s.op? op with
  | some o => s.onWay.any fun q => decide (16 ≤ q.home.stack) && decide (q.wave = o.wave) && decide (q.seq < op)
  | none => false

/-! ## Engine accesses -/

/-- Why an engine access fails: a check at the core (FCODE), a failed check value, or a home's refusal; `at_`: where its requests reached
a home. -/
inductive EngErr where
  | addr (f : FCode)
  | integ (det ia : Nat) (at_ : List (HomeId × Nat))
  | home (f : Nat) (at_ : List (HomeId × Nat))
  deriving DecidableEq, Repr

/-- R39, R52: the check of an engine's access for its block. -/
def State.engXlate (s : State) (b : Blk) (k : Kind) (va : W64) (n : Nat) : Except FCode Xl :=
  match s.ctx? b.id.ctx with
  | some c => xlate (c.rangesAt b.core) b.intervals va n k
  | none => .error 2

/-- The home of a translated address. -/
def State.homeAt (s : State) (ctx : Nat) (r : Range) (ia : Nat) : HomeId :=
  match s.ctx? ctx with | some c => homeOf c (s.saltOf c) r ia | none => ⟨0, 0⟩

/-- What the homes answer for the bytes of a span: the entry of each sector, or the first error. -/
def State.engFind (s : State) (ctx : Nat) (x : Xl) (n : Nat) (write : Bool) (det : Nat) : Except EngErr (List (Nat × Nat × Entry)) :=
  (secsOf x.ia n).foldl (fun acc p => match acc with
    | .error e => .error e
    | .ok l =>
      let h := s.homeAt ctx x.rng p.1
      let at_ := l.map (fun q => (q.2.2.home, q.1)) ++ [(h, p.1)]
      match s.homeFind ctx h p.1 with
      | .error .absent => .error (.home 9 at_)
      | .error _ => .error (.home 8 at_)
      | .ok e =>
        let bad := s.poison.contains (e.key p.1 / 64)
        if bad && !(write && p.2 == 64 && !s.failing (e.key p.1 / 64)) then .error (.integ (if write then 2 else det) p.1 at_) else .ok (l ++ [(p.1, p.2, e)])) (.ok [])

/-- A shoot-down of a page of the span, or the retirement of a row under it, holds the access (R62, R74). Log entry 88. -/
def State.engHeld (s : State) (ctx : Nat) (x : Xl) (n : Nat) : Bool :=
  (secsOf x.ia n).any fun p => match s.entry? (s.homeAt ctx x.rng p.1) p.1 with | some e => s.pageHeld e p.1 p.2 | none => false

/-- Older accesses to a span that an engine access of the block waits for: those of its own waves still on their way or in a
write-combining buffer (R112, R129), and weak stores its die has taken on. -/
def State.spanBusy (s : State) (b : Blk) (x : Xl) (n : Nat) : Bool :=
  let mine := fun (q : Req) => decide (q.wave.blk = b.id)
    || (q.kind == .store && !q.strong && q.rcv != 0 && q.src.pkg == b.core.pkg && q.src.die == b.core.die)
  let own := fun (k : WcBuf) => k.ops.any fun o => match s.op? o with | some y => decide (y.wave.blk = b.id) | none => false
  (s.onWay.any fun q => decide (q.home.stack < 16) && decide (q.ctx = b.id.ctx) && q.meets x.ia n && mine q)
  || (match s.core? b.core with
    | some c => c.wc.any fun k => decide (k.ia < x.ia + n) && decide (x.ia < k.ia + 64) && own k
    | none => false)

/-- An engine access of a block waits: held at a home, or behind older accesses. Log entry 88. -/
def State.engWaits (s : State) (b : Blk) (x : Xl) (n : Nat) : Bool := s.engHeld b.id.ctx x n || s.spanBusy b x n

/-- What the homes answer an engine of a block's core; a home that no lane reaches answers nothing (R393). Log entry 82. -/
def State.engLook (s : State) (b : Blk) (x : Xl) (n : Nat) (write : Bool) (det : Nat) : Except EngErr (List (Nat × Nat × Entry)) :=
  if (secsOf x.ia n).any fun p => s.cut b.core.pkg (s.homeAt b.id.ctx x.rng p.1).pkg then .error (.home 8 [])
  else s.engFind b.id.ctx x n write det

/-- An engine reads n bytes from their homes. -/
def State.engRead (s : State) (b : Blk) (x : Xl) (n det : Nat) : Except EngErr (List Byte × State) :=
  match s.engLook b x n false det with
  | .error e => .error e
  | .ok l => .ok (l.flatMap (fun p => s.memRead (p.2.2.key p.1) p.2.1),
      l.foldl (fun s p => (s.portRead p.2.2 p.1 p.2.1).modEntry p.2.2.home p.1 fun e => e.touch b.core false) (s.addWork b.id n 0))

/-- An engine writes bytes at their homes, updating the copies of its core and die (R86, R129). -/
def State.engWrite (s : State) (b : Blk) (x : Xl) (bs : List Byte) : Except EngErr State :=
  match s.engLook b x bs.length true 2 with
  | .error e => .error e
  | .ok l => .ok (l.foldl (fun s p =>
      let d := (bs.drop (p.1 - x.ia)).take p.2.1
      ((s.frameWrite p.2.2 p.1 d).modEntry p.2.2.home p.1 fun e => e.touch b.core true).putCopies b.core p.1 d) (s.addWork b.id bs.length 0))

/-- R101: the integrity record of an engine's read. Log entries 38, 86. -/
def State.integRecord (s : State) (b : Blk) (det ia : Nat) : State :=
  s.due [.trapRecordPost b.id.ctx { ctxRecord 0x09 det (BitVec.ofNat 64 (ia / 64 * 64)) 0 0 (s.lserOf b.id) with
    pkg := b.core.pkg, die := b.core.die, core := b.core.core }]

/-- The requests of an engine access that has failed have reached their homes and count (R61, R63); a failed check value is recorded. -/
def State.noteErr (s : State) (b : Blk) (e : EngErr) : State :=
  let touch := fun (l : List (HomeId × Nat)) => l.foldl (fun s p => s.modEntry p.1 p.2 fun e => e.touch b.core false) s
  match e with
  | .addr _ => s
  | .integ d ia l => (touch l).integRecord b d ia
  | .home _ l => touch l

/-- R41, R42: n bytes of the block's own scratchpad, or of a peer's, for an engine. -/
def State.scrSpan (s : State) (b : Blk) (cls : Bool) (a n : Nat) : Except FCode (BlkId × Nat) :=
  if cls then
    (match (if a < 2 ^ 23 then b.peer (a / 2 ^ 20) else none) with
     | some t => if a % 2 ^ 20 + n ≤ b.size ∧ (s.blk? t).isSome then .ok (t, a % 2 ^ 20) else .error 6
     | none => .error 6)
  else if a + n ≤ b.size then .ok (b.id, a) else .error 5

def State.scrGet (s : State) (t : BlkId × Nat) (n : Nat) : List Byte :=
  match s.blk? t.1 with | some x => x.scrRead t.2 n | none => []

/-! ## Class-10 operands (R298) -/

/-- A 32-bit operand that is an s register, a special or a constant; lane 0 of the others. -/
def State.op32 (s : State) (o : Opd) : W32 := lo32 (s.rd false .n32 o 0)
/-- A pair or an address register. -/
def State.op64 (s : State) (o : Opd) : W64 := s.rd true .n64 o 0
/-- The eight registers of a descriptor block. -/
def State.opBlock (s : State) (o : Opd) : List W32 :=
  match o with | .s n => (List.range 8).map fun i => s.wave.getS (n.toNat + i) | _ => []

/-- No active lane's guard is true: a per-wave word does nothing (R298). -/
def State.idleWord (s : State) (g : Guard) : Bool := (s.wave.part g).isEmpty

/-- A word that writes one s register before the next word issues. -/
def State.putS32 (s : State) (o : Opd) (x : W32) : State :=
  match o with | .s n => { s with wave := s.wave.setS n.toNat x } | _ => s

/-! ## Operations in flight -/

/-- A new flag-setting operation of a class-10 word, counted on its flag. -/
def State.engOp (s : State) (i : Instr) (pieces : Nat) : Nat × State :=
  let id := s.freshId
  let f := s.wave.flagOf i
  let o : Op :=
    { id := id, wave := s.wave.id, ctx := s.wave.id.blk.ctx, ins := i, flag := f, pc := s.wave.curPc, ord := s.wave.ordinal,
      addr := [], arg := [], ok := 1#32, left := pieces, data := [], early := [], sticky := 0, acq := false, cleared := false, store := false,
      fault := none, pol := .nc }
  (id, { s with seq := id, ops := s.ops ++ [o], wave := match f with | some f => s.wave.flagUp f | none => s.wave })

/-- A class-10 operation is done: its destination's bytes and sticky flags, and its flag (R206). -/
def State.engDone (s : State) (id : Nat) (bs : List Byte) (fl : Nat) : State :=
  (s.modOp id fun o => { o with left := 0, data := writeBytes o.data 0 bs, sticky := o.sticky ||| fl }).finishOp id

/-! ## Bound buffers (R371, R373) -/

/-- Bits [lo + n - 1 : lo] of word i of a binding's packet. -/
def Binding.bits (b : Binding) (i lo n : Nat) : Nat := ((b.words.getD i 0).toNat / 2 ^ lo) % 2 ^ n
def Binding.op (b : Binding) : Nat := b.bits 0 32 2
def Binding.gather (b : Binding) : Bool := b.bits 0 35 1 == 1
def Binding.sfmt (b : Binding) : Nat := b.bits 0 36 4
def Binding.dfmt (b : Binding) : Nat := b.bits 0 40 4
def Binding.anchor (b : Binding) : Int := (BitVec.ofNat 8 (b.bits 0 44 8)).toInt
def Binding.dbase (b : Binding) : Nat := b.bits 1 0 57
def Binding.shadow (b : Binding) : Nat := b.bits 2 0 57
def Binding.chb (b : Binding) : Nat := b.bits 3 0 32
def Binding.nch (b : Binding) : Nat := b.bits 3 32 24
def Binding.lp0 (b : Binding) : Nat := b.bits 4 0 8
def Binding.np (b : Binding) : Nat := b.bits 4 8 8
def Binding.expc (b : Binding) : Nat := b.bits 4 16 16
def Binding.nslot (b : Binding) : Nat := b.bits 4 32 8
def Binding.sig (b : Binding) : Nat := b.bits 5 0 57
def Binding.arvo (b : Binding) : Nat := b.bits 6 0 57
def Binding.rel (b : Binding) : Nat := b.bits 7 0 57

/-- Bytes of an element in a buffer format. -/
def bufSize (f : Nat) : Nat := match f with | 0 => 12 | 9 => 4 | 10 | 11 => 2 | _ => 1
/-- NE (R371). -/
def Binding.ne (b : Binding) : Nat := b.chb / bufSize b.sfmt

def Ctx.bind? (c : Ctx) (buf : Nat) : Option Binding := c.binds.find? fun b => b.buf == buf
def Ctx.modBind (c : Ctx) (buf : Nat) (f : Binding → Binding) : Ctx := { c with binds := updFirst (fun b => b.buf == buf) f c.binds }

/-- A participant of a binding. -/
def Binding.takes (b : Binding) (lpkg : Nat) : Bool := decide (b.lp0 ≤ lpkg) && decide (lpkg < b.lp0 + b.np)

/-- R373: the binding that takes a contribution of `len` bytes for a chunk from a package; none: not bound. -/
def State.boundFor (s : State) (ctx pkg buf chunk len : Nat) : Option Binding :=
  match s.ctx? ctx with
  | none => none
  | some c => match c.bind? buf with
    | none => none
    | some b => if c.dies.any (fun d => d.2.1 == pkg) && b.takes (c.logical pkg) && len == b.chb && decide (chunk < b.nch) then some b else none

end Sys2Proof.Machine
end

