-- ==== Sys2Proof/Machine/Matrix.lean ====
section
/-! DEFINITION. The matrix words and the matrix unit (spec/12_isa_async.md R300 to R310, spec/08_numbers.md R182 to R191, R200). -/

namespace Sys2Proof.Machine

/-! ## Tiles (R185, R300) -/

/-- An ungranted handle. -/
def Tile.blank : Tile :=
  { grant := .none, kc := 0, sums := [], nans := [], count := 0, anchor := .none, cbA := [], cbB := [], req := .none, queue := [] }

def Blk.tile (b : Blk) (h : Nat) : Tile := b.tiles.get Tile.blank h

def State.modTile (s : State) (b : BlkId) (h : Nat) (f : Tile → Tile) : State :=
  s.modBlk b fun x => { x with tiles := x.tiles.set Tile.blank h (f (x.tile h)) }

/-- K extent per step of a kind class (R300). -/
def kExt (kc : Nat) : Nat := match kc with | 1 => 48 | 2 => 12 | _ => 24
/-- Bits of an element of a kind class (R305). -/
def kBits (kc : Nat) : Nat := match kc with | 1 => 4 | 2 => 16 | _ => 8

/-- R15: elements of a core's accumulator memory. -/
def accElems : Nat := 65536

/-- F of R301: the unallocated elements of a core's accumulator memory. -/
def State.accFree (s : State) (c : CoreId) : Nat :=
  accElems - ((s.blks.filter fun b => decide (b.core = c) && b.state != .saved).flatMap fun b => b.tiles.filterMap fun t => t.2.grant.map fun g => g.1 * g.2).sum

/-- R301: the grant; at most six halvings. -/
def grantShape (fuel m n f : Nat) : Nat × Nat :=
  match fuel with
  | 0 => (0, 0)
  | k + 1 =>
    if m * n ≤ f then (m, n)
    else if m = 32 ∧ n = 32 then (0, 0)
    else if n ≥ m then grantShape k m (n / 2) f else grantShape k (m / 2) n f

/-! ## The wide accumulator (R186) -/

def winMax : Int := 2 ^ 95 - 1

/-- R186: what a product enters: its integer, or none for a NaN mark; and ASTK bits. -/
def enter (a b sa sb : FV) (anchor : Int) : Option Int × Nat :=
  match (FV.mul (FV.mul (FV.mul a b).1 sa).1 sb).1 with
  | .nan => (none, fANAN)
  | .inf s => (some (if s then -winMax else winMax), fASAT)
  | .fin s m e =>
    let r := roundAt 0 s m e anchor
    let q := FV.sgn s r.1
    let fl := if r.2 then fANX else 0
    if q > winMax then (some winMax, fl ||| fASAT) else if q < -winMax then (some (-winMax), fl ||| fASAT) else (some q, fl)

/-- R184: a block scale. -/
def scaleVal (ue8 : Bool) (x : Byte) : FV :=
  if ue8 then (if x = 0xFF#8 then .nan else .fin false 1 ((x.toNat : Int) - 127))
  else if x.getLsbD 7 then .nan else e4m3.decode false x.toNat

/-- The sum after entries, and ASTK bits. -/
def enterAll (l : List (Option Int × Nat)) (sum : W128) (nan : Bool) : W128 × Bool × Nat :=
  l.foldl (fun acc e => match e.1 with
    | some q => (acc.1 + BitVec.ofInt 128 q, acc.2.1, acc.2.2 ||| e.2)
    | none => (acc.1, true, acc.2.2 ||| e.2)) (sum, nan, 0)

/-- One K step entered in every element of an m × n tile: `prods i j` lists what enters element (i, j). -/
def Tile.enterStep (t : Tile) (m n : Nat) (prods : Nat → Nat → List (Option Int × Nat)) : Tile × Nat :=
  (List.range (m * n)).foldl (fun acc k =>
    let r := enterAll (prods (k / n) (k % n)) (acc.1.sums.get 0 k) (acc.1.nans.get false k)
    ({ acc.1 with sums := acc.1.sums.set 0 k r.1, nans := acc.1.nans.set false k r.2.1 }, acc.2 ||| r.2.2)) (t, 0)

/-- R190: the clamped sum, and ASAT. -/
def clampSum (x : W128) : Int × Nat :=
  if x.toInt > winMax then (winMax, fASAT) else if x.toInt < -winMax then (-winMax, fASAT) else (x.toInt, 0)

/-- R190: the raw form of element k. -/
def Tile.raw (t : Tile) (k : Nat) : BitVec 96 × Nat :=
  if t.nans.get false k then (0x800000000000000000000000#96, 0)
  else let c := clampSum (t.sums.get 0 k); (BitVec.ofInt 96 c.1, c.2)

def rawBytes (x : BitVec 96) : List Byte := leBytes 12 x.toNat

/-! ## Readout (R191) -/

/-- The operands of a readout, subnormal FP32 values as they stand. -/
structure Readout where
  sA   : FV
  sB   : FV
  bias : Option FV
  act  : Nat
  lo   : FV
  hi   : FV
  ty   : Ty
  rm   : Mode
  sat  : Bool
  ftz  : Bool
  deriving DecidableEq, Repr

/-- A value rounded to FP32, with the flags. -/
def rnd32 (ftz : Bool) (r : FV × Nat) : FV × Nat :=
  let e := fp32.encode 0 false ftz r.1
  (fp32.decode ftz e.1, r.2 ||| e.2)

/-- R193: an FP32 value as read under FTZ. -/
def FV.flushed (v : FV) (ftz : Bool) : FV :=
  match v with
  | .fin s m e => if ftz && m != 0 && decide (msb m e < -126) then .fin s 0 0 else v
  | v => v

/-- R200: a step that makes a nonzero finite value zero, by flush or by rounding; a value that was made zero so before stays it while it
is zero. -/
def lostZero (was : Bool) (exact : FV) (y : FV) : Bool :=
  y.isZero && (was || (!exact.isZero && !exact.isNan && !exact.isInf))

/-- R191: the converted value, its ASTK bits, and what R200 counts (SATN, FTZN, NANN). Log entry 48. -/
def Readout.run (r : Readout) (nan : Bool) (sum : W128) (anchor : Int) : W64 × Nat × (Bool × Bool × Bool) :=
  let c := clampSum sum
  let v : FV := FV.ofInt false c.1 anchor
  let fz := fun (x : FV) => x.flushed r.ftz
  let y0 := if nan then (FV.nan, 0) else
    let p := FV.mul v (fz r.sA)
    let q := FV.mul p.1 (fz r.sB)
    let y := rnd32 r.ftz (q.1, p.2 ||| q.2)
    (y.1, y.2 ||| c.2)
  let l0 := lostZero false (FV.mul (FV.mul v r.sA).1 r.sB).1 y0.1
  let (y1, l1) : (FV × Nat) × Bool := match r.bias with
    | some b =>
      let y := rnd32 r.ftz (FV.add 0 y0.1 (fz b))
      ((y.1, y.2 ||| y0.2), lostZero (l0 && b.isZero) (FV.add 0 y0.1 b).1 y.1)
    | none => (y0, l0)
  let acted := fun (lo hi : FV) => match r.act with
    | 1 => if y1.1.isNan then y1.1 else if (FV.fin false 0 0).lt y1.1 then y1.1 else .fin false 0 0
    | 2 => if y1.1.isNan then y1.1 else FV.minmax false (FV.minmax true y1.1 lo) hi
    | _ => y1.1
  let y2 : FV := acted (fz r.lo) (fz r.hi)
  let l2 := lostZero (l1 && y1.1.isZero) (acted r.lo r.hi) y2
  let z := convert r.ty r.rm r.sat r.ftz y2
  let fl := y1.2 ||| z.2
  let res : FV := match fmtOf r.ty with | some F => F.decode false z.1.toNat | none => if lo32 z.1 = 0#32 then .fin false 0 0 else .fin false 1 0
  let clamped := (fmtOf r.ty).isNone && z.2 &&& fIV != 0 && !y2.isNan
  let inNan := nan || r.sA.isNan || r.sB.isNan || (match r.bias with | some b => b.isNan | none => false)
  (z.1, fl, (!nan && c.2 != 0) || z.2 &&& fOF != 0 || clamped, lostZero l2 y2 res, res.isNan && !inNan)

/-- R200: one element counted for a tensor of the running launch. -/
def State.countStat (s : State) (b : BlkId) (tensor : Nat) (c : Bool × Bool × Bool) : State :=
  let add := fun (t : Tab Nat) k (x : Bool) => if x then t.set 0 k (min (t.get 0 k + 1) (2 ^ 32 - 1)) else t
  let put := fun (l : Launch) =>
    { l with stats := add (add (add l.stats (4 * tensor) c.1) (4 * tensor + 1) c.2.1) (4 * tensor + 2) c.2.2 }
  s.modCtx b.ctx fun x => x.modLaunch b.launch put

/-! ## Operations on a handle (R302, R310) -/

/-- A fresh tile of a handle (R300, R303), its queue and request kept. -/
def Tile.fresh (t : Tile) (g : Option (Nat × Nat)) (kc : Nat) : Tile :=
  { Tile.blank with grant := g, kc := kc, req := t.req, queue := t.queue }

/-- The shape and kind class a SHAPE asks for. -/
def shapeAsks (w : AW) : Nat × Nat × Nat :=
  (32 * 2 ^ (w.x.extractLsb' 9 2).toNat, 32 * 2 ^ (w.x.extractLsb' 7 2).toNat, (w.y.extractLsb' 3 3).toNat)

/-- R301: a SHAPE that has reached the head of its handle's queue is ready: it releases the handle's grant and allocates at once, so
SHAPEs allocate in the order in which they become ready. -/
def State.shapeReady (s : State) (b : Blk) (h : Nat) : State :=
  match (s.blk? b.id).bind fun x => (x.tile h).queue.head? with
  | some m => match m.ins with
    | .shape w =>
      let s := s.modTile b.id h fun t => t.fresh none 0
      let q := shapeAsks w
      let g := grantShape 8 q.1 q.2.1 (s.accFree b.core)
      if g = (0, 0) then s else s.modTile b.id h fun t => t.fresh (some g) q.2.2
    | _ => s
  | none => s

/-- The head of a handle's queue has ended: its Lockring entries are released, its flag falls, and the next operation is due. -/
def State.matDone (s : State) (b : Blk) (h : Nat) (m : MatOp) (bs : List Byte) (fl : Nat) : State :=
  let s := s.modTile b.id h fun t => { t with queue := t.queue.tail }
  let s := (s.freeLocks b.core fun k => decide (k.by_ = .op m.op)).engDone m.op bs fl
  match s.blk? b.id with
  | some x => if (x.tile h).queue.isEmpty then s else (s.shapeReady b h).due [.matrixOpComplete b.id h]
  | none => s

/-- The opcode minus 0x10 (R310). -/
def matOpn (i : Instr) : Nat := match awOf i with | some (o, _) => o.toNat - 0x10 | none => 0

/-- MERR after an error (R310). -/
def merrPut (old : W64) (code h opn fcode : Nat) : W64 :=
  if old.getLsbD 15 then old
  else BitVec.ofNat 64 (code + h * 2 ^ 8 + opn * 2 ^ 11 + 2 ^ 15 + (if code = 2 then fcode * 2 ^ 16 else 0))

/-- R310: an operation completes with an error. -/
def State.matFail (s : State) (b : Blk) (h : Nat) (m : MatOp) (code fcode : Nat) : State :=
  let n := match (b.tile h).grant with | some g => g.1 * g.2 | none => 0
  let s := s.modTile b.id h fun t => { t with nans := (List.range n).foldl (fun (x : Tab Bool) k => x.set false k true) t.nans }
  let who := match s.op? m.op with | some o => o.wave | none => ⟨b.id, 0⟩
  let s := s.modWave who fun w => { w with merr := merrPut w.merr code h (matOpn m.ins) fcode }
  s.matDone b h m [] fANAN

/-- An engine error of a matrix operation: a failed check, a check value, a home's refusal of a read or a write. Log entry 49. -/
def State.matErr (s : State) (b : Blk) (h : Nat) (m : MatOp) (write : Bool) (e : EngErr) : State :=
  let s := s.noteErr b e
  match e with
  | .addr f => s.matFail b h m 2 f
  | .integ _ _ _ => s.matFail b h m 3 0
  | .home f _ => if write then s.matFail b h m 3 0 else s.matFail b h m 2 f

/-- The next step of the head operation. -/
def State.matNext (s : State) (b : Blk) (h : Nat) : State :=
  (s.modTile b.id h fun t => { t with queue := match t.queue with | m :: r => { m with step := m.step + 1 } :: r | [] => [] }).due
    [.matrixOpComplete b.id h]

def State.matSticky (s : State) (m : MatOp) (fl : Nat) : State := s.modOp m.op fun o => { o with sticky := o.sticky ||| fl }

/-! ### SHAPE, MZERO, MCB -/

/-- A SHAPE that was ready, and so allocated, completes: the granted M and N, zeros where it was granted nothing. -/
def State.runShape (s : State) (b : Blk) (h : Nat) (m : MatOp) : State :=
  let g := (b.tile h).grant.getD (0, 0)
  s.matDone b h m (leBytes 4 g.1 ++ leBytes 4 g.2) 0

def State.runShapeRel (s : State) (b : Blk) (h : Nat) (m : MatOp) : State :=
  (s.modTile b.id h fun t => t.fresh none 0).matDone b h m (leBytes 8 0) 0

def State.runMzero (s : State) (b : Blk) (h : Nat) (m : MatOp) : State :=
  (s.modTile b.id h fun t => { t with sums := [], nans := [], count := 0, anchor := none }).matDone b h m [] 0

/-- R309: 32 bytes of scratchpad as a codebook. -/
def State.runMcb (s : State) (b : Blk) (h : Nat) (m : MatOp) (opb : Bool) : State :=
  let a := (m.addr.extractLsb' 0 20).toNat
  if a % 32 ≠ 0 then s.matFail b h m 5 0
  else match s.scrSpan b false a 32 with
    | .error f => s.matFail b h m 2 f
    | .ok t =>
      let bs := s.scrGet t 32
      let cb := (List.range 16).map fun i => BitVec.ofNat 16 (leVal ((bs.drop (2 * i)).take 2))
      (s.modTile b.id h fun t => if opb then { t with cbB := cb } else { t with cbA := cb }).matDone b h m [] 0

/-! ### MLOOP (R304, R305) -/

def MatOp.d (m : MatOp) (i : Nat) : W32 := m.desc.getD i 0
def MatOp.f (m : MatOp) (i lo n : Nat) : Nat := (m.d i).toNat / 2 ^ lo % 2 ^ n

/-- The kind class admits the word's formats. -/
def loopKindOk (kc : Nat) (w : AW) : Bool :=
  match kc with
  | 0 => true
  | 1 => !w.xb 15 && !w.xb 14
  | 2 => w.xb 15 == w.xb 14 && !w.xb 13 && !w.xb 12
  | _ => !w.xb 15 && !w.xb 14 && !w.xb 13 && !w.xb 12

def MatOp.ksteps (m : MatOp) : Nat := m.f 4 0 16
def MatOp.ainc (m : MatOp) : Int := (m.d 5).toInt
def MatOp.binc (m : MatOp) : Int := (m.d 6).toInt

def MatOp.layoutOk (m : MatOp) (w : AW) : Bool :=
  m.f 0 0 23 % 64 == 0 && m.f 1 0 23 % 64 == 0 && m.ainc % 64 == 0 && m.binc % 64 == 0
  && (w.xb 17 || m.f 0 20 3 == 0) && (w.xb 16 || m.f 1 20 3 == 0)

/-- Where an operand's bytes of step k lie: `a` for A. -/
def MatOp.opnd (m : MatOp) (s : State) (b : Blk) (isA cls : Bool) (k n : Nat) : Except FCode (BlkId × Nat) :=
  let base : Int := if isA then (m.f 0 0 23 : Int) + k * m.ainc else (m.f 1 0 23 : Int) + k * m.binc
  if base < 0 then .error (if cls then 6 else 5) else s.scrSpan b cls base.toNat n

/-- The value of element k of a row of packed elements. -/
def packedVal (kc : Nat) (alt : Bool) (cb : List W16) (bs : List Byte) (k : Nat) : FV :=
  match kc with
  | 0 => (if alt then e5m2 else e4m3).decode false (bs.getD k 0).toNat
  | 1 =>
    let x := (bs.getD (k / 2) 0).toNat / 16 ^ (k % 2) % 16
    bf16.decode false (cb.getD x 0).toNat
  | 2 => (if alt then fp16 else bf16).decode false (leVal ((bs.drop (2 * k)).take 2))
  | _ => FV.ofInt false (bs.getD k 0).toInt 0

/-- The bytes of a scale row are in bounds for every row and step. -/
def State.scalesOk (s : State) (b : Blk) (base stride rows bytes : Nat) : Bool :=
  match s.scrSpan b false base ((rows - 1) * stride + bytes) with | .ok _ => true | .error _ => false

/-- The first failed check of an MLOOP's operands (R305, checked when the engine takes it). Log entry 48. -/
def State.loopAddr (s : State) (b : Blk) (m : MatOp) (w : AW) (kc M N : Nat) : Option FCode :=
  let bytes := fun rows => rows * kExt kc * kBits kc / 8
  let bad := fun isA cls rows => (List.range m.ksteps).findSome? fun k =>
    match m.opnd s b isA cls k (bytes rows) with | .error f => some f | .ok _ => none
  let sc := decide (kc ≤ 1) && (!s.scalesOk b (m.f 2 0 20) (m.f 7 0 16) M (m.ksteps * (kExt kc / 24))
    || !s.scalesOk b (m.f 3 0 20) (m.f 7 0 16) N (m.ksteps * (kExt kc / 24)))
  ((bad true (w.xb 17) M).or (bad false (w.xb 16) N)).or (if sc then some 5 else none)

/-- The products of step k that enter element (i, j). -/
def State.loopProds (s : State) (b : Blk) (m : MatOp) (w : AW) (t : Tile) (M N k : Nat) (anchor : Int) :
    Nat → Nat → List (Option Int × Nat) :=
  let kc := t.kc
  let KS := kExt kc
  let get := fun isA cls rows => match m.opnd s b isA cls k (rows * KS * kBits kc / 8) with
    | .ok p => s.scrGet p (rows * KS * kBits kc / 8) | .error _ => []
  let A := get true (w.xb 17) M
  let B := get false (w.xb 16) N
  let scale := fun (ue : Bool) base (row kk : Nat) =>
    if kc ≤ 1 then
      scaleVal ue ((s.scrGet (b.id, base + row * m.f 7 0 16 + k * (KS / 24) + kk / 24) 1).getD 0 0)
    else FV.fin false 1 0
  fun i j => (List.range KS).map fun kk =>
    enter (packedVal kc (w.xb 15) t.cbA A (i * KS + kk)) (packedVal kc (w.xb 14) t.cbB B (j * KS + kk))
      (scale (w.xb 13) (m.f 2 0 20) i kk) (scale (w.xb 12) (m.f 3 0 20) j kk) anchor

/-- R187: the count after a step, and AEXH when it passes 2^32. -/
def countStep (c ks : Nat) : Nat × Nat := ((c + ks) % 2 ^ 64, if c ≤ 2 ^ 32 ∧ c + ks > 2 ^ 32 then fAEXH else 0)

def State.runMloop (s : State) (b : Blk) (h : Nat) (m : MatOp) (w : AW) : State :=
  let t := b.tile h
  match t.grant with
  | none => s.matFail b h m 1 0
  | some (M, N) =>
    if !loopKindOk t.kc w then s.matFail b h m 4 0
    else if !m.layoutOk w then s.matFail b h m 5 0
    else if m.ksteps = 0 then s.matDone b h m [] 0
    else match (if m.step = 0 then s.loopAddr b m w t.kc M N else none) with
      | some f => s.matFail b h m 2 f
      | none =>
        let anc : Int := (BitVec.ofNat 8 (m.f 4 16 8)).toInt
        let a := t.anchor.getD anc
        let r := t.enterStep M N (s.loopProds b m w t M N m.step a)
        let c := countStep t.count (kExt t.kc)
        let fl := r.2 ||| c.2 ||| (if a = anc then 0 else fANX)
        let s := (s.modTile b.id h fun x => { x with sums := r.1.sums, nans := r.1.nans, count := c.1, anchor := some a }).addWork b.id 0 (M * N * kExt t.kc)
        if m.step + 1 < m.ksteps then (s.matSticky m fl).matNext b h else s.matDone b h m [] fl

/-! ### MEPI, MSTA, MLDA (R307, R308) -/

/-- Where row bytes lie: a global VA or a scratchpad offset, checked. -/
def State.rowOk (s : State) (b : Blk) (glb : Bool) (k : Kind) (a : W64) (n : Nat) : Option FCode :=
  if glb then (match s.engXlate b k a n with | .ok _ => none | .error f => some f)
  else (match s.scrSpan b false a.toNat n with | .ok _ => none | .error f => some f)

/-- An element written by the matrix unit; none: the home holds the access (R62). -/
def State.elemWrite (s : State) (b : Blk) (glb : Bool) (a : W64) (bs : List Byte) : Option (Except EngErr State) :=
  if glb then
    (match s.engXlate b .store a bs.length with
     | .error f => some (.error (.addr f))
     | .ok x => if s.engWaits b x bs.length then none else some (s.engWrite b x bs))
  else (match s.scrSpan b false a.toNat bs.length with
    | .error f => some (.error (.addr f))
    | .ok t => some (.ok (s.scrWrite t.1 t.2 bs)))

/-- Element k of the head operation's tile is written; the last one ends the operation. -/
def State.matWrite (s : State) (b : Blk) (h : Nat) (m : MatOp) (glb : Bool) (a : W64) (bs : List Byte) (fl total : Nat)
    (count fin : State → State) : State :=
  match s.elemWrite b glb a bs with
  | none => s.due [.matrixOpComplete b.id h]
  | some (.error e) => s.matErr b h m true e
  | some (.ok t) =>
    if m.step + 1 < total then ((count t).matSticky m fl).matNext b h else (fin (count t)).matDone b h m [] fl

def MatOp.dest (m : MatOp) (glb : Bool) : W64 := if glb then join (m.d 1) (m.d 0) else BitVec.ofNat 64 (m.f 0 0 20)

/-- A tag publication of a word (R325, R307). -/
def tagPubOf (w : WaveId) (pkg ord : Nat) (tw : W64) : TagPub :=
  ⟨w.blk.ctx, (tw.extractLsb' 0 18).toNat, (tw.extractLsb' 18 20).toNat, (tw.extractLsb' 38 3).toNat, pkg, w, ord⟩

def State.runMepi (s : State) (b : Blk) (h : Nat) (m : MatOp) (w : AW) : State :=
  let t := b.tile h
  let ty := (decodeTy w.mty).getD .f32
  let size := tyBits ty / 8
  let glb := w.xb 10
  match t.grant with
  | none => s.matFail b h m 1 0
  | some (M, N) =>
    let dest := m.dest glb
    let stride := (m.d 2).toNat
    if dest.toNat % size ≠ 0 ∨ stride % size ≠ 0 ∨ stride < N * size then s.matFail b h m 5 0
    else
      let boff := m.f 5 0 20
      let bias := w.y.getLsbD 6
      let bad := if m.step ≠ 0 then none else
        ((List.range M).findSome? fun i => s.rowOk b glb .store (dest + BitVec.ofNat 64 (i * stride)) (N * size)).or
          (if bias then s.rowOk b false .load (BitVec.ofNat 64 boff) (4 * N) else none)
      match bad with
      | some f => s.matFail b h m 2 f
      | none =>
        let f32 := fun i => fp32.decode false (m.d i).toNat
        let i := m.step / N
        let j := m.step % N
        let r : Readout :=
          { sA := f32 3, sB := f32 4,
            bias := if bias then some (fp32.decode false (leVal (s.scrGet (b.id, boff + 4 * j) 4))) else none,
            act := (w.x.extractLsb' 2 2).toNat, lo := f32 6, hi := f32 7, ty := ty, rm := (w.x.extractLsb' 5 2).toNat, sat := w.xb 13,
            ftz := m.ftz }
        let y := r.run (t.nans.get false m.step) (t.sums.get 0 m.step) (t.anchor.getD 0)
        let count := fun (s : State) => if m.opt.getLsbD 8 then s.countStat b.id (m.opt.extractLsb' 0 8).toNat y.2.2 else s
        let fin := fun (s : State) => match w.xb 9, s.op? m.op with
          -- as TAGPUB: a release, which covers what the wave did before this word (R122, R325)
          | true, some o => (s.sendAll o.wave).defer o.wave ((s.relWaits o.wave m.op true).filter fun x => decide (x < m.op))
              [.tagPublicationApply (tagPubOf o.wave b.core.pkg (o.ord % 2 ^ 32) m.tag)]
          | _, _ => s
        s.matWrite b h m glb (dest + BitVec.ofNat 64 (i * stride + j * size)) (leBytes size y.1.toNat) y.2.1 (M * N) count fin

def State.runMsta (s : State) (b : Blk) (h : Nat) (m : MatOp) (glb : Bool) : State :=
  let t := b.tile h
  let a := if glb then m.addr else m.addr &&& 0xFFFFF#64
  match t.grant with
  | none => s.matFail b h m 1 0
  | some (M, N) =>
    if a.toNat % 4 ≠ 0 then s.matFail b h m 5 0
    else match (if m.step = 0 then s.rowOk b glb .store a (12 * M * N) else none) with
      | some f => s.matFail b h m 2 f
      | none =>
        let r := t.raw m.step
        s.matWrite b h m glb (a + BitVec.ofNat 64 (12 * m.step)) (rawBytes r.1) r.2 (M * N) id id

/-- MLDA: every element, when every byte has passed its check. DESIGN CHOICE (log entry 106): a failed check value of its global read has
the detection code 0. Log entry 49. -/
def State.runMlda (s : State) (b : Blk) (h : Nat) (m : MatOp) (glb : Bool) : State :=
  let t := b.tile h
  let a := if glb then m.addr else m.addr &&& 0xFFFFF#64
  match t.grant with
  | none => s.matFail b h m 1 0
  | some (M, N) =>
    if a.toNat % 4 ≠ 0 then s.matFail b h m 5 0
    else
      let n := 12 * M * N
      let put := fun (s : State) (bs : List Byte) =>
        let raw := fun k => BitVec.ofNat 96 (leVal ((bs.drop (12 * k)).take 12))
        let set := fun (x : Tile) k =>
          let v := raw k
          { x with sums := x.sums.set 0 k (v.signExtend 128), nans := x.nans.set false k (v == 0x800000000000000000000000#96) }
        let base := { t with sums := [], nans := [], count := 0, anchor := some (m.opt.extractLsb' 0 8).toInt }
        let t' := (List.range (M * N)).foldl set base
        (s.modTile b.id h fun _ => t').matDone b h m [] 0
      if glb then
        (match s.engXlate b .load a n with
         | .error f => s.matFail b h m 2 f
         | .ok x =>
           if s.engWaits b x n then s.due [.matrixOpComplete b.id h]
           else match s.engRead b x n 0 with
             | .error e => s.matErr b h m false e
             | .ok (bs, s) => put s bs)
      else (match s.scrSpan b false a.toNat n with
        | .error f => s.matFail b h m 2 f
        | .ok p => put s (s.scrGet p n))

/-- R307 with COL = 1: the raw forms of the tile go out as a contribution; the operation ends when they are taken (R374). -/
def State.runMepiCol (s : State) (b : Blk) (h : Nat) (m : MatOp) : State :=
  let t := b.tile h
  match t.grant with
  | none => s.matFail b h m 1 0
  | some (M, N) =>
    if m.contrib then s
    else
      let ks := List.range (M * N)
      let bs := ks.flatMap fun k => rawBytes (t.raw k).1
      let fl := orAll ks fun k => (t.raw k).2
      let buf := (m.route.extractLsb' 0 16).toNat
      let chunk := (m.d 0).toNat
      if !m.route.getLsbD 16 || (s.boundFor b.id.ctx b.core.pkg buf chunk bs.length).isNone then s.matFail b h m 6 0
      else
        let mark := fun (x : Tile) => { x with queue := match x.queue with | q :: r => { q with contrib := true } :: r | [] => [] }
        ((s.matSticky m fl).modTile b.id h mark).due [.contributionCount ⟨b.id.ctx, buf, chunk, b.core.pkg, .mepi b.id h, bs⟩]

/-- MATRIX_OP_COMPLETE (R302): the operation at the head of a handle's queue runs: one K step, one element, or all of it. Log entry 48. -/
def execMatrixOpComplete (id : BlkId) (h : Nat) (s : State) : Out :=
  .next (match s.blk? id with
    | none => s
    | some b =>
      if b.state != .running || b.failed then s
      else match (b.tile h).queue with
        | [] => s
        | m :: _ =>
          if s.lockWaits b.core (.op m.op) || s.scrOwed m.op then s.due [.matrixOpComplete id h]
          else match m.ins with
            | .shape _ => s.runShape b h m
            | .shapeRel _ => s.runShapeRel b h m
            | .mloop w => s.runMloop b h m w
            | .mepi w => s.runMepi b h m w
            | .mepiCol _ => s.runMepiCol b h m
            | .mlda w => s.runMlda b h m (w.xb 10)
            | .msta w => s.runMsta b h m (w.xb 10)
            | .mcb w => if (b.tile h).grant.isNone then s.matFail b h m 1 0 else s.runMcb b h m (w.xb 9)
            | _ => if (b.tile h).grant.isNone then s.matFail b h m 1 0 else s.runMzero b h m)

/-! ## The words -/

/-- The spans an operation registers in the Lockring: of a block's scratchpad or global, its first and last byte, source or
destination. -/
structure Span where
  scr : Option BlkId
  lo  : Nat
  hi  : Nat
  dst : Bool
  deriving DecidableEq, Repr

def Span.lock (x : Span) (by_ : LockBy) : Lock := ⟨by_, x.scr, x.lo, x.hi, x.dst⟩

/-- A span of n bytes at an address; a global one is registered by its IA. -/
def State.spanAt (s : State) (b : Blk) (glb : Bool) (k : Kind) (a : W64) (n : Nat) (dst : Bool) : List Span :=
  if n = 0 then []
  else if glb then
    (match s.engXlate { b with intervals := [⟨3, 0, 2 ^ 57, false⟩] } k a 1 with
     | .ok x => [⟨none, x.ia, x.ia + n - 1, dst⟩] | .error _ => [])
  else [⟨some b.id, a.toNat, a.toNat + n - 1, dst⟩]

/-- The shape that the spans of an operation are computed from: what the latest SHAPE asked for, where the handle is granted or a
SHAPE is pending (R305). -/
def Tile.spanShape (t : Tile) : Option (Nat × Nat × Nat) :=
  if t.grant.isSome || t.queue.any fun m => (match m.ins with | .shape _ => true | _ => false) then t.req else none

/-- R305: the source spans of an MLOOP. -/
def loopSpans (b : BlkId) (t : Tile) (m : MatOp) (w : AW) : List Span :=
  match t.spanShape with
  | none => []
  | some (M, N, kc) =>
    let k := m.ksteps
    let one : Bool → Nat → Int → Nat → List Span := fun cls base inc rows =>
      let last : Int := base + ((k : Int) - 1) * inc
      let lo := min (base : Int) last
      let hi := max (base : Int) last + rows * kExt kc * kBits kc / 8 - 1
      if cls ∨ k = 0 ∨ hi < 0 then [] else [⟨some b, lo.toNat, hi.toNat, false⟩]
    let sc : Nat → Nat → List Span := fun base rows =>
      if kc > 1 ∨ k = 0 then [] else [(⟨some b, base, base + (rows - 1) * m.f 7 0 16 + k * (kExt kc / 24) - 1, false⟩)]
    one (w.xb 17) (m.f 0 0 23) m.ainc M ++ one (w.xb 16) (m.f 1 0 23) m.binc N ++ sc (m.f 2 0 20) M ++ sc (m.f 3 0 20) N

/-- A matrix word of the focus wave: its Lockring entries, its flag, and its place in the handle's queue. -/
def State.matWord (s : State) (w : AW) (m : MatOp) (spans : Blk → Tile → List Span) (f : Tile → Tile) : State :=
  if s.idleWord w.g then s
  else match s.blk? s.wave.id.blk with
    | none => s
    | some b =>
      let sp := spans b (b.tile w.handle)
      if !s.lockRoom b.core sp.length then s.stall
      else
        let r := s.engOp m.ins 1
        let t := r.2.addLocks b.core (sp.map fun x => x.lock (.op r.1))
        let first := (b.tile w.handle).queue.isEmpty
        let t := t.modTile b.id w.handle fun x => { f x with queue := x.queue ++ [{ m with op := r.1 }] }
        if first then (t.shapeReady b w.handle).due [.matrixOpComplete b.id w.handle] else t

/-- An operation with its operands read at issue. -/
def State.matOf (s : State) (i : Instr) (w : AW) : MatOp :=
  { op := 0, ins := i, desc := s.opBlock w.s1, addr := s.op64 w.s1, opt := s.op32 w.s2, tag := s.op64 w.d, route := s.wave.colroute, ftz := s.wave.ftz,
    step := 0, contrib := false }

def execShape (w : AW) (s : State) : Out :=
  .next (s.matWord w (s.matOf (.shape w) w) (fun _ _ => []) fun t => { t with req := some (shapeAsks w) })

def execShapeRel (w : AW) (s : State) : Out :=
  .next (s.matWord w (s.matOf (.shapeRel w) w) (fun _ _ => []) fun t => { t with req := none })

def execMzero (w : AW) (s : State) : Out := .next (s.matWord w (s.matOf (.mzero w) w) (fun _ _ => []) id)

def execMloop (w : AW) (s : State) : Out :=
  let m := s.matOf (.mloop w) w
  .next (s.matWord w m (fun b t => loopSpans b.id t m w) id)

/-- R325: a tag word that the tag fault refuses. -/
def State.tagBad (s : State) (tw : W64) : Bool :=
  let cnt := match s.ctx? s.wave.id.blk.ctx with | some c => (c.tagwin.extractLsb' 18 19).toNat | none => 0
  decide ((tw.extractLsb' 0 18).toNat ≥ cnt) || decide ((tw.extractLsb' 38 3).toNat ≥ 5) || tw.extractLsb' 41 23 != 0#23

def execMepi (w : AW) (s : State) : Out :=
  let m := s.matOf (.mepi w) w
  let size := tyBits ((decodeTy w.mty).getD .f32) / 8
  let spans := fun (b : Blk) (t : Tile) => match t.spanShape with
    | some (M, N, _) => s.spanAt b (w.xb 10) .store (m.dest (w.xb 10)) ((M - 1) * (m.d 2).toNat + N * size) true
    | none => []
  .next (if !s.idleWord w.g && w.xb 9 && s.tagBad m.tag then s.trapHere 0x0F 0 m.tag 0 0 ((s.wave.part w.g).headD 0)
    else s.matWord w m spans id)

def execMepiCol (w : AW) (s : State) : Out := .next (s.matWord w (s.matOf (.mepiCol w) w) (fun _ _ => []) id)

/-- The span of a raw tile (R308). -/
def State.rawSpans (s : State) (w : AW) (k : Kind) (dst : Bool) (b : Blk) (t : Tile) : List Span :=
  match t.spanShape with
  | some (M, N, _) =>
    let a := s.op64 w.s1
    s.spanAt b (w.xb 10) k (if w.xb 10 then a else a &&& 0xFFFFF#64) (12 * M * N) dst
  | none => []

def execMlda (w : AW) (s : State) : Out := .next (s.matWord w (s.matOf (.mlda w) w) (s.rawSpans w .load false) id)
def execMsta (w : AW) (s : State) : Out := .next (s.matWord w (s.matOf (.msta w) w) (s.rawSpans w .store true) id)
def execMcb (w : AW) (s : State) : Out := .next (s.matWord w (s.matOf (.mcb w) w) (fun _ _ => []) id)

end Sys2Proof.Machine
end

