-- ==== Sys2Proof/Machine/Stream.lean ====
section
/-! DEFINITION. The stream words and the stream engine (spec/12_isa_async.md R311 to R321). -/

namespace Sys2Proof.Machine

/-! ## Entries (R312, R313) -/

def Cmd.word (c : Cmd) (i : Nat) : W64 := c.words.getD i 0
def Cmd.bits (c : Cmd) (i lo n : Nat) : Nat := (c.word i).toNat / 2 ^ lo % 2 ^ n
def Cmd.opc (c : Cmd) : Nat := c.bits 0 0 4
def Cmd.sco (c : Cmd) : Nat := c.bits 0 4 3
def Cmd.cinc (c : Cmd) : Bool := c.bits 0 7 1 == 1
def Cmd.soff (c : Cmd) : Nat := c.bits 0 32 20
def Cmd.addr (c : Cmd) : W64 := c.word 1
def Cmd.len (c : Cmd) : Nat := c.bits 2 0 32
def Cmd.caddr (c : Cmd) : Nat := c.bits 3 0 57
/-- Slot rings: box count, step dimension, slots (R313). -/
def Cmd.bc (c : Cmd) : Nat := c.bits 1 32 16
def Cmd.sd (c : Cmd) : Nat := c.bits 1 20 3
def Cmd.nslots (c : Cmd) : Nat := c.bits 1 24 6 + 1
def Cmd.isRing (c : Cmd) : Bool := c.opc == 6 || c.opc == 7
/-- The box indices; box n of a slot ring. -/
def Cmd.box_ (c : Cmd) (n : Nat) : List Nat :=
  let d := [c.bits 2 0 16, c.bits 2 16 16, c.bits 2 32 16, c.bits 2 48 16, c.bits 1 48 16]
  if c.isRing then d.zipIdx.map fun p => if p.2 = c.sd then p.1 + n else p.1 else d

def Blk.cmd? (b : Blk) (idx : Nat) : Option Cmd := b.cmds.find? fun c => c.idx == idx
def State.modCmd (s : State) (b : BlkId) (idx : Nat) (f : Cmd → Cmd) : State :=
  s.modBlk b fun x => { x with cmds := updFirst (fun c => c.idx == idx) f x.cmds }

/-! ## Tensor layout records (R314, R315) -/

structure Tlr where
  base : Nat
  fmt  : Nat
  ndm  : Nat
  pad  : Nat
  swz  : Nat
  ext  : List Nat
  box  : List Nat
  str  : List Nat      -- byte strides of dimensions 1 to 4
  deriving DecidableEq, Repr

/-- Bits of an element of a TY code. -/
def fmtBits (f : Nat) : Nat := match f with | 14 => 4 | 1 | 5 | 12 | 13 => 8 | 2 | 6 | 10 | 11 => 16 | _ => 32

/-- R314: the record in 64 bytes; none where it breaks the table. -/
def Tlr.parse (bs : List Byte) : Option Tlr :=
  let w0 := leVal (bs.take 8)
  let w1 := leVal ((bs.drop 8).take 8)
  let n := w1 / 16 % 8
  let used := fun k => decide (k ≤ n)
  let t : Tlr :=
    { base := w0 % 2 ^ 57, fmt := w1 % 16, ndm := n, pad := w1 / 2 ^ 8 % 4, swz := w1 / 2 ^ 10 % 8,
      ext := (List.range 5).map fun k => if used k then leVal ((bs.drop (16 + 4 * k)).take 4) else 1,
      box := (List.range 5).map fun k => if used k then leVal ((bs.drop (36 + k)).take 1) + 1 else 1,
      str := (List.range 4).map fun k => leVal ((bs.drop (44 + 5 * k)).take 5) }
  let ok := w0 / 2 ^ 57 == 0 && [0, 1, 2, 3, 5, 6, 7, 9, 10, 11, 12, 13, 14].contains t.fmt && decide (n ≤ 4) && w1 / 2 ^ 7 % 2 == 0
    && decide (t.pad < 2) && decide (t.swz < 4) && w1 / 2 ^ 13 == 0
    && (List.range 5).all (fun k => if used k then t.ext.getD k 0 != 0
        else leVal ((bs.drop (16 + 4 * k)).take 4) == 0 && leVal ((bs.drop (36 + k)).take 1) == 0
          && (k == 0 || t.str.getD (k - 1) 0 == 0))
    && leVal ((bs.drop 41).take 3) == 0 && (t.fmt != 14 || t.box.getD 0 1 % 2 == 0)
  if ok then some t else none

/-- Elements of a unit of the copy: two for .cb4, whose unit is a byte. -/
def Tlr.per (t : Tlr) : Nat := if t.fmt = 14 then 2 else 1
/-- Bytes of a unit. -/
def Tlr.ub (t : Tlr) : Nat := fmtBits t.fmt * t.per / 8
def Tlr.b (t : Tlr) (k : Nat) : Nat := if k = 0 then t.box.getD 0 1 / t.per else t.box.getD k 1
/-- Units of a box. -/
def Tlr.units (t : Tlr) : Nat := t.b 0 * t.b 1 * t.b 2 * t.b 3 * t.b 4
/-- Bytes of a box in scratchpad. -/
def Tlr.bytes (t : Tlr) : Nat := t.units * t.ub

/-- Coordinates of unit p of a box: its first element. -/
def Tlr.coord (t : Tlr) (d : List Nat) (p k : Nat) : Nat :=
  let before := (List.range k).foldl (fun a j => a * t.b j) 1
  let i := p / before % t.b k
  d.getD k 0 * t.box.getD k 1 + (if k = 0 then i * t.per else i)

/-- R315: the address of a unit; none where its first element lies outside the tensor. -/
def Tlr.va (t : Tlr) (d : List Nat) (p : Nat) : Option W64 :=
  if (List.range 5).all fun k => decide (t.coord d p k < t.ext.getD k 1) then
    some (vaOf t.base + BitVec.ofNat 64 (t.coord d p 0 * fmtBits t.fmt / 8
      + ((List.range 4).map fun k => t.coord d p (k + 1) * t.str.getD k 0).sum))
  else none

/-- The second element of a .cb4 unit lies outside the tensor. -/
def Tlr.half (t : Tlr) (d : List Nat) (p : Nat) : Bool := t.per == 2 && decide (t.ext.getD 0 1 ≤ t.coord d p 0 + 1)

/-- R315: swizzling of a scratchpad byte position. -/
def Tlr.place (t : Tlr) (o : Nat) : Nat :=
  if t.swz = 0 then o
  else
    let R := 16 * 2 ^ t.swz
    let r := o / R
    let c := o % R / 16
    r * R + ((c ^^^ (r % (R / 16))) * 16) + o % 16

/-- Bytes from SOFF that a box may touch. -/
def Tlr.reach (t : Tlr) : Nat :=
  if t.swz = 0 then t.bytes
  else ((List.range (t.bytes / 16)).map fun c => t.place (16 * c) + 16).foldl max 0

/-- The canonical NaN of a floating-point element format (R179); none for the others. Log entry 21. -/
def padNan (f : Nat) : Option Nat :=
  match f with
  | 9 => some fp32.nan | 10 => some fp16.nan | 11 => some bf16.nan | 12 => some e4m3.nan | 13 => some e5m2.nan | _ => none

/-- R315: the fill of an element outside the tensor; free where the format has no NaN (the spec gives none). Log entry 21. -/
def State.padOf (s : State) (t : Tlr) : Nat × State :=
  if t.pad = 0 then (0, s)
  else match padNan t.fmt with
    | some n => (n, s)
    | none => let (w, u) := s.anyWord; (w.toNat % 2 ^ fmtBits t.fmt, u)

/-! ## The check of a command (R317) -/

/-- The outcome of a command's check: status, FCODE, its Lockring spans, its tensor record. -/
structure Plan where
  status : Nat
  fcode  : Nat
  spans  : List Span
  tlr    : Option Tlr
  deriving DecidableEq, Repr

def Plan.bad : Plan := ⟨1, 0, [], none⟩
def Plan.addr (f : Nat) : Plan := ⟨2, f, [], none⟩

/-- The checks of a global span of n bytes. -/
def State.glbSpan (s : State) (b : Blk) (k : Kind) (va : W64) (n : Nat) (dst : Bool) : Except FCode Span :=
  match s.engXlate b k va n with
  | .error f => .error f
  | .ok x => .ok ⟨none, x.ia, x.ia + n - 1, dst⟩

def State.ownSpan (s : State) (b : Blk) (o n : Nat) (dst : Bool) : Except FCode Span :=
  match s.scrSpan b false o n with | .error f => .error f | .ok _ => .ok ⟨some b.id, o, o + n - 1, dst⟩

/-- The span of a scratchpad of the block's cluster, the destination of a CPC (R127, R316). -/
def State.peerSpan (s : State) (b : Blk) (a n : Nat) : Except FCode Span :=
  match s.scrSpan b true a n with | .error f => .error f | .ok t => .ok ⟨some t.1, t.2, t.2 + n - 1, true⟩

/-- The global span of a box: every unit checked. -/
def State.boxSpan (s : State) (b : Blk) (t : Tlr) (d : List Nat) (k : Kind) (dst : Bool) : Except FCode (List Span) :=
  (List.range t.units).foldl (fun acc p => match acc with
    | .error f => .error f
    | .ok l => match t.va d p with
      | none => .ok l
      | some a => match s.glbSpan b k a t.ub dst with
        | .error f => .error f
        | .ok x => match l with
          | [] => .ok [x]
          | y :: _ => .ok [⟨none, min x.lo y.lo, max x.hi y.hi, dst⟩]) (.ok [])

/-- The counter's span (R316, R317). -/
def State.ctrSpan (s : State) (b : Blk) (c : Cmd) : Except FCode (List Span) :=
  if c.cinc then (match s.glbSpan b .atomic (vaOf c.caddr) 8 true with | .error f => .error f | .ok x => .ok [x]) else .ok []

/-- The codes and reserved fields of R312 and R313. -/
def Cmd.fieldsOk (c : Cmd) : Bool :=
  c.bits 0 10 2 == 0 && c.bits 0 24 8 == 0 && c.bits 0 52 12 == 0 && decide (c.sco < 5) && decide (c.opc < 8) && c.isRing == c.xring
  && (if c.cinc then c.caddr % 8 == 0 else c.word 3 == 0#64) && c.bits 3 57 7 == 0
  && (match c.opc with
    | 2 | 3 => c.bits 1 20 28 == 0
    | 6 | 7 => c.bits 1 23 1 == 0 && c.bits 1 30 2 == 0 && decide (c.sd < 5) && c.bc != 0
    | n => c.bits 2 32 32 == 0 && decide (1 ≤ c.len) && decide (c.len ≤ 2 ^ 20)
        && (n != 5 || (c.len % 4 == 0 && c.addr.toNat % 4 == 0 && c.soff % 4 == 0)))

def planOf (l : List (Except FCode (List Span))) (t : Option Tlr) : Plan :=
  l.foldl (fun (p : Plan) x => if p.status ≠ 0 then p else match x with
    | .error f => Plan.addr f | .ok ys => { p with spans := p.spans ++ ys }) ⟨0, 0, [], t⟩

def oneSpan (x : Except FCode Span) : Except FCode (List Span) := x.map fun y => [y]

/-- R317: the whole check of a command. -/
def State.plan (s : State) (b : Blk) (c : Cmd) : Plan :=
  if !c.fieldsOk then Plan.bad
  else match c.opc with
    | 0 => planOf [oneSpan (s.glbSpan b .load c.addr c.len false), oneSpan (s.ownSpan b c.soff c.len true), s.ctrSpan b c] none
    | 1 => planOf [oneSpan (s.ownSpan b c.soff c.len false), oneSpan (s.glbSpan b .store c.addr c.len true), s.ctrSpan b c] none
    | 4 => planOf [oneSpan (s.ownSpan b c.soff c.len false), oneSpan (s.peerSpan b (c.bits 1 0 23) c.len), s.ctrSpan b c] none
    | 5 => planOf [oneSpan (s.ownSpan b c.soff c.len false), oneSpan (s.glbSpan b .atomic c.addr c.len true), s.ctrSpan b c] none
    | op =>
      let a := c.bits 1 0 20
      if a % 64 ≠ 0 then Plan.bad
      else match s.scrSpan b false a 64 with
        | .error f => Plan.addr f
        | .ok p => match Tlr.parse (s.scrGet p 64) with
          | none => Plan.bad
          | some t =>
            if (t.swz ≠ 0 ∧ t.bytes % 16 ≠ 0) ∨ (c.isRing ∧ t.bytes % 64 ≠ 0) then Plan.bad
            else
              let load := op == 2 || op == 6
              let boxes := if c.isRing then List.range c.bc else [0]
              let glb := boxes.map fun n => s.boxSpan b t (c.box_ n) (if load then .load else .store) (!load)
              if c.isRing then
                let own := [oneSpan (s.ownSpan b c.soff (c.nslots * t.bytes) true), s.ctrSpan b c]
                let p := planOf (glb ++ own) (some t)
                { p with spans := (planOf own (some t)).spans }
              else planOf (glb ++ [oneSpan (s.ownSpan b c.soff t.reach load), s.ctrSpan b c]) (some t)

/-! ## Completion (R317, R320, R321) -/

/-- XWAITs of a block whose completion has come (R320). -/
def State.wakeXwaits (s : State) (b : BlkId) (c : Cmd) : State :=
  let mine := s.ops.filter fun o => decide (o.wave.blk = b) && o.left == 1 && (match o.ins with
    | .xwait w => o.arg.get 0 0 == BitVec.ofNat 64 c.idx && (c.done || (c.srcd && !w.xb 9))
    | _ => false)
  mine.foldl (fun s o =>
    let arr : Bool := match o.ins with | .xwait w => w.xb 9 | _ => false
    let s := if arr && c.status == 0 then s.modOp o.id fun o => { o with arg := o.arg.set 0 64 (BitVec.ofNat 64 (c.sco + 1)) } else s
    s.engDone o.id (leBytes 4 (if c.done && (arr || !c.srcOk) then c.status else 0)) 0) s

/-- RI moves past each leading entry that is done (R311). -/
def riFrom (fuel ri : Nat) (b : Blk) : Nat :=
  match fuel with
  | 0 => ri
  | n + 1 => match b.cmd? ri with
    | some c => if c.done ∧ ri ≠ b.wi then riFrom n ((ri + 1) % 2 ^ 32) b else ri
    | none => ri

/-- The engine writes its fields of an entry, bytes 1 and 2, as the command stands; the fields of software stay (R312). -/
def State.putEntry (s : State) (b : BlkId) (idx : Nat) : State :=
  match s.blk? b with
  | none => s
  | some x => match x.cmd? idx with
    | none => s
    | some c =>
      s.scrWrite b (x.roff + 32 * (idx % 2 ^ x.logn) + 1) (leBytes 2 (c.srcd.toNat + c.done.toNat * 2 + c.status * 2 ^ 4 + c.fcode * 2 ^ 8))

def State.putNotify (s : State) (b : BlkId) : State :=
  match s.blk? b with | some x => s.scrWrite b x.noff (leBytes 8 x.notify.toNat) | none => s

/-- A command reaches DONE with a status. Log entry 51. -/
def State.cmdDone (s : State) (b : Blk) (idx status fcode : Nat) : State :=
  let s := s.modCmd b.id idx fun c => { c with taken := true, srcd := true, done := true, status := status, fcode := fcode, failed := status != 0 }
  let s := (s.putEntry b.id idx).modBlk b.id fun x => { x with ri := riFrom 2048 x.ri x }
  let s := (s.putNotify b.id).freeLocks b.core fun k => decide (k.by_ = .cmd b.id idx)
  match (s.blk? b.id).bind (fun x => x.cmd? idx) with
  | some c => s.wakeXwaits b.id c
  | none => s

/-- An engine error of a copy (R317). Log entry 50. -/
def State.cmdErr (s : State) (b : Blk) (idx : Nat) (write : Bool) (e : EngErr) : State :=
  let s := s.noteErr b e
  match e with
  | .addr f => s.cmdDone b idx 2 f
  | .integ _ _ _ => s.cmdDone b idx 3 0
  | .home f _ => if write then s.cmdDone b idx 3 0 else s.cmdDone b idx 2 f

/-- Every source byte has been read (R317 step 1). -/
def State.cmdRead (s : State) (b : Blk) (idx : Nat) : State :=
  let s := (s.modCmd b.id idx fun c => { c with srcd := true, srcOk := true }).putEntry b.id idx
  let s := s.freeLocks b.core fun k => decide (k.by_ = .cmd b.id idx) && !k.dst
  match (s.blk? b.id).bind (fun x => x.cmd? idx) with
  | some c => s.wakeXwaits b.id c
  | none => s

/-! ## Moving bytes -/

/-- What a move of one piece answers: moved, held by a shoot-down, or an error of the read or the write. -/
inductive Moved where
  | ok (s : State)
  | held
  | err (write : Bool) (e : EngErr)
  deriving DecidableEq, Repr

def State.glbGet (s : State) (b : Blk) (a : W64) (n : Nat) (k : List Byte → State → Moved) : Moved :=
  match s.engXlate b .load a n with
  | .error f => .err false (.addr f)
  | .ok x => if s.engWaits b x n then .held else match s.engRead b x n 1 with
    | .error e => .err false e
    | .ok (bs, t) => k bs t

def State.glbPut (s : State) (b : Blk) (a : W64) (bs : List Byte) : Moved :=
  match s.engXlate b .store a bs.length with
  | .error f => .err true (.addr f)
  | .ok x => if s.engWaits b x bs.length then .held else match s.engWrite b x bs with
    | .error e => .err true e
    | .ok t => .ok t

/-- A read-modify-write of an engine at a home; copies of the line are invalidated, as for a core's (R86). -/
def State.engRmw (s : State) (ctx : Nat) (core : CoreId) (r : Range) (ia : Nat) (op : Rmw) (ftz : Bool) (d : List Byte) :
    Except EngErr (State × List Byte × HomeId) :=
  let h := s.homeAt ctx r ia
  if s.cut core.pkg h.pkg then .error (.home 8 []) else
  match s.homeFind ctx h ia with
  | .error .absent => .error (.home 9 [(h, ia)])
  | .error _ => .error (.home 8 [(h, ia)])
  | .ok e =>
    if s.poison.contains (e.key ia / 64) then .error (.integ 3 ia [(h, ia)])
    else
      let new := (rmwApply op ftz (s.memRead (e.key ia) d.length) d []).1
      let s := match s.atomicCode e op d.length with
        | some k => s.sendAtomic e ia k d [] new true
        | none => (s.portRead e ia d.length).frameWrite e ia new
      let s := s.modEntry h ia fun e => e.touch core true
      let s := s.modCore core fun c => { c with l1 := dropLine c.l1 ia }
      .ok (s.modDie core.pkg core.die fun k => { k with l2 := dropLine k.l2 ia }, new, h)

/-- A unit of a box moves between memory and scratchpad offset base. Log entry 16. -/
def State.moveUnit (s : State) (b : Blk) (t : Tlr) (d : List Nat) (base p : Nat) (load : Bool) : Moved :=
  let off := base + t.place (p * t.ub)
  match t.va d p with
  | none => if load then let r := s.padOf t
      .ok (r.2.scrWrite b.id off (leBytes t.ub (if t.per = 2 then r.1 * 17 else r.1))) else .ok s
  | some a =>
    if load then
      s.glbGet b a t.ub fun bs s =>
        if t.half d p then let r := s.padOf t
          .ok (r.2.scrWrite b.id off (leBytes 1 (leVal bs % 16 + r.1 * 16)))
        else .ok (s.scrWrite b.id off bs)
    else
      let bs := s.scrGet (b.id, off) t.ub
      if t.half d p then
        -- the element outside the tensor is skipped: its home keeps its half of the byte
        (match s.engXlate b .store a 1 with
         | .ok x => (match s.engFind b.id.ctx x 1 true 2 with
            | .ok (q :: _) => s.glbPut b a (leBytes 1 (leVal bs % 16 + leVal (s.memRead (q.2.2.key x.ia) 1) / 16 * 16))
            | _ => s.glbPut b a bs)
         | .error _ => s.glbPut b a bs)
      else s.glbPut b a bs

/-- The next piece of a copy from position `c.box` on; and the position after it. Log entries 16, 51. -/
def State.movePiece (s : State) (b : Blk) (c : Cmd) (t : Option Tlr) : Moved × Nat :=
  let p := c.box
  match c.opc, t with
  | 0, _ =>
    let a := c.addr + BitVec.ofNat 64 p
    let n := min (64 - a.toNat % 64) (c.len - p)
    (s.glbGet b a n fun bs s => .ok (s.scrWrite b.id (c.soff + p) bs), p + n)
  | 1, _ =>
    let a := c.addr + BitVec.ofNat 64 p
    let n := min (64 - a.toNat % 64) (c.len - p)
    (s.glbPut b a (s.scrGet (b.id, c.soff + p) n), p + n)
  | 4, _ =>
    let n := min 64 (c.len - p)
    (match s.scrSpan b true (c.bits 1 0 23 + p) n with
     | .ok x => .ok (s.scrWrite x.1 x.2 (s.scrGet (b.id, c.soff + p) n))
     | .error f => .err true (.addr f), p + n)
  | 5, _ =>
    let a := c.addr + BitVec.ofNat 64 p
    (match s.engXlate b .atomic a 4 with
     | .error f => .err true (.addr f)
     | .ok x => if s.engWaits b x 4 then .held else
        match s.engRmw b.id.ctx b.core x.rng x.ia .fadd c.ftz (s.scrGet (b.id, c.soff + p) 4) with
        | .error e => .err true e
        | .ok r => .ok r.1, p + 4)
  | op, some t => (s.moveUnit b t (c.box_ 0) c.soff p (op == 2), p + 1)
  | _, none => (.err false (.addr 5), p + 1)

/-- How far a copy goes. -/
def Cmd.total (c : Cmd) (t : Option Tlr) : Nat :=
  match c.opc with
  | 2 | 3 => (match t with | some t => t.units | none => 0)
  | _ => c.len

/-- The tensor record a command names, as it stands. -/
def State.tlrOf (s : State) (b : Blk) (c : Cmd) : Option Tlr := Tlr.parse (s.scrGet (b.id, c.bits 1 0 20) 64)

/-! ## The engine's events -/

/-- The first published entry not taken. -/
def Blk.toTake (b : Blk) : Option Cmd := b.cmds.find? fun c => !c.taken

/-- COMMAND_TAKE (R311, R317): the engine takes the next published entry and checks it. -/
def execCommandTake (id : BlkId) (s : State) : Out :=
  .next (match s.blk? id with
    | none => s
    | some b =>
      if b.state != .running || b.failed then s
      else match b.toTake with
        | none => s
        | some c0 =>
          let ws := wordsOf (b.scrRead (b.roff + 32 * (c0.idx % 2 ^ b.logn)) 32) 4
          let c := { c0 with words := ws }
          let p := s.plan b c
          let fresh := c0.words.isEmpty
          if fresh && p.status == 0 && !s.lockRoom b.core p.spans.length then s.due [.commandTake id]
          else
            let rings := (b.cmds.filter fun x => x.taken && !x.done && x.isRing).length
            let s := if fresh && p.status == 0 then s.addLocks b.core (p.spans.map fun x => x.lock (.cmd id c.idx)) else s
            let slots := match p.tlr, c.opc with
              | some _, 6 => (List.range c.nslots).map fun i => if i < c.bc then Slot.filling else Slot.free
              | some _, 7 => (List.range c.nslots).map fun _ => Slot.free
              | _, _ => []
            let s := s.modCmd id c.idx fun x => { x with words := ws, taken := true, slots := slots }
            if p.status ≠ 0 then s.cmdDone b c.idx p.status p.fcode
            else if c.isRing ∧ rings ≥ 4 then s.cmdDone b c.idx 5 0
            else if c.opc = 6 then s.due [.slotBoxLoaded id c.idx]
            else if c.opc = 7 then s
            else s.due [.copySourceReleased id c.idx])

/-- The live command an event concerns. -/
def State.liveCmd (s : State) (id : BlkId) (idx : Nat) : Option (Blk × Cmd) :=
  match s.blk? id with
  | none => none
  | some b => if b.state != .running || b.failed then none else match b.cmd? idx with
    | some c => if c.done || !c.taken then none else some (b, c)
    | none => none

/-- COPY_SOURCE_RELEASED (R317): the copy goes on by one piece; with the last byte read, SRCD is set. -/
def execCopySourceReleased (id : BlkId) (idx : Nat) (s : State) : Out :=
  .next (match s.liveCmd id idx with
    | none => s
    | some (b, c) =>
      if c.srcd then s
      else if s.lockWaits b.core (.cmd id idx) then s.due [.copySourceReleased id idx]
      else
        let t := s.tlrOf b c
        match s.movePiece b c t with
        | (.held, _) => s.due [.copySourceReleased id idx]
        | (.err w e, _) => s.cmdErr b idx w e
        | (.ok s, n) =>
          let s := s.modCmd id idx fun c => { c with box := n }
          if n < c.total t then s.due [.copySourceReleased id idx]
          else (s.cmdRead b idx).due [.copyArrival id idx])

/-- A location of a context, by VA. -/
def State.ctxAt (s : State) (ctx : Nat) (va : W64) (n : Nat) (k : Kind) : Except FCode (Range × Nat) :=
  match s.ctx? ctx with
  | none => .error 2
  | some c => match xlate c.ranges [⟨3, 0, 2 ^ 57, false⟩] va n k with
    | .ok x => .ok (x.rng, x.ia)
    | .error f => .error f

/-- v added to the 64-bit counter at a translated address, as a release; watches are evaluated again (R173, R317, R340, R379). -/
def State.counterAdd (s : State) (ctx : Nat) (core : CoreId) (x : Range × Nat) (v : W64) : Except EngErr State :=
  match s.engRmw ctx core x.1 x.2 .csig false (leBytes 8 v.toNat) with
  | .error e => .error e
  | .ok (s, new, h) =>
    let w := BitVec.ofNat 64 (leVal new)
    .ok ((s.wakeCwaits (iaKey h x.2) w).wakeTasks (iaKey h x.2))

/-- v added to the counter at a VA of a context. -/
def State.ctxAdd (s : State) (ctx : Nat) (core : CoreId) (va v : W64) : Except EngErr State :=
  match s.ctxAt ctx va 8 .atomic with
  | .error f => .error (.addr f)
  | .ok x => s.counterAdd ctx core x v

/-- R130: a copy of scope sco has arrived at a counter; the widest scope stays with its location. Log entry 34. -/
def State.noteCopy (s : State) (ctx : Nat) (va : W64) (sco : Nat) : State :=
  match s.locate ctx va 8 .load with
  | some (h, ia) => { s with copySco := s.copySco.set 0 (iaKey h ia) (max (sco + 1) (s.copySco.get 0 (iaKey h ia))) }
  | none => s

/-- A command's arrival has come: the source of a copy is read and its bytes have landed; every box of a load ring has been released, or
every box of a store ring has landed (R317, R318). -/
def Cmd.arrives (c : Cmd) : Bool :=
  match c.opc with | 6 => decide (c.bc ≤ c.rel) | 7 => decide (c.bc ≤ c.box) | _ => c.srcd

/-- COPY_ARRIVAL (R317 steps 2 and 3): the arrival, its counter addition, DONE; one COPYARR event (R144). Log entry 50. -/
def execCopyArrival (id : BlkId) (idx : Nat) (s : State) : Out :=
  .next (match s.liveCmd id idx with
    | none => s
    | some (b, c) =>
      let lp := match s.ctx? id.ctx with | some x => x.logical b.core.pkg | none => 0
      let held := match s.ctxAt id.ctx (vaOf c.caddr) 8 .atomic with
        | .ok (r, ia) => c.cinc && s.engHeld id.ctx ⟨ia, r⟩ 8
        | .error _ => false
      if !c.arrives then s
      else if held then s.due [.copyArrival id idx]
      else
        let perform := fun (s : State) =>
          let r : Nat × State :=
            if c.cinc then
              (match s.ctxAdd id.ctx b.core (vaOf c.caddr) 1 with
               | .ok s => (0, s.noteCopy id.ctx (vaOf c.caddr) c.sco)
               | .error e => (3, s.noteErr b e))
            else (0, s)
          (r.2.cmdDone b idx r.1 0, BitVec.ofNat 64 (r.1 + idx % 2 ^ b.logn * 2 ^ 8))
        let ev := s.waveEv lp (optId 4 lp b.core.die b.core.core) 0x04 (c.wave.getD ⟨id, 0⟩) 0 c.ord
        s.atPoint ev (.copyArrival id idx) perform)

/-! ## Slot rings (R318, R319) -/

def Cmd.setSlot (c : Cmd) (n : Nat) (x : Slot) : Cmd := { c with slots := c.slots.set (n % c.nslots) x }
def Cmd.slot (c : Cmd) (n : Nat) : Slot := c.slots.getD (n % c.nslots) .free

/-- Every unit of a box moves. -/
def State.moveBox (s : State) (b : Blk) (t : Tlr) (d : List Nat) (base : Nat) (load : Bool) : Moved :=
  (List.range t.units).foldl (fun acc p => match acc with
    | .ok s => s.moveUnit b t d base p load
    | x => x) (.ok s)

/-- SLOT_BOX_LOADED (R318): the next box of a load ring lands in its slot, which becomes full. -/
def execSlotBoxLoaded (id : BlkId) (idx : Nat) (s : State) : Out :=
  .next (match s.liveCmd id idx with
    | none => s
    | some (b, c) =>
      if c.box ≥ c.bc || c.slot c.box != .filling then s
      else if s.lockWaits b.core (.cmd id idx) then s.due [.slotBoxLoaded id idx]
      else match s.tlrOf b c with
        | none => s.cmdDone b idx 1 0
        | some t => match s.moveBox b t (c.box_ c.box) (c.soff + c.box % c.nslots * t.bytes) true with
          | .held => s.due [.slotBoxLoaded id idx]
          | .err w e => s.cmdErr b idx w e
          | .ok s =>
            let s := s.modCmd id idx fun c => { c.setSlot c.box .full with box := c.box + 1, land := c.land + 1 }
            let s := if c.box + 1 = c.bc then s.cmdRead b idx else s
            if c.box + 1 < c.bc then s.due [.slotBoxLoaded id idx] else s)

/-- SLOT_BOX_STORED (R318): a released slot of a store ring is written out and is empty again. -/
def execSlotBoxStored (id : BlkId) (idx : Nat) (s : State) : Out :=
  .next (match s.liveCmd id idx with
    | none => s
    | some (b, c) =>
      if c.box ≥ c.bc || c.slot c.box != .draining then s
      else if s.lockWaits b.core (.cmd id idx) then s.due [.slotBoxStored id idx]
      else match s.tlrOf b c with
        | none => s.cmdDone b idx 1 0
        | some t => match s.moveBox b t (c.box_ c.box) (c.soff + c.box % c.nslots * t.bytes) false with
          | .held => s.due [.slotBoxStored id idx]
          | .err w e => s.cmdErr b idx w e
          | .ok s =>
            let s := s.modCmd id idx fun c => { c.setSlot c.box .free with box := c.box + 1, land := c.land + 1 }
            if c.box + 1 = c.bc then (s.cmdRead b idx).due [.copyArrival id idx] else s.due [.slotBoxStored id idx])

/-! ## The words -/

/-- The entry that s8k to s8k+7 hold (R316). -/
def entryOf (d : List W32) : List W64 := (List.range 4).map fun i => join (d.getD (2 * i + 1) 0) (d.getD (2 * i) 0)

/-- R316, R318: an entry is built and published; the ring fault, a full ring, the Lockring and landing hold it at issue. -/
def State.xfer (s : State) (w : AW) (xring : Bool) : State :=
  if s.idleWord w.g then s
  else match s.blk? s.wave.id.blk with
    | none => s
    | some b =>
      if b.logn = 0 then s.trapHere 0x0D 0 0 0 0 ((s.wave.part w.g).headD 0)
      else
        let ws := entryOf (s.opBlock w.s1)
        let c := Cmd.at_ b.wi ws (some s.wave.id) s.wave.ordinal xring s.wave.ftz
        let p := s.plan b c
        let spans := if p.status = 0 then p.spans else []
        if (b.wi + 2 ^ 32 - b.ri) % 2 ^ 32 ≥ 2 ^ b.logn || !s.lockRoom b.core spans.length then s.stall
        else if !s.settled s.wave then s.await_
        else
          let keep := fun (x : Cmd) => decide ((b.wi + 1 + 2 ^ 32 - x.idx) % 2 ^ 32 ≤ 2 ^ b.logn)
          let s := s.scrWrite b.id (b.roff + 32 * (b.wi % 2 ^ b.logn)) (bytesOf ws)
          let s := s.modBlk b.id fun x => { x with wi := (x.wi + 1) % 2 ^ 32, cmds := x.cmds.filter keep ++ [c] }
          let s := (s.putNotify b.id).addLocks b.core (spans.map fun x => x.lock (.cmd b.id b.wi))
          (s.putS32 w.d (BitVec.ofNat 32 b.wi)).due [.commandTake b.id]

def execXfer (w : AW) (s : State) : Out := .next (s.xfer w false)
def execXring (w : AW) (s : State) : Out := .next (s.xfer w true)

/-- R320: a ticket that is not published or has been reused. -/
def Blk.stale (b : Blk) (t : Nat) : Bool :=
  let d := (b.wi + 2 ^ 32 - t) % 2 ^ 32
  b.logn == 0 || d == 0 || decide (d > 2 ^ b.logn)

/-- The command a ticket operand names. -/
def State.ticket (s : State) (o : Opd) : Option (Blk × Nat × Option Cmd) :=
  match s.blk? s.wave.id.blk with
  | none => none
  | some b => let t := (s.op32 o).toNat; some (b, t, if b.stale t then none else b.cmd? t)

/-- XWAIT (R320). -/
def execXwait (w : AW) (s : State) : Out :=
  .next (if s.idleWord w.g then s
    else match s.ticket w.s1 with
      | none => s
      | some (b, t, c) =>
        let r := s.engOp (.xwait w) 1
        let s := r.2.modOp r.1 fun o => { o with arg := o.arg.set 0 0 (BitVec.ofNat 64 t), acq := w.xb 9 }
        match c with
        | none => s.engDone r.1 (leBytes 4 6) 0
        | some c => s.wakeXwaits b.id c)

/-- XCANCEL (R321). Log entries 50, 51. -/
def execXcancel (w : AW) (s : State) : Out :=
  .next (if s.idleWord w.g then s
    else match s.ticket w.s1 with
      | some (b, t, some c) => if c.done then s else s.cmdDone b t 4 0
      | _ => s)

/-- XSLOT.acq (R319). -/
def execXslotAcq (w : AW) (s : State) : Out :=
  .next (if s.idleWord w.g then s
    else match s.ticket w.s1 with
      | some (b, t, some c) =>
        if c.done || (c.taken && !c.isRing) || (c.taken && c.acq ≥ c.bc) then s.putS32 w.d 0xFFFFFFFF#32
        else if !c.taken then s.await_
        else if c.slot c.acq == (if c.opc = 6 then .full else .free) then
          let n := match s.tlrOf b c with | some x => x.bytes | none => 0
          (s.modCmd b.id t fun c => { c.setSlot c.acq .held with acq := c.acq + 1 }).putS32 w.d
            (BitVec.ofNat 32 (c.soff + c.acq % c.nslots * n))
        else s.await_
      | _ => s.putS32 w.d 0xFFFFFFFF#32)

/-- XSLOT.rel (R319): a release of the wave's earlier accesses, so it waits until they have landed. -/
def execXslotRel (w : AW) (s : State) : Out :=
  .next (if s.idleWord w.g then s
    else match s.ticket w.s1 with
      | some (b, t, some c) =>
        if c.done || c.rel ≥ c.acq then s
        else if !s.settled s.wave then s.await_
        else if c.opc = 6 then
          let more := decide (c.rel + c.nslots < c.bc)
          let s := s.modCmd b.id t fun c => { c.setSlot c.rel (if more then .filling else .free) with rel := c.rel + 1 }
          if c.rel + 1 = c.bc then s.due [.copyArrival b.id t] else if more then s.due [.slotBoxLoaded b.id t] else s
        else (s.modCmd b.id t fun c => { c.setSlot c.rel .draining with rel := c.rel + 1 }).due [.slotBoxStored b.id t]
      | _ => s)

/-! ## CMDQ (R311, R334) -/

/-- The operand of a CSRW: 64 bits of a pair or an address register; a 32-bit source zero-extended. Log entry 41. -/
def State.csrSrc (s : State) (w : AW) : W64 :=
  match w.s1 with
  | .a n => s.wave.getA n.toNat
  | o => if w.w64 then s.op64 o else (s.op32 o).setWidth 64

/-- R311: ring and notify word of a CMDQ value lie in the allocation, aligned and apart. -/
def cmdqOk (v : W64) (size : Nat) : Bool :=
  let ro := (v.extractLsb' 0 20).toNat
  let n := (v.extractLsb' 20 4).toNat
  let no := (v.extractLsb' 24 20).toNat
  let e := ro + 32 * 2 ^ n
  decide (n ≤ 10) && ro % 64 == 0 && no % 8 == 0 && decide (e ≤ size) && decide (no + 8 ≤ size) && (decide (no + 8 ≤ ro) || decide (e ≤ no))

/-- CMDQ_WRITE (R311). -/
def execCmdqWrite (w : AW) (s : State) : Out :=
  .next (if s.idleWord w.g then s
    else match s.blk? s.wave.id.blk with
      | none => s
      | some b =>
        let v := s.csrSrc w &&& 0xFFFFFFFFFFF#64
        if b.cmds.any fun c => !c.done then s.stall
        else if (v.extractLsb' 20 4) = 0#4 then s.modBlk b.id fun x => { x with cmdq := v, wi := 0, ri := 0, cmds := [] }
        else if cmdqOk v b.size then
          (s.modBlk b.id fun x => { x with cmdq := v, wi := 0, ri := 0, cmds := [] }).putNotify b.id
        else s)

end Sys2Proof.Machine
end

