-- ==== Sys2Proof/Machine/Blocks.lean ====
section
/-! DEFINITION. Blocks and tasks: the launch record's fields (spec/13_scheduling.md R341), declared ranges and lease requests
(spec/02_address_spaces.md R51 to R55), core resources (spec/07_execution.md R168), the state a wave starts with (R165, R176, R343),
and what the end of a block, a task and a launch sets off (R82, R166, R176, R201, R344, R362). -/

namespace Sys2Proof.Machine

/-! ## The launch record (R341) -/

def Launch.w (l : Launch) (i : Nat) : W64 := l.words.getD i 0
def Launch.f (l : Launch) (i lo n : Nat) : Nat := (l.w i).toNat / 2 ^ lo % 2 ^ n
def Launch.dep (l : Launch) : Nat := l.f 0 16 2
def Launch.plr (l : Launch) : Nat := l.f 0 18 3
def Launch.plv (l : Launch) : Bool := l.f 0 21 1 == 1
def Launch.ftz (l : Launch) : Nat := l.f 0 22 1
def Launch.colbuf (l : Launch) : Nat := l.f 0 23 16
def Launch.colv (l : Launch) : Bool := l.f 0 39 1 == 1
def Launch.entry (l : Launch) : W64 := vaOf (l.f 1 0 57)
def Launch.gx (l : Launch) : Nat := l.f 2 0 32
def Launch.gy (l : Launch) : Nat := l.f 2 32 16
def Launch.gz (l : Launch) : Nat := l.f 2 48 16
def Launch.bx (l : Launch) : Nat := l.f 3 0 16
def Launch.by_ (l : Launch) : Nat := l.f 3 16 16
def Launch.bz (l : Launch) : Nat := l.f 3 32 16
def Launch.cx (l : Launch) : Nat := l.f 3 48 4
def Launch.cy (l : Launch) : Nat := l.f 3 52 4
def Launch.cz (l : Launch) : Nat := l.f 3 56 4
def Launch.cap (l : Launch) : Nat := 8 * (l.f 4 0 5 + 1)
def Launch.sgr (l : Launch) : Nat := l.f 4 5 9
def Launch.stksz (l : Launch) : Nat := l.f 4 32 32
def Launch.stktop (l : Launch) : Nat := (l.w 5).toNat
def Launch.seed (l : Launch) : W64 := l.w 6
def Launch.statva (l : Launch) : Nat := l.f 7 0 57
def Launch.argw (l : Launch) (i : Nat) : W32 := BitVec.ofNat 32 (l.f (8 + i / 2) (32 * (i % 2)) 32)
def Launch.tlo (l : Launch) : Nat := l.f 14 0 18
def Launch.tn (l : Launch) : Nat := l.f 14 18 19

/-- Threads of a block, and its waves (R164). -/
def Launch.threads (l : Launch) : Nat := l.bx * l.by_ * l.bz
def Launch.wpb (l : Launch) : Nat := (l.threads + 31) / 32
/-- Blocks of the grid, and of a cluster. -/
def Launch.grid (l : Launch) : Nat := l.gx * l.gy * l.gz
def Launch.csize (l : Launch) : Nat := l.cx * l.cy * l.cz

/-- A declared range (R51). -/
structure DRange where
  base   : Nat
  acc    : Nat
  perblk : Bool
  rsvd   : Nat
  len    : Nat
  stride : Nat
  deriving DecidableEq, Repr

def Launch.range (l : Launch) (r : Nat) : DRange :=
  let i := 16 + 2 * r
  ⟨l.f i 0 57, l.f i 57 2, l.f i 59 1 == 1, l.f i 60 4, l.f (i + 1) 0 32, l.f (i + 1) 32 32⟩

/-- R51: the interval of block b under a range. -/
def DRange.at_ (d : DRange) (b : Nat) : Interval := ⟨d.acc, if d.perblk then d.base + b * d.stride else d.base, d.len, d.perblk⟩

def Launch.intervals (l : Launch) (b : Nat) : List Interval :=
  ((List.range 8).filter fun r => (l.range r).acc != 0).map fun r => (l.range r).at_ b

/-- Coordinates of a block. -/
def Launch.coord (l : Launch) (b : Nat) : Nat × Nat × Nat := (b % l.gx, b / l.gx % l.gy, b / (l.gx * l.gy))
def Launch.index (l : Launch) (x y z : Nat) : Nat := x + l.gx * (y + l.gy * z)

/-- R169: the blocks of block b's cluster in rank order; none where clusters are of one. -/
def Launch.cluster (l : Launch) (b : Nat) : List Nat :=
  if l.csize ≤ 1 then []
  else
    let (x, y, z) := l.coord b
    (List.range l.csize).map fun k =>
      l.index (x / l.cx * l.cx + k % l.cx) (y / l.cy * l.cy + k / l.cx % l.cy) (z / l.cz * l.cz + k / (l.cx * l.cy))

/-- The dimensions a block's specials report (R219). -/
def Launch.dims (l : Launch) (b : Nat) : Dims :=
  let (x, y, z) := l.coord b
  ⟨l.threads, l.bx, l.by_, x, y, z, l.gx, l.gy, l.gz⟩

/-! ## Leases (R53, R55) -/

/-- The pages of an IA interval, by their first address. -/
def pagesOf (ia len : Nat) : List Nat :=
  let p := pageSize ia
  (List.range ((ia + len + p - 1) / p - ia / p)).map fun i => (ia / p + i) * p

/-- R53 step 2: the lease requests of an interval, or its first VA where it does not translate (R51). Log entry 43. -/
def State.leaseReqs (s : State) (c : Ctx) (id : BlkId) (pkg die : Nat) (iv : Interval) : Except Nat (List LeaseReq) :=
  let va := vaOf iv.base
  let kinds : List Kind := match iv.acc with | 1 => [.load] | 2 => [.store] | _ => [.load, .store]
  match (if iv.base < 2 ^ 57 then findRange c.ranges iv.base else none) with
  | none => .error iv.base
  | some r =>
    if r.ares || kinds.any fun k => (match xlate c.ranges [⟨3, 0, 2 ^ 57, false⟩] va iv.len k with | .ok _ => false | .error _ => true) then
      .error iv.base
    else
      let ia := (r.iaBase + (iv.base - r.baseVa)) % 2 ^ 56
      let ps := (pagesOf ia iv.len).map fun p => (p, homeOf c (s.saltOf c) r p)
      .ok ((ps.map (·.2)).dedup.map fun h =>
        ⟨id, h, ia, iv.len, iv.base, pkg, die, false, (ps.filter fun p => decide (p.2 = h)).map (·.1)⟩)

/-- The requests of several intervals. Log entry 43. -/
def State.leaseReqsAll (s : State) (c : Ctx) (id : BlkId) (pkg die : Nat) (ivs : List Interval) : Except Nat (List LeaseReq) :=
  ivs.foldl (fun acc iv => match acc, s.leaseReqs c id pkg die iv with
    | .error e, _ => .error e
    | _, .error e => .error e
    | .ok a, .ok b => .ok (a ++ b)) (.ok [])

/-! ## Core resources (R14, R168) -/

/-- The waves that occupy a core: resident ones, and those of placed blocks. -/
def State.occupants (s : State) (c : CoreId) : List Wave :=
  (s.allWaves.filter fun w => decide (w.core = c))
  ++ (s.blks.filter fun b => decide (b.core = c) && b.state == .placed).flatMap fun b => b.image

/-- Waves and registers (in units of 32) held in a quadrant. -/
def quadLoad (ws : List (Nat × Nat)) (q : Nat) : Nat × Nat :=
  let m := ws.filter fun w => w.1 == q
  (m.length, (m.map (·.2)).sum)

/-- R168: the quadrant for one more wave: one with a free slot, most free registers, lowest number; none where it does not fit. -/
def pickQuad (ws : List (Nat × Nat)) (cap : Nat) : Option Nat :=
  let best := (List.range 4).foldl (fun (b : Option Nat) q =>
    if (quadLoad ws q).1 ≥ 16 then b
    else match b with
      | none => some q
      | some p => if (quadLoad ws q).2 < (quadLoad ws p).2 then some q else b) none
  match best with
  | some q => if (quadLoad ws q).2 + cap ≤ 2048 then some q else none
  | none => none

/-- The quadrants of n waves, in ascending %wid. -/
def assignQuads (ws : List (Nat × Nat)) (cap n : Nat) : Option (List Nat) :=
  match n with
  | 0 => some []
  | k + 1 => match pickQuad ws cap with
    | none => none
    | some q => (assignQuads (ws ++ [(q, cap)]) cap k).map fun r => q :: r

/-- Scratchpad bytes free on a core (R82). -/
def State.scratchFree (s : State) (c : CoreId) : Nat :=
  2 ^ 20 - ((s.blks.filter fun b => decide (b.core = c) && b.holds).map fun b => b.size).sum

/-- R168: n waves of a register cap and a scratchpad allocation fit a worker core (R12). -/
def State.fits (s : State) (c : CoreId) (cap n size : Nat) : Option (List Nat) :=
  if !worker c || (s.core? c).isNone || decide (s.scratchFree c < size) then none
  else assignQuads ((s.occupants c).map fun w => (w.quad, w.cap)) cap n

/-- R37: the context is scheduled: where none of its blocks runs, range registers written before come into force. Log entry 98. -/
def State.schedule (s : State) (ctx : Nat) : State :=
  if s.allWaves.any fun w => w.id.blk.ctx == ctx && !w.fw then s
  else s.modCtx ctx fun c => match c.staged with | some rs => { c with ranges := rs, staged := none } | none => c

/-! ## Waves at their start (R165, R176, R343) -/

/-- A wave with every register zero at an entry point. Log entries 6, 42. -/
def Wave.start (id : WaveId) (c : CoreId) (quad : Nat) (d : Dims) (cap lser : Nat) (entry : W64) (args : List W32) (top lim fpctl seed : W64) :
    Wave :=
  { Wave.idle with
    id := id, core := c, quad := quad, dims := d, cap := cap, lser := lser, run := .run, fw := decide (c.core = 48),
    pc := (List.range 32).foldl (fun (t : Tab W64) l => t.set 0 l entry) [],
    s := args.zipIdx.foldl (fun (t : Tab W32) p => t.set 0 p.2 p.1) [],
    a := Tab.set 0 [] 15 top, stklim := lim, fpctl := fpctl, srseed := seed,
    exited := (List.range 32).foldl (fun m l => if 32 * id.wid + l < d.t then m else m ||| BitVec.ofNat 32 (2 ^ l)) 0#32 }

/-- R343: wave `wid` of block b of a launch. -/
def Launch.wave (l : Launch) (id : BlkId) (c : CoreId) (quad wid : Nat) : Wave :=
  let q := id.idx * l.wpb + wid
  let top := if l.stksz = 0 then l.stktop else l.stktop - (q + 1) * l.stksz
  let lim := if l.stksz = 0 then l.stktop else top - l.stksz
  Wave.start ⟨id, wid⟩ c quad (l.dims id.idx) l.cap l.lser l.entry ((List.range 8).map l.argw)
    (BitVec.ofNat 64 top) (BitVec.ofNat 64 lim) (BitVec.ofNat 64 l.ftz) l.seed

/-- R176: the wave of a task. -/
def TaskRecWave (t : TaskRec) (l : Launch) (id : BlkId) (c : CoreId) (quad : Nat) : Wave :=
  let top := if l.stksz = 0 then l.stktop else l.stktop - l.stksz
  let lim := if l.stksz = 0 then l.stktop else top - l.stksz
  let w := Wave.start ⟨id, 0⟩ c quad { l.dims t.root with t := 32, bx := 32, by_ := 1 } t.rcap t.lser t.entry t.arg
    (BitVec.ofNat 64 top) (BitVec.ofNat 64 lim) t.fpctl t.srseed
  { w with depth := t.depth, tserial := t.serial }

/-- A block that nothing has been done with yet. -/
def Blk.fresh (id : BlkId) : Blk :=
  { id := id, state := .pending, key := (0, 0), at_ := (0, 0), core := CoreId.none, was := CoreId.none, dims := ⟨0, 1, 1, 0, 0, 0, 1, 1, 1⟩, nwaves := 1,
    ended := 0, cap := 8, size := 0, scratch := [], cmdq := 0, wi := 0, ri := 0, tiles := [], bars := [], cbars := [],
    cmds := [], intervals := [], leases := [], wanted := [], cluster := [], task := none, entry := 0, save := false,
    full := false, image := [], images := [], evs := [], locks := [], waits := [], cycles := 0, l2b := 0, fops := 0, failed := false }

/-- Block b of a launch, in the list of a die. -/
def Launch.blk (l : Launch) (ctx b : Nat) (key at_ : Nat × Nat) : Blk :=
  let cl := (l.cluster b).map fun i => (⟨ctx, false, l.id, i⟩ : BlkId)
  { Blk.fresh ⟨ctx, false, l.id, b⟩ with
    key := key, at_ := at_, dims := l.dims b, nwaves := l.wpb, cap := l.cap, size := l.sgr * 4096, intervals := l.intervals b,
    cluster := cl, entry := l.entry }

/-! ## Core of a task tree (R52, R176) -/

/-- A task of a block's tree has not ended. -/
def State.treeAlive (s : State) (ctx launch root : Nat) : Bool :=
  let is := fun (t : TaskRec) => t.ctx == ctx && t.launch == launch && t.root == root
  s.cores.any (fun c => c.deque.any is) || s.pkgs.any (fun p => p.ovfl.any is)
  || s.ctxs.any (fun c => c.parked.any fun p => is p.task)
  || s.blks.any fun b => b.state != .over && (match b.task with | some t => is t | none => false)

/-! ## Events that keep the distributors going -/

def dieRound (p d : Nat) : Instr := .dieDistributorRound p d

/-- A die with blocks to place tries again; one with none looks for a sibling to steal from (R351). -/
def State.kickDie (s : State) (p d : Nat) : State :=
  match s.die? p d with
  | some x =>
    if x.list.isEmpty then
      (if s.dies.any (fun y => y.pkg == p && y.die != d && decide (1 < y.list.length)) && !s.pending.contains (.stealWithinPackage p d) then
        s.due [.stealWithinPackage p d] else s)
    else if s.pending.contains (dieRound p d) then s else s.due [dieRound p d]
  | none => s

def State.kickDies (s : State) : State := s.dies.foldl (fun s d => s.kickDie d.pkg d.die) s

/-- Placed blocks whose start may have become possible. -/
def State.kickStarts (s : State) (ctx : Nat) : State :=
  s.due ((s.blks.filter fun b => b.id.ctx == ctx && b.state == .placed && !s.pending.contains (.blockStart b.id)).map fun b => .blockStart b.id)

/-! ## A context's accesses from the Hub (R201, R340) -/

/-- The home of bytes a context names holds accesses to them (R62, R74). -/
def State.hubHeld (s : State) (ctx : Nat) (x : Range × Nat) (off n : Nat) : Bool := s.engHeld ctx ⟨x.2 + off, x.1⟩ n

/-- The same for n bytes at a VA. -/
def State.vaHeld (s : State) (ctx : Nat) (va : W64) (n : Nat) (k : Kind) : Bool :=
  match s.ctxAt ctx va n k with | .ok x => s.hubHeld ctx x 0 n | .error _ => false

/-- Bytes stored from offset `off` of a translated address; a home that holds them performs them later (R62, R74). Log entry 46. -/
def State.hubWrite (s : State) (ctx : Nat) (x : Range × Nat) (off : Nat) (bs : List Byte) : Except EngErr State :=
  match s.engFind ctx ⟨x.2 + off, x.1⟩ bs.length true 2 with
  | .error e => .error e
  | .ok l => .ok (l.foldl (fun s p =>
      let b := (bs.drop (p.1 - (x.2 + off))).take p.2.1
      if s.pageHeld p.2.2 p.1 p.2.1 then s.holdReq p.2.2 (hubReq p.2.2 p.1 b s.seq) else s.frameWrite p.2.2 p.1 b) s)

/-- n bytes read from offset `off` of a translated address. Log entry 46. -/
def State.hubRead (s : State) (ctx : Nat) (x : Range × Nat) (off n det : Nat) : Except EngErr (List Byte) :=
  match s.engFind ctx ⟨x.2 + off, x.1⟩ n false det with
  | .error e => .error e
  | .ok l => .ok (l.flatMap fun p => s.memRead (p.2.2.key p.1) p.2.1)

/-- Bytes stored at a VA of a context. -/
def State.ctxStore (s : State) (ctx : Nat) (va : W64) (bs : List Byte) : Except EngErr State :=
  match s.ctxAt ctx va bs.length .store with
  | .error f => .error (.addr f)
  | .ok x => s.hubWrite ctx x 0 bs

/-- Bytes read at a VA of a context. -/
def State.ctxLoad (s : State) (ctx : Nat) (va : W64) (n det : Nat) : Except EngErr (List Byte) :=
  match s.ctxAt ctx va n .load with
  | .error f => .error (.addr f)
  | .ok x => s.hubRead ctx x 0 n det

/-- The FCODE of an error. -/
def EngErr.fcode (e : EngErr) : Nat := match e with | .addr f => f | .home f _ => f | .integ _ _ _ => 0

/-- An error of a context's access that has a check value behind it posts its record; the requester is the context's distributor, at the
first package and die of its partition (R101). Log entry 58. -/
def State.ctxErr (s : State) (ctx : Nat) (e : EngErr) : State :=
  match e with
  | .integ d ia _ => s.due [.trapRecordPost ctx (s.fromFirst ctx (ctxRecord 0x09 d (BitVec.ofNat 64 (ia / 64 * 64)) 0 0 0))]
  | _ => s

/-! ## The end of a launch (R176, R201, R353, R356, R362) -/

/-- R200, R201: the statistics record. -/
def Launch.record (l : Launch) : List Byte :=
  (List.range 256).flatMap fun t => (List.range 3).flatMap (fun k => leBytes 4 (l.stats.get 0 (4 * t + k))) ++ leBytes 4 0

/-- R362 step 4: blocks of a failed launch that have not started are dropped; leases they hold are released. -/
def State.purge (s : State) (ctx lid : Nat) : State :=
  let mine := fun (b : Blk) => b.id.ctx == ctx && !b.id.task && b.id.launch == lid && (b.state == .pending || b.state == .placed)
  let gone := s.blks.filter mine
  let out : Launch → Launch := fun l => { l with out := l.out - gone.length, next := l.nblk }
  let strip := fun (d : Die) => { d with list := d.list.filter fun i => !gone.any fun b => decide (b.id = i) }
  let s := { s with blks := s.blks.filter (fun b => !mine b), dies := s.dies.map strip }
  (s.modCtx ctx fun c => c.modLaunch lid out).due (gone.flatMap fun (b : Blk) => b.leases.map fun l => .leaseRelease l)

/-- R201: the statistics record is written; a fault on it is reported and leaves the launch ended. -/
def State.writeStats (s : State) (ctx : Nat) (l : Launch) : State :=
  if l.statva = 0 then s
  else match s.ctxStore ctx (vaOf l.statva) l.record with
    | .ok t => t
    | .error e => (s.ctxErr ctx e).due [.trapRecordPost ctx (s.fromFirst ctx (ctxRecord 0x19 e.fcode (vaOf l.statva) 0 0 l.lser))]

/-- R342, R362: the record of an invalid launch (sub 0) or of one whose producer failed (sub 1). Log entry 38. -/
def State.launchBadRecord (s : State) (ctx : Nat) (l : Launch) (sub : Nat) : State :=
  s.due [.trapRecordPost ctx (s.fromFirst ctx (ctxRecord 0x18 sub (BitVec.ofNat 64 l.q) (BitVec.ofNat 64 l.slot) 0 l.lser))]

/-- Everything of the launch has ended. -/
def Launch.complete (l : Launch) : Bool := !l.ended && l.next == l.nblk && l.out == 0 && l.tasks == 0

/-- R151: every queue of the context is empty and every launch has ended. -/
def Ctx.quiet (c : Ctx) : Bool := c.launches.all (fun l => l.ended) && c.queues.all fun q => q.ri == q.wi && q.hold.isEmpty

/-- SIGNALs that waited for a launch alone (R340). -/
def State.fireSignals (s : State) (ctx lid : Nat) : State :=
  let strip : Packet × List Nat → Packet × List Nat := fun p => (p.1, p.2.filter fun i => i != lid)
  let s := s.modCtx ctx fun c => { c with queues := c.queues.map fun q => { q with sigs := q.sigs.map strip } }
  match s.ctx? ctx with
  | none => s
  | some c =>
    let go : List Packet := c.queues.flatMap fun q => (q.sigs.filter fun p => p.2.isEmpty).map (·.1)
    (s.modCtx ctx fun c => { c with queues := c.queues.map fun q => { q with sigs := q.sigs.filter fun p => !p.2.isEmpty } }).due
      (go.map fun p => .signalFire p)

/-! Fields of a tag word (R325). -/
def twIdx (tw : W64) : Nat := (tw.extractLsb' 0 18).toNat
def twGen (tw : W64) : Nat := (tw.extractLsb' 18 20).toNat
def twSco (tw : W64) : Nat := (tw.extractLsb' 38 3).toNat

/-- The wait is met: D receives 0, with an acquire at SCO. -/
def State.tagMet (s : State) (id : Nat) (tw : W64) : State :=
  (s.modOp id fun o => { o with arg := o.arg.set 0 64 (BitVec.ofNat 64 (twSco tw + 1)) }).engDone id (leBytes 4 0) 0

/-- R326, R356: the wave waits for a tag under a producer's fallback, and the producer has ended. -/
def State.wakeFallback (s : State) (ctx lid : Nat) : State :=
  let mine := s.ops.filter fun o => o.ctx == ctx && o.left == 1 && o.arg.get 0 1 == BitVec.ofNat 64 (lid + 1)
    && (match o.ins with | .tagwait _ => true | _ => false)
  mine.foldl (fun s o => s.tagMet o.id (o.arg.get 0 0)) s

/-- The home of the statistics record holds its write (R62, R74). Log entry 59. -/
def State.statsHeld (s : State) (ctx : Nat) (l : Launch) : Bool := l.statva != 0 && s.vaHeld ctx (vaOf l.statva) 4096 .store

/-- A launch that is complete ends: its statistics, its reservation, and what waits for it. While a home holds the write of its record it has
not ended (R201); the distributor's next round tries again. Log entry 59. -/
def State.endLaunch (s : State) (ctx lid : Nat) : State :=
  match (s.ctx? ctx).bind fun c => c.launch? lid with
  | none => s
  | some l =>
    if !l.complete then s
    else if s.statsHeld ctx l then (if s.pending.contains .drrRound then s else s.due [.drrRound])
    else
      let s := s.writeStats ctx l
      let s := s.modCtx ctx fun c => c.modLaunch lid fun l => { l with ended := true }
      let free := fun (p : Pkg) => { p with resv := p.resv.filter fun r => !(r.1 == ctx && r.2.1 == lid) }
      let s := { s with pkgs := s.pkgs.map free }
      let s := (s.wakeFallback ctx lid).fireSignals ctx lid
      let s := (s.kickStarts ctx).kickDies
      match s.ctx? ctx with
      | some c => if c.logmode != 0 && c.quiet && !s.pending.contains (.logEnd ctx 0) then s.due [.logEnd ctx 0] else s
      | none => s

/-- The launches that depend on a failed one place no block (R362). Log entry 59. -/
def State.failNext (s : State) (ctx lid : Nat) : State :=
  match s.ctx? ctx with
  | none => s
  | some c =>
    match c.launches.find? fun l => l.prev == some lid && l.dep != 0 && !l.bad && !l.ended with
    | none => s
    | some l => ((s.modCtx ctx fun c => c.modLaunch l.id fun l => { l with bad := true }).launchBadRecord ctx l 1).purge ctx l.id

/-- What follows a change of a launch: a failed one drops its unstarted blocks, and one that is complete ends. A dependent launch fails
with it; `n` bounds the chain. -/
def State.settleLaunch (s : State) (n ctx lid : Nat) : State :=
  match n with
  | 0 => s
  | k + 1 =>
    match (s.ctx? ctx).bind fun c => c.launch? lid with
    | none => s
    | some l =>
      let s := if l.bad then (s.purge ctx lid).failNext ctx lid else s
      let s := s.endLaunch ctx lid
      if l.bad then
        (match (s.ctx? ctx).bind fun c => c.launches.find? fun x => x.prev == some lid && x.bad && !x.ended with
         | some x => s.settleLaunch k ctx x.id
         | none => s)
      else s

/-- The launch is failed (R55, R362). Log entry 43. -/
def State.failLaunch (s : State) (ctx lid : Nat) : State :=
  (s.modCtx ctx fun c => c.modLaunch lid fun l => { l with bad := true }).settleLaunch 4096 ctx lid

/-! ## The end of a block or task (R82, R166, R344, R346) -/

/-- R344: the footprint share in units of 2^-20. -/
def Blk.share (b : Blk) : Nat := max (max (b.nwaves * b.cap * 32 * 4) b.size) (b.nwaves * 2 ^ 14)

/-- Cost of a residence of so many cycles, rounded up. Log entry 11. -/
def Blk.cost (b : Blk) (cycles : Nat) : Nat := (cycles * b.share + (2 ^ 20 - 1)) / 2 ^ 20

/-- R346: a block's L2 bytes and operations enter the measurement of its entry, for the first 64 that end. Log entry 64. -/
def State.measure (s : State) (b : Blk) : State :=
  if b.id.task then s
  else
    let put := fun (p : Pkg) =>
      match p.klass.find? fun k => k.1 == b.id.ctx && k.2.1 == b.entry with
      | some k =>
        let rest := p.klass.filter fun j => !(j.1 == b.id.ctx && j.2.1 == b.entry)
        let k' := if k.2.2.1 < 64 then (k.1, k.2.1, k.2.2.1 + 1, k.2.2.2.1 + b.l2b, k.2.2.2.2 + b.fops) else k
        { p with klass := k' :: rest }
      | none => { p with klass := (b.id.ctx, b.entry, 1, b.l2b, b.fops) :: p.klass.take 255 }
    s.modPkg b.core.pkg put

/-- A memory operation has requests on their way, or an error response that has not been reported. -/
def State.opSent (s : State) (o : Op) : Bool :=
  o.fault.isSome || s.onWay.any (fun r => r.op == o.id) || s.pending.any (fun e => match e with | .readCompletionReturns r => r.op == o.id | _ => false)
  || s.cores.any fun c => c.wc.any fun k => k.ops.contains o.id

/-- The operations, waits and Lockring entries of a block leave with it, and nothing waits for them; requests already sent go on to their homes
(R362). -/
def State.dropOps (s : State) (b : Blk) : State :=
  let mine := fun (w : WaveId) => decide (w.blk = b.id)
  let ids := (s.ops.filter fun o => mine o.wave).map (·.id)
  let mineK := fun (k : Lock) => match k.by_ with | .cmd x _ => decide (x = b.id) | .op o => ids.contains o
  let s := { s with
    ops := s.ops.filter (fun o => !mine o.wave || s.opSent o)
    deferred := s.deferred.filter (fun d => !mine d.wave)
    watches := s.watches.filter fun x => match x.who with | .cwait o _ => !ids.contains o | .await o _ => !ids.contains o | .task _ _ _ => true }
  (ids.filter fun i => (s.op? i).isNone).foldl State.unwait (s.freeLocks b.core mineK)

/-- Leases kept for the task tree of an ended block: those of PERBLK = 0 intervals (R52). Log entry 64. -/
def Blk.keeps (b : Blk) (l : LeaseReq) : Bool := b.intervals.any fun i => !i.perblk && i.base == l.va

/-- An ended block record goes when its cluster has ended and its tree has. Log entry 64. -/
def State.reap (s : State) (id : BlkId) : State :=
  match s.blk? id with
  | none => s
  | some b =>
    let clusterOver := b.cluster.all fun i => match s.blk? i with | some x => x.state == .over | none => true
    let tree := !b.id.task && s.treeAlive id.ctx id.launch id.idx
    if b.state != .over then s
    else if !clusterOver then s
    else if tree then s.modBlk id fun b => { b with size := 0, scratch := [] }
    else { s with blks := s.blks.filter fun x => !decide (x.id = id) }.due (b.leases.map fun l => .leaseRelease l)

/-- Every ended record that may go. -/
def State.reapAll (s : State) (ctx : Nat) : State :=
  ((s.blks.filter fun b => b.id.ctx == ctx && b.state == .over).map (·.id)).foldl State.reap s

/-- R2: the rack, tray and package distributors of a context in a package are one unit: the package is not joined, or holds the whole
partition. -/
def State.alone (s : State) (ctx pkg : Nat) : Bool :=
  (match s.pkg? pkg with | some p => !p.joined | none => true)
  || (match s.ctx? ctx with | some c => c.dies.all fun d => d.2.1 == pkg | none => true)

/-- The cost of an ended block goes to the rack distributor: at once where it is the same unit, else through the tray's (R2, R352). -/
def State.charge (s : State) (id : BlkId) (pkg cost : Nat) : State :=
  if s.alone id.ctx pkg then s.due [.blockCostCharge id cost]
  else { s with rack := { s.rack with costs := s.rack.costs ++ [(pkg / 4, id, cost)] } }.due [.trayCostForward (pkg / 4)]

/-- A block or task has released its core: cost, leases, its launch's account. -/
def State.closeBlk (s : State) (id : BlkId) : State :=
  match s.blk? id with
  | none => s
  | some b =>
    let (n, s) := s.choose (2 ^ 40)
    let s := (s.dropOps b).measure b
    let tree := !id.task && s.treeAlive id.ctx id.launch id.idx
    let keep := b.leases.filter fun l => tree && b.keeps l
    let go := b.leases.filter fun l => !(tree && b.keeps l)
    let s := s.modBlk id fun b => { b with state := .over, leases := keep, tiles := [], cmds := [], image := [],
                                           size := if b.cluster.isEmpty then 0 else b.size }
    let cost := b.cost (b.cycles + n)
    let s := s.charge id b.core.pkg cost
    let s := s.due (go.map fun l => .leaseRelease l)
    let acc : Launch → Launch := fun l =>
      if id.task then { l with tasks := l.tasks - 1, fbcount := l.fbcount + 1 } else { l with out := l.out - 1, fbcount := l.fbcount + 1 }
    let s := (s.modCtx id.ctx fun c => c.modLaunch id.launch acc).reapAll id.ctx
    let s := (s.kickTask b.core).kickRefill b.core
    (s.settleLaunch 4096 id.ctx id.launch).kickDies

/-- The last wave of a block has ended: an exit-fired contribution is read first (R373). A block ended by a trap fires nothing. -/
def State.endBlk (s : State) (id : BlkId) : State :=
  match s.blk? id with
  | none => s
  | some b =>
    let col := match (s.ctx? id.ctx).bind fun c => c.launch? id.launch with | some l => l.colv | none => false
    if col && !id.task && !b.failed then
      (s.modBlk id fun b => { b with state := .exitRead }).due [.exitFiredContribution id]
    else s.closeBlk id

end Sys2Proof.Machine
end

