-- ==== Sys2Proof/Machine/Waves.lean ====
section
/-! DEFINITION. Events of waves: clause issue (spec/07_execution.md R158 to R167, spec/09_encoding.md R203 to R208, R224, R225), barriers
(spec/11_isa_memory.md R289, R290), the end of a wave (R166), trap records and responses (spec/14_traps_preemption.md R360 to R367),
breakpoints and sleep (spec/12_isa_async.md R333, R337). -/

namespace Sys2Proof.Machine

/-! ## CLAUSE_ISSUE -/

/-- Lanes that issue take the wave's count of clauses as stamp and lose the mark of a release (R160, R162). -/
def Wave.stampLanes (w : Wave) (ls : List Nat) : Wave :=
  let n := w.clauses + 1
  { w with
    clauses := n
    stamp := ls.foldl (fun (t : Tab Nat) l => t.set 0 l n) w.stamp
    freed := ls.foldl (fun m l => m &&& ~~~(BitVec.ofNat 32 (2 ^ l))) w.freed }

/-- Time passes for held threads (R367). Log entry 40. -/
def Wave.countHeld (w : Wave) (n : Nat) : Wave :=
  { w with heldC := (w.live_.filter w.held).foldl (fun (t : Tab Nat) l => t.set 0 l (t.get 0 l + n)) w.heldC }

/-- The entry fault of a group at pc (R224): reported against the word its lanes have fallen through from, else against pc itself. -/
def State.entryTrap (s : State) (w : Wave) (pc : W64) (lane : Nat) : State :=
  match w.fell.find? fun p => p.1 == pc with
  | some p => s.fellTrap w pc lane p.2
  | none => s.takeTrap w.id (w.record 0x04 0 pc pc 0 0 lane)

/-- The focus wave issues the clause of its chosen group: fetched and checked whole (R204), with the last-result file cleared. A fetch
that returns an older header whose wait mask is not satisfied starts nothing (R208, R225). Log entries 7, 26. -/
def State.openClause (s : State) (pc : W64) : State :=
  let w := s.wave
  let ls := w.members pc
  let lane := ls.headD 0
  if pc.extractLsb' 0 3 != 0#3 then s.entryTrap w pc lane
  else match s.fetchWord w pc with
    | (.word h _, s) =>
      if !isHeader h then s.entryTrap w pc lane
      else if !w.headOk h then s
      else match decodeHeader h with
        | none => s.takeTrap w.id (w.record 0x01 0 pc 0 0 0 lane)
        | some hd =>
          match s.fetchWords w (pc + 8) (hd.cnt + 1) with
          | (.error f, s) => s.fetchTrap w pc ls f
          | (.ok ws, s) =>
            if !clauseOk hd ws then s.takeTrap w.id (w.record 0x01 0 pc 0 0 0 lane)
            else
              let (n, s) := s.choose (2 ^ 16)
              let m := ls.foldl (fun m l => m ||| BitVec.ofNat 32 (2 ^ l)) 0#32
              let w := (w.stampLanes ls).countHeld (n + 1)
              { s with wave := { w with clause := some ⟨pc, hd, ws, 0, m⟩, x := [], fell := w.fell.filter fun p => p.1 != pc } }
    | (f, s) => s.fetchTrap w pc ls f

/-- CLAUSE_ISSUE (R162, R167): the first eligible wave of the quadrant issues the next clause of its chosen group. -/
def execClauseIssue (c : CoreId) (quad : Nat) (s : State) : Out :=
  if (s.core? c).isNone then .fault .noSuchUnit
  else .next (
    match (s.waves ++ [s.wave]).find? fun w => decide (w.core = c) && w.quad == quad && s.eligible w with
    | none => s
    | some w => match s.nextGroup w with
      | none => s
      | some pc => (s.focus w.id).openClause pc)

/-! ## Barriers (R289, R290) -/

def Bar.zero : Bar := ⟨0, none, false, 0, []⟩

def Blk.bar (b : Blk) (cb : Bool) (n : Nat) : Bar := (if cb then b.cbars else b.bars).get Bar.zero n
def Blk.setBar (b : Blk) (cb : Bool) (n : Nat) (x : Bar) : Blk :=
  if cb then { b with cbars := b.cbars.set Bar.zero n x } else { b with bars := b.bars.set Bar.zero n x }

/-- The block that keeps a barrier, and the blocks whose waves use it. Log entry 37. -/
def Blk.barHome (b : Blk) (cb : Bool) : BlkId := if cb then b.cluster.headD b.id else b.id
def Blk.barUsers (b : Blk) (cb : Bool) : List BlkId := if cb && !b.cluster.isEmpty then b.cluster else [b.id]

/-- Waves of some blocks that have not ended. -/
def State.liveWaves (s : State) (ids : List BlkId) : Nat :=
  (ids.map fun i => match s.blk? i with | some b => b.nwaves - b.ended | none => 0).sum

/-- The mark, in place of a wave number, of a barrier re-evaluated because a wave has ended. -/
def barMark : Nat := 99

/-- R289 step 3: every waiting wave departs; a CBAR departure is an acquire at .die (R290). A wave that only arrived acquires nothing.
Log entry 37. -/
def State.depart (s : State) (cb : Bool) (ws : List WaveId) : State :=
  ws.foldl (fun s w =>
    let s := match s.wave? w with
      | some x => if cb then s.acquireBump w.blk.ctx x.core .die else s
      | none => s
    s.modWave w fun x => match x.run with | .barrier _ _ => { x with run := .run, waitC := 0 } | _ => x) s

/-- BARRIER_ARRIVAL_REGISTER: an arrival enters the tally, or a wave's end lowers the expected count; where the arrivals reach it, the
barrier completes, as one BARRIER event. -/
def execBarrierArrivalRegister (w : WaveId) (cb : Bool) (n : Nat) (cnt : Option Nat) (arr : Bool) (s : State) : Out :=
  .next (
    match s.blk? w.blk with
    | none => s
    | some b =>
      match s.blk? (b.barHome cb) with
      | none => s
      | some hb =>
        let mark := w.wid == barMark
        let waits := match s.wave? w with | some x => x.run == .barrier cb n | none => false
        let old := hb.bar cb n
        let bar : Bar :=
          if mark then old
          else if old.open_ then { old with tally := old.tally + 1, wait := if arr then old.wait else old.wait ++ [w] }
          else { old with tally := 1, count := cnt, open_ := true, wait := if arr then [] else [w] }
        if (mark && (!old.open_ || old.count.isSome)) || (!mark && !waits) then s
        else if bar.tally ≥ bar.count.getD (s.liveWaves (b.barUsers cb)) then
          let lp := match s.ctx? w.blk.ctx with | some c => c.logical hb.core.pkg | none => 0
          let pay := BitVec.ofNat 64 (n + old.done * 16)
          let opt := if cb then optId 3 lp hb.core.die (hb.core.core / 8) else optId 2 lp hb.core.die hb.core.core
          let perform := fun (s : State) =>
            let s := s.modBlk hb.id fun x => x.setBar cb n { Bar.zero with done := old.done + 1 }
            let s := s.depart cb bar.wait
            (if arr && !mark then s.modWave w fun x => { x with run := .run, waitC := 0 } else s, pay)
          s.atPoint (s.blkEv lp opt 0x02 hb.id pay) (.barrierArrivalRegister w cb n cnt arr) perform
        else
          let s := s.modBlk hb.id fun x => x.setBar cb n bar
          if arr then s.modWave w fun x => { x with run := .run, waitC := 0 } else s)

/-! ## WAVE_END (R166) -/

/-- The open phases without a count that a wave's end may complete (R289 step 4). -/
def State.barMarks (s : State) (b : Blk) : List Instr :=
  let opens := fun (t : Tab Bar) => (t.filter fun p => p.2.open_ && p.2.count.isNone).map (·.1)
  let c := match s.blk? (b.barHome true) with | some h => opens h.cbars | none => []
  ((opens b.bars).map fun n => Instr.barrierArrivalRegister ⟨b.id, barMark⟩ false n none true)
  ++ c.map fun n => Instr.barrierArrivalRegister ⟨b.id, barMark⟩ true n none true

/-- A wave leaves its core. -/
def State.dropWave (s : State) (id : WaveId) : State :=
  if s.wave.id = id ∧ s.wave ≠ Wave.idle then { s with wave := Wave.idle } else { s with waves := s.waves.filter fun w => !decide (w.id = id) }

/-- WAVE_END (R166): a wave with no live thread whose flags read zero ends, and so does one that a fatal trap or revocation stopped; the
end of the last one ends the block or task. Log entry 24. -/
def execWaveEnd (id : WaveId) (s : State) : Out :=
  .next (
    match s.wave? id with
    | none => s
    | some w =>
      if w.run == .halted || (w.run == .exiting && (List.range 12).all fun f => w.flag f == 0) then
        let s := (s.dropWave id).modBlk id.blk fun b => { b with ended := b.ended + 1 }
        match s.blk? id.blk with
        | none => s
        | some b =>
          let s := s.due (s.barMarks b)
          if b.ended ≥ b.nwaves then s.endBlk id.blk else (s.kickDies).kickTask b.core
      else s)

/-! ## Trap records (R360, R365, R366) -/

/-- The eight words of a record at index k (R360). -/
def TrapRecWords (r : TrapRec) (logn k : Nat) : List W64 :=
  let nsl := if r.cont.isEmpty then 0 else 2
  let lap := (k / 2 ^ logn) % 255 + 1
  let w0 := r.code % 256 + r.urg.toNat * 2 ^ 8 + r.prec.toNat * 2 ^ 9 + r.rst.toNat * 2 ^ 10 + nsl * 2 ^ 12 + r.sub % 2 ^ 16 * 2 ^ 16
    + r.lser % 2 ^ 24 * 2 ^ 32 + lap * 2 ^ 56
  let w1 := r.iid % 2 ^ 53 + r.tk.toNat * 2 ^ 53 + r.wv % 32 * 2 ^ 54 + r.lane % 32 * 2 ^ 59
  let w3 := r.ord % 2 ^ 32 + r.pkg % 256 * 2 ^ 32 + r.die % 4 * 2 ^ 40 + r.core % 64 * 2 ^ 42
  [BitVec.ofNat 64 w0, BitVec.ofNat 64 w1, r.pc, BitVec.ofNat 64 w3, r.addr, r.aux0, r.aux1, r.aux2]

/-- The words of continuation slot k with one image. -/
def contWords (img : List W64) (logn k : Nat) : List W64 :=
  [BitVec.ofNat 64 (2 ^ 11 + ((k / 2 ^ logn) % 255 + 1) * 2 ^ 56), 0, 0, 0] ++ (List.range 4).map fun i => img.getD i 0

/-- The slots of a record, the first at index k. -/
def trapSlots (r : TrapRec) (logn k : Nat) : List (List W64) :=
  TrapRecWords r logn k :: r.cont.zipIdx.map fun p => contWords p.1 logn (k + 1 + p.2)

def Ctx.logn (c : Ctx) : Nat := (c.trd.extractLsb' 0 5).toNat
def Ctx.rbase (c : Ctx) : Nat := (c.trd.extractLsb' 12 44).toNat * 4096
def State.trapPi (s : State) (c : Ctx) : Nat := (s.devWord (fnOf c.id) (c.desc + 520)).toNat
def State.trapCi (s : State) (c : Ctx) : Nat := (s.devWord (fnOf c.id) (c.desc + 528)).toNat

/-- R366: OFL, and the count of urgent records dropped. Log entry 39. -/
def State.trapNote (s : State) (c : Ctx) (dropped : Bool) : State :=
  let ia := c.desc + 536
  let w := s.devWord (fnOf c.id) ia
  let n := (w.extractLsb' 16 32).toNat
  s.devPut (fnOf c.id) ia (if dropped then (w &&& ~~~0xFFFFFFFF0000#64) ||| BitVec.ofNat 64 (min (n + 1) (2 ^ 32 - 1) * 2 ^ 16) else w ||| 1#64)

/-- A wave, resident or saved with its block, changes. -/
def State.modWaveAny (s : State) (id : WaveId) (f : Wave → Wave) : State :=
  (s.modWave id f).modBlk id.blk fun b => { b with image := b.image.map fun w => if w.id = id then f w else w }

/-- A record is written and its slots claimed; its wave knows its index, or continues. Log entry 39. -/
def State.trapWrite (s : State) (c : Ctx) (r : TrapRec) : State :=
  let k := s.trapPi c
  let n := c.logn
  let sl := trapSlots r n k
  let put := fun (s : State) (p : List W64 × Nat) => (s.devWrite (fnOf c.id) (c.rbase + 64 * ((k + p.2) % 2 ^ n)) (bytesOf p.1)).getD s
  let s := (sl.zipIdx.foldl put s).devPut (fnOf c.id) (c.desc + 520) (BitVec.ofNat 64 (k + sl.length))
  let s := if r.urg && c.ctl.getLsbD 23 then s.raise (fnOf c.id) (c.ctl.extractLsb' 13 10).toNat else s
  match r.who with
  | none => s
  | some w =>
    if r.rst then
      let s := s.modWaveAny w fun x => if x.run = .trapped r.code none then { x with run := .trapped r.code (some k) } else x
      s.modCtx c.id fun c => { c with recs := c.recs ++ [(k, w, r.code)] }
    else s.modWaveAny w fun x => if x.run = .posting then { x with run := .run } else x

/-- TRAP_RECORD_POST (R366): urgent records claim any free slot or are dropped; ordinary ones leave 32 slots free, in the order in which
they came, and wait with OFL set where there is no room; a record written has no other event due. A wave whose block has ended stops at
its restartable trap and writes no record (R362). Log entry 39. -/
def execTrapRecordPost (ctx : Nat) (r : TrapRec) (s : State) : Out :=
  .next (
    match s.ctx? ctx with
    | none => s
    | some c =>
      let free := 2 ^ c.logn - (s.trapPi c - s.trapCi c)
      let dead := r.rst && (match r.who with | some w => s.blkDead w | none => false)
      if s.devHeld (fnOf ctx) c.desc 1024 then s.due [.trapRecordPost ctx r]
      else if dead then (match r.who with
        | some w => (s.modWave w fun x => { x with run := .halted, clause := none }).dueEnd w
        | none => s)
      else if r.urg then (if 1 + r.cont.length ≤ free then s.trapWrite c r else s.trapNote c true)
      else
        let q := if c.trapq.contains r then c.trapq else c.trapq ++ [r]
        match q with
        | [] => s
        | x :: rest =>
          if 32 < free then
            let s := (s.modCtx ctx fun c => { c with trapq := rest }).trapWrite c x
            let s := { s with pending := s.pending.filter fun e => !decide (e = .trapRecordPost ctx x) }
            match rest with | [] => s | y :: _ => if s.pending.contains (.trapRecordPost ctx y) then s else s.due [.trapRecordPost ctx y]
          else (s.modCtx ctx fun c => { c with trapq := q }).trapNote c false)

/-! ## Trap responses (R363, R365) -/

/-- The wave a response names, and its code: one whose record has that index and that is still trapped. -/
def State.respWave (s : State) (ctx k : Nat) : Option (WaveId × Nat) :=
  match s.ctx? ctx with
  | none => none
  | some c => match c.recs.find? fun r => r.1 == k with
    | none => none
    | some r =>
      let here := match s.wave? r.2.1 with | some w => w.run == .trapped r.2.2 (some k) | none => false
      let saved := match s.blk? r.2.1.blk with | some b => b.image.any fun w => decide (w.id = r.2.1) && w.run == .trapped r.2.2 (some k) | none => false
      if here || saved then some (r.2.1, r.2.2) else none

/-- A response is taken: at once for a resident wave, at its restore for a saved one. -/
def State.respond (s : State) (ctx k act : Nat) (v : W64) (f : State → WaveId → State) : State :=
  match s.respWave ctx k with
  | none => s
  | some (w, code) =>
    if act = 2 ∧ code ≠ 0x05 then s
    else
      let s := s.modCtx ctx fun c => { c with recs := c.recs.filter fun r => r.1 != k }
      if (s.wave? w).isSome then f s w
      else s.modCtx ctx fun c => { c with resp := c.resp ++ [(w, act, v)] }

/-- R365 action 2: STKLIM takes bits [47:0], and the wave resumes. -/
def State.resumeStk (s : State) (w : WaveId) (v : W64) : State :=
  (s.modWave w fun x => { x with stklim := (v.extractLsb' 0 48).setWidth 64 }).resume w

def execTrapResponseResume (ctx k : Nat) (s : State) : Out := .next (s.respond ctx k 1 0 State.resume)
def execTrapResponseStklim (ctx k : Nat) (v : W64) (s : State) : Out := .next (s.respond ctx k 2 v fun s w => s.resumeStk w v)
def execTrapResponseEnd (ctx k : Nat) (s : State) : Out := .next (s.respond ctx k 3 0 State.fatal)

/-- LOCKRING_AUTO_RESTART (R364): with ALR set the word a conflict stopped is tried again. -/
def execLockringAutoRestart (id : WaveId) (s : State) : Out :=
  .next (
    let alr := match s.ctx? id.blk.ctx with | some c => c.trd.getLsbD 5 | none => false
    match s.wave? id with
    | some w => if alr && w.run == .trapped 0x06 none then s.resume id else s
    | none => s)

/-! ## Watchdogs (R367) -/

/-- The event of an order point is one that the wave makes, or waits for: its own word's; the arrival that completes the barrier it waits at;
the arrival of a copy that its XWAIT waits for; the contribution of its COLSEND. Log entry 70. -/
def State.evWaits (s : State) (e : Instr) (w : Wave) : Bool :=
  match reqOf e with
  | some r => decide (r.wave = w.id)
  | none => match e with
    | .barrierArrivalRegister x cb n _ _ =>
      decide (x = w.id) || (w.run == .barrier cb n && (match s.blk? x.blk with | some b => (b.barUsers cb).contains w.id.blk | none => false))
    | .flagCompletion i | .storeLanded i => (match s.op? i with | some o => decide (o.wave = w.id) | none => false)
    | .tagPublicationApply t => decide (t.who = w.id)
    | .copyArrival b i => decide (w.id.blk = b) && (s.opsOf w.id).any fun o => o.waiting
        && (match o.ins with | .xwait _ => o.arg.get 0 0 == BitVec.ofNat 64 i | _ => false)
    | .contributionCount c => (match c.src with
        | .colsend i => (match s.op? i with | some o => decide (o.wave = w.id) | none => false)
        | .mepi b _ | .exit b => decide (b = w.id.blk))
    | _ => false

/-- R150, R152: an event of the wave, or that it waits for, is held, by a full ring or by replay. -/
def State.logHolds (s : State) (w : Wave) : Bool := s.held.any fun h => s.evWaits h.ev w

/-- The wave waits where its wait counter counts: at a barrier, for landing or a slot, or for an operation that waits. Log entry 40. -/
def State.counts (s : State) (w : Wave) : Bool :=
  let op := (s.opsOf w.id).any Op.waiting
  (match w.run with
   | .barrier _ _ => true
   | .run => w.waitC != 0 || (op && !s.eligible w && (w.clause.isNone || s.heldOnWait w))
   | .exiting => op
   | _ => false)
  && !s.logHolds w

/-- A watchdog trap of a wave: sub 1 wait, 2 held. Log entries 10, 40. -/
def State.watchdog (s : State) (id : WaveId) (sub lane : Nat) (ok : Wave → Bool) : State :=
  match s.ctx? id.blk.ctx, s.wave? id with
  | some c, some w =>
    if c.wdlog = 0 ∨ !ok w then s
    else s.takeTrap id (w.record 0x14 sub w.curPc 0 (BitVec.ofNat 64 (2 ^ c.wdlog)) 0 lane)
  | _, _ => s

/-- WATCHDOG_WAIT_EXPIRY (R367): the event stands for the counter reaching its limit. Log entries 10, 40. -/
def execWatchdogWaitExpiry (id : WaveId) (s : State) : Out := .next (s.watchdog id 1 0 s.counts)

/-- WATCHDOG_HELD_EXPIRY (R367): a thread held at its MR. Log entry 10. -/
def execWatchdogHeldExpiry (id : WaveId) (lane : Nat) (s : State) : Out :=
  .next (s.watchdog id 2 lane fun w => !s.logHolds w && w.held lane && !w.freed.getLsbD lane && (match w.run with | .run | .barrier _ _ => true | _ => false))

/-! ## Sleep and breakpoints -/

/-- SLEEP_EXPIRY (R337). Log entries 10, 11. -/
def execSleepExpiry (id : WaveId) (s : State) : Out :=
  .next (s.modWave id fun w => if w.run = .sleep then { w with run := .run } else w)

/-- BREAKPOINT_RESUME (R333): a wave whose record still waits for a slot stays stalled until it has one (R366). -/
def execBreakpointResume (id : WaveId) (s : State) : Out :=
  .next (
    let waits := match s.ctx? id.blk.ctx with | some c => c.trapq.any fun r => r.who == some id | none => false
    s.modWaveAny id fun w => if w.run = .breakpoint then { w with run := if waits then .posting else .run } else w)

end Sys2Proof.Machine
end

