-- ==== Sys2Proof/Machine/System.lean ====
section
/-! DEFINITION. The system words: CSRs, the range registers and the tag window (spec/12_isa_async.md R334, R335, spec/02_address_spaces.md
R32 to R37), liveness points, marks, traps, breakpoints, time and sleep (R328 to R337), and the events that end an operation of a wave
(FLAG_COMPLETION, STORE_LANDED). -/

namespace Sys2Proof.Machine

/-- A word that waits for landing without a wait counter: the drains become due, other waves issue. -/
def State.drainStall (s : State) : State := (s.due (s.drainsOf s.wave.core)).stall

/-- The lowest participating lane. -/
def State.lead (s : State) (g : Guard) : Nat := (s.wave.part g).headD 0

/-- The destination of CSRR and CLOCK: an a register or pair takes 64 bits, an s register alone bits [31:0]. -/
def State.put64 (s : State) (o : Opd) (pair : Bool) (x : W64) : State :=
  match o with
  | .a n => { s with wave := s.wave.setA n.toNat x }
  | .s n => if pair then { s with wave := (s.wave.setS n.toNat (lo32 x)).setS (n.toNat + 1) (hi32 x) } else { s with wave := s.wave.setS n.toNat (lo32 x) }
  | _ => s

/-! ## CSRs (R334, R335) -/

/-- The ring of the wave's package. -/
def Ctx.ringAt (c : Ctx) (pkg : Nat) : Option LogRing := c.ring? (c.logical pkg)

/-- LOGST (R147), as a wave in a package reads it. -/
def State.logSt (s : State) (c : Ctx) (pkg : Nat) : W64 :=
  let lp := c.logical pkg
  let hiw := c.logmode == 1 && (match c.ringAt pkg with | some r => decide (r.room ≤ 64) | none => false)
  let stall := c.logmode == 1 && s.held.any fun h => h.ctx == c.id && h.lpkg == lp && !h.again
  c.logst ||| BitVec.ofNat 64 (c.logmode % 4 + hiw.toNat * 4 + stall.toNat * 8)

/-- The value of a CSR; none where R335 lists no such number. -/
def State.csrGet (s : State) (n : Nat) : Option W64 :=
  let w := s.wave
  match s.ctx? w.id.blk.ctx with
  | none => none
  | some c =>
    -- R37: a running block sees the registers it was launched with, firmware those it has written
    let rng := fun (f : Range → W64) => ((if w.fw then c.staged.getD c.ranges else c.ranges)[n % 16]?).map f
    match n with
    | 0x000 => some w.astk
    | 0x001 => some w.fpctl
    | 0x002 => some w.srseed
    | 0x003 => some w.stklim
    | 0x004 => some w.colroute
    | 0x005 => some w.merr
    | 0x006 => some (match s.blk? w.id.blk with | some b => b.cmdq | none => 0)
    | 0x007 => some (BitVec.ofNat 64 w.depth)
    | 0x008 => some (BitVec.ofNat 64 w.tserial)
    | 0x010 => some (s.logSt c w.core.pkg)
    | 0x011 => some (BitVec.ofNat 64 c.pindrop)
    | 0x012 => some (s.hsalt w.core.pkg)
    | 0x013 => some (BitVec.ofNat 64 c.slots.length)
    | 0x014 => some c.tagwin
    | 0x015 => some (c.dbgctl &&& 1)
    | _ => match n / 16 with
      | 2 => rng fun r => r.base
      | 3 => rng fun r => r.lim
      | 4 => rng fun r => r.ia
      | 5 => rng fun r => r.attr
      | _ => none

/-- User access: may a user CSRW write it; does firmware have a write that the user has not. -/
inductive CsrAccess where
  | rw | fwOnly | ro | absent
  deriving DecidableEq, Repr

def csrAccess (n : Nat) : CsrAccess :=
  match n with
  | 0x000 | 0x002 | 0x003 | 0x004 | 0x005 | 0x006 => .rw
  | 0x001 | 0x011 | 0x014 | 0x015 => .fwOnly
  | 0x007 | 0x008 | 0x010 | 0x012 | 0x013 => .ro
  | _ => if n / 16 = 2 ∨ n / 16 = 3 ∨ n / 16 = 4 ∨ n / 16 = 5 then .fwOnly else .absent

/-- The fault of a CSRW (R334), as a trap code. Log entries 41, 42. -/
def csrwFault (fw : Bool) (n : Nat) : Option Nat :=
  match csrAccess n with
  | .absent => some 0x12
  | .ro => if fw then none else some 0x12
  | .fwOnly => if fw then none else some 0x13
  | .rw => none

/-- A CSRW past its access check (R334): `f` writes. Log entry 41. -/
def State.csrWrite (s : State) (w : AW) (f : State → W64 → State) : State :=
  if s.idleWord w.g then s
  else match csrwFault s.wave.fw w.csr with
    | some code => s.trapHere code w.csr 0 0 0 (s.lead w.g)
    | none => f s (s.csrSrc w)

/-- CSRR (R334). -/
def execCsrr (w : AW) (s : State) : Out :=
  .next (if s.idleWord w.g then s
    else match s.csrGet w.csr with
      | some x => s.put64 w.d w.w64 x
      | none => s.trapHere 0x12 w.csr 0 0 0 (s.lead w.g))

/-- The CSRs of a wave and of a context that take a write without behaviour of their own, field by field (R5). -/
def State.csrPut (s : State) (n : Nat) (v : W64) : State :=
  let wave := fun (f : Wave → Wave) => { s with wave := f s.wave }
  let ctx := fun (f : Ctx → Ctx) => s.modCtx s.wave.id.blk.ctx f
  match n with
  | 0x000 => wave fun w => { w with astk := w.astk &&& ~~~v }
  | 0x001 => wave fun w => { w with fpctl := v &&& 1 }
  | 0x002 => wave fun w => { w with srseed := v }
  | 0x003 => wave fun w => { w with stklim := v &&& 0xFFFFFFFFFFFF#64 }
  | 0x004 => wave fun w => { w with colroute := v &&& 0x1FFFF#64 }
  | 0x005 => wave fun w => if v.getLsbD 15 then { w with merr := 0 } else w
  | 0x011 => ctx fun c => { c with pindrop := (v.extractLsb' 0 32).toNat }
  | 0x015 => ctx fun c => { c with dbgctl := v &&& 1 }
  | _ => s                   -- the read-only CSRs: ignored

/-- CSRW (R334). -/
def execCsrw (w : AW) (s : State) : Out := .next (s.csrWrite w fun s v => s.csrPut w.csr v)

/-- R37: a write of the range registers: in force at once where no block of the context runs, else when it is next scheduled. Log entry 98. -/
def State.putRanges (s : State) (f : Ctx → List Range → List Range) : State :=
  let runs := s.allWaves.any fun w => w.id.blk.ctx == s.wave.id.blk.ctx && !w.fw
  s.modCtx s.wave.id.blk.ctx fun c =>
    if runs then { c with staged := some (f c (c.staged.getD c.ranges)) } else { c with ranges := f c (c.staged.getD c.ranges), staged := none }

/-- RNGATTR_WRITE (R36): the write that sets V is checked as a whole. -/
def execRngattrWrite (w : AW) (s : State) : Out :=
  .next (s.csrWrite w fun s v =>
    s.putRanges fun c rs => rs.modify (w.csr % 16) fun r => r.writeAttr c.dies v)

/-- RANGE_BOUND_WRITE (R36). -/
def execRangeBoundWrite (w : AW) (s : State) : Out :=
  .next (s.csrWrite w fun s v =>
    s.putRanges fun _ rs => rs.modify (w.csr % 16) fun r => r.writeBound (w.csr / 16 - 2) v)

/-! ## The Cassette's entries (R325, R355) -/

def Ctx.tagBase (c : Ctx) : Nat := (c.tagwin.extractLsb' 0 18).toNat
def Ctx.tagCnt (c : Ctx) : Nat := (c.tagwin.extractLsb' 18 19).toNat

/-- The packages of a context's partition. -/
def Ctx.pkgs (c : Ctx) : List Nat := (c.dies.map fun d => d.2.1).dedup

/-- An entry as a context finds it in a package: its saved copy where the context is switched off there (R370). -/
def State.tagGet (s : State) (c : Ctx) (pkg e : Nat) : Nat × Nat :=
  if c.off.contains pkg then (match c.saved.find? fun x => x.1 == pkg with | some x => x.2.get (0, 0) e | none => (0, 0))
  else match s.pkg? pkg with | some p => p.tags.get (0, 0) e | none => (0, 0)

def State.tagPut (s : State) (c : Ctx) (pkg e : Nat) (v : Nat × Nat) : State :=
  if c.off.contains pkg then
    s.modCtx c.id fun c => { c with saved := updFirst (fun x => x.1 == pkg) (fun x => (x.1, x.2.set (0, 0) e v)) c.saved }
  else s.modPkg pkg fun p => { p with tags := p.tags.set (0, 0) e v }

/-- TAGWIN_WRITE (R335, R355): ignored where the window passes the Cassette; entries it newly covers hold generation 0 with SCO .core. -/
def execTagwinWrite (w : AW) (s : State) : Out :=
  .next (s.csrWrite w fun s v =>
    match s.ctx? s.wave.id.blk.ctx with
    | none => s
    | some c =>
      let v := v &&& 0x1FFFFFFFFF#64
      let base := (v.extractLsb' 0 18).toNat
      let cnt := (v.extractLsb' 18 19).toNat
      if base + cnt > 262144 then s
      else
        let fresh := ((List.range cnt).map fun i => base + i).filter fun e => !(decide (c.tagBase ≤ e) && decide (e < c.tagBase + c.tagCnt))
        let clear := fun (s : State) (p : Nat) => fresh.foldl (fun s e => s.tagPut c p e (0, 0)) s
        (c.pkgs.foldl clear s).modCtx c.id fun c => { c with tagwin := v })

/-! ## Traps, breakpoints, time (R331 to R333, R336, R337) -/

/-- TRAPF (R331): waits until every flag reads zero. -/
def execTrapf (w : AW) (s : State) : Out :=
  .next (if s.idleWord w.g then s
    else if (List.range 12).any fun f => s.wave.flag f != 0 then s.stall
    else
      let m := (s.op32 w.s1 &&& 0x1FF#32).setWidth 64
      if s.wave.astk &&& m = 0 then s else s.trapHere 0x11 0 0 s.wave.astk m (s.lead w.g))

/-- TRAP (R332): the record waits for landing; without .fatal the wave stalls until it has its slot. -/
def execTrap (w : AW) (s : State) : Out :=
  .next (if s.idleWord w.g then s
    else if !s.settled s.wave then s.drainStall
    else
      let code := ((s.op32 w.s1).extractLsb' 0 16).toNat
      let r := s.wave.record 0x1B code s.wave.curPc 0 (s.op64 w.s2) 0 (s.lead w.g)
      if w.xb 9 then s.takeTrap s.wave.id r
      else ({ s with wave := { s.wave with run := .posting } }).due [.trapRecordPost s.wave.id.blk.ctx r])

/-- BPT (R333). -/
def execBpt (w : AW) (s : State) : Out :=
  .next (if s.idleWord w.g then s
    else match s.ctx? s.wave.id.blk.ctx with
      | none => s
      | some c =>
        if c.dbgctl.getLsbD 0 then
          ({ s with wave := { s.wave with run := .breakpoint } }).due
            [.trapRecordPost c.id (s.wave.record 0x1C w.y.toNat s.wave.curPc 0 0 0 (s.lead w.g))]
        else s)

/-- The cycle counter of a core advances. -/
def State.pass (s : State) (c : CoreId) (n : Nat) : State := s.modCore c fun k => { k with cycle := max k.cycle (min (k.cycle + n) (2 ^ 64 - 1)) }

/-- CLOCK (R336): a free number of cycles, without a bound but that the counter never wraps, has passed since it was last read. Log entry 11. -/
def execClock (w : AW) (s : State) : Out :=
  .next (if s.idleWord w.g then s
    else
      let (n, s) := s.anyWord
      let s := s.pass s.wave.core n.toNat
      s.put64 w.d true (BitVec.ofNat 64 (s.cycleOf s.wave.core)))

/-- SLEEP (R337). Log entry 11. -/
def execSleep (w : AW) (s : State) : Out :=
  .next (if s.idleWord w.g then s
    else
      let n := min (s.op32 w.s1).toNat (2 ^ 24)
      if n = 0 then s
      else (({ s with wave := { s.wave with run := .sleep } }).pass s.wave.core n).due [.sleepExpiry s.wave.id])

/-! ## PHINT (R328, R329) -/

/-- The liveness record at a VA, or the fetch that fails. -/
def State.liveAt (s : State) (va : W64) : Except Fetched (List W64) :=
  (List.range 8).foldl (fun acc i => match acc with
    | .error e => .error e
    | .ok ws => match s.fetchAt s.wave (va + BitVec.ofNat 64 (8 * i)) with
      | .word w _ => .ok (ws ++ [w])
      | f => .error f) (.ok [])

/-- The trap of a liveness record that cannot be read, against the PHINT. -/
def State.phintTrap (s : State) (va : W64) (lane : Nat) (f : Fetched) : State :=
  match f with
  | .check c => s.trapHere 0x07 c va (BitVec.ofNat 64 (2 ^ lane)) 0 lane
  | .home 10 ia => s.trapHere 0x09 0 (BitVec.ofNat 64 (ia / 64 * 64)) 0 0 lane
  | .home c ia => s.trapHere 0x08 c (BitVec.ofNat 64 (ia / 64 * 64)) 0 0 lane
  | .word _ _ => s

/-- R358: a wave that counts as stopped for a save. Log entry 33. -/
def State.stops (s : State) (w : Wave) : Bool :=
  match w.run with
  | .stopped | .sleep | .barrier _ _ | .breakpoint | .trapped _ _ => true
  | .exiting => s.counts w
  | .run => s.counts w && ((w.waitC != 0 && (match w.clause with
      | some c => (match decode c.word with | .ok (.xslotAcq _) => true | _ => false)
      | none => false)) || ((s.opsOf w.id).any Op.waiting && (w.clause.isNone || s.heldOnWait w)))
  | _ => false

/-- The blocks saved together with a block (R358). -/
def Blk.group (b : Blk) : List BlkId := if b.cluster.isEmpty then [b.id] else b.cluster

/-- A save that may have become possible. -/
def State.kickSave (s : State) (id : BlkId) : State :=
  match s.blk? id with
  | some b => if b.save && b.state == .running && !s.pending.contains (.blockSave id) then s.due [.blockSave id] else s
  | none => s

/-- PHINT (R329): the record is read; where a save of the block is pending the wave stops. -/
def execPhint (g : Guard) (off : W32) (s : State) : Out :=
  .next (if s.idleWord g then s
    else
      let va := (match s.wave.clause with | some c => c.hva | none => 0) + off.signExtend 64
      match s.liveAt va with
      | .error f => s.phintTrap va (s.lead g) f
      | .ok ws =>
        match s.blk? s.wave.id.blk with
        | some b =>
          if b.save then ({ s with wave := { s.wave with run := .stopped, live := some ws } }).kickSave b.id else s
        | none => s)

/-! ## LOGMARK (R330) -/

/-- The mark is admitted at the synchronisation unit of its core; the operation waits there meanwhile. Log entry 32. -/
def State.markStep (s : State) (id : Nat) : State :=
  match s.op? id with
  | none => s
  | some o =>
    match s.ctx? o.ctx, s.wave? o.wave with
    | some c, some w =>
      let lp := c.logical w.core.pkg
      let v := o.arg.get 0 0
      let ev := { s.waveEv lp (optId 2 lp w.core.die w.core.core) 0x1D o.wave 0 o.ord with pay := v }
      s.atPoint ev (.storeLanded id) fun s => ((s.dropOp id).unwait id, v)
    | _, _ => (s.dropOp id).unwait id

/-- LOGMARK (R330): one MARK event; nothing with the log off. Log entry 41. -/
def execLogmark (w : AW) (s : State) : Out :=
  .next (if s.idleWord w.g then s
    else match s.ctx? s.wave.id.blk.ctx with
      | none => s
      | some c =>
        if c.logmode = 0 then s
        else
          let r := s.engOp (.logmark w) 1
          let v := s.csrSrc w
          (r.2.modOp r.1 fun o => { o with store := true, arg := o.arg.set 0 0 v }).markStep r.1)

/-- STORE_LANDED (R121): a store has landed; a mark held at its order point is submitted again. Log entry 32. -/
def execStoreLanded (id : Nat) (s : State) : Out :=
  .next (match s.op? id with
    | none => s
    | some o => match o.ins with
      | .logmark _ => s.markStep id
      | _ => s.storeDone id)

end Sys2Proof.Machine
end

