-- ==== Sys2Proof/Machine/Tasks.lean ====
section
/-! DEFINITION. Tasks, counters and tags (spec/07_execution.md R171 to R176, spec/12_isa_async.md R322 to R326, spec/13_scheduling.md
R355 to R357). -/

namespace Sys2Proof.Machine

/-! ## Replay at the distributors and deques (R152) -/

/-- The record that is next at an order point, in replay. -/
def State.nextRec (s : State) (c : Ctx) (lpkg opt : Nat) : Option (List W64) :=
  (c.ring? lpkg).bind fun r => winNext r.window opt (s.nextSeq c.id opt)

/-- R152: a context's block or task may be started on a core: its PLACE record is next and names the core, or nothing enforces. -/
def State.placeOk (s : State) (c : Ctx) (core : CoreId) (task : Bool) (idx : Nat) : Bool :=
  if !c.replays then true
  else
    let lp := c.logical core.pkg
    match s.nextRec c lp (optId 6 lp core.die 0) with
    | some r => recTyp r == 0x08 && recTk r == task && recIid r == idx % 2 ^ 53 && (recPay r).toNat % 64 == core.core
    | none => false

/-- The worker core that the PLACE record of event e names, where its package has it (R153). -/
def State.placeCore (s : State) (e : LogEv) (r : List W64) : Option CoreId :=
  match s.ctx? e.ctx with
  | none => none
  | some c =>
    let k : CoreId := ⟨c.phys e.lpkg, e.opt / 2 ^ 18 % 4, (recPay r).toNat % 64⟩
    if worker k && (s.core? k).isSome then some k else none

/-- R152: a start of event e, brought about by ev, whose PLACE record is not next: it is held at its order point, or diverges there; the
record that is next may name a core outside the partition (R153). Log entry 70. -/
def State.placeWait (s : State) (e : LogEv) (ev : Instr) : State :=
  match (s.ctx? e.ctx).bind fun c => s.nextRec c e.lpkg e.opt with
  | some r =>
    if e.keyEq r then (if (s.placeCore e r).isNone then s.diverge e.ctx 1 (s.divRecord e 1) [] r else s)
    else s.atPoint e ev fun s => (s, 0)
  | none => s.atPoint e ev fun s => (s, 0)

/-- Placement of a context goes on in a package: it lives, is scheduled there, and no pre-emption is under way (R138, R357, R358). -/
def Ctx.places (c : Ctx) (pkg : Nat) : Bool := c.life == .live && !c.off.contains pkg && !c.preempting

/-! ## SPAWN (R171 to R173, R322) -/

def recBits (bs : List Byte) (byte lo n : Nat) : Nat := leVal ((bs.drop byte).take 8) / 2 ^ lo % 2 ^ n

/-- R171: a record without a reserved bit or bad field; the bytes the device writes are ignored. -/
def taskRecOk (bs : List Byte) : Bool :=
  let n := recBits bs 8 5 3
  recBits bs 0 57 7 == 0 && recBits bs 0 0 3 == 0 && decide (n ≤ 4) && decide (recBits bs 8 8 9 ≤ 256) && recBits bs 8 17 47 == 0
  && (List.range 4).all fun k =>
    let a := 16 + 16 * k
    if k < n then recBits bs a 60 4 == 0 && recBits bs a 0 3 == 0 && decide (recBits bs a 57 3 < 5)
    else recBits bs a 0 64 == 0 && recBits bs (a + 8) 0 64 == 0

/-- The counters a record uses: VA, scope, threshold. -/
def taskCtrs (bs : List Byte) : List (Nat × Nat × Nat) :=
  (List.range (recBits bs 8 5 3)).map fun k => (recBits bs (16 + 16 * k) 0 57, recBits bs (16 + 16 * k) 57 3, recBits bs (24 + 16 * k) 0 64)

/-- The task of a record that a wave spawns. -/
def Wave.task (w : Wave) (root serial : Nat) (bs : List Byte) : TaskRec :=
  { ctx := w.id.blk.ctx, launch := w.id.blk.launch, root := root, entry := (BitVec.ofNat 57 (recBits bs 0 0 57)).signExtend 64,
    rcap := 8 * (recBits bs 8 0 5 + 1), sgr := recBits bs 8 8 9, ctrs := taskCtrs bs,
    arg := (List.range 8).map fun i => BitVec.ofNat 32 (leVal ((bs.drop (80 + 4 * i)).take 4)),
    serial := serial, depth := w.depth + 1, lser := w.lser, fpctl := w.fpctl, srseed := w.srseed }

/-- The root block of a wave's task tree. -/
def State.rootOf (s : State) (id : BlkId) : Nat :=
  match (s.blk? id).bind fun b => b.task with | some t => t.root | none => id.idx

/-- A task is accepted: its serial is counted, its launch has one more task. -/
def State.countTask (s : State) (pkg ctx launch : Nat) : State :=
  (s.modPkg pkg fun p => { p with serials := p.serials.set 0 ctx (p.serials.get 0 ctx + 1) }).modCtx ctx fun c =>
    c.modLaunch launch fun l => { l with tasks := l.tasks + 1 }

/-- R172, R173: the acceptance of a record: status, destination code of R144, and whether it was accepted. Log entry 34. -/
def State.accept (s : State) (w : Wave) (c : Ctx) (serial : Nat) (bs : List Byte) : Nat × Nat × State :=
  let t := w.task (s.rootOf w.id.blk) serial bs
  let ivs := match s.blk? w.id.blk with | some b => b.intervals | none => []
  let bad := t.ctrs.any fun k => match xlate (s.rangesOf w) ivs (vaOf k.1) 8 .load with | .error _ => true | .ok _ => false
  if !taskRecOk bs || bad then (4, 2, s)
  else if w.depth ≥ 15 then (2, 2, s)
  else
    let met := t.ctrs.all fun k => match s.locate c.id (vaOf k.1) 8 .load with
      | some (h, ia) => decide (k.2.2 ≤ (s.homeWord h ia).toNat)
      | none => false
    if met then
      (match s.pushTask w.core t with
       | some (ring, s) =>
         (ring.toNat, ring.toNat, s.countTask w.core.pkg c.id t.launch)
       | none => (3, 2, s))
    else
      let p : Parked := ⟨t, w.core, 0⟩
      let s := (s.countTask w.core.pkg c.id t.launch).modCtx c.id fun c => { c with parked := c.parked ++ [p] }
      (0, 0, s.watchTask p t.ctrs.length 0)

/-- The lanes of a SPAWN not yet offered, in ascending order. -/
def Op.unoffered (o : Op) : List Nat := (lanesOf o.ok).filter fun l => !o.early.contains (1000 + l)

/-- The record a lane offers, as read at issue. -/
def Op.taskBytes (o : Op) (l : Nat) : List Byte := (List.range 128).map fun i => o.data.get 0 (4096 + 128 * l + i)

/-- The next lane of a SPAWN is offered: one TASKDISP event; it waits while the home of one of its counters holds the read (R62, R74). -/
def State.spawnLane (s : State) (id : Nat) : State :=
  match s.op? id with
  | none => s
  | some o =>
    match o.unoffered, s.ctx? o.ctx, s.wave? o.wave with
    | l :: rest, some c, some w =>
      let lp := c.logical w.core.pkg
      let n := match s.pkg? w.core.pkg with | some p => p.serials.get 0 c.id | none => 0
      let serial := lp % 256 * 2 ^ 45 + n % 2 ^ 45
      let held := (taskCtrs (o.taskBytes l)).any fun k => match s.locate c.id (vaOf k.1) 8 .load with | some (h, ia) => s.ctrHeld h ia | none => false
      let perform := fun (s : State) =>
        let r := s.accept w c serial (o.taskBytes l)
        let f := fun (o : Op) => { o.put l 0 (leBytes 4 r.1) with early := (1000 + l) :: o.early, left := rest.length }
        let s := r.2.2.modOp id f
        (if rest.isEmpty then (s.modOp id fun o => { o with early := [] }).finishOp id else s,
          BitVec.ofNat 64 ((if r.2.1 = 2 then 0 else serial) + r.2.1 * 2 ^ 62))
      if held then s.due [.flagCompletion id]
      else s.atPoint (s.waveEv lp (optId 5 lp w.core.die w.core.core) 0x07 o.wave l o.ord) (.flagCompletion id) perform
    | _, _, _ => s

/-- The lanes of a SPAWN are offered until all have their status, or one is held at its order point or waits. Log entry 32. -/
def State.spawnRun (s : State) (n id : Nat) : State :=
  match n with
  | 0 => s
  | k + 1 =>
    match s.op? id with
    | none => s
    | some o => if o.left = 0 || s.pending.contains (.flagCompletion id) || s.held.any fun h => h.ev == .flagCompletion id then s else (s.spawnLane id).spawnRun k id

/-- SPAWN (R322): both faults are decided for all lanes; the records are read, and acceptance waits for the stores they follow. -/
def execSpawn (w : AW) (s : State) : Out :=
  .next (
    let ls := s.wave.part w.g
    let off := fun l => (lo32 (s.rd false .n32 w.s1 l)).toNat
    let mis := ls.filter fun l => off l % 16 != 0
    match s.blk? s.wave.id.blk with
    | none => s
    | some b =>
      let far := ls.filter fun l => decide (off l + 128 > b.size)
      match ls, mis, far with
      | [], _, _ => s
      | _, l :: _, _ => s.trapHere 0x0A 0 (BitVec.ofNat 64 (off l)) (lanesMask mis) 0 l
      | _, [], l :: _ => s.trapHere 0x07 5 (BitVec.ofNat 64 (off l)) (lanesMask far) 0 l
      | _, [], [] =>
        let r := s.engOp (.spawn w) ls.length
        let recs := fun (o : Op) =>
          { o with
            ok := ls.foldl (fun m l => m ||| BitVec.ofNat 32 (2 ^ l)) 0#32
            data := ls.foldl (fun (t : Tab Byte) l => writeBytes t (4096 + 128 * l) (b.scrRead (off l) 128)) [] }
        let s := r.2.modOp r.1 recs
        if (s.opsOf s.wave.id).any fun o => o.awaited && o.id != r.1 then s.release s.wave.id r.1 [.flagCompletion r.1]
        else s.spawnRun 32 r.1)

/-! ## Counters (R323, R324) -/

/-- CSIG and CWAIT as an 8-byte strong access to global memory. -/
def AWmem (w : AW) : MW :=
  { g := w.g, data := w.s2, base := w.s1, off := 0, mx := 0, sz := 3#3, sp := .glb, cp := 0, fs := w.fs, pi := false }

def ctrSpec (i : Instr) (w : AW) (kind : Kind) (req : ReqKind) (s : State) : MemSpec :=
  { ins := i, w := AWmem w, kind := kind, size := 8, strong := true, rel := false, acq := false, scope := none, single := false,
    narrow := false, addr := fun l => (AWmem w).baseVal s l, req := req, d1 := fun _ => [], d2 := fun _ => [], arg := fun _ => 0 }

/-- CSIG (R323): a release addition; the wave goes on. -/
def execCsig (w : AW) (s : State) : Out :=
  .next (s.memWord { ctrSpec (.csig w) w .atomic (.rmw .csig false) s with
    rel := true, d1 := fun l => leBytes 8 (lo32 (s.rd false .n32 w.s2 l)).toNat })

/-- CWAIT (R324): a watch, or one read with .try; an acquire at SCO once the threshold is met. -/
def execCwait (w : AW) (s : State) : Out :=
  .next (s.memWord { ctrSpec (.cwait w) w .load (if w.try_ then .tryRead 0 else .load) s with
    acq := true, scope := some w.sco, arg := fun l => s.rd true .n64 w.s2 l })

/-! ## Tags (R325, R326, R355) -/

/-- (new - old) mod 2^20 lies from 1 to 2^19 - 1. -/
def tagNewer (new old : Nat) : Bool :=
  let d := (new + 2 ^ 20 - old) % 2 ^ 20
  decide (1 ≤ d) && decide (d < 2 ^ 19)

/-- The producer of a window index (R326): the most recently read launch whose producer range covers it. -/
def Ctx.producer (c : Ctx) (idx : Nat) : Option Launch := c.launches.reverse.find? fun l => decide (l.tlo ≤ idx) && decide (idx < l.tlo + l.tn)

/-- What a TAGWAIT finds. -/
inductive TagLook where
  | met
  | stale (gen : Nat)
  | later (fb : Nat)       -- the launch waited for, plus one, under fallback; 0 otherwise
  deriving DecidableEq, Repr

def State.tagLook (s : State) (c : Ctx) (pkg idx gen : Nat) : TagLook :=
  match c.producer idx with
  | some l => if l.fallback then (if l.ended then .met else .later (l.id + 1)) else entry
  | none => entry
where
  entry : TagLook :=
    let e := (s.tagGet c pkg (c.tagBase + idx)).1
    if e = gen then .met else if tagNewer e gen then .stale e else .later 0

/-- TAGPUB (R325): the publication takes effect when everything it covers has landed or returned. Log entry 36. -/
def execTagpub (w : AW) (s : State) : Out :=
  .next (if s.idleWord w.g then s
    else
      let tw := s.op64 w.s1
      if s.tagBad tw then s.trapHere 0x0F 0 tw 0 0 (s.lead w.g)
      else s.release s.wave.id 0 [.tagPublicationApply (tagPubOf s.wave.id s.wave.core.pkg (s.wave.ordinal % 2 ^ 32) tw)])

/-- The record of a stale tag (R326). -/
def State.staleRecord (s : State) (o : Op) (tw : W64) (gen : Nat) : TrapRec :=
  let w := (s.wave? o.wave).getD { Wave.idle with id := o.wave }
  { w.record 0x10 0 o.pc (BitVec.ofNat 64 (twIdx tw)) (BitVec.ofNat 64 (twGen tw)) (BitVec.ofNat 64 gen) 0 with ord := o.ord % 2 ^ 32 }

/-- A waiting TAGWAIT looks at its entry. Log entry 32. -/
def State.tagStep (s : State) (id : Nat) : State :=
  match s.op? id with
  | none => s
  | some o =>
    match s.ctx? o.ctx, s.wave? o.wave with
    | some c, some w =>
      let tw := o.arg.get 0 0
      match s.tagLook c w.core.pkg (twIdx tw) (twGen tw) with
      | .met => s.tagMet id tw
      | .stale g => s.opFault o (s.staleRecord o tw g)
      | .later fb => s.modOp id fun o => { o with arg := o.arg.set 0 1 (BitVec.ofNat 64 fb) }
    | _, _ => s

/-- TAGWAIT.try: one ATOMIC event at the Cassette. -/
def State.tagTry (s : State) (id : Nat) : State :=
  match s.op? id with
  | none => s
  | some o =>
    match s.ctx? o.ctx, s.wave? o.wave with
    | some c, some w =>
      let tw := o.arg.get 0 0
      let lp := c.logical w.core.pkg
      let perform := fun (s : State) => match s.tagLook c w.core.pkg (twIdx tw) (twGen tw) with
        | .met => (s.tagMet id tw, 0#64)
        | .stale g => (s.opFault o (s.staleRecord o tw g), 0#64)
        | .later _ => (s.engDone id (leBytes 4 1) 0, 1#64)
      s.atPoint (s.waveEv lp (optId 8 lp 0 0) 0x01 o.wave 0 o.ord) (.flagCompletion id) perform
    | _, _ => s

/-- TAGWAIT (R326). -/
def execTagwait (w : AW) (s : State) : Out :=
  .next (if s.idleWord w.g then s
    else
      let tw := s.op64 w.s1
      if s.tagBad tw then s.trapHere 0x0F 0 tw 0 0 (s.lead w.g)
      else match s.ctx? s.wave.id.blk.ctx with
        | none => s
        | some c =>
          match s.tagLook c s.wave.core.pkg (twIdx tw) (twGen tw) with
          | .stale g =>
            s.trapHere 0x10 0 (BitVec.ofNat 64 (twIdx tw)) (BitVec.ofNat 64 (twGen tw)) (BitVec.ofNat 64 g) (s.lead w.g)
          | _ =>
            let r := s.engOp (.tagwait w) 1
            let s := r.2.modOp r.1 fun o => { o with arg := o.arg.set 0 0 tw, acq := true }
            if w.try_ then s.tagTry r.1 else s.tagStep r.1)

/-- FLAG_COMPLETION (R206): an operation completes; a SPAWN or TAGWAIT.try held at its order point is submitted again. Log entry 32. -/
def execFlagCompletion (id : Nat) (s : State) : Out :=
  .next (match s.op? id with
    | none => s
    | some o =>
      if o.left = 0 || o.fault.isSome then s.flagDone id
      else match o.ins with
        | .spawn _ => s.spawnRun 32 id
        | .tagwait w => if w.try_ then s.tagTry id else s
        | _ => s)

/-- A launch has entered: the waits of its context's waves on the indices of its producer range look again (R326). -/
def State.tagRelook (s : State) (ctx lo n : Nat) : State :=
  let mine := s.ops.filter fun o => o.ctx == ctx && o.left == 1 && (match o.ins with | .tagwait w => !w.try_ | _ => false)
    && decide (lo ≤ twIdx (o.arg.get 0 0)) && decide (twIdx (o.arg.get 0 0) < lo + n)
  mine.foldl (fun s o => s.tagStep o.id) s

/-- The waits of a context's waves in a package on an index. -/
def State.tagWake (s : State) (ctx pkg idx : Nat) : State :=
  let mine := s.ops.filter fun o => o.ctx == ctx && o.left == 1 && twIdx (o.arg.get 0 0) == idx && o.arg.get 0 1 == 0#64
    && (match o.ins with | .tagwait w => !w.try_ | _ => false)
    && (match s.wave? o.wave with | some w => w.core.pkg == pkg | none => false)
  mine.foldl (fun s o => s.tagStep o.id) s

/-- A publication meets one Cassette (R325, R355): the newer-generation rule, then waits and placed blocks are compared again. Log entry 36. -/
def State.tagApply (s : State) (c : Ctx) (pkg : Nat) (t : TagPub) : State :=
  let e := c.tagBase + t.idx
  let s := if tagNewer t.gen (s.tagGet c pkg e).1 then s.tagPut c pkg e (t.gen, t.sco) else s
  (s.tagWake t.ctx pkg t.idx).kickStarts t.ctx

/-- TAG_PUBLICATION_APPLY (R325): one TAGPUB event; under fallback no entry is written. A dead context publishes nothing (R140). -/
def execTagPublicationApply (t : TagPub) (s : State) : Out :=
  .next (match s.ctx? t.ctx with
    | none => s
    | some c =>
      if c.life != .live && c.life != .stopping then s
      else
        let lp := c.logical t.src
        let fb := match c.launch? t.who.blk.launch with | some l => l.fallback | none => false
        let perform := fun (s : State) =>
          let s := if fb then s else (s.tagApply c t.src t).due ((c.pkgs.filter fun p => p != t.src).map fun p => .tagForward p t)
          (s, BitVec.ofNat 64 (t.idx + t.gen * 2 ^ 18 + fb.toNat * 2 ^ 63))
        s.atPoint (s.waveEv lp (optId 8 lp 0 0) 0x05 t.who 0 t.ord) (.tagPublicationApply t) perform)

/-- TAG_FORWARD (R355). -/
def execTagForward (pkg : Nat) (t : TagPub) (s : State) : Out :=
  if (s.pkg? pkg).isNone then .fault .noSuchUnit
  else .next (match s.ctx? t.ctx with
    | none => s
    | some c => if c.life == .live || c.life == .stopping then s.tagApply c pkg t else s)

/-! ## Deques (R174, R175) -/

/-- DEQUE_REFILL (R174): below 32 records the oldest record of the package's rings whose context has work on the worker core goes to the
tail. -/
def execDequeRefill (c : CoreId) (s : State) : Out :=
  match s.core? c with
  | none => .fault .noSuchUnit
  | some k =>
    .next (
      if !worker c || k.deque.length ≥ 32 then s
      else match s.pkg? c.pkg with
        | none => s
        | some p =>
          match p.ovfl.find? fun t => s.hasWork k t.ctx with
          | none => s
          | some t =>
            let s := s.modPkg c.pkg fun p => { p with ovfl := delFirst (fun x => decide (x = t)) p.ovfl }
            let s := (s.modCore c fun k => { k with deque := k.deque ++ [t] }).due [.dequeRefill c]
            (s.kickTask c).retryReady c.pkg)

/-- R130, R132, R173: readiness is an acquire, on the core that runs the task, at each counter's scope and at that of a copy that arrived
there. Log entry 34. -/
def State.readyBump (s : State) (c : CoreId) (t : TaskRec) : State :=
  t.ctrs.foldl (fun s k =>
    let s := match decodeScope (BitVec.ofNat 3 k.2.1) with | some sc => s.acquireBump t.ctx c sc | none => s
    match s.locate t.ctx (vaOf k.1) 8 .load with
    | some (h, ia) => (match s.copySco.get 0 (iaKey h ia) with
        | 0 => s
        | n + 1 => match decodeScope (BitVec.ofNat 3 n) with | some sc => s.acquireBump t.ctx c sc | none => s)
    | none => s) s

/-- A record of a context that waits in a package: in a deque, in the ring, or parked for want of room. -/
def State.waitingTask (s : State) (c : Ctx) (pkg serial : Nat) : Option TaskRec :=
  let deques := (s.cores.filter fun k => k.id.pkg == pkg).flatMap fun k => k.deque
  let ring := match s.pkg? pkg with | some p => p.ovfl | none => []
  let parked := (c.parked.filter fun p => p.core.pkg == pkg && p.ctr == p.task.ctrs.length).map fun p => p.task
  (deques ++ ring ++ parked).find? fun t => t.ctx == c.id && t.serial == serial

/-- A record leaves the place it waits in. -/
def State.takeTask (s : State) (pkg : Nat) (t : TaskRec) : State :=
  let core := fun (k : Core) => if k.id.pkg = pkg then { k with deque := delFirst (fun x => decide (x = t)) k.deque } else k
  (({ s with cores := s.cores.map core }).modPkg pkg fun p => { p with ovfl := delFirst (fun x => decide (x = t)) p.ovfl }).modCtx t.ctx fun c =>
    { c with parked := c.parked.filter fun p => !decide (p.task = t) }

/-- A task starts on a core (R174, R176): an acquire at .die and at its counters' scopes; instruction fetch sees the code stored before
(R225). Log entry 30. -/
def State.startTask (s : State) (c : CoreId) (t : TaskRec) (l : Launch) (quad : Nat) : State :=
  let id : BlkId := ⟨t.ctx, true, t.launch, t.serial⟩
  let w := TaskRecWave t l id c quad
  let b : Blk :=
    { Blk.fresh id with
      state := .running, core := c, dims := w.dims, cap := t.rcap, size := t.sgr * 4096, task := some t, entry := t.entry,
      intervals := (l.intervals t.root).filter fun i => !i.perblk, key := (0, c.die), at_ := (c.pkg, c.die) }
  let s := s.schedule t.ctx
  let s := { s.takeTask c.pkg t with blks := s.blks ++ [b], waves := s.waves ++ [w], seq := s.seq + 1 }
  ((s.modCore c fun k => { k with iseq := s.seq }).acquireBump t.ctx c .die).readyBump c t

def regionOf (c : CoreId) : Nat := c.core / 8

/-- R350: the core's region drains for the cluster at the head of its die's list. Log entry 62. -/
def State.drains (s : State) (c : CoreId) : Bool := match s.die? c.pkg c.die with | some d => d.drain == some (regionOf c) | none => false

/-- A task whose start its core's resources, its region and its context allow, and the quadrant it takes. -/
def State.startable (s : State) (c : CoreId) (t : TaskRec) : Option (Launch × Nat) :=
  match s.ctx? t.ctx with
  | none => none
  | some x =>
    if !worker c || !x.places c.pkg || s.drains c || !s.placeOk x c true t.serial then none
    else match x.launch? t.launch, s.fits c t.rcap 1 (t.sgr * 4096) with
      | some l, some [q] => some (l, q)
      | _, _ => none

/-- R175: the victims of a core, in order. Log entry 35. -/
def victims (c : CoreId) : List Nat :=
  let r := c.core / 8
  ((List.range 7).map fun i => 8 * r + (c.core % 8 + 1 + i) % 8)
  ++ (List.range 5).flatMap fun g => (List.range 8).map fun i => 8 * ((r + 1 + g) % 6) + i

/-- R175: what a core with an empty deque would steal: its tail record of a victim, and the STEAL event's package and payload. What a
replaying context's deques hold is stolen as its log says alone (R152). Log entry 35. -/
def State.stealPick (s : State) (c : CoreId) : Option (TaskRec × Nat × W64) :=
  let pick := fun (v : Nat) =>
    match (s.core? ⟨c.pkg, c.die, v⟩).bind fun x => x.deque.getLast? with
    | none => none
    | some t => match s.ctx? t.ctx with
      | none => none
      | some x =>
        let lp := x.logical c.pkg
        let pay := BitVec.ofNat 64 (optId 5 lp c.die v + 2 ^ 32)
        if worker c && !x.replays && (s.fits c t.rcap 1 (t.sgr * 4096)).isSome then some (t, lp, pay) else none
  (victims c).findSome? pick

/-- R152, R157: in replay, the steal whose STEAL record is next at the thief's deque: the record it names, wherever the package holds it, for
no log says which tasks were in which deque before. DEDUCED (log entry 35). -/
def State.stealLogged (s : State) (c : CoreId) : Option (TaskRec × Nat × W64) :=
  s.ctxs.findSome? fun x =>
    let lp := x.logical c.pkg
    match (if x.replays && x.dies.any (fun d => d.2.1 == c.pkg && d.2.2 == c.die) then s.nextRec x lp (optId 5 lp c.die c.core) else none) with
    | some r => if recTyp r == 0x09 && recTk r then (s.waitingTask x c.pkg (recIid r)).map fun t => (t, lp, recPay r) else none
    | none => none

/-- The first idle core of a die that can steal tries it. Log entry 35. -/
def State.kickThief (s : State) (pkg die : Nat) : State :=
  s.askThief pkg die fun c => (s.stealPick c).isSome

/-- A record whose start waits in replay for its PLACE record (R152). -/
def State.startWaits (s : State) (c : CoreId) (t : TaskRec) : Option LogEv :=
  match s.ctx? t.ctx with
  | none => none
  | some x =>
    if x.replays && x.places c.pkg && !s.placeOk x c true t.serial && (s.fits c t.rcap 1 (t.sgr * 4096)).isSome then
      some (s.blkEv (x.logical c.pkg) (optId 6 (x.logical c.pkg) c.die 0) 0x08 ⟨t.ctx, true, t.launch, t.serial⟩ 0)
    else none

/-- R152: in replay, the task that the PLACE record next at the die names for this core, wherever the package holds it. DEDUCED (log entry
35). -/
def State.startLogged (s : State) (c : CoreId) : Option TaskRec :=
  s.ctxs.findSome? fun x =>
    let lp := x.logical c.pkg
    match (if x.replays then s.nextRec x lp (optId 6 lp c.die 0) else none) with
    | some r => if recTyp r == 0x08 && recTk r && (recPay r).toNat % 64 == c.core then s.waitingTask x c.pkg (recIid r) else none
    | none => none

/-- The task a core starts next: one the log names, else the first of the four records nearest the head that fits (R152, R174). -/
def State.taskFor (s : State) (c : CoreId) (k : Core) : Option (TaskRec × Launch × Nat) :=
  let one := fun (t : TaskRec) => (s.startable c t).map fun x => (t, x)
  ((s.startLogged c).bind one).or ((k.deque.take 4).findSome? one)

/-- TASK_START (R174). Log entry 34. -/
def execTaskStart (c : CoreId) (s : State) : Out :=
  match s.core? c with
  | none => .fault .noSuchUnit
  | some k =>
    .next (
      match s.taskFor c k with
      | none =>
        ((match k.deque.findSome? (s.startWaits c) with
         | some e => s.placeWait e (.taskStart c)
         | none => s).kickRefill c).kickThief c.pkg c.die
      | some (t, l, q) =>
        let lp := match s.ctx? t.ctx with | some x => x.logical c.pkg | none => 0
        let perform := fun (s : State) =>
          ((((s.startTask c t l q).kickRefills c.pkg).kickTask c).retryReady c.pkg, BitVec.ofNat 64 c.core)
        s.atPoint (s.blkEv lp (optId 6 lp c.die 0) 0x08 ⟨t.ctx, true, t.launch, t.serial⟩ 0) (.taskStart c) perform)

/-- TASK_STEAL (R175): the tail record of the first victim whose tail fits, for a thief with an empty deque, or the steal the log names; one
STEAL event of the thief's deque. Log entry 35. -/
def execTaskSteal (c : CoreId) (s : State) : Out :=
  match s.core? c with
  | none => .fault .noSuchUnit
  | some k =>
    .next (
      match (if k.deque.length < 64 then s.stealLogged c else none).or (if k.deque.isEmpty then s.stealPick c else none) with
      | none => s.kickThief c.pkg c.die
      | some (t, lp, pay) =>
        let perform := fun (s : State) =>
          let s := (s.takeTask c.pkg t).modCore c fun x => { x with deque := t :: x.deque }
          ((((s.kickTask c).kickRefills c.pkg).retryReady c.pkg).kickThief c.pkg c.die, pay)
        let ev := { s.blkEv lp (optId 5 lp c.die c.core) 0x09 ⟨t.ctx, true, t.launch, t.serial⟩ pay with pay := pay }
        s.atPoint ev (.taskSteal c) perform)

/-! ## Triggered work (R357) -/

/-- Work recorded while the context was off a package fires: an event becomes due, a ready task is pushed. -/
def State.fireTrig (s : State) (ctx : Nat) (t : Trig) : State :=
  match t with
  | .event e => s.due [e]
  | .ready n => (match (s.ctx? ctx).bind fun c => c.parked.find? fun p => p.task.serial == n with | some p => s.readyTask p | none => s)

/-- TRIGGERED_WORK_FIRE: the work recorded while the context was off the package fires, in the order of its triggers. -/
def execTriggeredWorkFire (ctx pkg : Nat) (s : State) : Out :=
  .next (match s.ctx? ctx with
    | none => s
    | some c =>
      if c.off.contains pkg then s
      else
        let mine := (c.trig.filter fun t => t.1 == pkg).map (·.2)
        mine.foldl (fun s t => s.fireTrig ctx t) (s.modCtx ctx fun c => { c with trig := c.trig.filter fun t => t.1 != pkg }))

end Sys2Proof.Machine
end

