-- ==== Sys2Proof/Machine/Homes.lean ====
section
/-! DEFINITION. Home commands, page requests, migration, unmap and eviction, row retirement (spec/03_translation_tiers.md R56 to R77) and
leases at their homes (spec/02_address_spaces.md R53 to R55). -/

namespace Sys2Proof.Machine

/-! ## A function's partition and rings (R47, R64, R66, R67, R383, R387) -/

/-- The packages of a function's die mask, in ascending ID: logical index k is the k-th. -/
def Fn.members (f : Fn) : List Nat := (List.range 144).filter fun p => f.fpart.extractLsb' (4 * p) 4 != 0#4

/-- R47: the package the home map names for a member of the mask. -/
def Fn.phys (f : Fn) (p : Nat) : Nat := match f.hmap.find? fun x => x.1 == p with | some x => x.2 | none => p

def Fn.pkgs (f : Fn) : List Nat := f.members.map f.phys

/-- A function's dies: logical package, package, die, in slot order. -/
def Fn.dies (f : Fn) : List (Nat × Nat × Nat) :=
  f.members.zipIdx.flatMap fun p => ((List.range 4).filter fun d => f.fpart.getLsbD (4 * p.1 + d)).map fun d => (p.2, f.phys p.1, d)

def Fn.logical (f : Fn) (pkg : Nat) : Nat := match f.dies.find? fun d => d.2.1 == pkg with | some d => d.1 | none => 0

/-- IA and log2 of a ring register. -/
def ringIa (v : W64) : Nat := (v.extractLsb' 12 44).toNat * 4096
def ringLog (v : W64) : Nat := (v.extractLsb' 0 5).toNat

/-- R383: a ring has 2^4 to 2^16 entries; a register that gives another size, as at reset, gives no ring. DESIGN CHOICE (log entry 111). -/
def ringOn (v : W64) : Bool := decide (4 ≤ ringLog v) && decide (ringLog v ≤ 16)

/-- A record at the producer index of a ring; none where it is full, or gives no ring. One whose slot has no frame is lost, and the index
goes on. Log entries 94, 111. -/
def State.ringPut (s : State) (fn : Nat) (reg pi ci : W64) (ws : List W64) : Option State :=
  let n := ringLog reg
  if ringOn reg && decide (pi.toNat - ci.toNat < 2 ^ n) then
    some ((s.devWrite fn (ringIa reg + 32 * (pi.toNat % 2 ^ n)) (bytesOf ws)).getD s)
  else none

/-- Page-request records posted in order while there is room (R67). -/
def State.prqFlush (s : State) (n fn : Nat) : State :=
  match n with
  | 0 => s
  | k + 1 => match s.fn? fn with
    | none => s
    | some f => match f.prqWait with
      | [] => s
      | ws :: rest => match s.ringPut fn f.prq f.prqpi f.prqci ws with
        | some t => (t.modFn fn fun f => { f with prqpi := f.prqpi + 1, prqWait := rest }).prqFlush k fn
        | none => s

def State.prqPost (s : State) (fn : Nat) (ws : List W64) : State :=
  (s.modFn fn fun f => { f with prqWait := f.prqWait ++ [ws] }).prqFlush 65537 fn

/-- Completion records, likewise (R66). DESIGN CHOICE (log entry 104): the spec lets the records of the page-request ring wait for space, and
says nothing of a full completion ring. -/
def State.hccFlush (s : State) (n fn : Nat) : State :=
  match n with
  | 0 => s
  | k + 1 => match s.fn? fn with
    | none => s
    | some f => match f.hccWait with
      | [] => s
      | ws :: rest => match s.ringPut fn f.hcc f.hccpi f.hccci ws with
        | some t => (t.modFn fn fun f => { f with hccpi := f.hccpi + 1, hccWait := rest }).hccFlush k fn
        | none => s

/-- R66: the completion record of a command. -/
def State.cmdEnd (s : State) (c : HomeCmd) (status count : Nat) (frame : W64) : State :=
  let ws := [c.tag, BitVec.ofNat 64 (status + count % 2 ^ 16 * 2 ^ 16), frame, 0]
  (s.modFn c.fn fun f => { f with hccWait := f.hccWait ++ [ws] }).hccFlush 65537 c.fn

/-! ## Frame words (R57, R59) -/

def frLoc (w : W64) : Nat := (w.extractLsb' 0 2).toNat
def frAddr (w : W64) : Nat := (w.extractLsb' 16 40).toNat * 2 ^ 16

/-- R57: the reserved bits of a frame word are zero. -/
def frRsvd (w : W64) : Bool := w.extractLsb' 3 13 != 0#13 || w.extractLsb' 56 8 != 0#8

/-- R59: a frame word's address for a page at a home: in its stack, in its package's CXL window, or a host address. -/
def State.frameOk (s : State) (h : HomeId) (w : W64) (ia : Nat) : Bool :=
  let a := frAddr w
  let cxl := match s.pkg? h.pkg with | some p => p.cxl | none => 0
  a % pageSize ia == 0
  && (match frLoc w with
    | 0 => a == 0
    | 1 => decide (a + pageSize ia ≤ 2 ^ 36)
    | 2 => decide (a + pageSize ia ≤ min cxl (2 ^ 42))
    | _ => true)

/-- The w0 of an entry. -/
def Entry.frame (e : Entry) : W64 := BitVec.ofNat 64 (e.loc + e.shr.toNat * 4 + e.faddr)

/-- The 32 bytes of an entry (R57). -/
def Entry.words (e : Entry) : List W64 :=
  [e.frame, BitVec.ofNat 64 (e.acc + e.d.toNat * 2 ^ 4 + e.rpf * 2 ^ 5 + e.mst * 2 ^ 61),
   BitVec.ofNat 64 (e.owner + e.lcnt * 2 ^ 16 + e.heat * 2 ^ 32), e.swc]

/-! ## Commands in their order (R64) -/

/-- The home command of an event. -/
def homeCmdOf (i : Instr) : Option HomeCmd :=
  match i with
  | .map c | .unmap c | .fill c | .refuse c | .evict c | .migrate c | .heatread c | .probe c | .resetacc c | .badcmdOpcode c => some c
  | _ => none

/-- The home a command names. -/
def State.cmdHome (s : State) (c : HomeCmd) : HomeId :=
  match s.fn? c.fn with
  | some f => ⟨(f.pkgs[c.hpkg]?).getD 0, c.hstk⟩
  | none => ⟨0, c.hstk⟩

/-- R64, R65: the frame words a command uses. -/
def cmdFrames (c : HomeCmd) : List W64 :=
  match c.op with | 1 | 6 => [c.fra] | 3 => if c.zero then [c.fra] else [c.fra, c.frb] | _ => []

/-- R66: BADCMD for a field that breaks R64 or a reserved bit, DENIED for a context or home that is not the function's, in this order.
Log entries 52, 95. -/
def State.cmdBad (s : State) (c : HomeCmd) : Option Nat :=
  let part := match s.fn? c.fn with | some f => f.dies.any fun d => d.1 == c.hpkg && d.2.2 == c.hstk / 4 | none => false
  if c.rsvd || (cmdFrames c).any frRsvd || c.ia % pageSize c.ia != 0 || (if c.op = 7 then c.cnt == 0 else c.cnt != 1) then some 11
  else if fnOf c.ctx ≠ c.fn || !part || (s.home? (s.cmdHome c)).isNone then some 10
  else none

/-- The bytes of IA a command names, from its first page on. Log entry 53. -/
def cmdMeets (c d : HomeCmd) : Bool :=
  decide (c.ia < d.ia + max 1 d.cnt * pageSize d.ia) && decide (d.ia < c.ia + max 1 c.cnt * pageSize c.ia)
  && (c.op == 7 || d.op == 7 || (d.hstk == c.hstk && d.hpkg == c.hpkg))

/-- R64: an older command of the function for one of its pages has not been run, a MIGRATE that waits for a slot among them. Log entry 53. -/
def State.cmdBehind (s : State) (c : HomeCmd) : Bool :=
  ((s.pending ++ s.pageops.flatMap fun p => p.behind).filterMap homeCmdOf
    ++ (s.pageops.filter fun p => p.wait).filterMap fun p => p.cmd).any fun d =>
      d.fn == c.fn && decide (d.seq < c.seq) && cmdMeets d c

def State.pageop? (s : State) (h : HomeId) (ia : Nat) : Option PageOp := s.pageops.find? fun p => decide (p.home = h) && p.ia == pageOf ia
def State.modPageop (s : State) (h : HomeId) (ia : Nat) (f : PageOp → PageOp) : State :=
  { s with pageops := updFirst (fun p => decide (p.home = h) && p.ia == pageOf ia) f s.pageops }
def State.dropPageop (s : State) (h : HomeId) (ia : Nat) : State :=
  { s with pageops := delFirst (fun p => decide (p.home = h) && p.ia == pageOf ia) s.pageops }

def PageOp.fresh (h : HomeId) (ia : Nat) (cmd : Option HomeCmd) : PageOp :=
  { home := h, ia := pageOf ia, cmd := cmd, copy := none, wait := false, acks := [], shoot := none, held := [], reqs := [], behind := [], back := [] }

/-- A command that passes R64's checks, at its turn: `f` runs it at its home. Log entries 53, 95. -/
def State.runCmd (s : State) (ev : Instr) (c : HomeCmd) (f : State → HomeId → State) : State :=
  let h := s.cmdHome c
  if s.cmdBehind c then s.due [ev]
  else match s.cmdBad c with
    | some st => s.cmdEnd c st 0 0
    | none => f s h

/-- The entry a command acts on: one of its context. Log entry 52. -/
def State.cmdEntry (s : State) (c : HomeCmd) (h : HomeId) : Option Entry :=
  match s.entry? h c.ia with | some e => if e.owner = c.ctx then some e else none | none => none

/-! ## Leases (R53 to R55, R60, R70) -/

/-- R67: the record that asks for a page. -/
def State.pageRequest (s : State) (e : Entry) : State :=
  let fn := fnOf e.owner
  let lp := match s.fn? fn with | some f => f.logical e.home.pkg | none => 0
  s.prqPost fn [BitVec.ofNat 64 e.ia, e.swc, BitVec.ofNat 64 (e.owner + e.home.stack * 2 ^ 16 + lp * 2 ^ 20 + 2 ^ 32), 0]

/-- R67 step 1: an absent page starts to fill, with the requests it holds. -/
def State.startFill (s : State) (e : Entry) (held : List LeaseReq) : State :=
  let s := s.modEntry e.home e.ia fun e => { e with mst := 2 }
  ({ s with pageops := s.pageops ++ [{ PageOp.fresh e.home e.ia none with held := held }] }).pageRequest e

/-- What a lease request finds at one page. -/
inductive LeaseLook where
  | grant | refuse | hold | absent
  deriving DecidableEq, Repr

def State.leaseLook (s : State) (l : LeaseReq) (ia : Nat) : LeaseLook :=
  match s.entry? l.home ia with
  | none => .refuse
  | some e =>
    if !e.serves l.blk.ctx then .refuse
    else match e.mst with
      | 2 | 4 => .hold
      | 3 => .refuse
      | 5 => (match s.pageop? l.home ia with | some p => if p.shoot = some .unmap then .refuse else .hold | none => .hold)
      | _ => if e.loc = 0 then .absent else .grant

/-- The pins a request needs at its home. -/
def State.newPins (s : State) (l : LeaseReq) : Nat :=
  (l.pages.filter fun p => match s.entry? l.home p with | some e => e.lcnt == 0 | none => false).length

/-- The pins one block's own intervals need at a home (R60). -/
def State.blkPins (s : State) (l : LeaseReq) : Nat :=
  let mine := match s.blk? l.blk with | some b => (b.leases ++ b.wanted ++ [l]).filter fun (x : LeaseReq) => decide (x.home = l.home) | none => [l]
  (mine.flatMap fun (x : LeaseReq) => x.pages).dedup.length

/-- R53: every page is pinned and counted. -/
def State.leaseGrant (s : State) (l : LeaseReq) : State :=
  let n := s.newPins l
  let s := l.pages.foldl (fun s p => s.modEntry l.home p fun e => { e with lcnt := min (e.lcnt + 1) 65535 }) s
  (s.modHome l.home fun h => { h with pins := h.pins + n }).due [.leaseGrantReceived l]

/-- R340: a hint starts the fill of absent pages and holds nothing. Log entry 54. -/
def State.leaseHintAt (s : State) (l : LeaseReq) : State :=
  l.pages.foldl (fun s p => match s.entry? l.home p with
    | some e => if s.leaseLook l p = .absent then s.startFill e [] else s
    | none => s) s

/-- A page that is absent, or that holds the request: the request waits there. Log entry 54. -/
def State.leaseWait (s : State) (l : LeaseReq) (p : Nat) : State :=
  match s.leaseLook l p with
  | .absent => (match s.entry? l.home p with | some e => s.startFill e [l] | none => s)
  | _ => (match s.pageop? l.home p with
    | some _ => s.modPageop l.home p fun x => { x with held := x.held ++ [l] }
    | none => s)

/-- What a home answers a lease request (R53, R60, R70). Log entry 54. -/
def State.leaseAsk (s : State) (l : LeaseReq) : State :=
  match s.home? l.home with
  | none => s
  | some h =>
    let ps := l.pages
    if h.dead.contains l.blk.ctx then s
    else if l.hint then s.leaseHintAt l
    else if ps.any (fun p => s.leaseLook l p == .refuse) || decide (s.blkPins l > pinMax) then s.due [.leaseRefused l]
    else match ps.find? fun p => s.leaseLook l p != .grant with
      | some p => s.leaseWait l p
      | none =>
        if h.pins + s.newPins l > pinMax then s.modHome l.home fun h => { h with queue := h.queue ++ [l] }
        else s.leaseGrant l

/-- LEASE_REQUEST. Log entries 9, 54. -/
def execLeaseRequest (l : LeaseReq) (s : State) : Out :=
  if (s.home? l.home).isNone then .fault .noSuchUnit else .next (s.leaseAsk l)

/-- LEASE_GRANT_RECEIVED (R53): the block may start once every home has granted; a grant for a block that is gone is released. -/
def execLeaseGrantReceived (l : LeaseReq) (s : State) : Out :=
  .next (match s.blk? l.blk with
    | none => s.due [.leaseRelease l]
    | some b =>
      if !b.wanted.contains l then s.due [.leaseRelease l]
      else
        let take := fun (b : Blk) => { b with wanted := delFirst (fun x => decide (x = l)) b.wanted, leases := b.leases ++ [l] }
        let s := s.modBlk l.blk take
        if b.wanted.length = 1 then s.due [if b.state = .saved then .blockRestore b.id b.core else .blockStart b.id] else s)

/-- LEASE_REFUSED (R55): at placement the launch fails; at restore the block takes a fatal lease fault. The refused VA of the record is the
interval's first, as a 57-bit number. DESIGN CHOICE (log entry 101). Log entry 43. -/
def execLeaseRefused (l : LeaseReq) (s : State) : Out :=
  .next (match s.blk? l.blk with
    | none => s
    | some b =>
      let ls := s.lserOf b.id
      if b.state = .saved then
        let r := { ctxRecord 0x16 1 (BitVec.ofNat 64 l.va) 0 0 ls with iid := b.id.idx, tk := b.id.task, pkg := l.pkg, die := l.die }
        let kill := fun (b : Blk) => { b with failed := true, image := [], images := [], cmds := b.cmds.map Cmd.cancel, wanted := [] }
        let s := b.fate.foldl (fun s i => s.modBlk i kill) (s.due [.trapRecordPost b.id.ctx r])
        let s := if b.id.task then s else s.modCtx b.id.ctx fun c => c.modLaunch b.id.launch fun l => { l with bad := true }
        b.fate.foldl State.endBlk s
      else if b.state = .placed then
        (s.due [.trapRecordPost b.id.ctx { ctxRecord 0x16 0 (BitVec.ofNat 64 l.va) 0 0 ls with pkg := l.pkg, die := l.die }]).failLaunch b.id.ctx b.id.launch
      else s)

/-! ## Shoot-downs (R62) -/

/-- The dies a page flush goes to. -/
def State.flushDies (s : State) (e : Entry) : List (Nat × Nat) :=
  (s.dies.filter fun d =>
    (d.pkg == e.home.pkg && (d.die == e.home.stack / 4 || e.acc.testBit d.die))
    || (d.pkg != e.home.pkg && e.rpf.testBit (d.pkg % 56))).map fun d => (d.pkg, d.die)

/-- R62 steps 1 and 2. -/
def State.shoot (s : State) (e : Entry) (cmd : Option HomeCmd) (for_ : ShootFor) : State :=
  let acks := s.flushDies e
  let s := s.modEntry e.home e.ia fun e => { e with mst := 5 }
  let s := match s.pageop? e.home e.ia with
    | some _ => s.modPageop e.home e.ia fun p => { p with cmd := cmd, acks := acks, shoot := some for_ }
    | none => { s with pageops := s.pageops ++ [{ PageOp.fresh e.home e.ia cmd with acks := acks, shoot := some for_ }] }
  s.due (acks.map fun d => .pageFlush e.home e.ia d.1 d.2)

/-- R71 step 1: the deferral while leases are held, else the shoot-down. -/
def State.unmapOrEvict (s : State) (e : Entry) (c : HomeCmd) (for_ : ShootFor) : State :=
  if e.lcnt = 0 then s.shoot e (some c) for_
  else
    let s := s.modEntry e.home e.ia fun e => { e with mst := if for_ = .unmap then 3 else 4 }
    match s.pageop? e.home e.ia with
    | some _ => s.modPageop e.home e.ia fun p => { p with cmd := some c }
    | none => { s with pageops := s.pageops ++ [PageOp.fresh e.home e.ia (some c)] }

/-- What a page operation held goes on: its lease requests are answered, accesses and commands run, counters are read (R62, R67, R71).
Log entry 54. -/
def State.resumePage (s : State) (p : PageOp) : State :=
  ((p.held.foldl State.leaseAsk s).due ((p.reqs.map fun r => r.atHome) ++ p.behind)).retryHeld

/-- R71: the sectors of a frame that was reused before the shoot-down ended hold the new data or the old page's: a free choice for each.
Log entry 91. -/
def State.landBack (s : State) (l : List (Nat × List Byte)) : State :=
  let x := s.pick (l.map (·.1))
  l.foldl (fun s b => if x.1.contains b.1 then s.memWrite b.1 b.2 else s) x.2

/-- R146: a page of a context's order-log ring has been migrated or evicted: its package logs no more. -/
def State.ringMoved (s : State) (e : Entry) : State :=
  s.ctxs.foldl (fun s c => c.rings.foldl (fun s r =>
    if fnOf c.id = fnOf e.owner ∧ c.life = .live ∧ !r.lost ∧ r.base < e.ia + pageSize e.ia ∧ e.ia < r.base + 32 * 2 ^ r.lrsz then
      s.logLost c r.lpkg (max r.base e.ia)
    else s) s) s

/-- R385: a page of a context's save areas has been migrated or evicted: a save or restore that meets it fails. Log entry 66. -/
def State.saveMoved (s : State) (e : Entry) : State :=
  let meets := fun (c : Ctx) => fnOf c.id == fnOf e.owner && c.life != .dead
    && decide (c.save < e.ia + pageSize e.ia) && decide (e.ia < c.save + 4096 * c.svsz * c.pkgs.length)
  { s with ctxs := s.ctxs.map fun c => if meets c then { c with moved := c.moved ++ [e.ia] } else c }

/-- The end of a shoot-down (R62 step 4, R71 steps 3 and 4). Log entry 91. -/
def State.shootEnd (s : State) (p : PageOp) (e : Entry) : State :=
  let clean : Entry → Entry := fun e => { e with acc := 0, d := false, rpf := 0, mst := 0 }
  let done := fun (s : State) (w : W64) => match p.cmd with | some c => s.cmdEnd c 0 1 w | none => s
  let s := (s.dropPageop p.home p.ia).landBack p.back
  let s := if p.shoot = some .resetacc then s else s.ringMoved e
  let s := if p.shoot = some .evict then s.saveMoved e else s
  let s := match p.shoot with
    | some .unmap => done { s with entries := s.entries.filter fun x => !(decide (x.home = p.home) && x.ia == p.ia) } e.frame
    | some .evict => done (s.modEntry p.home p.ia fun e => { clean e with loc := 0, faddr := 0 }) e.frame
    | _ => done (s.modEntry p.home p.ia clean) 0
  s.resumePage p

/-- PAGE_FLUSH (R62 step 3): the die drops every copy and pin of the page. Log entry 9. -/
def execPageFlush (h : HomeId) (ia pkg die : Nat) (s : State) : Out :=
  match s.die? pkg die with
  | none => .fault .noSuchUnit
  | some _ =>
    .next (match s.pageop? h ia with
      | none => s
      | some p =>
        if !p.acks.contains (pkg, die) then s
        else
          let inPage := fun (a : Nat) => pageOf a == pageOf ia
          let core := fun (c : Core) => if c.id.pkg = pkg ∧ c.id.die = die then { c with l1 := c.l1.filter fun x => !inPage x.ia } else c
          let drop := fun (d : Die) =>
            { d with
              l2 := d.l2.filter fun x => !inPage x.ia
              pins := d.pins.filter fun x => !inPage x.1
              migs := d.migs.filter fun m => !inPage m.ia
              fwd := d.fwd.filter fun f => !inPage f.1 }
          ({ s with cores := s.cores.map core }.modDie pkg die drop).due [.shootDownAck h ia pkg die])

/-- SHOOT_DOWN_ACK (R62). -/
def execShootDownAck (h : HomeId) (ia pkg die : Nat) (s : State) : Out :=
  .next (match s.pageop? h ia, s.entry? h ia with
    | some p, some e =>
      if !p.acks.contains (pkg, die) then s
      else
        let rest := p.acks.filter fun d => d != (pkg, die)
        let s := s.modPageop h ia fun p => { p with acks := rest }
        if rest.isEmpty then s.shootEnd { p with acks := [] } e else s
    | _, _ => s)

/-! ## LEASE_RELEASE (R53, R54) -/

/-- One page of a release. -/
def State.releasePage (s : State) (h : HomeId) (ia : Nat) : State :=
  match s.entry? h ia with
  | none => s
  | some e =>
    if e.lcnt = 0 || e.lcnt = 65535 then s
    else
      let s := s.modEntry h ia fun e => { e with lcnt := e.lcnt - 1 }
      if e.lcnt ≠ 1 then s
      else
        let q := match s.home? h with | some x => x.queue | none => []
        let s := (s.modHome h fun x => { x with pins := x.pins - 1, queue := [] }).due (q.map fun l => .leaseRequest l)
        match s.pageop? h ia, e.mst with
        | some p, 3 => s.shoot { e with lcnt := 0 } p.cmd .unmap
        | some p, 4 => s.shoot { e with lcnt := 0 } p.cmd .evict
        | _, _ => s

/-- LEASE_RELEASE: counts fall, pins free, deferred unmaps run. -/
def execLeaseRelease (l : LeaseReq) (s : State) : Out :=
  if (s.home? l.home).isNone then .fault .noSuchUnit
  else .next (l.pages.foldl (fun s p => s.releasePage l.home p) s)

/-! ## The commands (R65) -/

/-- HOME_COMMAND_DOORBELL (R64): one descriptor, parsed. -/
def parseHomeCmd (fn seq : Nat) (bs : List Byte) : HomeCmd :=
  let w := fun i => leVal ((bs.drop (8 * i)).take 8)
  let b := fun i lo n => w i / 2 ^ lo % 2 ^ n
  { fn := fn, op := b 0 0 8, zero := b 0 8 1 == 1, halve := b 0 9 1 == 1, clr := b 0 10 1 == 1, shr := b 0 11 1 == 1,
    rsvd := b 0 12 4 != 0 || b 0 60 4 != 0 || b 1 56 8 != 0 || w 6 != 0 || w 7 != 0,
    ctx := b 0 16 16, cnt := b 0 32 16, hstk := b 0 48 4, hpkg := b 0 52 8, ia := b 1 0 56,
    fra := BitVec.ofNat 64 (w 2), frb := BitVec.ofNat 64 (w 3), swc := BitVec.ofNat 64 (w 4), tag := BitVec.ofNat 64 (w 5), seq := seq }

def homeCmdEvent (c : HomeCmd) : Instr :=
  match c.op with
  | 1 => .map c | 2 => .unmap c | 3 => .fill c | 4 => .refuse c | 5 => .evict c | 6 => .migrate c | 7 => .heatread c | 8 => .probe c
  | 9 => .resetacc c
  | _ => .badcmdOpcode c

/-- HOME_COMMAND_DOORBELL (R64): the Hub takes the descriptors up to the producer index and delivers each; one in a page without a frame
reads as zero bytes. Log entries 94, 111. -/
def execHomeCommandDoorbell (fn pi : Nat) (s : State) : Out :=
  match s.fn? fn with
  | none => .fault .noSuchUnit
  | some f =>
    .next (
      let n := ringLog f.hcq
      let ci := f.hcqci.toNat
      let evs := (List.range (if ringOn f.hcq then min (pi - ci) (2 ^ n) else 0)).map fun i =>
        homeCmdEvent (parseHomeCmd fn (ci + i) ((s.devRead fn (ringIa f.hcq + 64 * ((ci + i) % 2 ^ n)) 64).getD []))
      if evs.isEmpty || !s.devHeld fn (ringIa f.hcq) (64 * 2 ^ n) then
        (s.modFn fn fun f => { f with hcqpi := BitVec.ofNat 64 (max f.hcqpi.toNat pi), hcqci := BitVec.ofNat 64 (ci + evs.length) }).due evs
      else s.due [.homeCommandDoorbell fn pi])

/-- MAP (R65). Log entries 52, 54, 95. -/
def execMap (c : HomeCmd) (s : State) : Out :=
  .next (s.runCmd (.map c) c fun s h =>
    if (s.entry? h c.ia).isSome then s.cmdEnd c 2 0 0
    else if !s.frameOk h c.fra c.ia then s.cmdEnd c 5 0 0
    else if (s.entries.filter fun e => decide (e.home = h)).length ≥ (match s.home? h with | some x => x.cap | none => 0) then s.cmdEnd c 6 0 0
    else
      let e : Entry :=
        { home := h, ia := c.ia, loc := frLoc c.fra, shr := c.fra.getLsbD 2, faddr := frAddr c.fra, acc := 0, d := false, rpf := 0,
          mst := 0, owner := c.ctx, lcnt := 0, heat := 0, swc := c.swc }
      ({ s with entries := s.entries ++ [e] }).cmdEnd c 0 1 0)

/-- A copy under way is aborted (R70): the MIGRATE completes with a status and its unused target. -/
def State.abortCopy (s : State) (h : HomeId) (ia status : Nat) : State :=
  match s.pageop? h ia with
  | some p =>
    let s := ((s.dropPageop h ia).modEntry h ia fun e => { e with mst := 0 }).due (.migrationSlotStart h :: p.behind)
    (match p.cmd with | some m => s.cmdEnd m status 0 m.fra | none => s)
  | none => s

/-- The lease requests a page holds are refused, and no request for it is pending (R67 step 4). -/
def State.refuseHeld (s : State) (h : HomeId) (ia : Nat) : State :=
  match s.pageop? h ia with
  | some p => ((s.dropPageop h ia).modEntry h ia fun e => { e with mst := 0 }).due ((p.held.map fun l => .leaseRefused l) ++ p.behind)
  | none => s

/-- UNMAP (R70, R71). A FILL it meets ends ABORTED. Log entry 95. -/
def execUnmap (c : HomeCmd) (s : State) : Out :=
  .next (s.runCmd (.unmap c) c fun s h =>
    match s.cmdEntry c h with
    | none => s.cmdEnd c 1 0 0
    | some e =>
      match e.mst with
      | 0 => s.unmapOrEvict e c .unmap
      | 1 => (s.abortCopy h c.ia 7).unmapOrEvict { e with mst := 0 } c .unmap
      | 2 =>
        let fc := (s.pageop? h c.ia).bind fun p => p.cmd
        let s := s.refuseHeld h c.ia
        let s := match fc with | some f => s.cmdEnd f 7 0 0 | none => s
        s.unmapOrEvict { e with mst := 0 } c .unmap
      | 4 =>
        let s := match (s.pageop? h c.ia).bind fun p => p.cmd with | some m => s.cmdEnd m 7 0 0 | none => s
        (s.modPageop h c.ia fun p => { p with cmd := some c }).modEntry h c.ia fun e => { e with mst := 3 }
      | _ => s.cmdEnd c 3 0 0)

/-- EVICT (R70, R71). -/
def execEvict (c : HomeCmd) (s : State) : Out :=
  .next (s.runCmd (.evict c) c fun s h =>
    match s.cmdEntry c h with
    | none => s.cmdEnd c 1 0 0
    | some e =>
      if e.mst ≠ 0 then s.cmdEnd c 3 0 0
      else if e.loc = 0 then s.cmdEnd c 4 0 0
      else s.unmapOrEvict e c .evict)

/-- A page that waits for FILL or REFUSE. -/
def State.awaitsFill (s : State) (c : HomeCmd) (h : HomeId) : Option Entry :=
  match s.cmdEntry c h, s.pageop? h c.ia with
  | some e, some p => if e.mst = 2 && p.cmd.isNone then some e else none
  | _, _ => none

/-- FILL (R67): the migration engine starts on the new frame; an absent frame breaks R59. Log entry 95. -/
def execFill (c : HomeCmd) (s : State) : Out :=
  .next (s.runCmd (.fill c) c fun s h =>
    match s.awaitsFill c h with
    | none => s.cmdEnd c 1 0 0
    | some _ =>
      if !s.frameOk h c.fra c.ia || frLoc c.fra == 0 || (!c.zero && (!s.frameOk h c.frb c.ia || frLoc c.frb == 0)) then s.cmdEnd c 5 0 0
      else (s.modPageop h c.ia fun p => { p with cmd := some c, copy := some 0 }).due [.fillCopyDone h c.ia])

/-- REFUSE (R67 step 4). -/
def execRefuse (c : HomeCmd) (s : State) : Out :=
  .next (s.runCmd (.refuse c) c fun s h =>
    match s.awaitsFill c h with
    | none => s.cmdEnd c 1 0 0
    | some _ => (s.refuseHeld h c.ia).cmdEnd c 0 1 0)

/-! Copies between frames. -/

/-- n bytes copied from key a to key b of memory. -/
def copyBytes (m : Tab Byte) (a b n : Nat) : Tab Byte :=
  let src := (m.filter fun p => decide (a ≤ p.1) && decide (p.1 < a + n)).map fun p => (b + (p.1 - a), p.2)
  let m := m.filter fun p => !(decide (b ≤ p.1) && decide (p.1 < b + n))
  src.foldl (fun (m : Tab Byte) p => m.set 0 p.1 p.2) m

/-- n bytes from key b on read zero. -/
def zeroBytes (m : Tab Byte) (b n : Nat) : Tab Byte := m.filter fun p => !(decide (b ≤ p.1) && decide (p.1 < b + n))

def inSpan (k b n : Nat) : Bool := decide (b ≤ 64 * k) && decide (64 * k < b + n)

/-- R74: a copy waits while a row that its source or its target touches is being retired. Log entry 88. -/
def State.copyHeld (s : State) (a b : Entry) (ia n : Nat) : Bool := (s.rowAt a ia n).isSome || (s.rowAt b ia n).isSome

/-- The migration engine copies n bytes of a page from one frame to another, over the ports they lie behind (R59, R67, R68, R389); with no
source, zeros. -/
def State.copyFrame (s : State) (src : Option Entry) (dst : Entry) (ia n : Nat) : State :=
  let k := dst.key ia
  let s := (s.noteReuse dst k n).freshSectors k n
  let s := match src with
    | some e => ({ s with mem := copyBytes s.mem (e.key ia) k n } : State).egress e ia n none
    | none => { s with mem := zeroBytes s.mem k n }
  s.egress dst ia n (some (s.memRead k n))

/-- R67: a FILL that meets a bad sector: the requests held are refused, the page stays absent, and the driver may FILL again or
REFUSE. -/
def State.fillFails (s : State) (p : PageOp) (c : HomeCmd) (e : Entry) (k : Nat) : State :=
  let keep := fun (p : PageOp) => { p with cmd := none, copy := none, held := [], behind := [] }
  (((s.modPageop p.home p.ia keep).due ((p.held.map fun l => .leaseRefused l) ++ p.behind)).ownerRecord e 6 (e.ia + k)).cmdEnd c 9 0 0

/-- FILL_COPY_DONE (R67 step 3): the source is in the new frame, and the requests held are granted; a bad sector leaves the page absent. -/
def execFillCopyDone (h : HomeId) (ia : Nat) (s : State) : Out :=
  if (s.home? h).isNone then .fault .noSuchUnit
  else .next (match s.pageop? h ia, s.entry? h ia with
    | some p, some e =>
      match p.cmd, p.copy with
      | some c, some _ =>
        if e.mst ≠ 2 then s
        else
          let n := pageSize ia
          let src := e.inFrame c.frb
          let dst := e.inFrame c.fra
          if s.copyHeld (if c.zero then dst else src) dst e.ia n then s.due [.fillCopyDone h ia]
          else match (if c.zero then none else s.poison.find? fun k => inSpan k (src.key e.ia) n) with
          | some k => s.fillFails p c e (64 * k - src.key e.ia)
          | none =>
            let s := s.copyFrame (if c.zero then none else some src) dst e.ia n
            let s := (s.dropPageop h ia).modEntry h ia fun _ => { dst with mst := 0 }
            (s.cmdEnd c 0 1 0).resumePage p
      | _, _ => s
    | _, _ => s)

/-! ## Migration (R68 to R70) -/

/-- The migration slots of a home in use (R68). -/
def State.copies (s : State) (h : HomeId) : Nat :=
  (s.pageops.filter fun p => decide (p.home = h) && p.copy.isSome && !p.wait && p.cmd.any fun c => c.op == 6).length

/-- The copy begins. -/
def State.startCopy (s : State) (h : HomeId) (ia : Nat) : State :=
  ((s.modEntry h ia fun e => { e with mst := 1 }).modPageop h ia fun p => { p with copy := some 0, wait := false, behind := [] }).due
    (.migrationSectorCopy h (pageOf ia) :: match s.pageop? h ia with | some p => p.behind | none => [])

/-- MIGRATE (R68; log entry 95): refused, or it takes one of 64 slots, or waits for one. -/
def execMigrate (c : HomeCmd) (s : State) : Out :=
  .next (s.runCmd (.migrate c) c fun s h =>
    match s.cmdEntry c h with
    | none => s.cmdEnd c 1 0 0
    | some e =>
      let bad := fun (l : Nat) => l == 0 || l == 3
      if e.mst ≠ 0 then s.cmdEnd c 3 0 0
      else if bad e.loc || bad (frLoc c.fra) then s.cmdEnd c 4 0 0
      else if !s.frameOk h c.fra c.ia then s.cmdEnd c 5 0 0
      else
        let t : State := { s with pageops := s.pageops ++ [{ PageOp.fresh h c.ia (some c) with wait := true }] }
        if t.copies h < 64 then t.startCopy h c.ia else t)

/-- MIGRATION_SLOT_START (R68): the oldest waiting MIGRATE takes a free slot. Log entry 53. -/
def execMigrationSlotStart (h : HomeId) (s : State) : Out :=
  if (s.home? h).isNone then .fault .noSuchUnit
  else .next (match s.pageops.find? fun p => decide (p.home = h) && p.wait with
    | some p => if s.copies h < 64 then s.startCopy h p.ia else s
    | none => s)

/-- MIGRATION_SECTOR_COPY (R68): the next sector, or the flip after the last. -/
def execMigrationSectorCopy (h : HomeId) (ia : Nat) (s : State) : Out :=
  if (s.home? h).isNone then .fault .noSuchUnit
  else .next (match s.pageop? h ia, s.entry? h ia with
    | some p, some e =>
      match p.cmd, p.copy with
      | some c, some k =>
        if e.mst ≠ 1 || p.wait then s
        else if 64 * k < pageSize ia then
          let at_ := e.ia + 64 * k
          if s.copyHeld e (e.inFrame c.fra) at_ 64 then s.due [.migrationSectorCopy h ia]
          else if s.poison.contains (e.key at_ / 64) then (s.ownerRecord e 6 at_).abortCopy h ia 9
          else
            ((s.copyFrame (some e) (e.inFrame c.fra) at_ 64).modPageop h ia fun p => { p with copy := some (k + 1) }).due [.migrationSectorCopy h ia]
        else
          let s := (s.dropPageop h ia).modEntry h ia fun e => { e.inFrame c.fra with mst := 0 }
          (((s.ringMoved e).saveMoved e).cmdEnd c 0 1 e.frame).due (.migrationSlotStart h :: p.behind)
      | _, _ => s
    | _, _ => s)

/-! ## HEATREAD, PROBE, RESETACC, reserved opcodes (R65) -/

/-- A buffer of n bytes is writable for a function: every byte lies in a page of the function that has a frame. -/
def State.bufOk (s : State) (fn ia n : Nat) : Bool := (secsOf ia n).all fun p => (s.devEntry? fn p.1).isSome

/-- Bytes written to a buffer at its homes, or held there. -/
def State.bufWrite (s : State) (fn ia : Nat) (bs : List Byte) : State :=
  (secsOf ia bs.length).foldl (fun s p => (s.devWrite fn p.1 ((bs.drop (p.1 - ia)).take p.2)).getD s) s

/-- The entry of a page at any home of a function. Log entry 52. -/
def State.fnEntry (s : State) (fn ia : Nat) : Option Entry := s.entries.find? fun e => e.ia == pageOf ia && fnOf e.owner == fn

/-- R65: a heat record. -/
def heatRecord (e : Option Entry) : Nat :=
  match e with
  | none => 2 ^ 31
  | some e => e.heat + e.acc * 2 ^ 16 + e.d.toNat * 2 ^ 20 + e.loc * 2 ^ 21 + e.mst * 2 ^ 23

/-- The page operation that holds a read of an entry: a shoot-down under way (R70). -/
def State.shootOf (s : State) (fn : Nat) (ias : List Nat) : Option PageOp :=
  ias.findSome? fun ia => match s.fnEntry fn ia with
    | some e => if e.mst = 5 then s.pageop? e.home ia else none
    | none => none

/-- HEATREAD (R63, R65): the records of the pages, each at its home, with the halving or clearing it asks; CLR with HALVE
clears. It waits while the home of its buffer holds accesses (R62, R74). Bits 63:56 of FRB as a buffer IA are ignored. DESIGN CHOICE
(log entry 103). Log entries 52, 95. -/
def execHeatread (c : HomeCmd) (s : State) : Out :=
  .next (s.runCmd (.heatread c) c fun s _ =>
    let ias := (List.range c.cnt).map fun i => c.ia + i * pageSize c.ia
    let buf := (c.frb.extractLsb' 0 56).toNat
    if !s.bufOk c.fn buf (4 * c.cnt) then s.cmdEnd c 12 0 0
    else if s.devHeld c.fn buf (4 * c.cnt) then s.due [.heatread c]
    else match s.shootOf c.fn ias with
      | some p => s.modPageop p.home p.ia fun p => { p with behind := p.behind ++ [.heatread c] }
      | none =>
        let bs := ias.flatMap fun ia => leBytes 4 (heatRecord (s.fnEntry c.fn ia))
        let cool := fun (s : State) (ia : Nat) => match s.fnEntry c.fn ia with
          | some e => s.modEntry e.home ia fun e => { e with heat := if c.clr then 0 else if c.halve then e.heat / 2 else e.heat }
          | none => s
        ((ias.foldl cool s).bufWrite c.fn buf bs).cmdEnd c 0 c.cnt 0)

/-- PROBE (R65), with the buffer of HEATREAD (log entry 103). -/
def execProbe (c : HomeCmd) (s : State) : Out :=
  .next (s.runCmd (.probe c) c fun s h =>
    let buf := (c.frb.extractLsb' 0 56).toNat
    if !s.bufOk c.fn buf 32 then s.cmdEnd c 12 0 0
    else if s.devHeld c.fn buf 32 then s.due [.probe c]
    else match s.cmdEntry c h with
    | none => s.cmdEnd c 1 0 0
    | some e =>
      if e.mst = 5 then s.modPageop h c.ia fun p => { p with behind := p.behind ++ [.probe c] }
      else (s.bufWrite c.fn buf (bytesOf e.words)).cmdEnd c 0 1 0)

/-- RESETACC (R65, R70). -/
def execResetacc (c : HomeCmd) (s : State) : Out :=
  .next (s.runCmd (.resetacc c) c fun s h =>
    match s.cmdEntry c h with
    | none => s.cmdEnd c 1 0 0
    | some e => if e.mst = 0 then s.shoot e (some c) .resetacc else s.cmdEnd c 3 0 0)

/-- BADCMD_OPCODE (R65). -/
def execBadcmdOpcode (c : HomeCmd) (s : State) : Out :=
  .next (if s.cmdBehind c then s.due [.badcmdOpcode c] else s.cmdEnd c 11 0 0)

/-- R67: software advances PRQCI, and records that waited for space are written. -/
def State.prqciSet (s : State) (fn : Nat) (ci : W64) : State := (s.modFn fn fun f => { f with prqci := ci }).prqFlush 65537 fn

/-- PRQCI_WRITE (R67). Log entry 9. -/
def execPrqciWrite (fn ci : Nat) (s : State) : Out :=
  if (s.fn? fn).isNone then .fault .noSuchUnit else .next (s.prqciSet fn (BitVec.ofNat 64 ci))

/-! ## Row retirement (R74 to R77) -/

/-- Poison of sectors of a stack, by their numbers in it. -/
def stackSectors (h : HomeId) (l : List Nat) : List Nat := l.map fun b => frameKey 1 h.pkg h.stack (64 * b) / 64

/-- An entry's frame lies partly in a row. -/
def Entry.touchesRow (e : Entry) (r : RowId) : Bool :=
  e.loc == 1 && decide (e.home = r.home) && (List.range (pageSize e.ia / 64)).any fun i => Config.inRow r (e.faddr / 64 + i)

/-- R75: the frame-retire record of an entry, to the control complex and to the ring of the owner's function. -/
def State.frameRetire (s : State) (e : Entry) : State :=
  let fn := fnOf e.owner
  let lp := match s.fn? fn with | some f => f.logical e.home.pkg | none => 0
  let ws := [BitVec.ofNat 64 e.ia, e.swc, BitVec.ofNat 64 (e.owner + e.home.stack * 2 ^ 16 + lp * 2 ^ 20 + 2 * 2 ^ 32), e.frame]
  { s.prqPost fn ws with outbox := (s.prqPost fn ws).outbox ++ [.retire e.home.pkg ws] }

/-- Spares of a row's bank that are used, or that a row in progress will take; a spare that failed stays used. Log entry 55. -/
def Home.bankSpares (h : Home) (r : RowId) : Nat :=
  let mine := fun (x : RowId) => x.pc == r.pc && x.bank == r.bank
  (h.remap.filter fun x => mine x.1).length + (h.rows.filter fun x => mine x.row).length

/-- The lowest spare index of a stack that is free. Log entry 55. -/
def Home.freeSpare (h : Home) : Option Nat := (List.range 4096).find? fun i => !h.remap.any fun x => x.2 == i

/-- ROW_RETIREMENT_ORDER (R74, R75): the row's accesses are held and it is copied; without a spare the users of its frames are told, and
its failing sectors keep their error. Log entries 55, 81, 86. -/
def execRowRetirementOrder (r : RowId) (bad : List Nat) (s : State) : Out :=
  match s.home? r.home with
  | none => .fault .noSuchUnit
  | some h =>
    .next (
      if h.rows.any fun x => decide (x.row = r) then s
      else if h.bankSpares r < 8 ∧ h.remap.length + h.rows.length < 4096 then
        (s.modHome r.home fun h => { h with rows := h.rows ++ [⟨r, bad, []⟩] }).due [.rowRemapSwitch r]
      else
        let ks := stackSectors r.home bad
        let s := { s with poison := s.poison ++ ks.filter fun k => !s.poison.contains k }
        let s := s.modHome r.home fun h => { h with failing := h.failing ++ ks.filter fun k => !h.failing.contains k }
        (s.entries.filter fun e => e.touchesRow r).foldl State.frameRetire s)

/-- ROW_REMAP_SWITCH (R74 steps 2 and 3). DESIGN CHOICE (log entry 55): a row retired again takes another spare, and its old one stays used.
Log entry 86. -/
def execRowRemapSwitch (r : RowId) (s : State) : Out :=
  match s.home? r.home with
  | none => .fault .noSuchUnit
  | some h =>
    .next (match h.rows.find? fun x => decide (x.row = r), h.freeSpare with
      | some x, some i =>
        let put := fun (h : Home) =>
          { h with
            rows := delFirst (fun x => decide (x.row = r)) h.rows
            remap := (r, i) :: h.remap }
        let s := { s with poison := s.poison ++ (stackSectors r.home x.bad).filter fun k => !s.poison.contains k }
        ((s.modHome r.home put).due ((x.held.map fun q => q.atHome) ++ [.retiredRowPersist r.home.pkg r])).retryHeld
      | _, _ => s)

/-- R76: copy A is the one to write: it does not verify, or its sequence number is the lower one; with equal numbers, as at reset, A.
DESIGN CHOICE (log entry 105): the spec orders copies of different numbers alone. -/
def Pkg.writesA (p : Pkg) : Bool := !listValid p.id p.listA || (listValid p.id p.listB && decide (p.listA.seq ≤ p.listB.seq))

/-- RETIRED_ROW_PERSIST (R76): the copy with the lower sequence number is written under one more than the other's, and read back; one
that does not verify is written again. Log entry 96. -/
def execRetiredRowPersist (pkg : Nat) (r : RowId) (s : State) : Out :=
  match s.pkg? pkg with
  | none => .fault .noSuchUnit
  | some p =>
    .next (match (s.home? r.home).bind fun h => h.remap.find? fun x => decide (x.1 = r) with
      | none => s
      | some x =>
        let (bad, s) := s.choose 2
        let other := if p.writesA then p.listB else p.listA
        let made : RowList := ⟨other.seq + 1, x :: other.entries.filter (fun y => y != x), none⟩
        let new : RowList := if bad = 0 then signList pkg made else made
        let s := s.modPkg pkg fun p => if p.writesA then { p with listA := new } else { p with listB := new }
        if bad = 0 then s else s.due [.retiredRowPersist pkg r])

end Sys2Proof.Machine
end

