-- ==== Sys2Proof/Machine/Queues.lean ====
section
/-! DEFINITION. Command queues: reading packets, the packets that launch nothing, and launch records
(spec/13_scheduling.md R339 to R342, R345, R347, R356, R357; spec/16_system.md R386; spec/04_hierarchy.md R96). -/

namespace Sys2Proof.Machine

/-! ## Reading (R339, R386) -/

/-- The packet of an event that the reader has put out and that has not been acted on. -/
def packetOf (i : Instr) : Option Packet :=
  match i with
  | .launch p | .signal p | .wait p | .barrierAnd p | .phase p | .bind p | .unbind p | .leaseHint p | .invalidPacket p => some p
  | _ => none

def Ctx.queue? (c : Ctx) (q : Nat) : Option Queue := c.queues.find? fun x => x.num == q
def Ctx.modQueue (c : Ctx) (q : Nat) (f : Queue → Queue) : Ctx := { c with queues := updFirst (fun x => x.num == q) f c.queues }
def State.modQueue (s : State) (ctx q : Nat) (f : Queue → Queue) : State := s.modCtx ctx fun c => c.modQueue q f

/-- Slots the write index covers and that have not been read. -/
def Queue.unread (x : Queue) : Nat := (x.wi + 2 ^ 32 - x.ri) % 2 ^ 32

end Sys2Proof.Machine
namespace Sys2Proof
open Machine
def Packet.w (p : Packet) (i : Nat) : W64 := p.words.getD i 0
/-- Bits [lo + n - 1 : lo] of word i of a packet. -/
def Packet.f (p : Packet) (i lo n : Nat) : Nat := (p.w i).toNat / 2 ^ lo % 2 ^ n

end Sys2Proof
namespace Sys2Proof.Machine
/-- R339, R340: an invalid-packet record: TYPE, queue number, slot index. Log entry 38. -/
def State.badPacket (s : State) (ctx q slot typ : Nat) : State :=
  let n := match (s.ctx? ctx).bind fun c => c.queue? q with | some x => x.logs | none => 0
  s.due [.trapRecordPost ctx (s.fromFirst ctx (ctxRecord 0x17 typ (BitVec.ofNat 64 q) (BitVec.ofNat 64 (slot % 2 ^ n)) 0 0))]

end Sys2Proof.Machine
namespace Sys2Proof
open Machine
/-- Words from lo on up to hi are zero. -/
def Packet.zeros (p : Packet) (lo hi : Nat) : Bool := (List.range (hi - lo)).all fun i => p.w (lo + i) == 0

end Sys2Proof
namespace Sys2Proof
open Machine
/-- R339, R340: the fields of a packet that is no LAUNCH and no BIND break no rule; every bit the layouts do not list is reserved. Log entry 56. -/
def Packet.ok (p : Packet) : Bool :=
  let al := fun i => p.f i 0 3 == 0
  p.f 0 8 8 == 0 &&
  match p.f 0 0 8 with
  | 2 => p.f 0 17 1 == 0 && p.f 0 29 35 == 0 && decide (p.f 0 18 10 < vectors (fnOf p.ctx)) && al 1 && p.zeros 3 8
  | 3 => p.f 0 16 48 == 0 && al 1 && p.zeros 3 8
  | 4 => p.f 0 16 48 == 0 && p.zeros 1 8
  | 6 => p.f 0 16 48 == 0 && p.f 1 57 2 != 0 && p.f 1 59 5 == 0 && p.f 2 0 32 != 0 && p.zeros 3 8
  | 7 => p.f 0 16 2 != 0 && p.f 0 18 46 == 0 && p.zeros (1 + 2 * p.f 0 16 2) 8
      && (List.range (p.f 0 16 2)).all fun k => al (1 + 2 * k)
  | _ => false

/-- The event of a packet. Log entry 56. -/
def Packet.event (p : Packet) : Instr :=
  match p.f 0 0 8 with
  | 1 => .launch p
  | 5 => if p.f 0 52 1 = 1 then .unbind p else .bind p
  | 2 => if p.ok then .signal p else .invalidPacket p
  | 3 => if p.ok then .wait p else .invalidPacket p
  | 4 => if p.ok then .phase p else .invalidPacket p
  | 6 => if p.ok then .leaseHint p else .invalidPacket p
  | 7 => if p.ok then .barrierAnd p else .invalidPacket p
  | _ => .invalidPacket p

end Sys2Proof
namespace Sys2Proof.Machine
/-- The words of n slots from index i on; none where the ring cannot be read. -/
def State.slotWords (s : State) (ctx : Nat) (x : Queue) (i n : Nat) : Option (List W64) :=
  match n with
  | 0 => some []
  | k + 1 => match s.ctxLoad ctx (vaOf (x.va + 64 * (i % 2 ^ x.logs))) 64 1, s.slotWords ctx x (i + 1) k with
    | .ok bs, some r => some (wordsOf bs 8 ++ r)
    | _, _ => none

/-- The next packet of a queue is read, if its slots are covered, nothing holds the queue and no packet of it is being acted on. A ring
that cannot be read posts a record and stops the queue until its next doorbell. Log entry 57. -/
def State.readQueue (s : State) (ctx q : Nat) : State :=
  match s.ctx? ctx with
  | none => s
  | some c =>
    match c.queue? q with
    | none => s
    | some x =>
      let busy := s.pending.any fun e => match packetOf e with | some p => p.ctx == ctx && p.q == q | none => false
      if c.life != .live || !x.hold.isEmpty || busy then s
      else if x.unread = 0 then
        (if c.logmode != 0 && c.quiet && !s.pending.contains (.logEnd ctx 0) then s.due [.logEnd ctx 0] else s)
      else if (List.range 4).any fun i => s.vaHeld ctx (vaOf (x.va + 64 * ((x.ri + i) % 2 ^ x.logs))) 64 .load then
        (if s.pending.contains (.waitRecheck ctx q) then s else s.due [.waitRecheck ctx q])
      else match s.slotWords ctx x x.ri 1 with
        | none => s.badPacket ctx q x.ri 0
        | some ws =>
          if (Packet.mk ctx q x.ri ws).f 0 0 8 != 1 then s.due [(Packet.mk ctx q x.ri ws).event]
          else if x.unread < 4 then s
          else match s.slotWords ctx x x.ri 4 with
            | none => s.badPacket ctx q x.ri 0
            | some ws => s.due [.launch ⟨ctx, q, x.ri, ws⟩]

/-- n slots have been taken: RI advances, in the context descriptor too (R385), and the next packet is read. -/
def State.advanceQueue (s : State) (ctx q n : Nat) : State :=
  match s.ctx? ctx with
  | none => s
  | some c =>
    match c.queue? q with
    | none => s
    | some x =>
      let ri := (x.ri + n) % 2 ^ 32
      ((s.modQueue ctx q fun x => { x with ri := ri }).devPut (fnOf ctx) (c.desc + 640 + 32 * q + 16) (BitVec.ofNat 64 ri)).readQueue ctx q

/-- QUEUE_DOORBELL (R386). -/
def execQueueDoorbell (fn ctx q wi : Nat) (s : State) : Out :=
  if (s.fn? fn).isNone then .fault .noSuchUnit
  else
    let id := fn * 1024 + ctx % 1024
    .next (match s.ctx? id with
      | none => s
      | some c => match c.queue? q with
        | none => s.badPacket id q 0 0
        | some x =>
          if (wi % 2 ^ 32 + 2 ^ 32 - x.ri) % 2 ^ 32 > 2 ^ x.logs then s.badPacket id q 0 0
          else (s.modQueue id q fun x => { x with wi := wi % 2 ^ 32 }).readQueue id q)

/-- A packet at its turn: one that its queue has not reached, or has passed, has no effect. -/
def State.atPacket (s : State) (p : Packet) (f : State → Ctx → Queue → State) : State :=
  match s.ctx? p.ctx with
  | none => s
  | some c =>
    match c.queue? p.q with
    | none => s
    | some x => if c.life != .live || x.ri != p.slot || !x.hold.isEmpty then s else f s c x

/-- INVALID_PACKET (R339): a record, and the queue goes on with the next slot. Log entry 56. -/
def execInvalidPacket (p : Packet) (s : State) : Out :=
  .next (s.atPacket p fun s _ _ => (s.badPacket p.ctx p.q p.slot (p.f 0 0 8)).advanceQueue p.ctx p.q 1)

/-- PHASE (R96, R340). -/
def execPhase (p : Packet) (s : State) : Out :=
  .next (s.atPacket p fun s _ _ =>
    (s.modQueue p.ctx p.q fun x => { x with phase := (x.phase + 1) % 2 ^ 32 }).advanceQueue p.ctx p.q 1)

/-- LEASE_HINT (R340): each home of the range starts R67 for its absent pages. Log entry 57. -/
def execLeaseHint (p : Packet) (s : State) : Out :=
  .next (s.atPacket p fun s c _ =>
    let iv : Interval := ⟨p.f 1 57 2, p.f 1 0 57, p.f 2 0 32, false⟩
    let s := match s.leaseReqs c ⟨c.id, false, 0, 0⟩ 0 0 iv with
      | .error _ => s.badPacket p.ctx p.q p.slot 6
      | .ok ls => s.due (ls.map fun (l : LeaseReq) => .leaseRequest { l with hint := true })
    s.advanceQueue p.ctx p.q 1)

/-! ## SIGNAL (R340, R357) -/

/-- The package whose schedule holds a context's queue work: the first of its partition. Log entry 58. -/
def Ctx.queuePkg (c : Ctx) : Nat := c.pkgs.headD 0

/-- SIGNAL: the packet waits for every earlier launch of its queue; later packets go on. -/
def execSignal (p : Packet) (s : State) : Out :=
  .next (s.atPacket p fun s c _ =>
    let open_ := (c.launches.filter fun l => l.q == p.q && !l.ended).map (·.id)
    let s := if open_.isEmpty then s.due [.signalFire p] else s.modQueue p.ctx p.q fun x => { x with sigs := x.sigs ++ [(p, open_)] }
    s.advanceQueue p.ctx p.q 1)

/-- SIGNAL_FIRE: the write or addition, a release at .rack, then the interrupt. It re-evaluates no counter watch: a CSIG and a copy arrival
do (R173, R324). While the context is switched off the firing is recorded. Log entry 58. -/
def execSignalFire (p : Packet) (s : State) : Out :=
  .next (match s.ctx? p.ctx with
    | none => s
    | some c =>
      if c.life != .live then s
      else if c.off.contains c.queuePkg then s.modCtx p.ctx fun c => { c with trig := c.trig ++ [(c.queuePkg, .event (.signalFire p))] }
      else if s.vaHeld p.ctx (p.w 1) 8 .store then s.due [.signalFire p]
      else
        let core := match s.ctxAt p.ctx (p.w 1) 8 .atomic with
          | .ok (r, ia) => hubCore (s.homeAt p.ctx r ia)
          | .error _ => CoreId.none
        let add := match s.ctxAt p.ctx (p.w 1) 8 .atomic with
          | .ok (x, ia) => (s.engRmw p.ctx core x ia .csig false (leBytes 8 (p.w 2).toNat)).map (·.1)
          | .error f => .error (.addr f)
        let r := if p.f 0 16 1 = 1 then add else s.ctxStore p.ctx (p.w 1) (leBytes 8 (p.w 2).toNat)
        let s := match r with
          | .ok t => t
          | .error e => (s.ctxErr p.ctx e).badPacket p.ctx p.q p.slot 2
        if p.f 0 28 1 = 1 then s.raise (fnOf p.ctx) (p.f 0 18 10) else s)

/-! ## WAIT and BARRIER-AND (R340) -/

/-- A condition: met, not met, or its address fails. -/
def State.condition (s : State) (ctx : Nat) (c : W64 × W64) : Option Bool :=
  match s.ctxLoad ctx c.1 8 1 with
  | .ok bs => some (decide (c.2.toNat ≤ leVal bs))
  | .error _ => none

/-- The packet that holds a queue is complete: the queue goes on. -/
def State.unholdQueue (s : State) (ctx q : Nat) : State := (s.modQueue ctx q fun x => { x with hold := [], met := false }).readQueue ctx q

/-- The conditions of a held queue are read: one whose address fails completes the packet as met, with a record (R340); all met, the queue
goes on. While the context is switched off the completion is recorded (R357). Log entry 57. -/
def State.tryHold (s : State) (ctx q : Nat) : State :=
  match s.ctx? ctx with
  | none => s
  | some c =>
    match c.queue? q with
    | none => s
    | some x =>
      let off := c.off.contains c.queuePkg
      if x.hold.isEmpty || c.life != .live then s
      else if x.met then (if off then s else s.unholdQueue ctx q)
      else if x.hold.any fun h => s.vaHeld ctx h.1 8 .load then s.due [.waitRecheck ctx q]
      else
        let bad := x.hold.any fun h => (s.condition ctx h).isNone
        if !bad && !x.hold.all fun h => s.condition ctx h == some true then s
        else
          let s := if bad then s.badPacket ctx q ((x.ri + 2 ^ 32 - 1) % 2 ^ 32) x.held else s
          if off then
            (s.modQueue ctx q fun x => { x with met := true }).modCtx ctx fun c => { c with trig := c.trig ++ [(c.queuePkg, .event (.waitRecheck ctx q))] }
          else s.unholdQueue ctx q

/-- A packet that holds its queue: RI passes it, and its conditions are read at once. -/
def State.holdQueue (s : State) (p : Packet) (conds : List (W64 × W64)) : State :=
  ((s.modQueue p.ctx p.q fun x => { x with hold := conds, held := p.f 0 0 8, met := false }).advanceQueue p.ctx p.q 1).tryHold p.ctx p.q

def execWait (p : Packet) (s : State) : Out := .next (s.atPacket p fun s _ _ => s.holdQueue p [(p.w 1, p.w 2)])

def execBarrierAnd (p : Packet) (s : State) : Out :=
  .next (s.atPacket p fun s _ _ => s.holdQueue p ((List.range (p.f 0 16 2)).map fun k => (p.w (1 + 2 * k), p.w (2 + 2 * k))))

/-- WAIT_RECHECK: the distributor reads the words again, or the slots of a ring whose home held them. -/
def execWaitRecheck (ctx q : Nat) (s : State) : Out :=
  .next (match (s.ctx? ctx).bind fun c => c.queue? q with
    | some x => if x.hold.isEmpty then s.readQueue ctx q else s.tryHold ctx q
    | none => s)

/-! ## Handing blocks down (R345, R347) -/

/-- The block whose key a block takes: rank 0 of its cluster. -/
def Launch.keyBlock (l : Launch) (b : Nat) : Nat := (l.cluster b).headD b

/-- R347: the placement key, as logical package and die. An interval that does not translate has no home: the key of PLV = 0. Log entry 61. -/
def State.placeKey (s : State) (c : Ctx) (l : Launch) (b : Nat) : Nat × Nat :=
  let k := l.keyBlock b
  let n := c.slots.length
  let slot := match c.slots[4 * (k % (n / 4))]? with | some x => (x.1, x.2.stack / 4) | none => (0, 0)
  if l.plv then
    let va := ((l.range l.plr).at_ k).base % 2 ^ 57
    match findRange c.ranges va with
    | none => slot
    | some r =>
      let h := homeOf c (s.saltOf c) r ((r.iaBase + (va - r.baseVa)) % 2 ^ 56)
      (c.logical h.pkg, h.stack / 4)
  else slot

/-- est of R345: the mean cost of the blocks of an ENTRY that have ended, rounded down; 2^16 when none has. Log entry 58. -/
def State.est (s : State) (ctx : Nat) (entry : W64) : Nat :=
  match s.rack.ests.find? fun e => e.1 == ctx && e.2.1 == entry with
  | some e => if e.2.2.2 = 0 then 2 ^ 16 else e.2.2.1 / e.2.2.2
  | none => 2 ^ 16

/-- The next chunk of a launch goes to the package distributors of its blocks' keys, and its estimate is charged. -/
def State.handDown (s : State) (c : Ctx) (l : Launch) : State :=
  let n := min 64 (l.nblk - l.next)
  let keyed := (List.range n).map fun i => ((s.placeKey c l (l.next + i)).1, l.next + i)
  let parts := (c.dies.map (·.1)).dedup.filterMap fun lp =>
    let mine := (keyed.filter fun k => k.1 == lp).map (·.2)
    if mine.isEmpty then none else some (Instr.chunkAppend c.id l.id (c.phys lp) mine)
  let est := s.est c.id l.entry
  let cost : Int := Int.ofNat (n * est)
  let take : Launch → Launch := fun l => { l with next := l.next + n, out := l.out + n, ests := l.ests.set 0 (l.next / 64) est }
  let charge : Queue → Queue := fun q => { q with def_ := q.def_ - cost }
  (s.modCtx c.id fun c => (c.modLaunch l.id take).modQueue l.q charge).due parts

/-- R350: blocks of a cluster that no empty core, and so no empty region, could hold. -/
def Launch.neverFits (l : Launch) : Bool :=
  decide (1 < l.csize) && ((assignQuads [] l.cap l.wpb).isNone || decide (2 ^ 20 < l.sgr * 4096))

/-- R350: such a launch is invalid at hand-down, with the result of R342. -/
def State.voidLaunch (s : State) (ctx : Nat) (l : Launch) : State :=
  ((s.modCtx ctx fun c => c.modLaunch l.id fun l => { l with bad := true, next := l.nblk }).launchBadRecord ctx l 0).settleLaunch 4096 ctx l.id

/-- The launches of a queue that hand blocks down while its deficit is positive (`dry`: whatever the deficit is, launch `lid` alone). Log entry 59. -/
def State.spend (s : State) (n ctx q : Nat) (dry : Option Nat) : State :=
  match n with
  | 0 => s
  | k + 1 =>
    match s.ctx? ctx with
    | none => s
    | some c =>
      match c.queue? q, c.launches.find? fun l => l.q == q && decide (l.next < l.nblk) && !l.bad && (dry == none || dry == some l.id) with
      | some x, some l => 
        if dry == none && decide (x.def_ ≤ 0) then s
        else if l.neverFits then s.voidLaunch ctx l
        else (s.handDown c l).spend k ctx q dry
      | _, _ => s

/-- Blocks a queue has not handed down. -/
def Ctx.backlog (c : Ctx) (q : Nat) : Nat := ((c.launches.filter fun l => l.q == q && !l.bad).map fun l => l.nblk - l.next).sum

/-- R345: quantum and deficit limit. -/
def State.quantum (s : State) (c : Ctx) (x : Queue) : Nat := 2 ^ 16 * (match s.fn? (fnOf c.id) with | some f => f.wf | none => 1) * x.wq

def State.clamp (s : State) : State := { s with rack := { s.rack with clamps := s.rack.clamps + 1 } }

/-- One queue's turn in a round. -/
def State.drrQueue (s : State) (ctx q : Nat) : State :=
  match s.ctx? ctx with
  | none => s
  | some c =>
    match c.queue? q with
    | none => s
    | some x =>
      if c.life != .live || c.preempting then s
      else if c.backlog q = 0 then s.modQueue ctx q fun x => { x with def_ := 0 }
      else
        let d : Int := Int.ofNat (8 * s.quantum c x)
        let v := x.def_ + Int.ofNat (s.quantum c x)
        let s := if d < v then s.clamp else s
        (s.modQueue ctx q fun x => { x with def_ := min v d }).spend (c.backlog q) ctx q none

/-- A queue still has blocks to hand down. -/
def State.backlogged (s : State) : Bool :=
  s.ctxs.any fun c => c.life == .live && !c.preempting && c.queues.any fun q => c.backlog q.num != 0

def State.kickRack (s : State) : State := if s.backlogged && !s.pending.contains .drrRound then s.due [.drrRound] else s

/-- Launches that are complete, and whose end waited for their statistics record, try again (R201). Log entry 59. -/
def State.settleComplete (s : State) : State :=
  (s.ctxs.flatMap fun c => (c.launches.filter Launch.complete).map fun l => (c.id, l.id)).foldl (fun s k => s.settleLaunch 4096 k.1 k.2) s

/-- DRR_ROUND (R345). -/
def execDrrRound (s : State) : Out :=
  let s := s.settleComplete
  .next ((s.ctxs.flatMap fun c => c.queues.map fun q => (c.id, q.num)).foldl (fun s k => s.drrQueue k.1 k.2) s).kickRack

/-- R345: the estimate charged when the block was handed down is given back, the cost charged. A task was never estimated (R344). Log entry 34. -/
def State.costCharge (s : State) (b : BlkId) (cost : Nat) : State :=
  match s.ctx? b.ctx with
    | none => s
    | some c =>
      match c.launch? b.launch with
      | none => s
      | some l =>
        match c.queue? l.q with
        | none => s
        | some x =>
          let e := if b.task then 0 else l.ests.get 0 (b.idx / 64)
          let v := x.def_ + Int.ofNat e - Int.ofNat cost
          let lo : Int := -Int.ofNat (8 * s.quantum c x)
          let s := if v < lo then s.clamp else s
          let s := s.modQueue c.id l.q fun x => { x with def_ := max v lo }
          if b.task then s
          else
            let is := fun (k : Nat × W64 × Nat × Nat) => k.1 == c.id && k.2.1 == l.entry
            let ests := if s.rack.ests.any is then updFirst is (fun k => (k.1, k.2.1, k.2.2.1 + cost, k.2.2.2 + 1)) s.rack.ests
              else s.rack.ests ++ [(c.id, l.entry, cost, 1)]
            { s with rack := { s.rack with ests := ests } }

/-- BLOCK_COST_CHARGE (R345): then the rack distributor goes on. Log entry 34. -/
def execBlockCostCharge (b : BlkId) (cost : Nat) (s : State) : Out := .next (s.costCharge b cost).kickRack

/-! ## LAUNCH (R341, R342, R356) -/

def Launch.ofPacket (c : Ctx) (x : Queue) (p : Packet) : Launch :=
  let l : Launch :=
    { id := c.nlaunch, q := p.q, lser := p.q % 16 * 2 ^ 12 + (x.nread + 1) % 2 ^ 12, slot := p.slot % 2 ^ x.logs, words := p.words,
      phase := x.phase, prev := (c.launches.reverse.find? fun l => l.q == p.q).map (·.id), nblk := 0, next := 0, out := 0, tasks := 0,
      bad := false, fallback := false, fbcount := 0, ended := false, stats := [], ests := [] }
  { l with nblk := l.grid }

/-! TMAP (R354). -/
def sgn16 (n : Nat) : Int := (BitVec.ofNat 16 n).toInt
def Launch.tbw (l : Launch) : Nat := l.f 12 48 16 + l.f 13 0 16 * 2 ^ 16
def Launch.tb (l : Launch) : Nat := l.tbw % 2 ^ 18
def Launch.nt (l : Launch) : Nat := l.tbw / 2 ^ 18 % 2 ^ 5 + 1
def Launch.tgen (l : Launch) : Nat := l.f 13 16 20

/-- R354: the first tile of block b. -/
def Launch.tile0 (l : Launch) (b : Nat) : Int :=
  let (x, y, z) := l.coord b
  Int.ofNat l.tb + sgn16 (l.f 12 0 16) * x + sgn16 (l.f 12 16 16) * y + sgn16 (l.f 12 32 16) * z

/-- R51: a declared range breaks no rule. -/
def DRange.ok (d : DRange) (w0 w1 : W64) : Bool := if d.acc = 0 then w0 == 0 && w1 == 0 else d.rsvd == 0 && d.len != 0

/-- R342: a launch record is valid. -/
def Launch.valid (l : Launch) (c : Ctx) : Bool :=
  let g := l.grid
  let col := match c.bind? l.colbuf with
    | some b => (l.range 0).acc != 0 && (l.range 0).perblk && (l.range 0).len == b.chb
    | none => false
  -- reserved fields and codes
  l.f 0 8 8 == 0 && l.f 0 40 24 == 0 && l.f 1 57 7 == 0 && l.f 3 60 4 == 0 && l.f 4 14 18 == 0 && l.f 7 57 7 == 0 && l.f 14 37 27 == 0
  && l.w 15 == 0 && l.dep != 3
  -- dimensions
  && g != 0 && l.threads != 0 && decide (l.threads ≤ 1024) && decide (1 ≤ l.csize) && decide (l.csize ≤ 8)
  && l.gx % l.cx == 0 && l.gy % l.cy == 0 && l.gz % l.cz == 0
  -- scratchpad and stacks
  && decide (l.sgr ≤ 256) && l.stksz % 16 == 0 && decide (l.stktop < 2 ^ 48)
  && (l.stksz == 0 || decide ((g * l.wpb + 1) * l.stksz ≤ l.stktop))
  -- declared ranges
  && ((List.range 8).all fun r => (l.range r).ok (l.w (16 + 2 * r)) (l.w (17 + 2 * r)))
  && (!l.plv || ((l.range l.plr).acc != 0 && (l.range l.plr).perblk))
  -- tags
  && decide (l.tlo + l.tn ≤ c.tagCnt)
  && (if l.dep = 2 then l.tbw / 2 ^ 23 == 0 && l.f 13 36 12 == 0 && l.f 13 48 16 == 0 else l.w 12 == 0 && l.w 13 == 0)
  -- collectives, the log
  && (!l.colv || col)
  && (c.logmode == 0 || decide (g ≤ 2 ^ 53))

/-- R356: the producer range is reserved in every Cassette of the partition, or the launch falls back. -/
def State.reserve (s : State) (c : Ctx) (l : Launch) : State :=
  if l.tn = 0 then s
  else
    let e := c.tagBase + l.tlo
    let taken := s.pkgs.any fun p => c.pkgs.contains p.id && p.resv.any fun r => decide (r.2.2.1 < e + l.tn) && decide (e < r.2.2.1 + r.2.2.2)
    if taken then s.modCtx c.id fun c => c.modLaunch l.id fun l => { l with fallback := true }
    else
      let put := fun (p : Pkg) => if c.pkgs.contains p.id then { p with resv := p.resv ++ [(c.id, l.id, e, l.tn)] } else p
      { s with pkgs := s.pkgs.map put }

/-- LAUNCH: the record is read, checked, its producer range reserved; one with DEP other than 00 is handed down at once. Log entry 59. -/
def execLaunch (p : Packet) (s : State) : Out :=
  .next (s.atPacket p fun s c x =>
    if x.unread < 4 then s
    else
      let l := Launch.ofPacket c x p
      let enter := fun (l : Launch) (c : Ctx) =>
        { c.modQueue p.q (fun x => { x with nread := x.nread + 1 }) with launches := c.launches ++ [l], nlaunch := c.nlaunch + 1 }
      let failed := l.dep != 0 && (match l.prev.bind c.launch? with | some k => k.bad | none => false)
      let s :=
        if !l.valid c then
          (s.modCtx c.id (enter { l with nblk := 0, bad := true, ended := true })).launchBadRecord c.id l 0
        else if failed then
          ((s.modCtx c.id (enter { l with next := l.nblk, bad := true })).launchBadRecord c.id l 1).settleLaunch 4096 c.id l.id
        else
          let s := (s.modCtx c.id (enter l)).reserve c l
          ((if l.dep != 0 then s.spend l.nblk c.id p.q (some l.id) else s).kickRack).tagRelook c.id l.tlo l.tn
      s.advanceQueue p.ctx p.q 4)

/-- CHUNK_APPEND (R347): the package distributor appends each block to the list of its key's die, ascending within a launch. Log entry 62. -/
def listPut (b : BlkId) (l : List BlkId) : List BlkId :=
  let later := fun (i : BlkId) => i.ctx == b.ctx && i.launch == b.launch && decide (b.idx < i.idx)
  l.takeWhile (fun i => !later i) ++ b :: l.dropWhile fun i => !later i

def execChunkAppend (ctx launch pkg : Nat) (idxs : List Nat) (s : State) : Out :=
  .next (match s.ctx? ctx with
    | none => s
    | some c =>
      match c.launch? launch with
      | none => s
      | some l =>
        if l.bad || c.life != .live then
          (s.modCtx ctx fun c => c.modLaunch launch fun l => { l with out := l.out - idxs.length }).settleLaunch 4096 ctx launch
        else
          let add := fun (s : State) (i : Nat) =>
            let key := s.placeKey c l i
            let b := l.blk ctx i key (pkg, key.2)
            ({ s with blks := s.blks ++ [b] }).modDie pkg key.2 fun d => { d with list := listPut b.id d.list }
          let s := idxs.foldl add s
          s.kickDies)

end Sys2Proof.Machine
end

