-- ==== Sys2Proof/Machine/Distrib.lean ====
section
/-! DEFINITION. Distributors: intensity classes, die rounds, clusters, phase cleans, stealing, the tray distributor, and the start of a
block (spec/13_scheduling.md R346 to R356, spec/04_hierarchy.md R95 to R97). -/

namespace Sys2Proof.Machine

/-! ## Intensity classes (R346) -/

inductive Class where
  | compute | memory | mixed
  deriving DecidableEq, Repr

/-- The class of an ENTRY in a package. Log entry 61. -/
def State.classOf (s : State) (pkg ctx : Nat) (entry : W64) : Class :=
  match (s.pkg? pkg).bind fun p => p.klass.find? fun k => k.1 == ctx && k.2.1 == entry with
  | none => .mixed
  | some k =>
    let bytes := k.2.2.2.1
    let ops := max 1 k.2.2.2.2
    if k.2.2.1 < 64 then .mixed
    else if bytes * 64 < ops then .compute
    else if ops < bytes * 4 then .memory
    else .mixed

/-- The class whose blocks a class prefers beside it. -/
def Class.complement (c : Class) : Option Class := match c with | .compute => some .memory | .memory => some .compute | .mixed => none

/-- A use of the table's entry: it becomes the most recently used. Log entry 61. -/
def State.useClass (s : State) (pkg ctx : Nat) (entry : W64) : State :=
  let is := fun (k : Nat × W64 × Nat × Nat × Nat) => k.1 == ctx && k.2.1 == entry
  s.modPkg pkg fun p => { p with klass := p.klass.filter is ++ p.klass.filter fun k => !is k }

/-! ## Choosing cores (R348, R349, R350) -/

/-- The cores of a die, in ascending ID. -/
def State.dieCores (s : State) (pkg die : Nat) : List CoreId :=
  (List.range 48).filterMap fun i => if (s.core? ⟨pkg, die, i⟩).isSome then some ⟨pkg, die, i⟩ else none

/-- A core's rank in the choice: complementary class first, then fewest resident waves. -/
def State.coreRank (s : State) (b : Blk) (c : CoreId) : Nat × Nat :=
  let comp := (s.classOf c.pkg b.id.ctx b.entry).complement
  let has := comp.isSome && s.blks.any fun x => decide (x.core = c) && x.holds && x.state != .over && !x.id.task && some (s.classOf c.pkg x.id.ctx x.entry) == comp
  ((!has).toNat, (s.occupants c).length)

def rankLt (a b : Nat × Nat) : Bool := decide (a.1 < b.1) || (a.1 == b.1 && decide (a.2 < b.2))

/-- The core for one block, among some: the best of those it fits, the lowest ID on a tie, with its waves' quadrants. Log entry 61. -/
def State.bestCore (s : State) (b : Blk) (cs : List CoreId) : Option (CoreId × List Nat) :=
  cs.foldl (fun best c =>
    match s.fits c b.cap b.nwaves b.size with
    | none => best
    | some q => match best with
      | none => some (c, q)
      | some x => if rankLt (s.coreRank b c) (s.coreRank b x.1) then some (c, q) else best) none

/-- Distinct cores for the blocks of a cluster, in rank order. -/
def State.clusterCores (s : State) (bs : List Blk) (cs : List CoreId) : Option (List (BlkId × CoreId × List Nat)) :=
  match bs with
  | [] => some []
  | b :: r => match s.bestCore b cs with
    | none => none
    | some (c, q) => (s.clusterCores r (cs.filter fun x => !decide (x = c))).map fun l => (b.id, c, q) :: l

/-- R349: the lowest region in which the whole cluster fits. -/
def State.clusterPlaces (s : State) (bs : List Blk) (cs : List CoreId) : Option (List (BlkId × CoreId × List Nat)) :=
  (List.range 6).findSome? fun r => s.clusterCores bs (cs.filter fun c => regionOf c == r)

/-- R152: the core the PLACE record of a block names: the next at the die's order point, or for the blocks of a cluster the record in
the window. -/
def State.recordedCore (s : State) (c : Ctx) (pkg die : Nat) (b : BlkId) (next : Bool) : Option Nat :=
  let lp := c.logical pkg
  let opt := optId 6 lp die 0
  let is := fun (r : List W64) => recTyp r == 0x08 && !recTk r && recIid r == b.idx % 2 ^ 53
  if next then (match s.nextRec c lp opt with | some r => if is r then some ((recPay r).toNat % 64) else none | none => none)
  else ((c.ring? lp).bind fun r => r.window.find? fun x => recOpt x == opt && is x).map fun r => (recPay r).toNat % 64

/-! ## Placing (R53, R348, R354) -/

/-- A block is placed on a core: it holds the core's resources and requests its leases. Log entry 61. -/
def State.placeBlk (s : State) (l : Launch) (x : BlkId × CoreId × List Nat) : State :=
  match s.blk? x.1, s.ctx? x.1.ctx with
  | some b, some c =>
    let core := x.2.1
    let waves := x.2.2.zipIdx.map fun p => l.wave b.id core p.1 p.2
    let s := (s.modDie core.pkg core.die fun d => { d with list := d.list.filter fun i => !decide (i = b.id) }).useClass core.pkg b.id.ctx b.entry
    let s := s.modBlk b.id fun b => { b with state := .placed, core := core, image := waves, at_ := (core.pkg, core.die) }
    let s := s.kickRefill core
    (match s.leaseReqsAll c b.id core.pkg core.die b.intervals with
     | .error va =>
       (s.due [.trapRecordPost c.id { ctxRecord 0x16 0 (BitVec.ofNat 64 va) 0 0 l.lser with pkg := core.pkg, die := core.die }]).failLaunch c.id l.id
     | .ok [] => s.due [.blockStart b.id]
     | .ok ls => (s.modBlk b.id fun b => { b with wanted := ls }).due (ls.map (fun r => .leaseRequest r) ++ if l.dep = 2 then [.blockStart b.id] else []))
  | _, _ => s

/-- R354: tiles of block b from t0 on that lie outside the window. Log entry 36. -/
def Launch.tileOut (l : Launch) (c : Ctx) (b : Nat) : Option Int :=
  if l.dep != 2 then none
  else ((List.range l.nt).map fun i => l.tile0 b + Int.ofNat i).find? fun t => decide (t < 0) || decide (Int.ofNat c.tagCnt ≤ t)

/-- A tag word for a record (R325): index and generation. Log entry 36. -/
def tileWord (t : Int) (gen : Nat) : W64 := BitVec.ofNat 64 ((t % 2 ^ 18).toNat + gen * 2 ^ 18)

/-! ## Phase order (R96, R97) -/

def Ctx.phaseOpen (c : Ctx) (l : Launch) : Bool :=
  !(c.launches.any fun e => e.q == l.q && decide (e.id < l.id) && e.phase != l.phase && !e.ended)

def phaseKey (ctx q : Nat) : Nat := 64 * ctx + q

/-- A phase clean of the die for the context is under way. Log entry 60. -/
def State.cleaning (s : State) (pkg die ctx : Nat) : Bool :=
  s.pending.any fun e => match e with | .phaseClean p d c _ _ => p == pkg && d == die && c == ctx | _ => false

/-- PHASE_CLEAN (R97): the context's buffers drain and its writes in flight are acknowledged; then G and every GL of the die are bumped
and the phase recorded. Log entries 9, 60. -/
def execPhaseClean (pkg die ctx q ph : Nat) (s : State) : Out :=
  match s.die? pkg die with
  | none => .fault .noSuchUnit
  | some _ =>
    let here := fun (c : CoreId) => c.pkg == pkg && c.die == die
    let bufs := s.cores.flatMap fun k => if here k.id then (k.wc.filter fun b => b.ctx == ctx).map fun b => Instr.wcBufferDrain k.id b.ia else []
    let flying := s.ops.any fun o => o.store && o.ctx == ctx && (match s.wave? o.wave with | some w => here w.core | none => false)
    let flying := flying || s.onWay.any fun q => q.kind == .store && q.ctx == ctx && here q.src
    if !bufs.isEmpty || flying then .next (s.due ((bufs.filter fun e => !s.pending.contains e) ++ [.phaseClean pkg die ctx q ph]))
    else
      let bump := fun (k : Core) => if here k.id then k.bump ctx else k
      let rec_ := fun (d : Die) => { d.bump ctx with phase := d.phase.set 0 (phaseKey ctx q) ph }
      .next ((({ s with cores := s.cores.map bump }).modDie pkg die rec_).kickDie pkg die)

/-! ## DIE_DISTRIBUTOR_ROUND (R348 to R350) -/

/-- The blocks an entry of the list stands for: its cluster, where every block of it is in the list. Log entry 62. -/
def State.entryBlks (s : State) (d : Die) (b : Blk) : Option (List Blk) :=
  if b.cluster.isEmpty then some [b]
  else if b.cluster.all d.list.contains then some (b.cluster.filterMap s.blk?) else none

/-- The places the round gives an entry; in replay those its PLACE records name, for a cluster distinct cores of one region (R13, R152). -/
def State.entryPlaces (s : State) (c : Ctx) (d : Die) (bs : List Blk) (isHead : Bool) : Option (List (BlkId × CoreId × List Nat)) :=
  let cs := (s.dieCores d.pkg d.die).filter fun k => isHead || !s.drains k
  if c.replays then
    let named := bs.map fun b => s.recordedCore c d.pkg d.die b.id (bs.length == 1)
    let due := bs.any fun b => (s.recordedCore c d.pkg d.die b.id true).isSome
    let one := fun (b : Blk) (k : Option Nat) => match k with
      | some i => (s.bestCore b [⟨d.pkg, d.die, i⟩]).map fun x => (b.id, x)
      | none => none
    let cores := named.filterMap id
    let apart := decide cores.Nodup && decide ((cores.map fun k => k / 8).dedup.length ≤ 1)
    if due && apart then (bs.zip named).foldr (fun p acc => match one p.1 p.2, acc with | some x, some l => some (x :: l) | _, _ => none) (some []) else none
  else match bs with
    | [b] => (s.bestCore b cs).map fun x => [(b.id, x)]
    | _ => s.clusterPlaces bs cs

/-- The drain of a die ends (R350), and its cores look again at their deques. Log entry 62. -/
def State.endDrain (s : State) (pkg die : Nat) : State :=
  let t := s.modDie pkg die fun d => { d with age := 0, drain := none }
  match (s.die? pkg die).bind fun d => d.drain with
  | some _ => (s.dieCores pkg die).foldl State.kickTask t
  | none => t

/-- R362: a launch whose gate is a failed one starts nothing. -/
def Ctx.gateFailed (c : Ctx) (l : Launch) : Bool := l.dep != 0 && (match l.prev.bind c.launch? with | some p => p.bad | none => false)

/-- One entry of the list is tried. A tile outside the window is found where the blocks would be placed (R354); the drain of a region ends
when the head is placed (R350). -/
def State.tryEntry (s : State) (pkg die : Nat) (head : Option BlkId) (id : BlkId) : State :=
  match s.die? pkg die, s.blk? id, s.ctx? id.ctx with
  | some d, some b, some c =>
    match c.launch? id.launch, s.entryBlks d b with
    | some l, some bs =>
      if !d.list.contains id || l.bad || c.gateFailed l || !c.places pkg || !c.phaseOpen l || s.cleaning pkg die c.id then s
      else if d.phase.get 0 (phaseKey c.id l.q) ≠ l.phase then s.due [.phaseClean pkg die c.id l.q l.phase]
      else
        let isHead := head == some (match bs with | x :: _ => x.id | [] => id) || head == some id
        match s.entryPlaces c d bs isHead, bs.findSome? fun x => l.tileOut c x.id.idx with
        | none, _ => s
        | some _, some t =>
          let r := { ctxRecord 0x0F 0 (tileWord t l.tgen) 0 0 l.lser with pkg := pkg, die := die }
          (s.due [.trapRecordPost c.id r]).failLaunch c.id l.id
        | some ps, none => ps.foldl (fun s p => s.placeBlk l p) (if isHead then s.endDrain pkg die else s)
    | _, _ => s
  | _, _, _ => s

/-- R153: a block cannot be held by an empty core. -/
def Blk.tooBig (b : Blk) : Bool := (assignQuads [] b.cap b.nwaves).isNone || decide (2 ^ 20 < b.size)

/-- R153: a PLACE record that names a core outside the partition, or one that cannot hold the block when empty. Log entry 69. -/
def State.placeOut (s : State) (pkg die : Nat) : State :=
  s.ctxs.foldl (fun s c =>
    if c.replays && c.dies.any fun d => d.2.1 == pkg && d.2.2 == die then
      let lp := c.logical pkg
      match s.nextRec c lp (optId 6 lp die 0) with
      | some r =>
        let big := s.blks.any fun b => b.id.ctx == c.id && b.id.task == recTk r && b.id.idx % 2 ^ 53 == recIid r && b.tooBig
        if recTyp r = 0x08 ∧ ((s.core? ⟨pkg, die, (recPay r).toNat % 64⟩).isNone ∨ 48 ≤ (recPay r).toNat % 64 ∨ big) then
          s.diverge c.id 1 (bareDiverge 1 pkg (recOpt r) (recLser r)) [] r else s
      | none => s
    else s) s

/-- R350: the region that drains: most cores, lowest number. Log entry 62. -/
def State.drainRegion (s : State) (pkg die : Nat) : Nat :=
  let n := fun r => ((s.dieCores pkg die).filter fun c => regionOf c == r).length
  (List.range 6).foldl (fun best r => if n best < n r then r else best) 0

/-- The age of the cluster at the head, after a round that left it there. Log entry 62. -/
def State.ageHead (s : State) (pkg die : Nat) (was : Option BlkId) : State :=
  match s.die? pkg die with
  | none => s
  | some d =>
    let head := d.list.head?
    let clus := match head.bind s.blk? with | some b => !b.cluster.isEmpty | none => false
    let s := if !clus || head != was then s.endDrain pkg die else s
    if !clus then s
    else
      let age := (if head == was then d.age else 0) + 1
      let was := if head == was then d.drain else none
      let drain := if 4096 ≤ age && was.isNone then some (s.drainRegion pkg die) else was
      (s.modDie pkg die fun d => { d with age := age, drain := drain }).kickDie pkg die

/-- R152: a block of the list whose PLACE record is not next waits at the die's order point. Log entry 70. -/
def State.roundWaits (s : State) (pkg die : Nat) : State :=
  let ev := dieRound pkg die
  let waits := fun (d : Die) (i : BlkId) =>
    match s.ctx? i.ctx with
    | some c =>
      let open_ := match c.launch? i.launch with | some l => !l.bad && c.phaseOpen l | none => false
      c.replays && c.places pkg && open_ && !d.list.any fun j => j.ctx == c.id && (s.recordedCore c pkg die j true).isSome
    | none => false
  match (s.die? pkg die).bind fun d => d.list.find? (waits d) with
  | some i =>
    let lp := match s.ctx? i.ctx with | some c => c.logical pkg | none => 0
    s.placeWait (s.blkEv lp (optId 6 lp die 0) 0x08 i 0) ev
  | none => { s with held := s.held.filter fun h => h.ev != ev }

/-- DIE_DISTRIBUTOR_ROUND: the head of the list, then every later entry. Log entry 60. -/
def execDieDistributorRound (pkg die : Nat) (s : State) : Out :=
  match s.die? pkg die with
  | none => .fault .noSuchUnit
  | some d =>
    let s := s.placeOut pkg die
    let s := d.list.foldl (fun s i => s.tryEntry pkg die (match s.die? pkg die with | some x => x.list.head? | none => none) i) s
    .next ((s.roundWaits pkg die).ageHead pkg die d.list.head?)

/-! ## Stealing (R351, R352, R157) -/

/-- The blocks at the end of a die's list that a steal for a context takes: the last cluster, or the last blocks, at most 4; the victim holds more
than 4 blocks of the context, or more than one cluster (R351). Log entry 63. -/
def State.stealTail (s : State) (c : Ctx) (d : Die) : List BlkId :=
  let mine := d.list.filter fun i => i.ctx == c.id
  let clus := fun (i : BlkId) => match s.blk? i with | some b => b.cluster | none => []
  let clusters := ((mine.map clus).filter fun l => !l.isEmpty).dedup.length
  match mine.getLast? with
  | none => []
  | some t =>
    if mine.length ≤ 4 ∧ clusters ≤ 1 then []
    else if (clus t).isEmpty then ((mine.reverse.takeWhile fun i => (clus i).isEmpty).take 4).reverse
    else if (clus t).all mine.contains then clus t else []

/-- The die of a package with the longest list of a context, the lowest ID on ties. Log entry 63. -/
def State.longest (s : State) (c : Ctx) (pkg : Nat) (not_ : Option Nat) : Option Die :=
  (s.dies.filter fun d => d.pkg == pkg && not_ != some d.die).foldl (fun best d => match best with
    | none => some d
    | some x =>
      let n := fun (y : Die) => (y.list.filter fun i => i.ctx == c.id).length
      if n x < n d ∨ (n x = n d ∧ d.die < x.die) then some d else best) none

/-- The steal that the STEAL record next at a point asks for: the blocks, from the first one it names, in a list of the victim. Log entry 63. -/
def State.recordedSteal (s : State) (c : Ctx) (lpkg opt : Nat) (victim : Nat → Nat → Nat) : Option (List BlkId × Nat) :=
  match s.nextRec c lpkg opt with
  | none => none
  | some r =>
    if recTyp r ≠ 0x09 ∨ recTk r then none
    else
      let v := (recPay r).toNat % 2 ^ 32
      let n := (recPay r).toNat / 2 ^ 32 % 2 ^ 16
      s.dies.findSome? fun d =>
        if victim d.pkg d.die = v then
          let rest : List BlkId := (d.list.filter fun i => i.ctx == c.id).dropWhile fun i => i.idx % 2 ^ 53 != recIid r
          if rest.length ≥ n ∧ n > 0 then some (rest.take n, v) else none
        else none

/-- The steal is made: the blocks move to the thief's list, keeping their keys. -/
def State.moveBlks (s : State) (pkg die : Nat) (ids : List BlkId) : State :=
  let strip := fun (d : Die) => { d with list := d.list.filter fun i => !ids.contains i }
  let put := fun (d : Die) => { d with list := d.list ++ ids }
  let s := ({ s with dies := s.dies.map strip }).modDie pkg die put
  (ids.foldl (fun s i => s.modBlk i fun b => { b with at_ := (pkg, die) }) s).kickDie pkg die

/-- The thief has room for the block on some core. -/
def State.stealRoom (s : State) (pkg die : Nat) (ids : List BlkId) : Bool :=
  match ids.head?.bind s.blk? with | some b => (s.bestCore b (s.dieCores pkg die)).isSome | none => false

/-- One STEAL event of the thief's distributor. Log entry 63. -/
def State.stealAt (s : State) (c : Ctx) (opt pkg die : Nat) (ev : Instr) (ids : List BlkId) (victim : Nat) : State :=
  match ids with
  | [] => s
  | i :: _ =>
    let pay := BitVec.ofNat 64 (victim + ids.length * 2 ^ 32)
    let e := { s.blkEv (c.logical pkg) opt 0x09 i pay with pay := pay }
    s.atPoint e ev fun s => (s.moveBlks pkg die ids, pay)

/-- STEAL_WITHIN_PACKAGE: an idle die takes blocks from the sibling with the longest list; in replay, as the STEAL record next says
(R157). -/
def execStealWithinPackage (pkg die : Nat) (s : State) : Out :=
  match s.die? pkg die with
  | none => .fault .noSuchUnit
  | some d =>
    .next (
        let pick := fun (c : Ctx) =>
          let lp := c.logical pkg
          let opt := optId 6 lp die 0
          if !c.places pkg || !c.dies.any (fun x => x.2.1 == pkg && x.2.2 == die) then none
          else if c.replays then
            (s.recordedSteal c lp opt fun p e => if p = pkg then optId 6 lp e 0 else 0).map fun x => (c, opt, x.1, x.2)
          else if !d.list.isEmpty then none
          else match s.longest c pkg (some die) with
            | none => none
            | some v =>
              let ids := s.stealTail c v
              if ids.isEmpty || !s.stealRoom pkg die ids then none else some (c, opt, ids, optId 6 lp v.die 0)
        match s.ctxs.findSome? pick with
        | some (c, opt, ids, v) => s.stealAt c opt pkg die (.stealWithinPackage pkg die) ids v
        | none => s)

/-- The package whose tray distributor works in a tray: slot 0, or slot 1 after a takeover (R26, R352). -/
def State.trayHead (s : State) (tray : Nat) : Nat := if s.rack.slot1.contains tray then 4 * tray + 1 else 4 * tray

def State.trayUp (s : State) (tray : Nat) : Bool :=
  match s.pkg? (s.trayHead tray) with | some p => !p.failed && !s.rack.lost.contains p.id | none => false

/-- R352: the victim named from the lengths reported: the package with the longest list of the context, where some package holds more than 4 of
its blocks. Log entry 63. -/
def State.namedVictim (s : State) (c : Ctx) (thief : Nat) (wide : Bool) : Option Nat :=
  let ps := (s.pkgs.map fun p => p.id).filter fun p => p != thief && c.pkgs.contains p && (wide || p / 4 == thief / 4)
  let lens := fun (p : Nat) => (s.rack.lens.filter fun x => x.1 == c.id && x.2.1 == p).map fun x => x.2.2.2
  let n := fun (p : Nat) => (lens p).foldl max 0
  let best := ps.foldl (fun b p => match b with
    | none => some p
    | some q => if n q < n p ∨ (n q = n p ∧ p < q) then some p else b) none
  if ps.any fun p => (lens p).sum > 4 then best else none

/-- STEAL_BETWEEN_PACKAGES: every die of the package is idle, its list empty and with room for one more block (R351); the tray distributor,
or the rack distributor through it, names the victim; in replay, the STEAL record next does (R157). -/
def execStealBetweenPackages (pkg die : Nat) (wide : Bool) (s : State) : Out :=
  match s.die? pkg die with
  | none => .fault .noSuchUnit
  | some _ =>
    .next (
        let mine := fun (c : Ctx) (d : Die) => d.pkg == pkg && c.dies.any fun x => x.2.1 == pkg && x.2.2 == d.die
        let idle := fun (c : Ctx) => s.trayUp (pkg / 4) && (s.dies.filter (mine c)).all fun d => d.list.isEmpty
        let rooms := fun (c : Ctx) (ids : List BlkId) => (s.dies.filter (mine c)).all fun d => s.stealRoom pkg d.die ids
        let pick := fun (c : Ctx) =>
          let lp := c.logical pkg
          let opt := optId 7 lp 0 0
          if !c.places pkg || !c.dies.any (fun x => x.2.1 == pkg && x.2.2 == die) then none
          else if c.replays then
            (s.recordedSteal c lp opt fun p _ => optId 7 (c.logical p) 0 0).map fun x => (c, opt, x.1, x.2)
          else if !idle c then none
          else match s.namedVictim c pkg wide with
            | none => none
            | some vp => match s.longest c vp none with
              | none => none
              | some v =>
                let ids := s.stealTail c v
                if ids.isEmpty || !rooms c ids then none else some (c, opt, ids, optId 7 (c.logical vp) 0 0)
        match s.ctxs.findSome? pick with
        | some (c, opt, ids, v) => s.stealAt c opt pkg die (.stealBetweenPackages pkg die wide) ids v
        | none => s)

/-! ## The tray distributor (R352) -/

/-- The packages of a tray. -/
def State.trayPkgs (s : State) (tray : Nat) : List Nat := (s.pkgs.map fun p => p.id).filter fun p => p / 4 == tray

def inTray (tray : Nat) (x : Nat × Nat × Nat × Nat) : Bool := x.2.1 / 4 == tray

/-- TRAY_LENGTH_COLLECT: per context, the length of every die's list in the tray. Log entry 65. -/
def execTrayLengthCollect (tray : Nat) (s : State) : Out :=
  if (s.trayPkgs tray).isEmpty then .fault .noSuchUnit
  else if !s.trayUp tray then .next s
  else
    let new := s.ctxs.flatMap fun c => (s.dies.filter fun d => d.pkg / 4 == tray).map fun d =>
      (c.id, d.pkg, d.die, (d.list.filter fun i => i.ctx == c.id).length)
    .next { s with rack := { s.rack with lens := (s.rack.lens.filter fun x => !inTray tray x) ++ new } }

/-- TRAY_COST_FORWARD: the block ends and costs gathered go to the rack distributor in order. Log entry 65. -/
def execTrayCostForward (tray : Nat) (s : State) : Out :=
  if (s.trayPkgs tray).isEmpty then .fault .noSuchUnit
  else if !s.trayUp tray then .next s
  else
    let mine := s.rack.costs.filter fun x => x.1 == tray
    .next (({ s with rack := { s.rack with costs := s.rack.costs.filter fun x => x.1 != tray } }).due
      (mine.map fun (x : Nat × BlkId × Nat) => Instr.blockCostCharge x.2.1 x.2.2)).kickRack

/-- TRAY_STANDBY_REFRESH: the standby in slot 1 copies the lengths. Log entry 65. -/
def execTrayStandbyRefresh (tray : Nat) (s : State) : Out :=
  if (s.trayPkgs tray).isEmpty then .fault .noSuchUnit
  else if !s.trayUp tray then .next s
  else
    let copy := (tray, s.rack.lens.filter (inTray tray))
    .next { s with rack := { s.rack with standby := (s.rack.standby.filter fun x => x.1 != tray) ++ [copy] } }

/-- TRAY_STANDBY_TAKEOVER: the package in slot 0 has failed; the standby goes on from its copy, and for good, also when the
package of slot 0 boots again. DESIGN CHOICE (log entry 113): the spec says nothing of a way back. Log entry 65. -/
def execTrayStandbyTakeover (tray : Nat) (s : State) : Out :=
  if (s.trayPkgs tray).isEmpty then .fault .noSuchUnit
  else if s.trayUp tray || s.rack.slot1.contains tray then .next s
  else
    let lens := match s.rack.standby.find? fun x => x.1 == tray with | some x => x.2 | none => []
    .next (({ s with rack := { s.rack with
      slot1 := s.rack.slot1 ++ [tray]
      lens := (s.rack.lens.filter fun x => !inTray tray x) ++ lens } }).due [.trayCostForward tray])

/-! ## BLOCK_START (R353 to R356) -/

def Ctx.producerOf (c : Ctx) (l : Launch) : Option Launch := l.prev.bind c.launch?

/-- R354, R356: the launch's blocks are gated by tiles. -/
def Ctx.tagGated (c : Ctx) (l : Launch) : Bool :=
  l.dep == 2 && (match c.producerOf l with | some p => p.tn != 0 && !p.fallback | none => true)

/-- R353: the gates other than tiles. Log entry 36. -/
def Ctx.depMet (c : Ctx) (l : Launch) : Bool :=
  l.dep == 0 || c.tagGated l || (match c.producerOf l with | some p => p.ended | none => true)

/-- The entries a block needs, as its package's Cassette holds them: window index, generation, scope. -/
def State.tilesOf (s : State) (c : Ctx) (l : Launch) (b : Blk) : List (Nat × Nat × Nat) :=
  (List.range l.nt).map fun i =>
    let t := (l.tile0 b.id.idx + Int.ofNat i).toNat
    let e := s.tagGet c b.core.pkg (c.tagBase + t)
    (t, e.1, e.2)

/-- R355: a stale tile. -/
def State.staleTile (s : State) (c : Ctx) (l : Launch) (b : Blk) : Option (Nat × Nat × Nat) :=
  if c.tagGated l then (s.tilesOf c l b).find? fun t => t.2.1 != l.tgen && !tagNewer l.tgen t.2.1 else none

def State.tilesReady (s : State) (c : Ctx) (l : Launch) (b : Blk) : Bool :=
  !c.tagGated l || (s.tilesOf c l b).all fun t => t.2.1 == l.tgen

/-- A placed block with its leases and gates. -/
def State.startReady (s : State) (c : Ctx) (l : Launch) (b : Blk) : Bool :=
  b.state == .running || (b.state == .placed && b.wanted.isEmpty && c.depMet l && s.tilesReady c l b)

/-- R95: non-home copies in the die of lines in the block's read intervals become invalid. -/
def State.dropReads (s : State) (b : Blk) : State :=
  let spans := b.leases.filter fun l => b.intervals.any fun i => i.base == l.va && i.acc != 2
  let hit := fun (x : Line) => x.ctx == b.id.ctx && spans.any fun l => decide (l.ia < x.ia + 64) && decide (x.ia < l.ia + l.len)
  let drop := fun (d : Die) =>
    { d with l2 := (d.l2.filter fun x => !hit x || x.pin.isSome).map fun x => if hit x then { x with stale := true } else x }
  s.modDie b.core.pkg b.core.die drop

/-- The block starts: its waves become resident, the core's GL is bumped and instruction fetch sees the code stored before (R225);
a tag of a scope wider than .die drops copies first. -/
def State.startBlk (s : State) (c : Ctx) (l : Launch) (b : Blk) : State :=
  let wide := c.tagGated l && (s.tilesOf c l b).any fun t => decide (2 ≤ t.2.2)
  let s := (if wide then s.dropReads b else s).schedule c.id
  let s := { s with waves := s.waves ++ b.image, seq := s.seq + 1 }
  let s := s.modBlk b.id fun b => { b with state := .running, image := [] }
  let s := s.modCore b.core fun k => { k with iseq := s.seq }
  (s.acquireBump c.id b.core .die).kickRefill b.core

/-- One block's start: its PLACE event. -/
def State.startOne (s : State) (i : BlkId) : State :=
  match s.blk? i, s.ctx? i.ctx with
  | some b, some c =>
    match c.launch? i.launch with
    | none => s
    | some l =>
      if b.state != .placed then s
      else
        let lp := c.logical b.core.pkg
        s.atPoint (s.blkEv lp (optId 6 lp b.core.die 0) 0x08 i 0) (.blockStart i) fun s => (s.startBlk c l b, BitVec.ofNat 64 b.core.core)
  | _, _ => s

/-- BLOCK_START: a stale tile of a placed block fails the launch, whether its leases are there or not (R355); a block, with its cluster, starts
when all are ready. -/
def execBlockStart (i : BlkId) (s : State) : Out :=
  .next (match s.blk? i, s.ctx? i.ctx with
    | some b, some c =>
      match c.launch? i.launch with
      | none => s
      | some l =>
        let grp := b.group.filterMap s.blk?
        if b.state != .placed || l.bad || c.gateFailed l || c.life != .live then s
        else match s.staleTile c l b with
          | some t =>
            let r := { ctxRecord 0x10 0 (BitVec.ofNat 64 t.1) (BitVec.ofNat 64 l.tgen) (BitVec.ofNat 64 t.2.1) l.lser with
              pkg := b.core.pkg, die := b.core.die }
            (s.due [.trapRecordPost c.id r]).failLaunch c.id l.id
          | none =>
            if grp.length != b.group.length || !grp.all (s.startReady c l) then s
            else if c.preempting then s
            else if c.off.contains b.core.pkg then
              let mark : Nat × Trig := (b.core.pkg, .event (.blockStart i))
              if c.trig.contains mark then s else s.modCtx c.id fun c => { c with trig := c.trig ++ [mark] }
            else grp.foldl (fun s x => s.startOne x.id) s
    | _, _ => s)

end Sys2Proof.Machine
end

