-- ==== Sys2Proof/Machine/Preempt.lean ====
section
/-! DEFINITION. Pre-emption, the save engine, restore and context switch (spec/13_scheduling.md R357, R358,
spec/14_traps_preemption.md R368 to R370, spec/12_isa_async.md R328, R329), and the events of the log rings: drains, END records, the
replay reader and its hold limit (spec/06_order_log.md R148 to R156). -/

namespace Sys2Proof.Machine

/-! ## RACK_PREEMPTION (R156, R358) -/

/-- The PREEMPT record of a pre-emption (R144, R148); `full` that of the first full save in a package. -/
def preemptRec (seq count : Nat) (full : Bool) : List W64 :=
  [BitVec.ofNat 64 (0x0B + seq % 2 ^ 40 * 2 ^ 24), BitVec.ofNat 64 (optId 10 0 0 0), 0, BitVec.ofNat 64 (count % 2 ^ 32 + full.toNat * 2 ^ 32)]

/-- The rack distributor's record in every ring of a recording context, with one sequence number. -/
def State.logPreempt (s : State) (c : Ctx) : State :=
  if c.logmode != 1 then s
  else
    let opt := optId 10 0 0 0
    let ws := preemptRec (s.nextSeq c.id opt) c.preempts false
    (c.rings.foldl (fun s r => s.logSpecial c.id r.lpkg ws) s).bumpSeq c.id opt

/-- Saves of a context's blocks that wait: one event a group. -/
def State.kickSaves (s : State) (ctx : Nat) : State :=
  let heads := (s.blks.filter fun b => b.id.ctx == ctx && b.save && b.state == .running).map fun b => b.group.headD b.id
  s.due ((heads.dedup.map fun i => Instr.blockSave i).filter fun e => !s.pending.contains e)

/-- A placed block that has not started goes back to the head of its die's list; its leases are released. Log entry 68. -/
def State.unplace (s : State) (b : Blk) : State :=
  let s := s.modBlk b.id fun b => { b with state := .pending, image := [], leases := [], wanted := [] }
  (s.modDie b.core.pkg b.core.die fun d => { d with list := b.id :: d.list }).due (b.leases.map fun l => .leaseRelease l)

/-- The trays of a context whose distributors have yet to report its packages stopped: those that are down. A package that holds the partition
alone has no tray distributor apart (R2). -/
def State.mute (s : State) (c : Ctx) (trays : List Nat) : List Nat := trays.filter fun t => !s.trayUp t && !c.pkgs.all (s.alone c.id)

/-- R358 step 1: every tray has reported; a save is pending on every block of the context. Log entry 68. -/
def State.markSaves (s : State) (ctx : Nat) : State :=
  let placed := (s.blks.filter fun b => b.id.ctx == ctx && b.state == .placed).reverse
  let s := placed.foldl State.unplace s
  let mark := fun (b : Blk) => if b.id.ctx = ctx ∧ b.state = .running then { b with save := true, full := false } else b
  ({ s with blks := s.blks.map mark }).kickSaves ctx

/-- The reports of a context's trays are gathered (R352); with the last of them the saves begin. Log entry 68. -/
def State.gatherStops (s : State) (c : Ctx) (trays : List Nat) : State :=
  let left := s.mute c trays
  let s := { s with rack := { s.rack with stops := s.rack.stops.filter (fun (x : Nat × Nat) => x.1 != c.id) ++ left.map fun t => (c.id, t) } }
  if left.isEmpty then s.markSaves c.id else s.due [.rackPreemption c.id]

/-- RACK_PREEMPTION: placement stops, the start is logged, and once every tray has reported its packages stopped a save is pending on every
block of the context (R352, R358). A block that is placed and has not started goes back to its die's list. Log entry 68. -/
def execRackPreemption (ctx : Nat) (s : State) : Out :=
  .next (match s.ctx? ctx with
    | none => s
    | some c =>
      if c.life != .live then s
      else if c.preempting then
        (match (s.rack.stops.filter fun x => x.1 == ctx).map (·.2) with
         | [] => s
         | ts => s.gatherStops c ts)
      else
        let s := s.logPreempt c
        let start := fun (c : Ctx) =>
          { c with preempting := true, preempts := c.preempts + 1, rings := c.rings.map fun r => { r with preempt := false } }
        (s.modCtx ctx start).gatherStops c (c.pkgs.map fun p => p / 4).dedup)

/-- PREEMPTION_BOUND_EXPIRY: blocks not saved take a full save; their waves stop at the next clause boundary. Log entry 33. -/
def execPreemptionBoundExpiry (ctx : Nat) (s : State) : Out :=
  .next (
    let late := fun (b : Blk) => b.id.ctx == ctx && b.save && b.state == .running
    let ids := (s.blks.filter late).map fun b => b.id
    let stop := fun (w : Wave) => if ids.contains w.id.blk && w.run == .run && w.clause.isNone && !s.stops w then { w with run := .stopped } else w
    let full := fun (b : Blk) => if late b then { b with full := true } else b
    ({ s with wave := stop s.wave, waves := s.waves.map stop, blks := s.blks.map full }).kickSaves ctx)

/-! ## The save area (R369, R385) -/

/-- n bytes of IAs lie in always-resident ranges, in HBM frames of a function, of one package where it is named. -/
def State.residentIa (s : State) (fn : Nat) (rs : List Range) (ia n : Nat) (pkg : Option Nat) : Bool :=
  (pagesOf ia n).all fun p =>
    rs.any (fun r => r.valid && r.ares && decide (r.iaBase ≤ p) && decide (p < r.iaBase + (r.limVa - r.baseVa)))
    && s.entries.any fun e => e.ia == p && e.loc == 1 && fnOf e.owner == fn && (match pkg with | some k => e.home.pkg == k | none => true)

/-- The save area of a context in a logical package. -/
def Ctx.saveIa (c : Ctx) (lpkg : Nat) : Nat := c.save + 4096 * c.svsz * lpkg

/-- Every page of the area is as R385 wants it, and none has been moved. Log entry 66. -/
def State.saveAreaOk (s : State) (c : Ctx) (pkg : Nat) : Bool :=
  let lo := c.saveIa (c.logical pkg)
  let n := 4096 * c.svsz
  s.residentIa (fnOf c.id) c.ranges lo n (some pkg) && !c.moved.any fun p => decide (p < lo + n) && decide (lo < p + pageSize p)

/-- R385: a save or restore that meets a page the driver has moved fails: a record, and the context is torn down. -/
def State.saveFails (s : State) (c : Ctx) (pkg : Nat) : State :=
  let r := { ctxRecord 0x15 3 (BitVec.ofNat 64 (c.saveIa (c.logical pkg))) 0 0 0 with pkg := pkg, die := (((c.dies.find? fun d => d.2.1 == pkg).map fun d => d.2.2).getD 0) }
  (s.modCtx c.id fun c => { c with auto := true }).due [.trapRecordPost c.id r, .ctxcmdTeardown (fnOf c.id) (c.id % 1024)]

/-! ## What a save waits for (R358, R368) -/

/-- The block an event held at an order point belongs to. -/
def State.evBlk (s : State) (e : Instr) : Option BlkId :=
  match reqOf e with
  | some r => some r.wave.blk
  | none => match e with
    | .barrierArrivalRegister w _ _ _ _ => some w.blk
    | .flagCompletion i | .storeLanded i => (s.op? i).map fun o => o.wave.blk
    | .tagPublicationApply t => some t.who.blk
    | .copyArrival b _ => some b
    | .contributionCount c => (match c.src with | .mepi b _ => some b | .exit b => some b | .colsend i => (s.op? i).map fun o => o.wave.blk)
    | _ => none

/-- The events of a block held at order points. Log entry 66. -/
def State.heldOf (s : State) (b : BlkId) : List Held := s.held.filter fun h => s.evBlk h.ev == some b

/-- R368 step 1: an operation that is saved with its block: a wait of R358, an MLOOP or what is queued behind one, or an operation whose
event an order point holds in replay (R156); behind a full ring in record mode the save waits (R123). Log entry 48. -/
def State.savedOp (s : State) (b : Blk) (o : Op) : Bool :=
  let held := (match s.ctx? b.id.ctx with | some c => c.logmode == 2 | none => false) && (s.heldOf b.id).any fun h => match reqOf h.ev, h.ev with
    | some r, _ => r.op == o.id
    | none, .flagCompletion i => i == o.id
    | none, .storeLanded i => i == o.id
    | none, .contributionCount c => (match c.src with | .colsend i => i == o.id | _ => false)
    | _, _ => false
  let behind := b.tiles.any fun t => match t.2.queue with
    | m :: r => (match m.ins with | .mloop _ => m.op == o.id || r.any (fun x => x.op == o.id) | _ => false)
    | [] => false
  o.left != 0 && o.fault.isNone && (held || behind || (match o.ins with
    | .await _ => s.watches.any fun x => match x.who with | .await i _ => i == o.id | _ => false
    | .cwait _ => s.watches.any fun x => match x.who with | .cwait i _ => i == o.id | _ => false
    | .tagwait w => !w.try_
    | .xwait _ => true
    | _ => false))

/-- Requests of an operation are on their way, and no order point holds them. Log entry 33. -/
def State.opMoving (s : State) (id : Nat) : Bool :=
  (s.pending.filterMap reqOf ++ s.pageops.flatMap (fun p => p.reqs) ++ s.homes.flatMap fun h => h.rows.flatMap fun x => x.held).any
    fun r => r.op == id

/-- A reduction copy (R314). -/
def Cmd.isReduce (c : Cmd) : Bool := c.opc == 5

/-- Everything of a block that a save waits for is done: its waves have stopped, its memory operations, arrivals and reduction copies are
complete, its buffers drained. Log entry 66. -/
def State.saveReady (s : State) (b : Blk) : Bool :=
  let ws := s.allWaves.filter fun w => decide (w.id.blk = b.id)
  let ops := s.ops.filter fun o => decide (o.wave.blk = b.id)
  ws.all s.stops
  && ops.all (fun o => s.savedOp b o && !s.opMoving o.id)
  && !s.deferred.any (fun d => decide (d.wave.blk = b.id))
  && !s.pending.any (fun e => s.evBlk e == some b.id && (match e with | .copyArrival _ _ => false | _ => true))
  && s.wcQuiet b.core
  && b.cmds.all fun c => c.done || (!c.words.isEmpty && !c.isReduce)

/-! ## What a save keeps (R328, R329, R368) -/

/-- The scratch ranges a liveness record names: first byte and end. -/
def liveRanges (ws : List W64) : List (Nat × Nat) :=
  (List.range 4).filterMap fun q =>
    let x := (ws.getD (6 + q / 2) 0).toNat / 2 ^ (32 * (q % 2)) % 2 ^ 32
    if x / 2 ^ 31 = 1 then some (64 * (x % 2 ^ 14), 64 * (x % 2 ^ 14 + x / 2 ^ 14 % 2 ^ 14 + 1)) else none

/-- The scratch ranges that the records of a block's waves name; a wave stopped elsewhere names the whole allocation. -/
def namedRanges (b : Blk) (ws : List Wave) : List (Nat × Nat) :=
  ws.flatMap fun w => match w.live with | some r => liveRanges r | none => [(0, b.size)]

/-- A 64-byte unit lies in named ranges. -/
def unitNamed (rs : List (Nat × Nat)) (k : Nat) : Bool := rs.any fun r => decide (r.1 ≤ 64 * k) && decide (64 * k < r.2)

/-- Bytes lo to hi - 1 lie in named ranges. -/
def spanNamed (rs : List (Nat × Nat)) (lo hi : Nat) : Bool :=
  (List.range ((hi + 63) / 64 - lo / 64)).all fun i => unitNamed rs (lo / 64 + i)

/-- R368: ring, notify word, slot regions and sources of the commands not at DONE lie in named ranges. -/
def State.covered (s : State) (b : Blk) (rs : List (Nat × Nat)) : Bool :=
  let cs := b.cmds.filter fun c => !c.done
  let ring := cs.isEmpty || (spanNamed rs b.roff (b.roff + 32 * 2 ^ b.logn) && spanNamed rs b.noff (b.noff + 8))
  ring && (s.locksAt b.core).all fun k =>
    match k.by_, k.scr with
    | .cmd x i, some _ =>
      if x = b.id then (match b.cmd? i with | some c => if c.isRing || !k.dst then spanNamed rs k.lo (k.hi + 1) else true | none => true) else true
    | _, _ => true

/-- R329: the registers a record does not name hold zero. Log entry 66. -/
def Wave.keepLive (w : Wave) : Wave :=
  match w.live with
  | none => w
  | some r =>
    let bit := fun (i k : Nat) => (r.getD (i + k / 64) 0).getLsbD (k % 64)
    { w with
      v := w.v.filter fun p => bit 0 (p.1 / 32)
      o := w.o.filter fun p => bit 5 (p.1 / 32)
      s := w.s.filter fun p => bit 4 p.1 }

/-- The tiles a wave's record names. -/
def Wave.namesTile (w : Wave) (h : Nat) : Bool := match w.live with | some r => (r.getD 5 0).getLsbD (8 + h) | none => true

/-- A wave as it is saved: a sleep ends (R337), the counters start at zero again (R367). Log entry 66. -/
def Wave.saved (w : Wave) (full : Bool) : Wave :=
  let w := if full then w else w.keepLive
  { w with run := if w.run = .sleep then .run else w.run, waitC := 0, heldC := [] }

/-- R156: the held events of a saved block keep their places at their points, and hold no other event up. -/
def State.modHeldOut (s : State) (b : BlkId) : State :=
  { s with held := s.held.map fun h => if s.evBlk h.ev = some b then { h with again := true } else h }

/-- The save of one block: its state is written, its core's resources, Lockring entries and leases are released. Log entry 66. -/
def State.saveBlk (s : State) (b : Blk) : State :=
  let ws := s.allWaves.filter fun w => decide (w.id.blk = b.id)
  let rs := namedRanges b ws
  let full := b.full || !s.covered b rs
  let ops := s.ops.filter fun o => decide (o.wave.blk = b.id)
  let opIds := ops.map (·.id)
  let mineW := fun (x : Watch) => match x.who with | .await i _ => opIds.contains i | .cwait i _ => opIds.contains i | .task _ _ _ => false
  let mineK := fun (k : Lock) => match k.by_ with | .cmd x _ => decide (x = b.id) | .op i => opIds.contains i
  let idle := !full && b.cmds.all (fun c => c.done) && !spanNamed rs b.noff (b.noff + 8)
  let tile := fun (p : Nat × Tile) =>
    if full || !p.2.queue.isEmpty || ws.any (fun w => w.namesTile p.1) then p
    else (p.1, { p.2 with sums := [], nans := [], count := 0, anchor := none })
  let (n, s) := s.choose (2 ^ 40)
  let kept := fun (x : Blk) =>
    { x with
      state := .saved, save := false, full := full, was := x.core, image := ws.map fun w => w.saved full, images := ops, evs := (s.heldOf b.id).map fun h => h.ev
      locks := (s.locksAt b.core).filter mineK, waits := s.watches.filter mineW
      scratch := if full then x.scratch else x.scratch.filter fun p => unitNamed rs (p.1 / 64)
      -- the notify word of an idle ring that no record names holds zero, and so do its indices (R311, R329)
      wi := if idle then 0 else x.wi, ri := if idle then 0 else x.ri, cmds := if idle then [] else x.cmds
      tiles := x.tiles.map tile, leases := [], wanted := [], cycles := x.cycles + n }
  let lpkg := match s.ctx? b.id.ctx with | some c => c.logical b.core.pkg | none => 0
  let s := s.modHeldOut b.id
  let s := { s with
    wave := if s.wave.id.blk = b.id then Wave.idle else s.wave
    waves := s.waves.filter fun w => !decide (w.id.blk = b.id)
    ops := s.ops.filter fun o => !decide (o.wave.blk = b.id)
    watches := s.watches.filter fun x => !mineW x }
  let s := ((s.freeLocks b.core mineK).modBlk b.id kept).due (b.leases.map fun l => .leaseRelease l)
  let s := (s.kickTask b.core).kickRefill b.core
  match s.ctx? b.id.ctx with
  | some c =>
    let first := match c.ring? lpkg with | some r => !r.preempt | none => false
    if full && c.logmode == 1 && c.preempting && first then
      let seq := (s.nextSeq c.id (optId 10 0 0 0) + 2 ^ 40 - 1) % 2 ^ 40
      (s.modCtx c.id fun c => c.modRing lpkg fun r => { r with preempt := true }).logSpecial c.id lpkg (preemptRec seq (c.preempts - 1) true)
    else s
  | none => s

/-- BLOCK_SAVE: a block, with its cluster, is saved once its waves have stopped and what R368 waits for is done; until then the event stays
due. -/
def execBlockSave (i : BlkId) (s : State) : Out :=
  .next (match s.blk? i with
    | none => s
    | some b0 =>
      let grp := (b0.group.filterMap s.blk?).filter fun b => b.state == .running && !b.failed
      if !grp.any (fun b => b.save) then s
      else if grp.all s.saveReady then
        (match s.ctx? i.ctx with
         | some c => if s.saveAreaOk c b0.core.pkg then (grp.foldl (fun s b => s.saveBlk b) s).kickDies else s.saveFails c b0.core.pkg
         | none => s)
      else
        let drains := grp.flatMap fun b => s.drainsOf b.core
        s.due (drains ++ [.blockSave i]))

/-! ## BLOCK_RESTORE (R55, R133, R369) -/

/-- R369: a saved block fits a core; the quadrants its waves take. Log entry 67. -/
def State.savedFits (s : State) (b : Blk) (c : CoreId) : Option (List Nat) :=
  let acc := (b.tiles.filterMap fun t => t.2.grant.map fun g => g.1 * g.2).sum
  if acc ≤ s.accFree c ∧ s.lockRoom c b.locks.length then s.fits c b.cap b.image.length b.size else none

/-- The word at the location of a watch; one of a lane-interleaved stack lies in two groups (R43). -/
def State.keyWord (s : State) (x : Watch) : W64 :=
  let k := x.key
  if k % 2 = 0 then
    let h : HomeId := ⟨k / 2 / 2 ^ 56 / 16, k / 2 / 2 ^ 56 % 16⟩
    let ia := k / 2 % 2 ^ 56
    if x.il then (s.homeWord h (ia + 128)).extractLsb' 0 32 ++ (s.homeWord h ia).extractLsb' 0 32 else s.homeWord h ia
  else
    let off := k / 2 % 2 ^ 21
    let r := k / 2 / 2 ^ 21
    let id : BlkId := ⟨r / 2 ^ 97, r / 2 ^ 96 % 2 == 1, r / 2 ^ 64 % 2 ^ 32, r % 2 ^ 64⟩
    match s.blk? id with | some b => BitVec.ofNat 64 (leVal (b.scrRead off 8)) | none => 0

/-- The waits of a restored block are made afresh (R293, R324, R320, R326): each of its own watches that is met is answered. Log entry 67. -/
def State.remake (s : State) (b : Blk) : State :=
  let s := b.waits.foldl (fun (s : State) x => if s.watchMet x (s.keyWord x) then s.answerWatch x (s.keyWord x) else { s with watches := s.watches ++ [x] }) s
  let s := b.images.foldl (fun s o => match o.ins with | .tagwait w => if w.try_ then s else s.tagStep o.id | _ => s) s
  b.cmds.foldl (fun s c => s.wakeXwaits b.id c) s

/-- The engine work of a restored block goes on: its handles, and its commands in index order; a slot ring whose boxes have all been loaded
arrives when its last slot is released (R318). -/
def Blk.resumes (b : Blk) : List Instr :=
  let one := fun (c : Cmd) =>
    if !c.taken then [Instr.commandTake b.id]
    else if c.opc = 6 then (if !c.srcd then [.slotBoxLoaded b.id c.idx] else if c.rel = c.bc then [.copyArrival b.id c.idx] else [])
    else if c.srcd then [.copyArrival b.id c.idx]
    else if c.opc = 7 then [.slotBoxStored b.id c.idx]
    else [.copySourceReleased b.id c.idx]
  ((b.tiles.filter fun t => !t.2.queue.isEmpty).map fun t => Instr.matrixOpComplete b.id t.1) ++ (b.cmds.filter fun c => !c.done).flatMap one

/-- An event with its request changed. -/
def mapReq (f : Req → Req) (e : Instr) : Instr :=
  match e with
  | .l2Request r => .l2Request (f r)
  | .homeAccess r => .homeAccess (f r)
  | .arvPerform r => .arvPerform (f r)
  | .counterSignalPerform r => .counterSignalPerform (f r)
  | _ => e

/-- A request kept across a save, as it is issued again (R133): from the block's new core, and to the scratchpad of a block of its group where
that now is. Log entry 66. -/
def movedReq (grp : List Blk) (b : Blk) (r : Req) : Req :=
  match grp.find? fun x => decide (scrHome x.was = r.home) with
  | some x => { r with src := b.core, home := scrHome x.core }
  | none => { r with src := b.core }

/-- The events of a restored block held at order points are those of its new core; they keep their places (R156). -/
def State.moveHeld (s : State) (grp : List Blk) (b : Blk) : State :=
  { s with held := s.held.map fun h => if b.evs.contains h.ev then { h with ev := mapReq (movedReq grp b) h.ev } else h }

/-- A response taken while the wave was saved (R363). -/
def State.lateResponse (s : State) (r : WaveId × Nat × W64) : State :=
  match r.2.1 with
  | 1 => s.resume r.1
  | 2 => s.resumeStk r.1 r.2.2
  | _ => s.fatal r.1

/-- One block of a group is resident again on its core. Log entry 67. -/
def State.restoreBlk (s : State) (grp : List Blk) (b : Blk) (quads : List Nat) : State :=
  let back := fun (p : Wave × Nat) =>
    { p.1 with core := b.core, quad := p.2, run := if p.1.run = .stopped then .run else p.1.run, live := none }
  let s := (s.schedule b.id.ctx).moveHeld grp b
  let s := { s with waves := s.waves ++ (b.image.zip quads).map back, ops := s.ops ++ b.images }
  let s := s.modBlk b.id fun x =>
    { x with state := .running, at_ := (b.core.pkg, b.core.die), save := false, full := false, image := [], images := [], evs := [],
             locks := [], waits := [] }
  let s := (s.addLocks b.core b.locks).acquireBump b.id.ctx b.core .rack
  let s := ((s.remake b).due (b.evs.map (mapReq (movedReq grp b)) ++ b.resumes)).kickRefill b.core
  match s.ctx? b.id.ctx with
  | none => s
  | some c =>
    let mine := fun (r : WaveId × Nat × W64) => decide (r.1.blk = b.id)
    let s := s.modCtx c.id fun c => { c with resp := c.resp.filter fun r => !mine r }
    let t := (c.resp.filter mine).foldl State.lateResponse s
    t.due t.autoRestarts

/-- A pre-emption is over when blocks are restored: placement goes on. Log entry 67. -/
def State.endPreempt (s : State) (ctx : Nat) : State :=
  match s.ctx? ctx with
  | none => s
  | some c =>
    if !c.preempting || s.rack.stops.any (fun x => x.1 == ctx) || s.blks.any (fun b => b.id.ctx == ctx && b.save && b.state == .running) then s
    else
      let cores := (s.cores.filter fun k => c.pkgs.contains k.id.pkg).map fun k => k.id
      let s := (((s.modCtx ctx fun c => { c with preempting := false }).kickStarts ctx).kickDies).kickRack
      cores.foldl State.kickTask s

/-- The leases a saved block asks for, on a core; none where an interval does not translate. -/
def State.restoreReqs (s : State) (c : Ctx) (b : Blk) (k : CoreId) : Except Nat (List LeaseReq) :=
  if b.id.task then .ok [] else s.leaseReqsAll c b.id k.pkg k.die b.intervals

/-- The quadrants of the blocks of a group, where each fits its core and the cores are distinct and of one region. -/
def State.groupFits (s : State) (bs : List Blk) : Option (List (Blk × List Nat)) :=
  let cores := bs.map fun b => b.core
  let apart := cores.Nodup && (cores.map fun k => (k.pkg, k.die, regionOf k)).dedup.length ≤ 1
  if !apart && bs.length > 1 then none
  else bs.foldr (fun b acc => match s.savedFits b b.core, acc with | some q, some l => some ((b, q) :: l) | _, _ => none) (some [])

/-- BLOCK_RESTORE: the block asks for its leases for its new core, which no draining region holds (R350); with the leases granted it resumes, with its cluster, where it fits. A task
waits for the block whose leases it uses. Log entry 67. -/
def execBlockRestore (i : BlkId) (k : CoreId) (s : State) : Out :=
  .next (match s.blk? i, s.ctx? i.ctx with
    | some b, some c =>
      let root : BlkId := ⟨i.ctx, false, i.launch, match b.task with | some t => t.root | none => 0⟩
      let rootSaved := i.task && (match s.blk? root with | some r => r.state == .saved | none => false)
      if b.state != .saved || c.life != .live || c.off.contains k.pkg || !worker k || (s.core? k).isNone || rootSaved then s
      else if s.drains k then s.due [.blockRestore i k]
      else
        let s := (s.endPreempt i.ctx).modBlk i fun b => { b with core := k }
        match s.restoreReqs c b k with
        | .error va =>
          s.due [.leaseRefused ⟨i, ⟨k.pkg, 0⟩, 0, 0, va, k.pkg, k.die, false, []⟩]
        | .ok ls =>
          if b.leases.isEmpty && b.wanted.isEmpty && !ls.isEmpty then
            (s.modBlk i fun b => { b with wanted := ls }).due (ls.map fun l => .leaseRequest l)
          else
            let grp := (b.group.filterMap s.blk?).filter fun b => b.state == .saved
            let ready := grp.all fun x => x.wanted.isEmpty && (!x.leases.isEmpty || (match s.restoreReqs c x x.core with | .ok [] => true | _ => false))
            if !ready then s
            else match s.groupFits grp with
              | none => s
              | some l => if s.saveAreaOk c k.pkg then l.foldl (fun s p => s.restoreBlk grp p.1 p.2) s else s.saveFails c k.pkg
    | _, _ => s)

/-! ## Context switch (R357, R370) -/

/-- R95, R370 step 5. -/
def State.bumpPkg (s : State) (ctx pkg : Nat) : State :=
  let core := fun (k : Core) => if k.id.pkg = pkg then k.bump ctx else k
  let die := fun (d : Die) => if d.pkg = pkg then d.bump ctx else d
  { s with cores := s.cores.map core, dies := s.dies.map die }

/-- Steps 3 to 5 of R370. Log entry 68. -/
def State.switchOut (s : State) (c : Ctx) (pkg : Nat) : State :=
  let here := fun (k : Core) => k.id.pkg == pkg
  let recs := (s.cores.filter here).flatMap fun k => (k.deque.filter fun (t : TaskRec) => t.ctx == c.id).reverse
  let strip := fun (k : Core) => if here k then { k with deque := k.deque.filter fun t => t.ctx != c.id } else k
  let win := fun (p : Nat × (Nat × Nat)) => decide (c.tagBase ≤ p.1) && decide (p.1 < c.tagBase + c.tagCnt)
  let tags := match s.pkg? pkg with | some p => p.tags.filter win | none => []
  let out := fun (p : Pkg) => { p with ovfl := p.ovfl ++ recs, tags := p.tags.filter fun x => !win x }
  let s := ({ s with cores := s.cores.map strip }).modPkg pkg out
  ((s.modCtx c.id fun c => { c with saved := c.saved ++ [(pkg, tags)] }).bumpPkg c.id pkg).kickRefills pkg

/-- CONTEXT_SWITCH_OFF (R370): placement stops, blocks are saved, and the context's per-package state is moved to its save area. Log entry 68. -/
def execContextSwitchOff (ctx pkg : Nat) (s : State) : Out :=
  if (s.pkg? pkg).isNone then .fault .noSuchUnit
  else .next (match s.ctx? ctx with
    | none => s
    | some c =>
      if c.life != .live || !c.pkgs.contains pkg || c.saved.any (fun x => x.1 == pkg) then s
      else
        let s := if c.off.contains pkg then s else s.modCtx ctx fun c => { c with off := c.off ++ [pkg] }
        let mine := fun (b : Blk) => b.id.ctx == ctx && b.core.pkg == pkg
        let s := (s.blks.filter fun b => mine b && b.state == .placed).reverse.foldl State.unplace s
        let mark := fun (b : Blk) => if mine b && b.state == .running && !b.save then { b with save := true, full := false } else b
        let s := { s with blks := s.blks.map mark }
        if s.blks.any fun b => mine b && (b.state == .running || b.state == .exitRead) then (s.kickSaves ctx).due [.contextSwitchOff ctx pkg]
        else match s.ctx? ctx with
          | some c => if s.saveAreaOk c pkg then s.switchOut c pkg else s.saveFails c pkg
          | none => s)

/-- The overflow records of a context go back to deques of its dies, oldest first, each to the first with fewer than 32. Log entry 68. -/
def State.refillAll (s : State) (c : Ctx) (pkg : Nat) : State :=
  let mine : List TaskRec := match s.pkg? pkg with | some p => p.ovfl.filter (fun t => t.ctx == c.id) | none => []
  let own := fun (k : Core) => worker k.id && k.id.pkg == pkg && c.dies.any fun d => d.2.1 == pkg && d.2.2 == k.id.die
  mine.foldl (fun s t =>
    match s.cores.find? fun k => own k && decide (k.deque.length < 32) with
    | none => s
    | some k =>
      let s := s.modPkg pkg fun p => { p with ovfl := delFirst (fun x => decide (x = t)) p.ovfl }
      (s.modCore k.id fun k => { k with deque := k.deque ++ [t] }).kickTask k.id) s

/-- The cores for the saved blocks of a context that was switched off in a package: where they fit. -/
def State.restoreEvents (s : State) (c : Ctx) (pkg : Nat) : List Instr :=
  let cores := ((c.dies.filter fun d => d.2.1 == pkg).flatMap fun d => s.dieCores pkg d.2.2).filter fun k => !s.drains k
  let saved := s.blks.filter fun b => b.id.ctx == c.id && b.state == .saved && b.at_.1 == pkg
  let place := fun (acc : List Instr × List CoreId) (b : Blk) =>
    let free := cores.filter fun k => !acc.2.contains k && (b.cluster.isEmpty || (k.die == b.core.die && regionOf k == regionOf b.core))
    match (free.find? fun k => (s.savedFits b k).isSome) with
    | some k => (acc.1 ++ [Instr.blockRestore b.id k], acc.2 ++ [k])
    | none => acc
  (saved.foldl place ([], [])).1

/-- CONTEXT_SWITCH_ON (R370): the reverse order; triggered work fires (R357). Log entry 68. -/
def execContextSwitchOn (ctx pkg : Nat) (s : State) : Out :=
  if (s.pkg? pkg).isNone then .fault .noSuchUnit
  else .next (match s.ctx? ctx with
    | none => s
    | some c =>
      if c.life != .live || !c.saved.any (fun x => x.1 == pkg) then s
      else if !s.saveAreaOk c pkg then s.saveFails c pkg
      else
        let tags := match c.saved.find? fun x => x.1 == pkg with | some x => x.2 | none => []
        let put := fun (p : Pkg) => { p with tags := tags.foldl (fun (t : Tab (Nat × Nat)) x => t.set (0, 0) x.1 x.2) p.tags }
        let s := s.modPkg pkg put
        let s := (s.modCtx ctx fun c => { c with saved := c.saved.filter (fun x => x.1 != pkg), off := c.off.filter fun p => p != pkg }).schedule ctx
        let s := (s.refillAll c pkg).due (.triggeredWorkFire ctx pkg :: s.restoreEvents c pkg)
        (s.endPreempt ctx).kickDies)

/-! ## Log rings (R150 to R154) -/

/-- Records that waited for a slot are written while there is room (R150). -/
def State.flushRing (s : State) (n ctx lpkg : Nat) : State :=
  match n with
  | 0 => s
  | k + 1 =>
    match (s.ctx? ctx).bind fun c => c.ring? lpkg with
    | none => s
    | some r => match r.ring with
      | [] => s
      | ws :: rest =>
        if r.room = 0 then s
        else ((s.modCtx ctx fun c => c.modRing lpkg fun r => { r with ring := rest }).logWrite ctx lpkg ws).flushRing k ctx lpkg

/-- LOG_RING_DRAIN (R150): CI advances; held events are admitted in their order. -/
def execLogRingDrain (ctx lpkg ci : Nat) (s : State) : Out :=
  .next (match (s.ctx? ctx).bind fun c => c.ring? lpkg with
    | none => s
    | some r =>
      if ci < r.ci ∨ r.pi < ci then s
      else
        let put := fun (r : LogRing) => { r with ci := ci, hiw := r.hiw && decide (2 ^ r.lrsz - (r.pi - ci) ≤ 64) }
        let s := (s.modCtx ctx fun c => c.modRing lpkg put).devPut (fnOf ctx) (r.desc + 16) (BitVec.ofNat 64 ci)
        ((s.flushRing (r.ring.length + 1) ctx lpkg).logHiwater ctx lpkg).unhold ctx)

/-- A record's type is none of R144's, or a reserved field is nonzero (R143). Log entry 69. -/
def recBad (r : List W64) : Bool :=
  let t := recTyp r
  !((decide (1 ≤ t) && decide (t ≤ 0x0B)) || t == 0x1D || t == 0x1E || t == 0x1F)
  || (recW r 0).extractLsb' 6 2 != 0#2 || (recW r 1).extractLsb' 0 12 != 0#12

/-- The records of a window that events consume. -/
def liveRecs (w : List (List W64)) : List (List W64) := w.filter fun r => !passedOver (recTyp r)

/-- The reader's state while it takes records. Log entry 69. -/
def State.takeRecs (s : State) (n ctx lpkg : Nat) : State × Bool :=
  match n with
  | 0 => (s, false)
  | k + 1 =>
    match (s.ctx? ctx).bind fun c => (c.ring? lpkg).map fun r => (c, r) with
    | none => (s, false)
    | some (c, r) =>
      let pi := (s.devWord (fnOf ctx) (r.desc + 8)).toNat
      if r.ended || decide (pi ≤ r.ci) || decide (4096 ≤ r.window.length) then (s, false)
      else
        let ws := wordsOf ((s.devRead (fnOf ctx) (r.base + 32 * (r.ci % 2 ^ r.lrsz)) 32).getD []) 4
        -- SEQ of a point's records rises one by one from the point's next number on
        let prev := (r.window.filter fun x => recOpt x == recOpt ws && !passedOver (recTyp x)).getLast?
        let want := match prev with | some x => (recSeq x + 1) % 2 ^ 40 | none => s.nextSeq ctx (recOpt ws)
        let order := passedOver (recTyp ws) || recSeq ws == want
        if decide (pi - r.ci > 2 ^ r.lrsz) || recBad ws || !order then (s.diverge ctx 5 (bareDiverge 5 (c.phys lpkg) 0 0) [] ws, true)
        else
          let put := fun (r : LogRing) => { r with ci := r.ci + 1, pi := pi, ended := recTyp ws == 0x1F, window := r.window ++ [ws] }
          let s := (s.modCtx ctx fun c => c.modRing lpkg put).devPut (fnOf ctx) (r.desc + 16) (BitVec.ofNat 64 (r.ci + 1))
          ((s.takeRecs k ctx lpkg).1, true)

/-- REPLAY_READER_TAKE (R152): records from slot CI onwards into a window of 4,096; the events that wait look again. Log entry 70. -/
def execReplayReaderTake (ctx lpkg : Nat) (s : State) : Out :=
  .next (match s.ctx? ctx with
    | none => s
    | some c =>
      let busy := match c.ring? lpkg with
        | some r => s.devHeld (fnOf ctx) r.desc 32 || s.devHeld (fnOf ctx) r.base (32 * 2 ^ r.lrsz)
        | none => false
      if !c.replays then s
      else if busy then s.due [.replayReaderTake ctx lpkg]
      else
        -- PREEMPT, HIWATER and END records are passed over
        let pass := fun (r : LogRing) => { r with window := liveRecs r.window }
        let (t, took) := (s.modCtx ctx fun c => c.modRing lpkg pass).takeRecs 4096 ctx lpkg
        if took then (t.modCtx ctx fun c => c.modRing lpkg pass).unhold ctx else t)

/-- REPLAY_HOLD_TIMEOUT (R152): the event has been held for more than 2^24 cycles: it is submitted again, and diverges if it is still not
next. Log entries 10, 70. -/
def execReplayHoldTimeout (ctx held : Nat) (s : State) : Out :=
  .next (match s.ctx? ctx, s.held.find? fun h => h.id == held && h.ctx == ctx with
    | some c, some h =>
      let feeds := match c.ring? h.lpkg with
        | some r => !r.window.isEmpty || decide (r.ci < (s.devWord (fnOf ctx) (r.desc + 8)).toNat)
        | none => false
      if !c.replays || !feeds then s
      else
        let old := fun (x : Held) => if x.id = held then { x with age := 2 ^ 24 + 1, again := true } else x
        ({ s with held := s.held.map old }).due [h.ev]
    | _, _ => s)

/-- The END record of a ring (R144): the reason, and as the ring's final count the records before it. Log entry 97. -/
def endRec (reason count : Nat) : List W64 := plainRec 0x1F (BitVec.ofNat 64 (reason % 2 ^ 8 + count % 2 ^ 56 * 2 ^ 8))

/-- LOG_END (R151, R153; log entry 97): each log writer appends an END record; a replay with records left over diverges. Log entry 69. -/
def execLogEnd (ctx reason : Nat) (s : State) : Out :=
  .next (match s.ctx? ctx with
    | none => s
    | some c =>
      if reason = 0 && c.life == .live && !c.quiet then s
      else if c.logmode = 1 then c.rings.foldl (fun s r => s.logSpecial ctx r.lpkg (endRec reason (r.pi + r.claimed.length + r.ring.length))) s
      else if c.replays then
        let more := c.rings.filter fun r => !r.ended && decide (r.ci < (s.devWord (fnOf ctx) (r.desc + 8)).toNat) && decide (r.window.length < 4096)
        let left := c.rings.flatMap fun r => (liveRecs r.window).map fun x => (r.lpkg, x)
        if let some (lp, x) := left.head? then s.diverge ctx 6 (bareDiverge 6 (c.phys lp) 0 0) [] x
        else if more.isEmpty then s
        else s.due ((more.map fun r => Instr.replayReaderTake ctx r.lpkg) ++ [.logEnd ctx reason])
      else s)

end Sys2Proof.Machine
end

