-- ==== Sys2Proof/Machine/Collectives.lean ====
section
/-! DEFINITION. Collectives: named buffers, contributions, the package reduction units, the shadow's home, all-gather shards, completion
signals, landing slots and failure (spec/15_collectives.md R371 to R381, spec/12_isa_async.md R327, spec/05_consistency.md R132, R134). -/

namespace Sys2Proof.Machine

/-! ## Signals and arrivals from the reduction engine (R379, R381) -/

/-- A location at an offset of a translated address. -/
def atOff (x : Range × Nat) (off : Nat) : Range × Nat := (x.1, x.2 + off)

/-- v added to a counter, by its home. Log entry 46. -/
def State.hubAdd (s : State) (ctx : Nat) (x : Range × Nat) (v : W64) : Except EngErr State :=
  s.counterAdd ctx (hubCore (s.homeAt ctx x.1 x.2)) x v

/-- An arrival of k on an object, by its home. -/
def State.hubArrive (s : State) (ctx : Nat) (x : Range × Nat) (k : Nat) : Except EngErr State :=
  match s.engRmw ctx (hubCore (s.homeAt ctx x.1 x.2)) x.1 x.2 .arv false (leBytes 8 k) with
  | .error e => .error e
  | .ok (s, new, h) => .ok (s.wakeAwaits (iaKey h x.2) (BitVec.ofNat 64 (leVal new)))

/-- A failed check value at the reduction engine is recorded with code 7 (R381); the requester is that engine, at a package and die
(R101). Log entry 75. -/
def State.colRecord (s : State) (ctx : Nat) (at_ : Nat × Nat) (e : EngErr) : State :=
  match e with
  | .integ _ ia _ =>
    s.due [.trapRecordPost ctx { ctxRecord 0x09 7 (BitVec.ofNat 64 (ia / 64 * 64)) 0 0 0 with pkg := at_.1, die := at_.2 }]
  | _ => s

/-- A collective fails for a check or a write at the reduction engine (R377, R381). Log entry 75. -/
def State.colFail (s : State) (ctx buf : Nat) (at_ : Nat × Nat) (e : EngErr) : State :=
  (s.colRecord ctx at_ e).due [.collectiveFailure ctx buf]

/-! ## Elements (R375, R376, R377) -/

/-- The floating-point format of a buffer format code. -/
def colFmt (f : Nat) : Fmt := match f with | 9 => fp32 | 10 => fp16 | 11 => bf16 | 12 => e4m3 | _ => e5m2

/-- The raw NaN (R190). -/
def rawNan : BitVec 96 := 0x800000000000000000000000#96

/-- R375: what a contribution element enters: its integer and whether it is NaN-marked. -/
def colEnter (f : Nat) (anchor : Int) (bs : List Byte) : BitVec 128 × Bool :=
  if f = 0 then
    let v := BitVec.ofNat 96 (leVal bs)
    (v.signExtend 128, v == rawNan)
  else
    let one : FV := .fin false 1 0
    match (enter ((colFmt f).decode false (leVal bs)) one one one anchor).1 with
    | some q => (BitVec.ofInt 128 q, false)
    | none => (0, true)

/-- The elements of a contribution. -/
def Binding.elems (b : Binding) (bs : List Byte) : List (BitVec 128 × Bool) :=
  (List.range b.ne).map fun i => colEnter b.sfmt b.anchor ((bs.drop (i * bufSize b.sfmt)).take (bufSize b.sfmt))

/-- Sum, max or min of two integers of a width. -/
def colOp {n : Nat} (op : Nat) (x y : BitVec n) : BitVec n :=
  match op with
  | 0 => x + y
  | 1 => if x.toInt < y.toInt then y else x
  | _ => if y.toInt < x.toInt then y else x

/-- R375: entries of one package combined. -/
def colCombine (op : Nat) (x y : BitVec 128 × Bool) : BitVec 128 × Bool := (colOp op x.1 y.1, x.2 || y.2)

/-- R375, R190: the partial's raw form. -/
def colRaw (x : BitVec 128 × Bool) : BitVec 96 := if x.2 then rawNan else BitVec.ofInt 96 (clampSum x.1).1

/-- R376: the elements of an instance that a raw NaN has entered, with one more partial. -/
def shadowNans (nans : List Bool) (ps : List (BitVec 96)) : List Bool := ps.zipIdx.map fun p => nans.getD p.2 false || p.1 == rawNan

/-- R376: shadow words and a partial combined, modulo 2^96; an element that is NaN stays so. -/
def shadowOp (op : Nat) (nans : List Bool) (ws ps : List (BitVec 96)) : List (BitVec 96) :=
  (List.zipWith (colOp op) ws ps).zipIdx.map fun x => if nans.getD x.2 false then rawNan else x.1

/-- R377: the bytes of a completed element. -/
def Binding.convertElem (b : Binding) (v : BitVec 96) : List Byte :=
  if b.dfmt = 0 then rawBytes v
  else
    let y : FV := if v = rawNan then .nan else (rnd32 false (FV.ofInt false v.toInt b.anchor, 0)).1
    let ty : Ty := match b.dfmt with | 9 => .f32 | 10 => .f16 | _ => .bf16
    leBytes (bufSize b.dfmt) (convert ty 0 false false y).1.toNat

/-- The 96-bit words in bytes. -/
def rawWords (n : Nat) (bs : List Byte) : List (BitVec 96) := (List.range n).map fun i => BitVec.ofNat 96 (leVal ((bs.drop (12 * i)).take 12))

/-! ## Events of a buffer on their way -/

/-- The buffer an event of a collective concerns. -/
def bufOf (e : Instr) : Option (Nat × Nat) :=
  match e with
  | .contributionCount c => some (c.ctx, c.buf)
  | .shadowCombine p => some (p.ctx, p.buf)
  | .shardLand x => some (x.ctx, x.buf)
  | .completionSignalUpdate c b _ | .slotReservationRetry c b _ => some (c, b)
  | _ => none

/-- Any event of a buffer is due or held. -/
def State.bufBusy (s : State) (ctx buf : Nat) : Bool :=
  s.pending.any (fun e => bufOf e == some (ctx, buf)) || s.held.any fun h => bufOf h.ev == some (ctx, buf)

/-- R372: every instance begun has completed. Log entry 74. -/
def State.bindIdle (s : State) (ctx : Nat) (b : Binding) : Bool :=
  b.chunks.isEmpty && b.waiting.isEmpty && b.shards.isEmpty && b.landed.isEmpty && b.shadows.all (fun x => x.got == 0) && !s.bufBusy ctx b.buf

def State.modBind (s : State) (ctx buf : Nat) (f : Binding → Binding) : State := s.modCtx ctx fun c => c.modBind buf f

def State.bind? (s : State) (ctx buf : Nat) : Option Binding := (s.ctx? ctx).bind fun c => c.bind? buf

/-! ## Landing slots (R380) -/

def landingSlots : Nat := 256

/-- The home of a chunk's first shadow word. Log entry 73. -/
def State.shadowHome (s : State) (ctx : Nat) (b : Binding) (chunk : Nat) : Option HomeId :=
  b.sh.map fun x => s.homeAt ctx x.1 (x.2 + 12 * (chunk * b.ne))

/-- The package of participant j. -/
def Ctx.participant (c : Ctx) (b : Binding) (j : Nat) : Nat := c.phys (b.lp0 + j)

/-- Where the reduction engine of a buffer works: at the home of a chunk's shadow, or at the Hub of participant j (R376, R378). Log entry 75. -/
def State.engineAt (s : State) (ctx : Nat) (b : Binding) (chunk j : Nat) : Nat × Nat :=
  match s.shadowHome ctx b chunk, s.ctx? ctx with
  | some h, _ => homeDie h
  | none, some c => (c.participant b j, 0)
  | none, none => (0, 0)

/-- A transfer leaves the landing slot it holds. -/
def State.freeLanding (s : State) (e : Instr) : State :=
  match e with
  | .shadowCombine p =>
    (match (s.bind? p.ctx p.buf).bind fun b => s.shadowHome p.ctx b p.chunk with
     | some h => s.modHome h fun x => { x with landing := x.landing - 1 }
     | none => s)
  | .shardLand x =>
    (match s.ctx? x.ctx, s.bind? x.ctx x.buf with
     | some c, some b => if x.k = 0 then s else s.modPkg (c.participant b x.at_) fun p => { p with landing := p.landing - 1 }
     | _, _ => s)
  | _ => s

/-- The numbers of transfers: the partial of an instance from a package, and a shard on its way to a participant. Log entry 31. -/
def partialId (inst lpkg chunk : Nat) : Nat := (inst * 2 ^ 8 + lpkg) * 2 ^ 24 + chunk
def shardId (x : Shard) : Nat := 2 ^ 100 + ((x.inst * 256 + x.at_) * 256 + x.k) * 2 ^ 24 + x.chunk

/-- A refused reservation: it is retried, for at most 1,024 tries; then the collective fails. Log entry 73. -/
def State.refuseSlot (s : State) (ctx : Nat) (b : Binding) (id : Nat) : State :=
  let n := b.tries.get 0 id + 1
  if n > 1024 then s.due [.collectiveFailure ctx b.buf]
  else (s.modBind ctx b.buf fun b => { b with tries := b.tries.set 0 id n }).due [.slotReservationRetry ctx b.buf id]

/-- The partial of a counted instance goes to the shadow's home, when a landing slot is there; contributions that waited for it to go
look again (R374, R375). Log entry 73. -/
def State.sendPartial (s : State) (ctx : Nat) (b : Binding) (k : Chunk) : State :=
  let id := partialId k.inst k.lpkg k.chunk
  match (s.shadowHome ctx b k.chunk).bind s.home? with
  | none => s.refuseSlot ctx b id
  | some h =>
    if h.landing ≥ landingSlots then s.refuseSlot ctx b id
    else
      let mine := fun (c : Contrib) => c.chunk == k.chunk && (match s.ctx? ctx with | some x => x.logical c.pkg == k.lpkg | none => false)
      let sent := fun (b : Binding) =>
        { b with
          chunks := b.chunks.filter fun x => !(x.chunk == k.chunk && x.lpkg == k.lpkg && x.inst == k.inst)
          waiting := b.waiting.filter fun c => !mine c
          tries := b.tries.set 0 id 0 }
      let p : Partial := ⟨ctx, b.buf, k.chunk, k.inst, k.lpkg, k.elems.map colRaw⟩
      ((s.modHome h.id fun x => { x with landing := x.landing + 1 }).modBind ctx b.buf sent).due
        (.shadowCombine p :: (b.waiting.filter mine).map fun c => .contributionCount c)

/-- A shard goes on to its next participant, when a landing slot is there; else it waits among the shards to forward (R378). -/
def State.forwardShard (s : State) (ctx : Nat) (b : Binding) (x : Shard) : State :=
  let id := shardId x
  match (s.ctx? ctx).bind fun c => s.pkg? (c.participant b x.at_) with
  | none => s
  | some p =>
    if p.landing ≥ landingSlots then
      let put := fun (b : Binding) => if b.shards.any fun y => decide (y = x) then b else { b with shards := b.shards ++ [x] }
      (s.modBind ctx b.buf put).refuseSlot ctx b id
    else
      let sent := fun (b : Binding) => { b with shards := b.shards.filter (fun y => !decide (y = x)), tries := b.tries.set 0 id 0 }
      ((s.modPkg p.id fun p => { p with landing := p.landing + 1 }).modBind ctx b.buf sent).due [.shardLand x]

/-- SLOT_RESERVATION_RETRY (R380). Log entry 73. -/
def execSlotReservationRetry (ctx buf id : Nat) (s : State) : Out :=
  .next (match s.bind? ctx buf with
    | none => s
    | some b =>
      if b.failed then s
      else match b.shards.find? fun x => shardId x == id with
        | some x => s.forwardShard ctx b x
        | none => match b.chunks.find? fun k => k.got == b.expc && partialId k.inst k.lpkg k.chunk == id with
          | some k => s.sendPartial ctx b k
          | none => s)

/-! ## Contributions (R373, R374) -/

/-- The block a contribution comes from, while its source is still there. -/
def State.contribBlk (s : State) (src : ContribSrc) : Option Blk :=
  match src with
  | .mepi id h =>
    (s.blk? id).bind fun b => match (b.tile h).queue with | m :: _ => if m.contrib && !b.failed then some b else none | [] => none
  | .colsend o => (s.op? o).bind fun o => (s.blk? o.wave.blk).bind fun b => if b.failed then none else some b
  | .exit id => (s.blk? id).bind fun b => if b.state == .exitRead then some b else none

/-- The status a source receives: 0 taken, 1 not bound, 2 a check or a home's refusal, 3 a check value, 4 failed collective. -/
def State.contribDone (s : State) (src : ContribSrc) (status : Nat) : State :=
  match s.contribBlk src with
  | none => s
  | some b =>
    match src with
    | .mepi _ h =>
      (match (b.tile h).queue with
       | m :: _ => if status = 1 then s.matFail b h m 6 0 else s.matDone b h m [] 0
       | [] => s)
    | .colsend o => (s.freeLocks b.core fun k => decide (k.by_ = .op o)).engDone o (leBytes 4 status) 0
    | .exit id => s.closeBlk id

/-- Where a source's bytes lie: global or in scratchpad, address and length; none where the tile gave them. -/
def State.contribSpan (s : State) (src : ContribSrc) (n : Nat) : Option (Bool × W64 × Nat) :=
  match src with
  | .mepi _ _ => none
  | .colsend o => (s.op? o).map fun o => (o.arg.get 0 1 != 0#64, o.arg.get 0 0, n)
  | .exit id => (s.blk? id).bind fun b => b.intervals.head?.map fun i => (true, vaOf (i.base % 2 ^ 57), n)

/-- What reading a source gives. -/
inductive SrcRead where
  | bytes (bs : List Byte)
  | held
  | err (e : EngErr)
  deriving DecidableEq, Repr

/-- Reading a source: detection code 1 for a failed check, which R100's table gives engine reads of other kinds. DESIGN CHOICE (log entry 106). -/
def State.readSpan (s : State) (b : Blk) (x : Bool × W64 × Nat) : SrcRead :=
  if x.1 then
    match s.engXlate b .load x.2.1 x.2.2 with
    | .error f => .err (.addr f)
    | .ok l => if s.engWaits b l x.2.2 then .held else match s.engRead b l x.2.2 1 with
      | .error e => .err e
      | .ok (bs, _) => .bytes bs
  else match s.scrSpan b false x.2.1.toNat x.2.2 with
    | .error f => .err (.addr f)
    | .ok p => .bytes (s.scrGet p x.2.2)

/-- R134: elements whose source bytes changed since the issue are the old or the new ones: a free choice each. Log entry 72. -/
def State.mixBytes (s : State) (size : Nat) (old new : List Byte) : List Byte × State :=
  if old = new ∨ old.length ≠ new.length then (new, s)
  else
    (List.range (new.length / size)).foldl (fun (acc : List Byte × State) i =>
      let x := (old.drop (i * size)).take size
      let y := (new.drop (i * size)).take size
      if x = y then (acc.1 ++ y, acc.2)
      else let r := acc.2.choose 2; (acc.1 ++ (if r.1 = 0 then y else x), r.2)) ([], s)

/-- The bytes the issue found; what the read finds stands for them where the issue could not read. -/
def State.oldBytes (s : State) (c : Contrib) (now : List Byte) : List Byte :=
  match c.src with
  | .colsend o => (match s.op? o with | some o => if o.arg.get 0 2 = 0#64 then c.bytes else now | none => now)
  | _ => c.bytes

/-- Contributions counted of a chunk at a package, the instance the next belongs to, and its record. -/
def chunkKey (lpkg chunk : Nat) : Nat := 2 ^ 24 * lpkg + chunk
def Binding.inst (b : Binding) (lpkg chunk : Nat) : Nat := b.counts.get 0 (chunkKey lpkg chunk) / b.expc

/-- R374: at most two instances of a chunk are held. -/
def Binding.room (b : Binding) (lpkg chunk : Nat) : Bool :=
  let mine := b.chunks.filter fun k => k.chunk == chunk && k.lpkg == lpkg
  mine.any (fun k => k.inst == b.inst lpkg chunk) || decide (mine.length < 2)

/-- One more contribution of an instance. Log entry 74. -/
def Binding.addTo (b : Binding) (k : Chunk) (bs : List Byte) : Chunk :=
  if b.gather then { k with got := k.got + 1, bytes := bs }
  else
    let es := b.elems bs
    { k with got := k.got + 1, elems := if k.got = 0 then es else List.zipWith (colCombine b.op) k.elems es }

/-- R374: the contribution is counted; the last of an instance sends its partial, or lands its shard. Log entry 72. -/
def State.takeContrib (s : State) (c : Contrib) (lpkg : Nat) (bs : List Byte) : State :=
  match s.bind? c.ctx c.buf with
  | none => s
  | some b =>
    let inst := b.inst lpkg c.chunk
    let is := fun (k : Chunk) => k.chunk == c.chunk && k.lpkg == lpkg && k.inst == inst
    let k := b.addTo ((b.chunks.find? is).getD ⟨c.chunk, lpkg, inst, 0, [], []⟩) bs
    let rest := b.chunks.filter fun k => !is k
    let counts := b.counts.set 0 (chunkKey lpkg c.chunk) (b.counts.get 0 (chunkKey lpkg c.chunk) + 1)
    let all := k.got == b.expc
    let b' : Binding := { b with chunks := if b.gather && all then rest else rest ++ [k], counts := counts }
    let s := (s.modBind c.ctx c.buf fun _ => b').contribDone c.src 0
    if !all then s
    else if b.gather then s.due [.shardLand ⟨c.ctx, c.buf, c.chunk, inst, lpkg - b.lp0, 0, k.bytes⟩]
    else s.sendPartial c.ctx b' k

end Sys2Proof.Machine
namespace Sys2Proof
open Machine
/-- The COLARR event of a contribution (R144). -/
def Contrib.logEv (c : Contrib) (lpkg inst : Nat) : LogEv :=
  { ctx := c.ctx, lpkg := lpkg, opt := optId 9 lpkg 0 0, typ := 0x0A, ph := false, lser := 0, tk := false, iid := 0, wv := 0, lane := 0,
    ord := 0, pay := BitVec.ofNat 64 (c.buf % 2 ^ 16 + c.chunk % 2 ^ 24 * 2 ^ 16 + lpkg % 2 ^ 8 * 2 ^ 40 + inst % 2 ^ 16 * 2 ^ 48) }

end Sys2Proof
namespace Sys2Proof.Machine
/-- The status of a source whose read fails. Log entry 72. -/
def EngErr.sendStatus (e : EngErr) : Nat := match e with | .integ _ _ _ => 3 | _ => 2

/-- R129: a COLSEND of scratchpad bytes waits for the accesses to them that its wave made before it. Log entry 72. -/
def State.sendOwed (s : State) (src : ContribSrc) : Bool :=
  match src with
  | .colsend i => (match s.op? i with | some o => o.arg.get 0 1 == 0#64 && s.scrOwed i | none => false)
  | _ => false

/-- CONTRIBUTION_COUNT (R373, R374, R381): refused where the buffer is not bound, discarded where the collective has failed; it waits at its
source while the package holds two instances of the chunk; else it is counted, one COLARR event. Log entry 72. -/
def execContributionCount (c : Contrib) (s : State) : Out :=
  .next (match s.contribBlk c.src, s.ctx? c.ctx with
    | some blk, some x =>
      match s.boundFor c.ctx c.pkg c.buf c.chunk c.bytes.length with
      | none => s.contribDone c.src 1
      | some b =>
        let lp := x.logical c.pkg
        let by_ : Option LockBy := match c.src with | .colsend o => some (.op o) | _ => none
        if b.failed then s.contribDone c.src 4
        else if (match by_ with | some k => s.lockWaits blk.core k | none => false) || s.sendOwed c.src then s.due [.contributionCount c]
        else match (match s.contribSpan c.src c.bytes.length with | some p => s.readSpan blk p | none => .bytes c.bytes) with
          | .held => s.due [.contributionCount c]
          | .err e => (s.noteErr blk e).contribDone c.src e.sendStatus
          | .bytes now =>
            if !b.room lp c.chunk then s.modBind c.ctx c.buf fun b => { b with waiting := b.waiting ++ [c] }
            else
              let ev := c.logEv lp (b.inst lp c.chunk)
              s.atPoint ev (.contributionCount c) fun s =>
                let r := s.mixBytes (bufSize b.sfmt) (s.oldBytes c now) now
                (r.2.takeContrib c lp r.1, ev.pay)
    | _, _ => s)

/-- EXIT_FIRED_CONTRIBUTION (R373): the block's interval of declared range 0 is read as its contribution; a failed read, and one that is
refused, fires nothing, and the block's resources are released. Log entry 72. -/
def execExitFiredContribution (id : BlkId) (s : State) : Out :=
  .next (match s.blk? id, (s.ctx? id.ctx).bind fun c => c.launch? id.launch with
    | some b, some l =>
      if b.state != .exitRead then s
      else
        let len := match b.intervals with | i :: _ => i.len | [] => 0
        let chunk := match s.bind? id.ctx l.colbuf with | some x => if x.nch = 0 then 0 else id.idx % x.nch | none => 0
        match s.boundFor id.ctx b.core.pkg l.colbuf chunk len, s.contribSpan (.exit id) len with
        | some x, some p =>
          if x.failed then s.closeBlk id
          else match s.readSpan b p with
            | .held => s.due [.exitFiredContribution id]
            | .err e => (s.noteErr b e).closeBlk id
            | .bytes bs => s.due [.contributionCount ⟨id.ctx, l.colbuf, chunk, b.core.pkg, .exit id, bs⟩]
        | _, _ => s.closeBlk id
    | _, _ => s)

/-- COLSEND (R327): the source is registered at issue; bytes the issue finds are kept beside those the read finds (R134). Log entry 72. -/
def execColsend (w : AW) (s : State) : Out :=
  .next (if s.idleWord w.g then s
    else match s.blk? s.wave.id.blk with
      | none => s
      | some b =>
        let r := s.wave.colroute
        let len := (s.op32 w.s2).toNat
        let chunk := (s.op32 w.s3).toNat
        let buf := (r.extractLsb' 0 16).toNat
        let glb := w.y.getLsbD 0
        let a := if glb then s.op64 w.s1 else s.op64 w.s1 &&& 0xFFFFF#64
        let i : Instr := .colsend w
        if !r.getLsbD 16 || (s.boundFor b.id.ctx b.core.pkg buf chunk len).isNone then
          let o := s.engOp i 1
          o.2.engDone o.1 (leBytes 4 1) 0
        else
          let sp := s.spanAt b glb .load a len false
          if !s.lockRoom b.core sp.length then s.stall
          else
            let o := s.engOp i 1
            let t := o.2.addLocks b.core (sp.map fun x => x.lock (.op o.1))
            let arg := fun (x : Op) => { x with arg := (x.arg.set 0 0 a).set 0 1 (if glb then 1#64 else 0#64) }
            let t := t.modOp o.1 arg
            let seen := if t.lockWaits b.core (.op o.1) || t.sendOwed (.colsend o.1) then none else some (t.readSpan b (glb, a, len))
            let bs := match seen with | some (.bytes x) => x | _ => List.replicate len 0#8
            let send : Contrib := ⟨b.id.ctx, buf, chunk, b.core.pkg, .colsend o.1, bs⟩
            match seen with
            | some (.bytes _) => t.due [.contributionCount send]
            | _ => (t.modOp o.1 fun x => { x with arg := x.arg.set 0 2 1#64 }).due [.contributionCount send])

/-! ## Reduction at the shadow's home (R376, R377) -/

/-- SHADOW_COMBINE: a partial is combined into the shadow words; with the last of an instance the elements are converted and written. The
partials of a later instance wait for the earlier one. Log entry 73. -/
def execShadowCombine (p : Partial) (s : State) : Out :=
  .next (match s.bind? p.ctx p.buf with
    | none => s
    | some b =>
      match b.sh, b.dst with
      | some sh, some dst =>
        let off := 12 * (p.chunk * b.ne)
        let n := 12 * b.ne
        let size := bufSize b.dfmt
        let doff := p.chunk * b.ne * size
        let x := (b.shadows.find? fun x => x.chunk == p.chunk).getD ⟨p.chunk, 0, 0, []⟩
        let free := fun (s : State) => s.freeLanding (.shadowCombine p)
        let fail := fun (s : State) (e : EngErr) => (free s).colFail p.ctx p.buf (s.engineAt p.ctx b p.chunk 0) e
        if b.failed then free s
        else if x.inst ≠ p.inst || s.hubHeld p.ctx sh off n || s.hubHeld p.ctx dst doff (b.ne * size) then s.due [.shadowCombine p]
        else
          let nans := shadowNans (if x.got = 0 then [] else x.nans) p.elems
          let words : Except EngErr (List (BitVec 96)) :=
            if x.got = 0 then .ok p.elems
            else (s.hubRead p.ctx sh off n 7).map fun bs => shadowOp b.op nans (rawWords b.ne bs) p.elems
          match words with
          | .error e => fail s e
          | .ok ws =>
            match s.hubWrite p.ctx sh off (ws.flatMap rawBytes) with
            | .error e => fail s e
            | .ok s =>
              let put := fun (y : Shadow) (s : State) =>
                s.modBind p.ctx p.buf fun b => { b with shadows := b.shadows.filter (fun z => z.chunk != p.chunk) ++ [y] }
              if x.got + 1 < b.np then put { x with got := x.got + 1, nans := nans } (free s)
              else match s.hubWrite p.ctx dst doff (ws.flatMap b.convertElem) with
                | .error e => fail s e
                | .ok s => (put { x with inst := x.inst + 1, got := 0, nans := [] } (free s)).due [.completionSignalUpdate p.ctx p.buf 0]
      | _, _ => s)

/-! ## All-gather (R378) -/

/-- The span of a buffer's translated address, where it passes R39. Log entry 71. -/
def State.bindSpan (s : State) (ctx a n : Nat) (k : Kind) : Option (Range × Nat) :=
  match s.ctxAt ctx (vaOf a) n k with | .ok x => some x | .error _ => none

def landKey (inst j k : Nat) : Nat := (inst * 256 + j) * 256 + k

/-- An instance all of whose shards have landed leaves the table. -/
def Binding.retire (b : Binding) (inst : Nat) : Binding :=
  let mine := fun (p : Nat × Nat) => p.1 / 2 ^ 16 == inst
  if ((b.landed.filter mine).map (·.2)).sum = b.np * b.np * b.nch then { b with landed := b.landed.filter fun p => !mine p } else b

/-- R378: shard k may land at j: its slot has been released, and the forward of the shard it replaces has read it. Log entry 74. -/
def State.mayLand (s : State) (b : Binding) (x : Shard) : Except EngErr Bool :=
  if b.np ≤ b.nslot ∨ x.k < b.nslot then .ok true
  else
    let old := x.k - b.nslot
    let next := (x.at_ + 1) % b.np
    let read := b.landed.get 0 (landKey x.inst x.at_ old) == b.nch
      && !b.shards.any fun y => y.inst == x.inst && y.at_ == next && y.k == old + 1
    match b.rl with
    | none => .ok read
    | some r => (s.hubRead x.ctx r (8 * x.at_) 8 7).map fun bs => read && decide (old + 1 ≤ leVal bs)

/-- The bytes a shard's chunk lands in, translated when it lands (R378). Log entry 74. -/
def State.landSpan (s : State) (b : Binding) (x : Shard) : Option (Range × Nat) :=
  s.bindSpan x.ctx (b.dbase + (x.at_ * b.nslot + x.k % b.nslot) * (b.nch * b.chb) + x.chunk * b.chb) b.chb .store

/-- SHARD_LAND: the chunk lands in its slot, counts, and is forwarded. Log entry 74. -/
def execShardLand (x : Shard) (s : State) : Out :=
  .next (match s.bind? x.ctx x.buf with
    | none => s
    | some b =>
      let free := fun (s : State) => s.freeLanding (.shardLand x)
      let fail := fun (s : State) (e : EngErr) => (free s).colFail x.ctx x.buf (s.engineAt x.ctx b x.chunk x.at_) e
      if b.failed then free s
      else match s.landSpan b x with
        | none => fail s (.addr 2)
        | some dst =>
          match s.mayLand b x with
          | .error e => fail s e
          | .ok false => s.due [.shardLand x]
          | .ok true =>
            if s.hubHeld x.ctx dst 0 b.chb || b.rl.any (fun r => s.hubHeld x.ctx r (8 * x.at_) 8) then s.due [.shardLand x]
            else match s.hubWrite x.ctx dst 0 x.bytes with
              | .error e => fail s e
              | .ok s =>
                let key := landKey x.inst x.at_ x.k
                let n := b.landed.get 0 key + 1
                let land := fun (b : Binding) => { b with landed := b.landed.set 0 key n }.retire x.inst
                let s := (free s).modBind x.ctx x.buf land
                let s := if n = b.nch then s.due [.completionSignalUpdate x.ctx x.buf x.at_] else s
                if x.k + 1 < b.np then
                  (match s.bind? x.ctx x.buf with
                   | some b => s.forwardShard x.ctx b { x with at_ := (x.at_ + 1) % b.np, k := x.k + 1 }
                   | none => s)
                else s)

/-! ## Completion signals (R379) and failure (R381) -/

/-- COMPLETION_SIGNAL_UPDATE: the signal rises by 1, then an arrival of 1 on the object. Log entry 75. -/
def execCompletionSignalUpdate (ctx buf j : Nat) (s : State) : Out :=
  .next (match s.bind? ctx buf with
    | none => s
    | some b =>
      let held := fun (x : Option (Range × Nat)) => match x with | some x => s.hubHeld ctx x (8 * j) 8 | none => false
      if held b.sg || held b.av then s.due [.completionSignalUpdate ctx buf j]
      else
        let at_ := s.engineAt ctx b 0 j
        let s := match b.sg with
          | some x => (match s.hubAdd ctx (atOff x (8 * j)) 1 with | .ok t => t | .error e => s.colFail ctx buf at_ e)
          | none => s
        match b.av with
        | some x => (match s.hubArrive ctx (atOff x (8 * j)) 1 with | .ok t => t | .error e => s.colFail ctx buf at_ e)
        | none => s)

/-- R381: one signal word and one object of a failed buffer. -/
def State.failSignal (s : State) (ctx : Nat) (b : Binding) (j : Nat) : State :=
  let at_ := s.engineAt ctx b 0 j
  let s := match b.sg with
    | some x => (match s.hubAdd ctx (atOff x (8 * j)) 0x8000000000000000#64 with | .ok t => t | .error e => s.colRecord ctx at_ e)
    | none => s
  match b.av with
  | some x => (match s.hubArrive ctx (atOff x (8 * j)) 0xFFFF with | .ok t => t | .error e => s.colRecord ctx at_ e)
  | none => s

/-- Transfers of a buffer under way end, and leave their landing slots. Log entry 76. -/
def State.dropTransfers (s : State) (ctx buf : Nat) : State :=
  let gone := fun (e : Instr) => match e with
    | .shadowCombine _ | .shardLand _ | .slotReservationRetry _ _ _ => bufOf e == some (ctx, buf)
    | _ => false
  let t := (s.pending.filter gone).foldl State.freeLanding s
  { t with pending := t.pending.filter fun e => !gone e }

/-- The contributions of a buffer on their way: due, or held at their order point. Log entry 75. -/
def State.contribs (s : State) (ctx buf : Nat) : List Contrib :=
  (s.pending ++ s.held.map fun h => h.ev).filterMap fun e => match e with
    | .contributionCount c => if c.ctx = ctx ∧ c.buf = buf then some c else none
    | _ => none

/-- They leave the events and the order points. -/
def State.dropContribs (s : State) (ctx buf : Nat) : State :=
  let gone := fun (e : Instr) => match e with | .contributionCount c => c.ctx == ctx && c.buf == buf | _ => false
  { s with pending := s.pending.filter fun e => !gone e, held := s.held.filter fun h => !gone h.ev }

/-- A buffer fails: its signals and objects are completed, its transfers dropped, and every contribution that is pending is discarded, its source
ending with status 4 (R381). Log entries 75, 76. -/
def State.failBuf (s : State) (ctx buf : Nat) : State :=
  match s.bind? ctx buf with
  | none => s
  | some b =>
    if b.failed then s
    else
      let s := s.dropTransfers ctx buf
      let mark := fun (b : Binding) => { b with failed := true, chunks := [], waiting := [], shards := [], landed := [], tries := [] }
      let s := s.modBind ctx buf mark
      let s := (List.range (if b.gather then b.np else 1)).foldl (fun s j => s.failSignal ctx b j) s
      (b.waiting ++ s.contribs ctx buf).dedup.foldl (fun s c => s.contribDone c.src 4) (s.dropContribs ctx buf)

/-- COLLECTIVE_FAILURE. -/
def execCollectiveFailure (ctx buf : Nat) (s : State) : Out :=
  .next (match s.bind? ctx buf with
    | none => s
    | some b =>
      let words := if b.gather then 8 * b.np else 8
      let held := fun (x : Option (Range × Nat)) => match x with | some x => s.hubHeld ctx x 0 words | none => false
      if held b.sg || held b.av then s.due [.collectiveFailure ctx buf] else s.failBuf ctx buf)

/-! ## BIND and UNBIND (R371, R372) -/

/-- The fields of a BIND break no rule of R371's table. Log entry 71. -/
def Binding.fieldsOk (b : Binding) : Bool :=
  let rsvd := b.bits 0 8 8 == 0 && b.bits 0 53 11 == 0 && b.bits 3 56 8 == 0 && b.bits 4 40 24 == 0
    && [1, 2, 5, 6, 7].all fun i => b.bits i 57 7 == 0
  let codes := b.op != 3 && [0, 9, 10, 11, 12, 13].contains b.sfmt && (if b.gather then b.dfmt == b.sfmt else [0, 9, 10, 11].contains b.dfmt)
  let size := decide (64 ≤ b.chb) && decide (b.chb ≤ 2 ^ 20) && b.chb % 64 == 0 && b.chb % bufSize b.sfmt == 0
  let kind :=
    if b.gather then b.shadow == 0 && decide (1 ≤ b.nslot) && decide (b.nslot ≤ b.np) && (decide (b.nslot < b.np) == (b.rel != 0))
    else b.nslot == 0 && b.rel == 0
  rsvd && codes && size && kind && b.nch != 0 && b.np != 0 && b.expc != 0

/-- R372: every page of a span is resident in an HBM frame. -/
def State.hbmPages (s : State) (ctx : Nat) (x : Range × Nat) (n : Nat) : Bool :=
  (pagesOf x.2 n).all fun p => match s.homeFind ctx (s.homeAt ctx x.1 p) p with | .ok e => e.loc == 1 | .error _ => false

/-- The binding of a packet, its addresses translated. Log entry 71. -/
def State.bindingOf (s : State) (p : Packet) : Binding :=
  let b : Binding :=
    { buf := p.f 0 16 16, words := p.words, failed := false, dst := none, sh := none, sg := none, av := none, rl := none, chunks := [],
      shadows := [], waiting := [], counts := [], shards := [], landed := [], tries := [] }
  let nsig := if b.gather then 8 * b.np else 8
  let opt := fun (a n : Nat) => if a = 0 then none else s.bindSpan p.ctx a n .atomic
  { b with
    dst := if b.gather then none else s.bindSpan p.ctx b.dbase (b.ne * bufSize b.dfmt * b.nch) .store
    sh := if b.gather then none else s.bindSpan p.ctx b.shadow (12 * b.ne * b.nch) .store
    sg := opt b.sig nsig, av := opt b.arvo nsig, rl := opt b.rel (8 * b.np) }

/-- R372: a BIND is valid. Log entry 71. -/
def State.bindOk (s : State) (c : Ctx) (b : Binding) : Bool :=
  let spot := fun (a : Nat) (x : Option (Range × Nat)) => a == 0 || (a % 8 == 0 && x.isSome)
  let parts := (List.range b.np).map fun j => b.lp0 + j
  let room := fun (lp : Nat) =>
    let n := ((s.ctxs.filter fun x => x.life != .dead).map fun x => (x.binds.filter fun y => x.dies.any (fun d => d.2.1 == c.phys lp) && y.takes (x.logical (c.phys lp))).length).sum
    decide (n < 1024)
  b.fieldsOk && (c.bind? b.buf).isNone && parts.all (fun lp => c.dies.any fun d => d.1 == lp) && parts.all room
  && (b.gather || (b.dst.isSome && (match b.sh with | some x => x.1.ares && s.hbmPages c.id x (12 * b.ne * b.nch) | none => false)))
  && spot b.sig b.sg && spot b.arvo b.av && spot b.rel b.rl

/-- BIND: in place at every participant's Hub before the queue goes on. -/
def execBind (p : Packet) (s : State) : Out :=
  .next (s.atPacket p fun s c _ =>
    let b := s.bindingOf p
    let s := if s.bindOk c b then s.modCtx c.id fun c => { c with binds := c.binds ++ [b] } else s.badPacket p.ctx p.q p.slot 5
    s.advanceQueue p.ctx p.q 1)

/-- UNBIND: the queue waits until every instance has completed or failed; then the binding is removed. Log entry 74. -/
def execUnbind (p : Packet) (s : State) : Out :=
  .next (s.atPacket p fun s c _ =>
    let buf := p.f 0 16 16
    let fields := p.f 0 8 8 == 0 && p.f 0 32 20 == 0 && p.f 0 53 11 == 0 && p.zeros 1 8
    match c.bind? buf with
    | some b =>
      if !fields then (s.badPacket p.ctx p.q p.slot 5).advanceQueue p.ctx p.q 1
      else if b.failed || s.bindIdle p.ctx b then
        (s.modCtx c.id fun c => { c with binds := c.binds.filter fun x => x.buf != buf }).advanceQueue p.ctx p.q 1
      else s.due [.unbind p]
    | none => (s.badPacket p.ctx p.q p.slot 5).advanceQueue p.ctx p.q 1)

end Sys2Proof.Machine
end

