-- ==== Sys2Proof/Machine/Contexts.lean ====
section
/-! DEFINITION. Contexts and functions: creation, teardown in its three steps, function resets, function registers
(spec/05_consistency.md R138 to R140, spec/03_translation_tiers.md R73, spec/16_system.md R383, R385, R387, R388,
spec/06_order_log.md R146, spec/14_traps_preemption.md R365). -/

namespace Sys2Proof.Machine

/-! ## CTXST (R383) -/

/-- The end of a context command: its context and status, and bit 63 toggles. Log entry 78. -/
def State.ctxStatus (s : State) (fn ctx st : Nat) : State :=
  let put := fun (f : Fn) =>
    { f with ctxst := ((f.ctxst &&& 0x8000000000000000#64) ^^^ 0x8000000000000000#64) ||| BitVec.ofNat 64 (ctx % 1024 + st * 1024) }
  s.modFn fn put

/-! ## Teardown (R138 to R140) -/

/-- The cores of a partition, and its homes. -/
def State.coresOf (s : State) (c : Ctx) : List CoreId :=
  (s.cores.filter fun k => c.dies.any fun d => d.2.1 == k.id.pkg && d.2.2 == k.id.die).map fun k => k.id

def State.homesOf (s : State) (c : Ctx) : List HomeId := ((c.slots.map (·.2)).dedup).filter fun h => (s.home? h).isSome

/-- Events of a context's pending work that its launch stop discards. -/
def stopsWork (ctx : Nat) (e : Instr) : Bool :=
  match e with
  | .leaseRequest l => l.blk.ctx == ctx
  | .triggeredWorkFire c _ => c == ctx
  | .signalFire p => p.ctx == ctx
  | _ => match packetOf e with | some p => p.ctx == ctx | none => false

/-- The context is dead: what is left of it goes, and the command that asked for its end completes. Log entry 78. -/
def State.buryCtx (s : State) (ctx : Nat) : State :=
  match s.ctx? ctx with
  | none => s
  | some c =>
    let resident := fun (b : Blk) => s.allWaves.any fun w => decide (w.id.blk = b.id)
    let s := { s with
      blks := s.blks.filter fun b => b.id.ctx != ctx || resident b
      held := s.held.filter fun h => h.ctx != ctx }
    let s := s.modCtx ctx fun c => { c with life := .dead, parked := [], saved := [], recs := [], resp := [], trapq := [], binds := [] }
    if c.auto then s else s.ctxStatus (fnOf ctx) ctx 0

/-- Step 3 begins: rejection goes to every home. -/
def State.sendRejections (s : State) (c : Ctx) : State :=
  let hs := s.homesOf c
  let s := s.modCtx c.id fun c => { c with life := .rejecting }
  if hs.isEmpty then s.buryCtx c.id else s.due (hs.map fun h => .contextRejection c.id h)

/-- Step 1, launch stop: nothing more is placed; pending launches, triggered work and lease requests are discarded, the launches' reserved
ranges are free (R356), the collectives of the context fail (R381), its log ends (R151); then revocation goes to every core. Log entries 75, 77. -/
def State.stopContext (s : State) (c : Ctx) : State :=
  let ctx := c.id
  let strip := fun (d : Die) => { d with list := d.list.filter fun i => i.ctx != ctx }
  let unqueue := fun (h : Home) => { h with queue := h.queue.filter fun l => l.blk.ctx != ctx }
  let unhold := fun (p : PageOp) => { p with held := p.held.filter fun l => l.blk.ctx != ctx }
  let isTask := fun (w : Watch) => match w.who with | .task x _ _ => x == ctx | _ => false
  let end_ : Launch → Launch := fun l => { l with bad := true, ended := true, next := l.nblk }
  let calm := fun (q : Queue) => { q with hold := [], sigs := [] }
  let s : State := { s with
    blks := s.blks.filter (fun (b : Blk) => !(b.id.ctx == ctx && b.state == .pending))
    dies := s.dies.map strip
    homes := s.homes.map unqueue
    pkgs := s.pkgs.map fun p => { p with resv := p.resv.filter fun r => r.1 != ctx }
    rack := { s.rack with stops := s.rack.stops.filter fun x => x.1 != ctx }
    pageops := s.pageops.map unhold
    watches := s.watches.filter fun w => !isTask w
    pending := s.pending.filter fun e => !stopsWork ctx e }
  let stop := fun (c : Ctx) =>
    { c with life := .stopping, launches := c.launches.map end_, trig := [], parked := [], queues := c.queues.map calm }
  let s := s.modCtx ctx stop
  let s := s.due (c.binds.map fun (b : Binding) => Instr.collectiveFailure ctx b.buf)
  let ends := s.pending.any fun e => match e with | .logEnd x _ => x == ctx | _ => false
  let s := if c.logmode = 1 && !ends then s.due [.logEnd ctx 0] else s
  match s.coresOf c with
  | [] => s.sendRejections c
  | ks => s.due (ks.map fun k => .coreRevocation ctx k)

/-- CTXCMD_TEARDOWN. Log entry 78. -/
def execCtxcmdTeardown (fn ctx : Nat) (s : State) : Out :=
  if (s.fn? fn).isNone then .fault .noSuchUnit
  else .next (match s.ctx? (fn * 1024 + ctx % 1024) with
    | none => s.ctxStatus fn ctx 1
    | some c =>
      match c.life with
      | .live => s.stopContext c
      | .dead => s.ctxStatus fn ctx 1
      | _ => if c.auto then s else s.ctxStatus fn ctx 2)

/-- Step 2 at one core: its waves exit, its commands and matrix operations are cancelled, and what the context holds there is released:
Lockring entries, pins of the die, deque records (R138, R139). Log entry 77. -/
def State.revokeAt (s : State) (ctx : Nat) (k : CoreId) : State :=
  let ids := (s.allWaves.filter fun w => w.id.blk.ctx == ctx && decide (w.core = k)).map fun w => w.id
  let here := fun (b : Blk) => b.id.ctx == ctx && decide (b.core = k) && (b.state == .running || b.state == .exitRead)
  let exits := (s.blks.filter fun b => here b && b.state == .exitRead).map fun b => b.id
  let kill := fun (b : Blk) => if here b then { b with failed := true, cmds := b.cmds.map Cmd.cancel, tiles := [] } else b
  let ops := (s.ops.filter fun o => o.ctx == ctx).map fun o => o.id
  let mine := fun (x : Lock) => match x.by_ with | .cmd b _ => b.ctx == ctx | .op o => ops.contains o
  let core := fun (x : Core) =>
    { x with wc := x.wc.filter fun b => b.ctx != ctx, deque := x.deque.filter fun t => t.ctx != ctx }
  let die := fun (d : Die) =>
    { d with
      pins := d.pins.filter fun p => p.2 != ctx
      l2 := d.l2.map fun x => if x.pin = some ctx then { x with pin := none } else x }
  let s := { s with
    blks := s.blks.map kill
    deferred := s.deferred.filter fun d => !(ids.contains d.wave) }
  let s := ids.foldl State.ctxDead s
  let s := (((s.freeLocks k mine).modCore k core).modDie k.pkg k.die die).modPkg k.pkg fun p => { p with ovfl := p.ovfl.filter fun t => t.ctx != ctx }
  exits.foldl State.closeBlk ((s.kickRefills k.pkg).kickTask k)

/-- CORE_REVOCATION: in one step of the core; the last one sends rejection. Log entries 33, 77. -/
def execCoreRevocation (ctx : Nat) (k : CoreId) (s : State) : Out :=
  if (s.core? k).isNone then .fault .noSuchUnit
  else .next (match s.ctx? ctx with
    | none => s
    | some c =>
      if (c.life != .stopping && c.life != .revoking) || c.revoked.contains k || !(s.coresOf c).contains k then s
      else
        let s := s.modCtx ctx fun c => { c with life := .revoking, revoked := c.revoked ++ [k] }
        let s := s.revokeAt ctx k
        if (s.coresOf c).all fun x => x = k ∨ x ∈ c.revoked then s.sendRejections c else s)

/-- The commands of a context among events. -/
def State.cmdOfCtx (s : State) (ctx : Nat) (h : HomeId) (e : Instr) : Bool :=
  match homeCmdOf e with | some c => c.ctx == ctx && decide (s.cmdHome c = h) | none => false

/-- Pending commands of a context at a home end with CTXDEAD, those that wait behind a page operation among them. -/
def State.cancelCmds (s : State) (ctx : Nat) (h : HomeId) : State :=
  let gone := (s.pending ++ s.pageops.flatMap fun p => p.behind).filter (s.cmdOfCtx ctx h)
  let s := { s with
    pending := s.pending.filter fun e => !s.cmdOfCtx ctx h e
    pageops := s.pageops.map fun p => { p with behind := p.behind.filter fun e => !s.cmdOfCtx ctx h e } }
  gone.foldl (fun s e => match homeCmdOf e with | some c => s.cmdEnd c 8 0 0 | none => s) s

/-- R73 at one page of a dead context: a shoot-down under way is finished first. -/
def State.rejectPage (s : State) (e : Entry) : State :=
  match s.pageop? e.home e.ia with
  | none => s
  | some p =>
    match e.mst with
    | 5 => s
    | 1 => s.abortCopy e.home e.ia 8
    | 2 =>
      let s := s.refuseHeld e.home e.ia
      (match p.cmd with | some m => s.cmdEnd m 8 0 0 | none => s)
    | _ =>
      let s := ((s.dropPageop e.home e.ia).modEntry e.home e.ia fun e => { e with mst := 0 }).due ((p.held.map fun l => .leaseRequest l) ++ p.behind)
      (match p.cmd with | some m => s.cmdEnd m 8 0 (if p.wait then m.fra else 0) | none => s)

/-- The leases of a context at a home: those its blocks hold, and grants on their way. -/
def State.leasesAt (s : State) (ctx : Nat) (h : HomeId) : List LeaseReq :=
  ((s.blks.filter fun b => b.id.ctx == ctx).flatMap fun b => b.leases.filter fun l => decide (l.home = h))
  ++ s.pending.filterMap fun e => match e with
    | .leaseGrantReceived l => if l.blk.ctx = ctx ∧ l.home = h then some l else none
    | _ => none

/-- The home drops the context's leases; a count that stayed at its maximum goes with it (R53). Log entry 77. -/
def State.dropLeases (s : State) (ctx : Nat) (h : HomeId) : State :=
  let ls := s.leasesAt ctx h
  let isGrant := fun (e : Instr) => match e with | .leaseGrantReceived l => l.blk.ctx == ctx && decide (l.home = h) | _ => false
  let strip := fun (b : Blk) => if b.id.ctx = ctx then { b with leases := b.leases.filter fun l => !decide (l.home = h) } else b
  let s := { s with blks := s.blks.map strip, pending := s.pending.filter fun e => !isGrant e }
  let s := ls.foldl (fun s l => l.pages.foldl (fun s p => s.releasePage h p) s) s
  let stuck := (s.entries.filter fun e => decide (e.home = h) && e.owner == ctx && e.lcnt == 65535).map fun e => e.ia
  stuck.foldl (fun s ia => (s.modEntry h ia fun e => { e with lcnt := 1 }).releasePage h ia) s

/-- CONTEXT_REJECTION (R73, R138): one step of the home; the last one ends the teardown. Log entry 77. -/
def execContextRejection (ctx : Nat) (h : HomeId) (s : State) : Out :=
  match s.home? h with
  | none => .fault .noSuchUnit
  | some x =>
    .next (match s.ctx? ctx with
      | none => s
      | some c =>
        if c.life != .rejecting || x.dead.contains ctx then s
        else
          let s := s.modHome h fun x => { x with dead := ctx :: x.dead }
          let s := (s.entries.filter fun e => decide (e.home = h) && e.owner == ctx).foldl State.rejectPage s
          let s := (s.cancelCmds ctx h).dropLeases ctx h
          if (s.homesOf c).all fun y => match s.home? y with | some z => z.dead.contains ctx | none => true then s.buryCtx ctx else s)

/-! ## Creation (R146, R365, R385) -/

/-- Word at byte 8 i of a descriptor. -/
def descW (bs : List Byte) (i : Nat) : W64 := BitVec.ofNat 64 (leVal ((bs.drop (8 * i)).take 8))
def descF (bs : List Byte) (i lo n : Nat) : Nat := (descW bs i).toNat / 2 ^ lo % 2 ^ n

/-- Bytes from lo on up to hi are zero. -/
def descZero (bs : List Byte) (lo hi : Nat) : Bool := ((bs.drop lo).take (hi - lo)).all fun b => b == 0#8

/-- Range register n, loaded by the writes of R36, RNGATTR last. Log entry 6. -/
def loadRange (dies : List (Nat × Nat × Nat)) (bs : List Byte) (n : Nat) : Range :=
  let r : Range := ⟨0, 0, 0, 0, 0⟩
  (((r.writeBound 0 (descW bs (4 * n))).writeBound 1 (descW bs (4 * n + 1))).writeBound 2 (descW bs (4 * n + 2))).writeAttr dies
    (descW bs (4 * n + 3))

/-- Its fields break no rule of R32 to R36. Log entry 79. -/
def rangeOk (dies : List (Nat × Nat × Nat)) (bs : List Byte) (n : Nat) : Bool :=
  let b := fun i (m : W64) => descW bs (4 * n + i) &&& ~~~m == 0#64
  b 0 0x01FFFFFFFFFF0000#64 && b 1 0x01FFFFFFFFFF0000#64 && b 2 0x00FFFFFFFFFF0000#64 && b 3 attrMask
  && !(loadRange dies bs n).attr.getLsbD 63

/-- Queue n of the descriptor; none where WQ marks it unused. -/
def loadQueue (bs : List Byte) (n : Nat) : Option Queue :=
  let i := 80 + 4 * n
  if descF bs (i + 1) 0 4 = 0 then none
  else
    let ri := descF bs (i + 2) 0 32
    some { num := n, va := descF bs i 0 57, logs := descF bs i 57 5, wq := descF bs (i + 1) 0 4, ri := ri, wi := ri, phase := 0, def_ := 0,
           nread := 0, hold := [], held := 0, met := false, sigs := [] }

def queueOk (bs : List Byte) (n : Nat) : Bool :=
  let i := 80 + 4 * n
  descF bs i 62 2 == 0 && descF bs (i + 1) 4 60 == 0 && descW bs (i + 3) == 0
  && (descF bs (i + 1) 0 4 == 0 || (descF bs i 0 6 == 0 && decide (4 ≤ descF bs i 57 5) && decide (descF bs i 57 5 ≤ 20)))

/-- The log ring of logical package k (R146). -/
def loadRing (desc : Nat) (bs : List Byte) (k : Nat) : LogRing :=
  let i := 384 + 4 + 4 * k
  { lpkg := k, lrsz := descF bs i 0 5, base := descF bs i 12 44 * 4096, desc := desc + 8 * i, pi := (descW bs (i + 1)).toNat,
    ci := (descW bs (i + 2)).toNat, hiw := false, lost := false, preempt := false, window := [], ended := false, ring := [], claimed := [] }

/-- R146: the entry of logical package k breaks no rule, whatever the mode. Log entry 79. -/
def ringEntryOk (bs : List Byte) (k : Nat) : Bool :=
  let i := 384 + 4 + 4 * k
  descF bs i 5 7 == 0 && descF bs i 56 8 == 0 && descW bs (i + 3) == 0 && decide (12 ≤ descF bs i 0 5) && decide (descF bs i 0 5 ≤ 26)

/-- R146: a ring in use lies in HBM frames of its own package. Log entry 79. -/
def State.ringOk (s : State) (fn : Nat) (rs : List Range) (bs : List Byte) (k pkg : Nat) : Bool :=
  let r := loadRing 0 bs k
  s.residentIa fn rs r.base (32 * 2 ^ r.lrsz) (some pkg)

/-- R365: the trap ring descriptor breaks no rule. Log entry 79. -/
def State.trdOk (s : State) (fn : Nat) (rs : List Range) (bs : List Byte) : Bool :=
  let logn := descF bs 64 0 5
  let wd := descF bs 68 0 6
  decide (6 ≤ logn) && decide (logn ≤ 16) && descF bs 64 6 6 == 0 && descF bs 64 56 8 == 0
  && descW bs 67 &&& ~~~0xFFFFFFFF0001#64 == 0#64 && descF bs 68 6 58 == 0 && (wd == 0 || (decide (24 ≤ wd) && decide (wd ≤ 40)))
  && descF bs 71 2 62 == 0 && s.residentIa fn rs (descF bs 64 12 44 * 4096) (64 * 2 ^ logn) none

/-- The context a descriptor describes. Log entries 6, 79. -/
def newCtx (id desc : Nat) (dies : List (Nat × Nat × Nat)) (bs : List Byte) : Ctx :=
  let mode := descF bs 384 0 2
  let npk := ((dies.map (·.1)).dedup).length
  { id := id, life := .live, auto := false, desc := desc, dies := dies, ranges := (List.range 16).map (loadRange dies bs), staged := none,
    tagwin := descW bs 73 &&& 0x1FFFFFFFFF#64, dbgctl := descW bs 76 &&& 1#64, pindrop := 0, ctl := descW bs 72,
    save := descF bs 74 12 44 * 4096, svsz := (descW bs 75).toNat, trd := descW bs 64, wdlog := descF bs 68 0 6, logmode := mode,
    dstop := descF bs 384 2 1 == 1, logst := 0, rings := if mode = 0 then [] else (List.range npk).map (loadRing desc bs),
    queues := (List.range 64).filterMap (loadQueue bs), launches := [], nlaunch := 0, parked := [], trig := [], off := [], saved := [],
    preempts := 0, preempting := false, revoked := [], binds := [], trapq := [], recs := [], resp := [], moved := [] }

/-- R385: every field keeps its rule. Log entry 79. -/
def State.descOk (s : State) (fn : Nat) (c : Ctx) (bs : List Byte) : Bool :=
  let pb := descF bs 72 0 13
  let tw := descF bs 73 0 18 + descF bs 73 18 19
  let pk := (c.dies.map fun d => (d.1, d.2.1)).dedup
  (List.range 16).all (rangeOk c.dies bs)
  && s.trdOk fn c.ranges bs
  && (pb == 0 || (decide (20 ≤ pb) && decide (pb ≤ 5000))) && descF bs 72 24 40 == 0
  && decide (tw ≤ 262144) && descF bs 73 37 27 == 0
  && descF bs 74 0 12 == 0 && descF bs 74 56 8 == 0
  && decide (Config.svreq ≤ c.svsz * 4096)
  && pk.all (fun p => s.residentIa fn c.ranges (c.saveIa p.1) (4096 * c.svsz) (some p.2))
  && descF bs 76 1 63 == 0
  && (List.range 64).all (queueOk bs)
  && c.logmode != 3 && descF bs 384 3 61 == 0 && descZero bs 3080 3104
  && pk.all (fun p => ringEntryOk bs p.1)
  && (c.logmode == 0 || (pk.all (fun p => s.ringOk fn c.ranges bs p.1 p.2) && c.queues.all fun q => decide (q.num < 16)))
  && descZero bs 616 640 && descZero bs 2688 3072 && descZero bs 7712 8192

/-- A context number starts afresh: nothing of its last life is left at dies, homes, order points and distributors; its window's entries
hold generation 0. Log entry 3. -/
def State.enterCtx (s : State) (c : Ctx) : State :=
  let die := fun (d : Die) => { d with phase := d.phase.filter fun p => p.1 / 64 != c.id }
  let home := fun (h : Home) => { h with dead := h.dead.filter fun x => x != c.id }
  let win := fun (p : Nat × (Nat × Nat)) => decide (c.tagBase ≤ p.1) && decide (p.1 < c.tagBase + c.tagCnt)
  let pkg := fun (p : Pkg) =>
    { p with
      tags := if c.pkgs.contains p.id then p.tags.filter fun x => !win x else p.tags
      serials := p.serials.set 0 c.id 0
      klass := p.klass.filter fun k => k.1 != c.id }
  { s with
    rack := { s.rack with ests := s.rack.ests.filter fun e => e.1 != c.id }
    ctxs := s.ctxs.filter (fun x => x.id != c.id) ++ [c]
    dies := s.dies.map die
    homes := s.homes.map home
    pkgs := s.pkgs.map pkg
    seqs := s.seqs.filter fun p => p.1 / 2 ^ 32 != c.id }

/-- CTXCMD_CREATE (R385): the descriptor is read and checked; every package of the partition loads it. A number in use is busy. No table is read
before CTXTAB has been written (R7). Log entry 78. -/
def execCtxcmdCreate (fn ctx : Nat) (s : State) : Out :=
  match s.fn? fn with
  | none => .fault .noSuchUnit
  | some f =>
    let id := fn * 1024 + ctx % 1024
    let used := (match s.ctx? id with | some c => c.life != .dead | none => false)
      || s.blks.any (fun b => b.id.ctx == id) || s.allWaves.any fun w => w.id.blk.ctx == id
    let desc := (f.ctxtab.extractLsb' 13 43).toNat * 8192 + 8192 * (ctx % 1024)
    let up := f.dies.all fun d => match s.pkg? d.2.1 with | some p => p.up && !p.failed | none => false
    .next (
      if used then s.ctxStatus fn ctx 2
      else if f.dies.isEmpty || !up then s.ctxStatus fn ctx 1
      else if !f.tabWr then s.ctxStatus fn ctx 1
      else if s.devHeld fn desc 8192 then s.due [.ctxcmdCreate fn ctx]
      else match s.devRead fn desc 8192 with
        | none => s.ctxStatus fn ctx 1
        | some bs =>
          let c := newCtx id desc f.dies bs
          let reads := if c.logmode = 2 then c.rings.map fun r => Instr.replayReaderTake id r.lpkg else []
          if s.descOk fn c bs then ((s.enterCtx c).due reads).ctxStatus fn ctx 0 else s.ctxStatus fn ctx 1)

/-! ## Functions (R383, R387, R388) -/

/-- A function's registers after a reset; CTXTAB has no reset value: it is to be written again before it is used (R7). The PF's settings for
it and its MSI-X table, which lie outside BAR0, stay. Log entry 80. -/
def Fn.reset (f : Fn) : Fn :=
  { f with tabWr := false, ctxst := 0, hcq := 0, hcqpi := 0, hcqci := 0, hcc := 0, hccpi := 0, hccci := 0, prq := 0, prqpi := 0, prqci := 0, barwin := 0,
           prqWait := [], hccWait := [] }

/-- A function before any write (R382, R383, R387). Log entry 6. -/
def Fn.new (n : Nat) : Fn :=
  { num := n, ctxtab := 0, tabWr := false, ctxst := 0, hcq := 0, hcqpi := 0, hcqci := 0, hcc := 0, hccpi := 0, hccci := 0, prq := 0, prqpi := 0, prqci := 0,
    barwin := 0, fpart := 0, wf := 1, hbmsh := 0, lanesh := 0, prqWait := [], hccWait := [], writes := [], msix := [], pba := [], hmap := [] }

/-- The contexts of functions that are not yet dead. -/
def State.liveCtxs (s : State) (fns : List Nat) : List Ctx := s.ctxs.filter fun c => fns.contains (fnOf c.id) && c.life != .dead

/-- Teardown by the device of a live context. -/
def State.endContext (s : State) (c : Ctx) : State :=
  if c.life = .live then (s.modCtx c.id fun c => { c with auto := true }).stopContext c else s

/-- R388: a reset of functions: their contexts are torn down, then their registers reset; until then the event stays due. Log entry 80. -/
def State.resetFns (s : State) (ev : Instr) (fns : List Nat) : State :=
  match s.liveCtxs fns with
  | [] => { s with fns := s.fns.map fun f => if fns.contains f.num then f.reset else f }
  | cs => (cs.foldl State.endContext s).due [ev]

/-- FUNCTION_LEVEL_RESET (R388): of the PF, every VF is reset first. Log entry 80. -/
def execFunctionLevelReset (fn : Nat) (s : State) : Out :=
  if (s.fn? fn).isNone then .fault .noSuchUnit
  else
    let vfs := (s.fns.map fun f => f.num).filter fun n => n != 0
    .next (
      if fn = 0 then
        (if (s.liveCtxs vfs).isEmpty then (s.resetFns (.functionLevelReset 0) vfs).resetFns (.functionLevelReset 0) [0]
         else s.resetFns (.functionLevelReset 0) vfs)
      else s.resetFns (.functionLevelReset fn) [fn])

/-- HOT_RESET (R388): a PF reset. -/
def execHotReset (pkg : Nat) (s : State) : Out :=
  if (s.pkg? pkg).isNone || (s.fn? 0).isNone then .fault .noSuchUnit else .next (s.due [.functionLevelReset 0])

/-- R387: a write of a function's die mask; ignored while the function has a context. -/
def State.fpartSet (s : State) (fn : Nat) (mask : BitVec 576) : State :=
  if (s.liveCtxs [fn]).isEmpty then s.modFn fn fun f => { f with fpart := mask, hmap := [] } else s

/-- FPART_WRITE (R387). Log entry 80. -/
def execFpartWrite (fn : Nat) (mask : BitVec 576) (s : State) : Out :=
  if (s.fn? fn).isNone then .fault .noSuchUnit else .next (s.fpartSet fn mask)

/-- One 64-bit word of a mask replaced. -/
def maskPut (m : BitVec 576) (i : Nat) (v : W64) : BitVec 576 :=
  (m &&& ~~~((0xFFFFFFFFFFFFFFFF#64).setWidth 576 <<< (64 * i))) ||| (v.setWidth 576 <<< (64 * i))

/-- FUNCTION_REGISTER_WRITE (R383): a ring register is left alone while its ring's indices differ; a register with an event of its own
sets that off, and an index shows it at once; read-only and other offsets ignore the write (R5). Log entries 9, 80. -/
def execFunctionRegisterWrite (fn off : Nat) (v : W64) (s : State) : Out :=
  match s.fn? fn with
  | none => .fault .noSuchUnit
  | some f =>
    let ring := v &&& 0x00FFFFFFFFFFF01F#64
    let put := fun (g : Fn → Fn) => s.modFn fn g
    let j := (off - 0x2400) / 72
    .next (match off with
      | 0x0008 => put fun f => { f with ctxtab := v &&& 0x00FFFFFFFFFFE000#64, tabWr := true }
      | 0x0010 =>
        (match (v.extractLsb' 10 2).toNat with
         | 1 => s.due [.ctxcmdCreate fn (v.extractLsb' 0 10).toNat]
         | 2 => s.due [.ctxcmdTeardown fn (v.extractLsb' 0 10).toNat]
         | _ => s)
      | 0x0020 => if f.hcqpi = f.hcqci then put fun f => { f with hcq := ring } else s
      | 0x0028 => (put fun f => { f with hcqpi := v }).due [.homeCommandDoorbell fn v.toNat]
      | 0x0038 => if f.hccpi = f.hccci then (put fun f => { f with hcc := ring }).hccFlush 65537 fn else s
      | 0x0048 => (put fun f => { f with hccci := v }).hccFlush 65537 fn
      | 0x0050 => if f.prqpi = f.prqci then (put fun f => { f with prq := ring }).prqFlush 65537 fn else s
      | 0x0060 => s.prqciSet fn v
      | 0x0068 => put fun f => { f with barwin := v &&& 0x00FFFFFFFFFF03FF#64 }
      | 0x0100 => s.due [.queueDoorbell fn (v.extractLsb' 0 10).toNat (v.extractLsb' 10 6).toNat (v.extractLsb' 16 32).toNat]
      | _ =>
        if fn ≠ 0 then s
        else if 0x2000 ≤ off ∧ off < 0x2200 ∧ off % 8 = 0 then
          let wf := (v.extractLsb' 0 8).toNat
          let set := fun (f : Fn) =>
            { f with
              wf := if wf = 0 then f.wf else wf
              hbmsh := (v.extractLsb' 8 8).toNat
              lanesh := (v.extractLsb' 16 8).toNat }
          s.modFn ((off - 0x2000) / 8) set
        else if 0x2400 ≤ off ∧ j < 64 ∧ (off - 0x2400) % 8 = 0 then
          (match s.fn? j with
           | some g => s.fpartSet j (maskPut g.fpart ((off - 0x2400) % 72 / 8) v)
           | none => s)
        else s)

end Sys2Proof.Machine
end

