-- ==== Sys2Proof/Machine/HostPort.lean ====
section
/-! DEFINITION. The package as a whole: bring-up, attestation, the CXL window, frequency, links and lanes, power loss, rack recovery, and the
host port (spec/16_system.md R384, R388 to R393, spec/01_package.md R12, R13, R17, R19, R24, R25, spec/03_translation_tiers.md R76, R77). -/

namespace Sys2Proof.Machine

/-! ## A package's units -/

def Core.new (id : CoreId) (seq : Nat) : Core :=
  { id := id, l1 := [], gl := [], wc := [], locks := [], deque := [], cycle := 0, iseq := seq }

def Die.new (pkg die : Nat) : Die :=
  { pkg := pkg, die := die, l2 := [], pins := [], g := [], migs := [], fwd := [], list := [], phase := [], age := 0, drain := none }

/-- A stack base with the remap of a retired-row list (R77) and the extent of its translation store (R56). -/
def Home.new (cap : Nat) (l : RowList) (id : HomeId) : Home :=
  { id := id, cap := cap, pins := 0, queue := [], remap := l.entries.filter (fun x => decide (x.1.home = id)), rows := [], dead := [], landing := 0, failing := [] }

/-- An event at a package's own units, which a loss of its power takes with it. -/
def atPkg (pkg : Nat) (e : Instr) : Bool :=
  match e with
  | .rowRemapSwitch r => r.home.pkg == pkg
  | .retiredRowPersist p _ => p == pkg
  | .migrationSlotStart h | .migrationSectorCopy h _ | .fillCopyDone h _ => h.pkg == pkg
  | .dieDistributorRound p _ | .stealWithinPackage p _ | .stealBetweenPackages p _ _ | .phaseClean p _ _ _ _ => p == pkg
  | .taskStart c | .taskSteal c | .dequeRefill c | .clauseIssue c _ | .wcBufferDrain c _ => c.pkg == pkg
  | .leaseRequest l | .leaseRelease l => l.home.pkg == pkg
  | _ => (match reqOf e with | some r => r.home.pkg == pkg | none => false)

/-- A key of memory lies in a package's stacks or CXL window. Log entry 81. -/
def keyInPkg (pkg k : Nat) : Bool :=
  let u := k / 2 ^ 56 / 16
  u == 256 + pkg || u == 512 + pkg

/-- The package at its reset: its units and what they hold are gone; the retired-row list stays (R76). Log entry 81. -/
def State.resetPkg (s : State) (pkg : Nat) : State :=
  let old := match s.pkg? pkg with | some p => p | none => Pkg.atReset pkg
  let new : Pkg := { Pkg.atReset pkg with listA := old.listA, listB := old.listB }
  let onB := fun (b : Blk) => if b.state = .pending ∨ b.state = .saved then b.at_.1 == pkg else b.core.pkg == pkg
  let gone := (s.blks.filter onB).map fun b => b.id
  { s with
    wave := if s.wave.core.pkg = pkg then Wave.idle else s.wave
    waves := s.waves.filter fun w => w.core.pkg != pkg
    blks := s.blks.filter fun b => !onB b
    cores := s.cores.filter fun c => c.id.pkg != pkg
    dies := s.dies.filter fun d => d.pkg != pkg
    homes := s.homes.filter fun h => h.id.pkg != pkg
    entries := s.entries.filter fun e => e.home.pkg != pkg
    pageops := s.pageops.filter fun p => p.home.pkg != pkg
    pkgs := s.pkgs.filter (fun p => p.id != pkg) ++ [new]
    mem := s.mem.filter fun x => !keyInPkg pkg x.1
    poison := s.poison.filter fun k => !keyInPkg pkg (64 * k)
    ops := s.ops.filter fun o => !gone.contains o.wave.blk
    deferred := s.deferred.filter fun d => !gone.contains d.wave.blk
    pending := s.pending.filter fun e => !atPkg pkg e }

/-- POWER_LOSS (R76): a retirement not yet persisted is lost. Log entry 81. -/
def execPowerLoss (pkg : Nat) (s : State) : Out :=
  if (s.pkg? pkg).isNone then .fault .noSuchUnit else .next (s.resetPkg pkg)

/-! ## Bring-up (R390) -/

def State.report (s : State) (pkg code : Nat) : State := { s with outbox := s.outbox ++ [.report pkg code] }

/-- A failed step stops bring-up and is reported. Log entry 5. -/
def State.bootStop (s : State) (pkg step : Nat) : State := (s.modPkg pkg fun p => { p with fault := some step }).report pkg step

/-- R77: the valid copy with the higher sequence number. -/
def Pkg.rowList (p : Pkg) : Option RowList :=
  match listValid p.id p.listA, listValid p.id p.listB with
  | true, true => some (if p.listB.seq ≤ p.listA.seq then p.listA else p.listB)
  | true, false => some p.listA
  | false, true => some p.listB
  | false, false => none

/-- R12: the enabled cores of a die, as array and position, and its firmware core: 49 of 56, at least 24 in each array of 28, and the
firmware core in the array that has 25. Log entry 5. -/
def dieOk (on : List (Nat × Nat)) (fw : Nat × Nat) : Bool :=
  on.length == 49 && decide on.Nodup && on.all (fun x => decide (x.1 < 2) && decide (x.2 < 28))
  && decide (24 ≤ (on.filter fun x => x.1 == 0).length) && decide (24 ≤ (on.filter fun x => x.1 == 1).length)
  && on.contains fw && (on.filter fun x => x.1 == fw.1).length == 25

/-- R389: the capacity a CXL window has under a mode: of one port, of the two interleaved by address bit 12, or of the two in turn. -/
def cxlRoom (mode : Nat) (ports : Nat × Nat) : Nat :=
  match mode with
  | 0 => ports.1
  | 1 => ports.2
  | 2 => 2 * min ports.1 ports.2
  | _ => ports.1 + ports.2

/-- R12, R56, R389: what a boot brings is what a package may have. Log entry 5. -/
def BootCfgOk (cfg : BootCfg) : Bool :=
  cfg.fwCore.length == 4 && cfg.enabled.length == 4 && (cfg.enabled.zip cfg.fwCore).all (fun x => dieOk x.1 x.2)
  && decide (cfg.cxlmode < 4) && decide (cfg.cxl ≤ 2 ^ 42) && decide (cfg.cxl ≤ cxlRoom cfg.cxlmode cfg.ports) && decide (cfg.xstcap ≤ 2 ^ 24)

/-- R13: the worker cores of a die in the order of their IDs: 0 to 23 in the west array, 24 to 47 in the east one, each in ascending
position. DESIGN CHOICE (log entry 112): the spec gives each array its IDs and no order within it. -/
def workers (on : List (Nat × Nat)) (fw : Nat × Nat) : List (Nat × Nat) :=
  (List.range 2).flatMap fun a => (List.range 28).filterMap fun i => if on.contains (a, i) && (a, i) != fw then some (a, i) else none

/-- Steps 3 to 5: the cores numbered; the translation stores placed and the rack joined; the host port up with its functions. What a
package cannot have stops step 3. Log entries 5, 42. -/
def State.bringUp (s : State) (pkg : Nat) (cfg : BootCfg) (l : RowList) : State :=
  if !BootCfgOk cfg then s.bootStop pkg 3
  else
    let numbered := fun (p : Pkg) => { p with fwCore := cfg.fwCore, coreMap := (cfg.enabled.zip cfg.fwCore).map fun x => workers x.1 x.2 }
    let s := s.modPkg pkg numbered
    if !cfg.joinOk then s.bootStop pkg 4
    else
      let salted := s.pkgs.any fun p => p.joined && p.id != pkg
      let s := s.modPkg pkg fun p => { p with joined := cfg.joined }
      let s := { s with rack := { s.rack with
        hsalt := if cfg.joined && !salted then cfg.hsalt else s.rack.hsalt
        lost := s.rack.lost.filter fun p => p != pkg } }
      if !cfg.portOk then s.bootStop pkg 5
      else
        let cores := (List.range 4).flatMap fun d => (List.range 49).map fun i => Core.new ⟨pkg, d, i⟩ s.seq -- 48 is the firmware core
        let up := fun (p : Pkg) =>
          { p with up := true, fault := none, boot := none, cxlmode := cfg.cxlmode, cxl := cfg.cxl, ports := cfg.ports, rcAtomics := cfg.rcAtomics }
        let s := s.modPkg pkg up
        { s with
          cores := s.cores ++ cores
          dies := s.dies ++ (List.range 4).map (Die.new pkg)
          homes := s.homes ++ (List.range 16).map fun k => Home.new cfg.xstcap l ⟨pkg, k⟩
          fns := if s.fns.isEmpty then (List.range 64).map Fn.new else s.fns }

/-- Step 2: the other images verified and measured, HBM trained, the retired-row list applied; without a valid list the package waits for
one, with a report of its own (R77). Log entry 5. -/
def State.bringImages (s : State) (pkg : Nat) (cfg : BootCfg) : State :=
  let measure := fun (n : Nat) => s.modPkg pkg fun p => { p with meas := cfg.digests.take n }
  match cfg.badImage with
  | some k => (measure k).bootStop pkg 2
  | none =>
    let s := measure 16
    if !cfg.hbmOk then s.bootStop pkg 2
    else match (s.pkg? pkg).bind Pkg.rowList with
      | none => (s.modPkg pkg fun p => { p with fault := some 2, boot := some cfg }).report pkg 0x77
      | some l => s.bringUp pkg cfg l

/-- PACKAGE_BOOT (R390): step 1 verifies the control-complex image, the first, and measures it. Log entries 5, 9. -/
def execPackageBoot (pkg : Nat) (cfg : BootCfg) (s : State) : Out :=
  if 144 ≤ pkg then .fault .noSuchUnit
  else .next (let s := s.resetPkg pkg; if cfg.badImage = some 0 then s.bootStop pkg 1 else s.bringImages pkg cfg)

/-- SIGNED_LIST_RESTORE (R390): a list that verifies is taken, and a bring-up stopped for want of one repeats step 2. -/
def execSignedListRestore (pkg : Nat) (l : RowList) (s : State) : Out :=
  match s.pkg? pkg with
  | none => .fault .noSuchUnit
  | some p =>
    .next (match p.boot with
      | some cfg => if p.fault = some 2 ∧ listValid pkg l then (s.modPkg pkg fun p => { p with listA := l }).bringImages pkg cfg else s
      | none => s)

/-! ## Attestation (R391) -/

/-- Exactly n bytes of a list, zeros behind it. Log entry 84. -/
def padTo (n : Nat) (bs : List Byte) : List Byte := (List.range n).map fun i => bs.getD i 0

/-- The signed part of a report. Log entry 84. -/
def Pkg.attested (p : Pkg) (nonce : List Byte) : List Byte :=
  padTo 32 nonce ++ ((List.range 16).flatMap fun i => padTo 32 (p.meas.getD i [])) ++ (List.range 32).map (Config.identity p.id)

/-- ATTESTATION_REQUEST. Log entry 84. -/
def execAttestationRequest (pkg : Nat) (nonce : List Byte) (s : State) : Out :=
  match s.pkg? pkg with
  | none => .fault .noSuchUnit
  | some p =>
    let a := p.attested nonce
    let sig := (List.range 2420).map (Config.signature pkg a s.free)
    .next (if p.up then { s with free := s.free + 1, outbox := s.outbox ++ [.attestation pkg (a ++ sig)] } else s)

/-! ## Frequency, links, lanes (R17, R19, R24) -/

/-- What a voltage and frequency island holds (R23). -/
inductive Island where
  | array (die : Nat) (east : Bool)
  | fabric (die : Nat)
  | hubPorts
  | hubControl
  | stackBases (first last : Nat)
  deriving DecidableEq, Repr

/-- R23: the contents of an island. -/
def islandOf (i : Nat) : Option Island :=
  if i < 12 then some (match i % 3 with | 0 => .array (i / 3) false | 1 => .array (i / 3) true | _ => .fabric (i / 3))
  else match i with
    | 12 => some .hubPorts
    | 13 => some .hubControl
    | 14 => some (.stackBases 0 7)
    | 15 => some (.stackBases 8 15)
    | _ => none

/-- The island of a core: that of its array (R13, R23). -/
def coreIsland (c : CoreId) : Nat := 3 * c.die + (if c.core < 24 then 0 else 1)

/-- FREQUENCY_CHANGE (R23, R24): an island is lowered, or restored, at a voltage that no rule states. DESIGN CHOICE (log entry 82): 3,000 MHz,
which R24 states as the nominal core clock, is the nominal frequency and ceiling of every island. Log entry 85. -/
def execFrequencyChange (pkg island mhz : Nat) (s : State) : Out :=
  if (s.pkg? pkg).isNone ∨ islandOf island = none then .fault .noSuchUnit
  else .next (if mhz = 0 ∨ 3000 < mhz then s
    else let x := s.anyWord; x.2.modPkg pkg fun p => { p with mhz := p.mhz.set 3000 island mhz, volt := p.volt.set 0 island x.1 })

/-- R17: neighbouring compute dies. -/
def neighbours (a b : Nat) : Bool := decide (a < 4) && decide (b < 4) && ((a + 1) % 4 == b || (b + 1) % 4 == a)

/-- NEIGHBOUR_LINK_FAILURE (R17). Log entry 85. -/
def execNeighbourLinkFailure (pkg d1 d2 : Nat) (s : State) : Out :=
  if (s.pkg? pkg).isNone || !neighbours d1 d2 then .fault .noSuchUnit
  else .next (s.modPkg pkg fun p => if p.links.contains (d1, d2) || p.links.contains (d2, d1) then p else { p with links := p.links ++ [(d1, d2)] })

/-- LANE_FAILURE (R19): the removal is reported; a package without lanes has failed. Log entry 85. -/
def execLaneFailure (pkg lane : Nat) (s : State) : Out :=
  match s.pkg? pkg with
  | none => .fault .noSuchUnit
  | some p =>
    if 72 ≤ lane then .fault .noSuchUnit
    else .next (
      if p.lanes.contains lane then s
      else
        let s := (s.modPkg pkg fun p => { p with lanes := p.lanes ++ [lane] }).report pkg 0x13
        if p.lanes.length + 1 = 72 then s.due [.heartbeatMiss pkg] else s)

/-! ## Rack recovery (R393, R157) -/

/-- The contexts of a failed package's jobs. -/
def State.jobsOf (s : State) (pkg : Nat) : List Ctx := s.ctxs.filter fun c => c.pkgs.contains pkg

/-- Fence: collectives with the package fail, its tray's standby takes over, log writers close, and the jobs' contexts are torn down. Log entry 82. -/
def State.fence (s : State) (pkg : Nat) : State :=
  let s := { s with rack := { s.rack with lost := s.rack.lost ++ [pkg] } }.modPkg pkg fun p => { p with failed := true }
  let live := (s.jobsOf pkg).filter fun c => c.life != .dead
  let fails := live.flatMap fun c => (c.binds.filter fun b => b.takes (c.logical pkg)).map fun b => Instr.collectiveFailure c.id b.buf
  let close := fun (s : State) (c : Ctx) =>
    if c.logmode = 1 then
      (s.modCtx c.id fun x => x.modRing (c.logical pkg) fun r => { r with lost := true }).due [.logEnd c.id 1]
    else if c.logmode = 2 then (s.modCtx c.id fun x => { x with logst := x.logst ||| 0x20#64 }).unhold c.id
    else s
  let s := live.foldl close (s.due fails)
  let s := if pkg % 4 = 0 then s.due [.trayStandbyTakeover (pkg / 4)] else s
  live.foldl (fun s c => match s.ctx? c.id with | some x => s.endContext x | none => s) s

/-- Spares: packages of the rack that are up and belong to no partition. Log entry 82. -/
def State.spares (s : State) : List Nat :=
  (s.pkgs.filter fun p => p.up && p.joined && !p.failed && !s.rack.lost.contains p.id && !s.fns.any fun f => f.pkgs.contains p.id).map fun p => p.id

/-- R393 steps 4 and 5, R47: in one function's home map the failed logical index names a spare, a free choice among those there are. Log entry 82. -/
def State.rewriteMap (s : State) (pkg fn : Nat) : State :=
  match s.fn? fn with
  | none => s
  | some f =>
    match f.members.find? (fun m => f.phys m == pkg), s.spares with
    | some m, _ :: _ =>
      let r := s.choose s.spares.length
      r.2.modFn fn fun f => { f with hmap := f.hmap.filter (fun x => x.1 != m) ++ [(m, s.spares.getD r.1 pkg)] }
    | _, _ => s

/-- HEARTBEAT_MISS: the recovery sequence; the home maps are rewritten when the jobs' contexts are gone. Log entry 82. -/
def execHeartbeatMiss (pkg : Nat) (s : State) : Out :=
  if (s.pkg? pkg).isNone then .fault .noSuchUnit
  else
    let s := if s.rack.lost.contains pkg then s else s.fence pkg
    .next (if (s.jobsOf pkg).any fun c => c.life != .dead then s.due [.heartbeatMiss pkg]
      else (s.fns.map fun f => f.num).foldl (fun s n => s.rewriteMap pkg n) s)

/-! ## The host port (R384) -/

/-- The entry that serves a host access under a context. -/
def State.hostEntry? (s : State) (ctx ia : Nat) : Option Entry :=
  s.entries.find? fun e => e.ia == pageOf ia && e.serves ctx && e.loc != 0
    && !(match s.home? e.home with | some h => h.dead.contains ctx | none => true)

/-- What a host access of n bytes meets: the entry of each sector, a shoot-down that holds it, or a refusal. -/
inductive HostLook where
  | ok (l : List (Nat × Nat × Entry))
  | held
  | refused
  deriving DecidableEq, Repr

def State.hostLook (s : State) (ctx ia n : Nat) : HostLook :=
  (secsOf ia n).foldl (fun acc p => match acc with
    | .ok l => (match s.hostEntry? ctx p.1 with
      | none => .refused
      | some e => if s.pageHeld e p.1 p.2 then .held else .ok (l ++ [(p.1, p.2, e)]))
    | x => x) (.ok [])

/-- The posted writes of a requester that have not landed, each with its function. -/
def State.hostWrites (s : State) (req : Nat) : List (Nat × HostWrite) :=
  s.fns.flatMap fun f => (f.writes.filter fun w => w.req == req).map fun w => (f.num, w)

/-- The oldest of them. Log entry 83. -/
def State.hostOldest (s : State) (req : Nat) : Option (Nat × HostWrite) :=
  (s.hostWrites req).foldl (fun a x => match a with
    | some y => if x.2.seq < y.2.seq then some x else a
    | none => some x) none

/-- The oldest posted writes of a requester that can land do so, in order, whichever functions they came through. Log entry 83. -/
def State.hostFlush (s : State) (n req : Nat) : State :=
  match n with
  | 0 => s
  | k + 1 => match s.hostOldest req with
    | none => s
    | some (fn, w) =>
      let out := fun (s : State) => s.modFn fn fun f => { f with writes := f.writes.filter fun x => x != w }
      match s.hostLook w.ctx w.ia w.bytes.length with
      | .held => s.due [.hostBar2Write ⟨req, fn⟩ 0 []]
      | .refused => (out { s with outbox := s.outbox ++ [.unsupported fn 0] }).hostFlush k req
      | .ok l =>
        let put := fun (s : State) (p : Nat × Nat × Entry) =>
          let sec := p.2.2.key p.1 / 64
          let bad := (p.2.1 != 64 || s.failing sec) && s.poison.contains sec
          let s := s.frameWrite p.2.2 p.1 ((w.bytes.drop (p.1 - w.ia)).take p.2.1)
          if bad then s.ownerRecord p.2.2 2 p.1 else s
        (out (l.foldl put s)).hostFlush k req

/-- The IA and context of a BAR2 offset (R383). -/
def Fn.window (f : Fn) (off : Nat) : Nat × Nat :=
  (f.num * 1024 + (f.barwin.extractLsb' 0 10).toNat, (f.barwin.extractLsb' 16 40).toNat * 2 ^ 16 + off)

/-- R382: n bytes at an offset lie within the 64 GiB of BAR2. Log entry 83. -/
def inBar2 (off n : Nat) : Bool := decide (off + n ≤ 2 ^ 36)

/-- HOST_BAR2_WRITE: a posted write of a requester ID, behind the earlier ones of that requester. An empty write asks again for those that
wait; one past the window is no access of it. Log entry 83. -/
def execHostBar2Write (at_ : HostAt) (off : Nat) (bytes : List Byte) (s : State) : Out :=
  match s.fn? at_.fn with
  | none => .fault .noSuchUnit
  | some f =>
    let w := f.window off
    let old := s.hostWrites at_.req
    let seq := old.foldl (fun a x => max a (x.2.seq + 1)) 0
    let add := fun (f : Fn) => if bytes.isEmpty then f else { f with writes := f.writes ++ [⟨at_.req, seq, w.1, w.2, bytes⟩] }
    .next (
      if inBar2 off bytes.length then (s.modFn at_.fn add).hostFlush (old.length + 1) at_.req
      else { s with outbox := s.outbox ++ [.unsupported at_.fn 0] })

/-- HOST_BAR2_READ: after every earlier write of its requester; a failed check value travels as poison, and is recorded (R100, R101); a read
of a host or CXL frame leaves its port (R59, R389). Log entries 47, 83. -/
def execHostBar2Read (at_ : HostAt) (off size tag : Nat) (s : State) : Out :=
  match s.fn? at_.fn with
  | none => .fault .noSuchUnit
  | some f =>
    let fn := at_.fn
    let w := f.window off
    .next (
      if !inBar2 off size then { s with outbox := s.outbox ++ [.unsupported fn tag] }
      else if !(s.hostWrites at_.req).isEmpty then s.due [.hostBar2Read at_ off size tag]
      else match s.hostLook w.1 w.2 size with
        | .held => s.due [.hostBar2Read at_ off size tag]
        | .refused => { s with outbox := s.outbox ++ [.unsupported fn tag] }
        | .ok l =>
          let bad := l.filter fun p => s.poison.contains (p.2.2.key p.1 / 64)
          let s := bad.foldl (fun s p => s.ownerRecord p.2.2 4 p.1) s
          let s := l.foldl (fun s p => s.portRead p.2.2 p.1 p.2.1) s
          { s with outbox := s.outbox ++ [.completion fn tag (l.flatMap fun p => s.memRead (p.2.2.key p.1) p.2.1) (!bad.isEmpty)] })

end Sys2Proof.Machine
end

