-- ==== Sys2Proof/Machine/Dispatch.lean ====
section
/-! DEFINITION. One arm for each row of spec/opcode_table.json: a direct call of its meaning. -/

namespace Sys2Proof.Machine

/-- What an instruction or event does (spec/opcode_table.json). -/
def exec (i : Instr) (s : State) : Host.Outcome State Fault Refusal :=
  match i with
  | .iadd w => Sys2Proof.Machine.execIadd w s
  | .isub w => Sys2Proof.Machine.execIsub w s
  | .imul w => Sys2Proof.Machine.execImul w s
  | .imulh w => Sys2Proof.Machine.execImulh w s
  | .imad w => Sys2Proof.Machine.execImad w s
  | .imadw w => Sys2Proof.Machine.execImadw w s
  | .imin w => Sys2Proof.Machine.execImin w s
  | .imax w => Sys2Proof.Machine.execImax w s
  | .iabs w => Sys2Proof.Machine.execIabs w s
  | .isad w => Sys2Proof.Machine.execIsad w s
  | .idp4 w => Sys2Proof.Machine.execIdp4 w s
  | .lop3 w => Sys2Proof.Machine.execLop3 w s
  | .shl w => Sys2Proof.Machine.execShl w s
  | .shr w => Sys2Proof.Machine.execShr w s
  | .sar w => Sys2Proof.Machine.execSar w s
  | .shf w => Sys2Proof.Machine.execShf w s
  | .bfe w => Sys2Proof.Machine.execBfe w s
  | .bfi w => Sys2Proof.Machine.execBfi w s
  | .brev w => Sys2Proof.Machine.execBrev w s
  | .popc w => Sys2Proof.Machine.execPopc w s
  | .clz w => Sys2Proof.Machine.execClz w s
  | .prmt w => Sys2Proof.Machine.execPrmt w s
  | .iset w => Sys2Proof.Machine.execIset w s
  | .sel w => Sys2Proof.Machine.execSel w s
  | .mov w => Sys2Proof.Machine.execMov w s
  | .movw w => Sys2Proof.Machine.execMovw w s
  | .rdlane w => Sys2Proof.Machine.execRdlane w s
  | .aadd w => Sys2Proof.Machine.execAadd w s
  | .amad w => Sys2Proof.Machine.execAmad w s
  | .aset w => Sys2Proof.Machine.execAset w s
  | .ajoin w => Sys2Proof.Machine.execAjoin w s
  | .asplit w => Sys2Proof.Machine.execAsplit w s
  | .fadd w => Sys2Proof.Machine.execFadd w s
  | .fmul w => Sys2Proof.Machine.execFmul w s
  | .ffma w => Sys2Proof.Machine.execFfma w s
  | .fmin w => Sys2Proof.Machine.execFmin w s
  | .fmax w => Sys2Proof.Machine.execFmax w s
  | .fset w => Sys2Proof.Machine.execFset w s
  | .fclass w => Sys2Proof.Machine.execFclass w s
  | .frnd w => Sys2Proof.Machine.execFrnd w s
  | .frcp w => Sys2Proof.Machine.execFrcp w s
  | .frsq w => Sys2Proof.Machine.execFrsq w s
  | .fsqrt w => Sys2Proof.Machine.execFsqrt w s
  | .fexp2 w => Sys2Proof.Machine.execFexp2 w s
  | .flog2 w => Sys2Proof.Machine.execFlog2 w s
  | .fsin w => Sys2Proof.Machine.execFsin w s
  | .fcos w => Sys2Proof.Machine.execFcos w s
  | .ftanh w => Sys2Proof.Machine.execFtanh w s
  | .fscale w => Sys2Proof.Machine.execFscale w s
  | .hadd2 w => Sys2Proof.Machine.execHadd2 w s
  | .hmul2 w => Sys2Proof.Machine.execHmul2 w s
  | .hfma2 w => Sys2Proof.Machine.execHfma2 w s
  | .hmnmx2 w => Sys2Proof.Machine.execHmnmx2 w s
  | .hset2 w => Sys2Proof.Machine.execHset2 w s
  | .cvt w => Sys2Proof.Machine.execCvt w s
  | .cvtsr w => Sys2Proof.Machine.execCvtsr w s
  | .pack2 w => Sys2Proof.Machine.execPack2 w s
  | .quant w => Sys2Proof.Machine.execQuant w s
  | .deq w => Sys2Proof.Machine.execDeq w s
  | .plop w => Sys2Proof.Machine.execPlop w s
  | .ppack w => Sys2Proof.Machine.execPpack w s
  | .punpack w => Sys2Proof.Machine.execPunpack w s
  | .shfl w => Sys2Proof.Machine.execShfl w s
  | .vote w => Sys2Proof.Machine.execVote w s
  | .ballot w => Sys2Proof.Machine.execBallot w s
  | .matchw w => Sys2Proof.Machine.execMatchw w s
  | .redux w => Sys2Proof.Machine.execRedux w s
  | .reduxi w => Sys2Proof.Machine.execReduxi w s
  | .scan w => Sys2Proof.Machine.execScan w s
  | .ld w => Sys2Proof.Machine.execLd w s
  | .st w => Sys2Proof.Machine.execSt w s
  | .ldq w => Sys2Proof.Machine.execLdq w s
  | .stq w => Sys2Proof.Machine.execStq w s
  | .lda w => Sys2Proof.Machine.execLda w s
  | .stl w => Sys2Proof.Machine.execStl w s
  | .ldc w => Sys2Proof.Machine.execLdc w s
  | .atom w => Sys2Proof.Machine.execAtom w s
  | .cas w => Sys2Proof.Machine.execCas w s
  | .atomf w => Sys2Proof.Machine.execAtomf w s
  | .red w => Sys2Proof.Machine.execRed w s
  | .fence w => Sys2Proof.Machine.execFence w s
  | .pref w => Sys2Proof.Machine.execPref w s
  | .cctlInv w => Sys2Proof.Machine.execCctlInv w s
  | .cctlUnpin w => Sys2Proof.Machine.execCctlUnpin w s
  | .cctlInvl1 w => Sys2Proof.Machine.execCctlInvl1 w s
  | .cctlInvdie w => Sys2Proof.Machine.execCctlInvdie w s
  | .cctlIinv w => Sys2Proof.Machine.execCctlIinv w s
  | .bar w => Sys2Proof.Machine.execBar w s
  | .cbar w => Sys2Proof.Machine.execCbar w s
  | .arv w => Sys2Proof.Machine.execArv w s
  | .await w => Sys2Proof.Machine.execAwait w s
  | .bra g off => Sys2Proof.Machine.execBra g off s
  | .brx g a => Sys2Proof.Machine.execBrx g a s
  | .call g off => Sys2Proof.Machine.execCall g off s
  | .callx g a => Sys2Proof.Machine.execCallx g a s
  | .ret g => Sys2Proof.Machine.execRet g s
  | .meet g off => Sys2Proof.Machine.execMeet g off s
  | .meets g off => Sys2Proof.Machine.execMeets g off s
  | .meetl g => Sys2Proof.Machine.execMeetl g s
  | .exit g => Sys2Proof.Machine.execExit g s
  | .yield g => Sys2Proof.Machine.execYield g s
  | .nop g => Sys2Proof.Machine.execNop g s
  | .shape w => Sys2Proof.Machine.execShape w s
  | .shapeRel w => Sys2Proof.Machine.execShapeRel w s
  | .mzero w => Sys2Proof.Machine.execMzero w s
  | .mloop w => Sys2Proof.Machine.execMloop w s
  | .mepi w => Sys2Proof.Machine.execMepi w s
  | .mepiCol w => Sys2Proof.Machine.execMepiCol w s
  | .mlda w => Sys2Proof.Machine.execMlda w s
  | .msta w => Sys2Proof.Machine.execMsta w s
  | .mcb w => Sys2Proof.Machine.execMcb w s
  | .xfer w => Sys2Proof.Machine.execXfer w s
  | .xring w => Sys2Proof.Machine.execXring w s
  | .xslotAcq w => Sys2Proof.Machine.execXslotAcq w s
  | .xslotRel w => Sys2Proof.Machine.execXslotRel w s
  | .xwait w => Sys2Proof.Machine.execXwait w s
  | .xcancel w => Sys2Proof.Machine.execXcancel w s
  | .spawn w => Sys2Proof.Machine.execSpawn w s
  | .csig w => Sys2Proof.Machine.execCsig w s
  | .cwait w => Sys2Proof.Machine.execCwait w s
  | .tagpub w => Sys2Proof.Machine.execTagpub w s
  | .tagwait w => Sys2Proof.Machine.execTagwait w s
  | .colsend w => Sys2Proof.Machine.execColsend w s
  | .phint g off => Sys2Proof.Machine.execPhint g off s
  | .logmark w => Sys2Proof.Machine.execLogmark w s
  | .trapf w => Sys2Proof.Machine.execTrapf w s
  | .trap w => Sys2Proof.Machine.execTrap w s
  | .csrr w => Sys2Proof.Machine.execCsrr w s
  | .csrw w => Sys2Proof.Machine.execCsrw w s
  | .clock w => Sys2Proof.Machine.execClock w s
  | .sleep w => Sys2Proof.Machine.execSleep w s
  | .bpt w => Sys2Proof.Machine.execBpt w s
  | .cmdqWrite w => Sys2Proof.Machine.execCmdqWrite w s
  | .rngattrWrite w => Sys2Proof.Machine.execRngattrWrite w s
  | .rangeBoundWrite w => Sys2Proof.Machine.execRangeBoundWrite w s
  | .tagwinWrite w => Sys2Proof.Machine.execTagwinWrite w s
  | .clauseIssue c quad => Sys2Proof.Machine.execClauseIssue c quad s
  | .flagCompletion op => Sys2Proof.Machine.execFlagCompletion op s
  | .waveEnd w => Sys2Proof.Machine.execWaveEnd w s
  | .trapRecordPost ctx r => Sys2Proof.Machine.execTrapRecordPost ctx r s
  | .lockringAutoRestart w => Sys2Proof.Machine.execLockringAutoRestart w s
  | .trapResponseResume ctx k => Sys2Proof.Machine.execTrapResponseResume ctx k s
  | .trapResponseStklim ctx k v => Sys2Proof.Machine.execTrapResponseStklim ctx k v s
  | .trapResponseEnd ctx k => Sys2Proof.Machine.execTrapResponseEnd ctx k s
  | .watchdogWaitExpiry w => Sys2Proof.Machine.execWatchdogWaitExpiry w s
  | .watchdogHeldExpiry w lane => Sys2Proof.Machine.execWatchdogHeldExpiry w lane s
  | .sleepExpiry w => Sys2Proof.Machine.execSleepExpiry w s
  | .breakpointResume w => Sys2Proof.Machine.execBreakpointResume w s
  | .wcBufferDrain c line => Sys2Proof.Machine.execWcBufferDrain c line s
  | .storeLanded op => Sys2Proof.Machine.execStoreLanded op s
  | .weakStoreError op e ia => Sys2Proof.Machine.execWeakStoreError op e ia s
  | .homeAccess r => Sys2Proof.Machine.execHomeAccess r s
  | .l2Request r => Sys2Proof.Machine.execL2Request r s
  | .leaseRequest l => Sys2Proof.Machine.execLeaseRequest l s
  | .leaseGrantReceived l => Sys2Proof.Machine.execLeaseGrantReceived l s
  | .leaseRefused l => Sys2Proof.Machine.execLeaseRefused l s
  | .leaseRelease l => Sys2Proof.Machine.execLeaseRelease l s
  | .homeCommandDoorbell fn pi => Sys2Proof.Machine.execHomeCommandDoorbell fn pi s
  | .map c => Sys2Proof.Machine.execMap c s
  | .unmap c => Sys2Proof.Machine.execUnmap c s
  | .fill c => Sys2Proof.Machine.execFill c s
  | .refuse c => Sys2Proof.Machine.execRefuse c s
  | .evict c => Sys2Proof.Machine.execEvict c s
  | .migrate c => Sys2Proof.Machine.execMigrate c s
  | .heatread c => Sys2Proof.Machine.execHeatread c s
  | .probe c => Sys2Proof.Machine.execProbe c s
  | .resetacc c => Sys2Proof.Machine.execResetacc c s
  | .badcmdOpcode c => Sys2Proof.Machine.execBadcmdOpcode c s
  | .migrationSlotStart h => Sys2Proof.Machine.execMigrationSlotStart h s
  | .migrationSectorCopy h ia => Sys2Proof.Machine.execMigrationSectorCopy h ia s
  | .fillCopyDone h ia => Sys2Proof.Machine.execFillCopyDone h ia s
  | .pageFlush h ia pkg die => Sys2Proof.Machine.execPageFlush h ia pkg die s
  | .shootDownAck h ia pkg die => Sys2Proof.Machine.execShootDownAck h ia pkg die s
  | .prqciWrite fn ci => Sys2Proof.Machine.execPrqciWrite fn ci s
  | .rowRetirementOrder r bad => Sys2Proof.Machine.execRowRetirementOrder r bad s
  | .rowRemapSwitch r => Sys2Proof.Machine.execRowRemapSwitch r s
  | .retiredRowPersist pkg r => Sys2Proof.Machine.execRetiredRowPersist pkg r s
  | .packageBoot pkg cfg => Sys2Proof.Machine.execPackageBoot pkg cfg s
  | .signedListRestore pkg l => Sys2Proof.Machine.execSignedListRestore pkg l s
  | .attestationRequest pkg nonce => Sys2Proof.Machine.execAttestationRequest pkg nonce s
  | .functionLevelReset fn => Sys2Proof.Machine.execFunctionLevelReset fn s
  | .hotReset pkg => Sys2Proof.Machine.execHotReset pkg s
  | .frequencyChange pkg island mhz => Sys2Proof.Machine.execFrequencyChange pkg island mhz s
  | .laneFailure pkg lane => Sys2Proof.Machine.execLaneFailure pkg lane s
  | .heartbeatMiss pkg => Sys2Proof.Machine.execHeartbeatMiss pkg s
  | .hostBar2Write fn off bytes => Sys2Proof.Machine.execHostBar2Write fn off bytes s
  | .hostBar2Read fn off size tag => Sys2Proof.Machine.execHostBar2Read fn off size tag s
  | .ctxcmdCreate fn ctx => Sys2Proof.Machine.execCtxcmdCreate fn ctx s
  | .ctxcmdTeardown fn ctx => Sys2Proof.Machine.execCtxcmdTeardown fn ctx s
  | .coreRevocation ctx c => Sys2Proof.Machine.execCoreRevocation ctx c s
  | .contextRejection ctx h => Sys2Proof.Machine.execContextRejection ctx h s
  | .queueDoorbell fn ctx q wi => Sys2Proof.Machine.execQueueDoorbell fn ctx q wi s
  | .fpartWrite fn mask => Sys2Proof.Machine.execFpartWrite fn mask s
  | .functionRegisterWrite fn off v => Sys2Proof.Machine.execFunctionRegisterWrite fn off v s
  | .launch p => Sys2Proof.Machine.execLaunch p s
  | .signal p => Sys2Proof.Machine.execSignal p s
  | .signalFire p => Sys2Proof.Machine.execSignalFire p s
  | .wait p => Sys2Proof.Machine.execWait p s
  | .barrierAnd p => Sys2Proof.Machine.execBarrierAnd p s
  | .waitRecheck ctx q => Sys2Proof.Machine.execWaitRecheck ctx q s
  | .phase p => Sys2Proof.Machine.execPhase p s
  | .bind p => Sys2Proof.Machine.execBind p s
  | .unbind p => Sys2Proof.Machine.execUnbind p s
  | .leaseHint p => Sys2Proof.Machine.execLeaseHint p s
  | .invalidPacket p => Sys2Proof.Machine.execInvalidPacket p s
  | .drrRound => Sys2Proof.Machine.execDrrRound s
  | .blockCostCharge b cost => Sys2Proof.Machine.execBlockCostCharge b cost s
  | .chunkAppend ctx launch pkg idxs => Sys2Proof.Machine.execChunkAppend ctx launch pkg idxs s
  | .dieDistributorRound pkg die => Sys2Proof.Machine.execDieDistributorRound pkg die s
  | .phaseClean pkg die ctx q ph => Sys2Proof.Machine.execPhaseClean pkg die ctx q ph s
  | .stealWithinPackage pkg die => Sys2Proof.Machine.execStealWithinPackage pkg die s
  | .stealBetweenPackages pkg die wide => Sys2Proof.Machine.execStealBetweenPackages pkg die wide s
  | .trayLengthCollect tray => Sys2Proof.Machine.execTrayLengthCollect tray s
  | .trayCostForward tray => Sys2Proof.Machine.execTrayCostForward tray s
  | .trayStandbyRefresh tray => Sys2Proof.Machine.execTrayStandbyRefresh tray s
  | .trayStandbyTakeover tray => Sys2Proof.Machine.execTrayStandbyTakeover tray s
  | .blockStart b => Sys2Proof.Machine.execBlockStart b s
  | .tagPublicationApply t => Sys2Proof.Machine.execTagPublicationApply t s
  | .tagForward pkg t => Sys2Proof.Machine.execTagForward pkg t s
  | .triggeredWorkFire ctx pkg => Sys2Proof.Machine.execTriggeredWorkFire ctx pkg s
  | .counterSignalPerform r => Sys2Proof.Machine.execCounterSignalPerform r s
  | .dequeRefill c => Sys2Proof.Machine.execDequeRefill c s
  | .taskStart c => Sys2Proof.Machine.execTaskStart c s
  | .taskSteal c => Sys2Proof.Machine.execTaskSteal c s
  | .barrierArrivalRegister w cb n cnt arr => Sys2Proof.Machine.execBarrierArrivalRegister w cb n cnt arr s
  | .arvPerform r => Sys2Proof.Machine.execArvPerform r s
  | .commandTake b => Sys2Proof.Machine.execCommandTake b s
  | .copySourceReleased b idx => Sys2Proof.Machine.execCopySourceReleased b idx s
  | .copyArrival b idx => Sys2Proof.Machine.execCopyArrival b idx s
  | .slotBoxLoaded b idx => Sys2Proof.Machine.execSlotBoxLoaded b idx s
  | .slotBoxStored b idx => Sys2Proof.Machine.execSlotBoxStored b idx s
  | .matrixOpComplete b handle => Sys2Proof.Machine.execMatrixOpComplete b handle s
  | .rackPreemption ctx => Sys2Proof.Machine.execRackPreemption ctx s
  | .preemptionBoundExpiry ctx => Sys2Proof.Machine.execPreemptionBoundExpiry ctx s
  | .blockSave b => Sys2Proof.Machine.execBlockSave b s
  | .blockRestore b c => Sys2Proof.Machine.execBlockRestore b c s
  | .contextSwitchOff ctx pkg => Sys2Proof.Machine.execContextSwitchOff ctx pkg s
  | .contextSwitchOn ctx pkg => Sys2Proof.Machine.execContextSwitchOn ctx pkg s
  | .logRingDrain ctx lpkg ci => Sys2Proof.Machine.execLogRingDrain ctx lpkg ci s
  | .logEnd ctx reason => Sys2Proof.Machine.execLogEnd ctx reason s
  | .replayReaderTake ctx lpkg => Sys2Proof.Machine.execReplayReaderTake ctx lpkg s
  | .replayHoldTimeout ctx held => Sys2Proof.Machine.execReplayHoldTimeout ctx held s
  | .exitFiredContribution b => Sys2Proof.Machine.execExitFiredContribution b s
  | .contributionCount c => Sys2Proof.Machine.execContributionCount c s
  | .shadowCombine p => Sys2Proof.Machine.execShadowCombine p s
  | .completionSignalUpdate ctx buf j => Sys2Proof.Machine.execCompletionSignalUpdate ctx buf j s
  | .shardLand x => Sys2Proof.Machine.execShardLand x s
  | .slotReservationRetry ctx buf id => Sys2Proof.Machine.execSlotReservationRetry ctx buf id s
  | .collectiveFailure ctx buf => Sys2Proof.Machine.execCollectiveFailure ctx buf s
  | .powerLoss pkg => Sys2Proof.Machine.execPowerLoss pkg s
  | .neighbourLinkFailure pkg d1 d2 => Sys2Proof.Machine.execNeighbourLinkFailure pkg d1 d2 s
  | .readCompletionReturns r => Sys2Proof.Machine.execReadCompletionReturns r s

end Sys2Proof.Machine
end

