-- ==== Sys2Proof/Machine/Step.lean ====
section
/-! DEFINITION. One step of the machine: one word of the focus wave, one clause issue, or one due event. Which agent moves is
plain data of the state (`order`); where it is silent the oldest due event moves, else a wave issues. -/

namespace Sys2Proof.Machine

/-- One step. -/
def step (s : State) : Host.Outcome State Fault Refusal :=
  match s.nextMove with
  | .word i t => (match exec i t with | .next u => .next (t.after u) | o => o)
  | .event i t => exec i t
  | .quiet t => .next t

/-- s with a one-word clause open in its focus wave, the word at its only place: the next step issues it (log entry 7). Log entry 7. -/
def State.withFetchWord (s : State) (_nbits w : Nat) : State :=
  { s with wave := s.wave.atWord (BitVec.ofNat 64 w), order := 0 :: s.order }

end Sys2Proof.Machine
end

