-- ==== Sys2Proof/Safety.lean ====
section
/-! DEFINITION. What the statements say of a run: the invariant of the state, a step that goes on, and how a wave is written. -/

namespace Sys2Proof.Machine

/-! ## Runs -/

/-- A run is safe where the machine neither faults nor refuses. -/
def Out.goes (o : Out) : Bool := match o with | .next _ => true | _ => false

/-- The state an outcome answers. -/
def Out.to (o : Out) (t : State) : Prop := o = .next t

/-- The invariant: memory is in its canonical form. -/
def State.Inv (s : State) : Prop := Memory.wf s.mem = true

/-- Only the focus wave's record differs. -/
def OnlyWave (s t : State) : Prop := t = { s with wave := t.wave }

/-! ## Written registers -/

/-- A 32-bit result is zero-extended where the destination is 64 bits wide (R79, R222). -/
def zext (dw : Bool) (r : W64) : W64 := if dw then r else (lo32 r).setWidth 64

/-- The last-result file after a per-thread write of the lanes ls: x1 takes x0, x0 the result; other lanes keep theirs (R79). -/
def PushedX (dw : Bool) (ls : List Nat) (f : Nat → W64) (w w' : Wave) : Prop :=
  ∀ l < 32, if l ∈ ls then w'.getX 0 l = zext dw (f l) ∧ w'.getX 1 l = w.getX 0 l
    else w'.getX 0 l = w.getX 0 l ∧ w'.getX 1 l = w.getX 1 l

/-- A per-thread register file after a write of register n, or of the pair n and n + 1, in the lanes ls (R221, R222, R238). -/
def FileWrote (get : Wave → Nat → Nat → W32) (n : Nat) (dw : Bool) (ls : List Nat) (f : Nat → W64) (w w' : Wave) : Prop :=
  ∀ r, ∀ l < 32, get w' r l =
    if l ∈ ls ∧ r = n then lo32 (f l) else if l ∈ ls ∧ dw = true ∧ r = n + 1 then hi32 (f l) else get w r l

/-- w' is w with the register operand d written: in every lane of ls for a per-thread register, from the lowest lane of ls for a
per-wave register, and nothing else changed (R79, R221, R222, R238). -/
def Wrote (dw : Bool) (d : Opd) (ls : List Nat) (f : Nat → W64) (w w' : Wave) : Prop :=
  match d with
  | .v n => FileWrote Wave.getV n.toNat dw ls f w w' ∧ PushedX dw ls f w w' ∧ w' = { w with v := w'.v, x := w'.x }
  | .o n => FileWrote Wave.getO n.toNat dw ls f w w' ∧ PushedX dw ls f w w' ∧ w' = { w with o := w'.o, x := w'.x }
  | .x _ => PushedX dw ls f w w' ∧ w' = { w with x := w'.x }
  | .s n =>
    (∀ r, w'.getS r = if ls ≠ [] ∧ r = n.toNat then lo32 (f (ls.headD 0))
      else if ls ≠ [] ∧ dw = true ∧ r = n.toNat + 1 then hi32 (f (ls.headD 0)) else w.getS r) ∧ w' = { w with s := w'.s }
  | .a n => (∀ r, w'.getA r = if ls ≠ [] ∧ r = n.toNat then zext dw (f (ls.headD 0)) else w.getA r) ∧ w' = { w with a := w'.a }
  | .m n => (∀ r, w'.getM r = if ls ≠ [] ∧ r = n.toNat then lo32 (f (ls.headD 0)) else w.getM r) ∧ w' = { w with m := w'.m }
  | _ => w' = w

/-- w' is w with predicate r written in the lanes ls; p7 keeps reading 1 (R78). -/
def WroteP (r : Nat) (ls : List Nat) (f : Nat → Bool) (w w' : Wave) : Prop :=
  (∀ q, ∀ l < 32, w'.getP q l = if l ∈ ls ∧ q = r ∧ q ≠ 7 then f l else w.getP q l) ∧ w' = { w with p := w'.p }

/-- A bit to a predicate, or all ones or zero to a register (R247). -/
def WroteMask (d : Opd) (ls : List Nat) (f : Nat → Bool) (w w' : Wave) : Prop :=
  match d with
  | .p n => WroteP n.toNat ls f w w'
  | d => Wrote false d ls (fun l => if f l then 0xFFFFFFFF#64 else 0#64) w w'

/-! ## Words of class 00 -/

/-- exec completes the word i, and all it does is to write f to d in the participating lanes. -/
def Gives (s : State) (i : Instr) (g : Guard) (dw : Bool) (d : Opd) (f : Nat → W64) : Prop :=
  ∃ t, exec i s = .next t ∧ OnlyWave s t ∧ Wrote dw d (s.wave.part g) f s.wave t.wave

/-- exec completes the word i, which writes a predicate, or a mask to a register. -/
def GivesMask (s : State) (i : Instr) (g : Guard) (d : Opd) (f : Nat → Bool) : Prop :=
  ∃ t, exec i s = .next t ∧ OnlyWave s t ∧ WroteMask d (s.wave.part g) f s.wave t.wave

/-- exec completes the floating-point word i: f gives each participating lane its result, and the flags that are ORed into ASTK
(R198); nothing else changes. -/
def GivesF (s : State) (i : Instr) (g : Guard) (dw : Bool) (d : Opd) (f : Nat → W64 × Nat) : Prop :=
  ∃ t w1, exec i s = .next t ∧ OnlyWave s t ∧ Wrote dw d (s.wave.part g) (fun l => (f l).1) s.wave w1
    ∧ t.wave = { w1 with astk := t.wave.astk }
    ∧ ∀ k, t.wave.astk.getLsbD k = (s.wave.astk.getLsbD k || decide (k < 64 ∧ ∃ l ∈ s.wave.part g, (f l).2.testBit k = true))

/-- The encoding and flags of an FP32 or packed result as a register value. -/
def asBits (r : Nat × Nat) : W64 × Nat := (BitVec.ofNat 64 r.1, r.2)

/-- An operation of two operands at the operand width (R236). -/
def at2 (wd : Bool) (f : (n : Nat) → BitVec n → BitVec n → BitVec n) (a b : W64) : W64 :=
  if wd then f 64 a b else (f 32 (lo32 a) (lo32 b)).setWidth 64

end Sys2Proof.Machine
namespace Sys2Proof.Machine

/-- An operation of one operand at the operand width (R236). -/
def at1 (wd : Bool) (f : (n : Nat) → BitVec n → BitVec n) (a : W64) : W64 :=
  if wd then f 64 a else (f 32 (lo32 a)).setWidth 64

/-- The 64-bit product of two operands, extended by the signedness of the type (R242, R251). -/
def prod64 (wd sg : Bool) (a b : W64) : W64 :=
  if wd then a * b
  else if sg then (lo32 a).signExtend 64 * (lo32 b).signExtend 64
  else (lo32 a).setWidth 64 * (lo32 b).setWidth 64

/-- exec completes the floating-point compare i: f gives each participating lane its bit and the flags ORed into ASTK. -/
def GivesFMask (s : State) (i : Instr) (g : Guard) (d : Opd) (f : Nat → Bool × Nat) : Prop :=
  ∃ t w1, exec i s = .next t ∧ OnlyWave s t ∧ WroteMask d (s.wave.part g) (fun l => (f l).1) s.wave w1
    ∧ t.wave = { w1 with astk := t.wave.astk }
    ∧ ∀ k, t.wave.astk.getLsbD k = (s.wave.astk.getLsbD k || decide (k < 64 ∧ ∃ l ∈ s.wave.part g, (f l).2.testBit k = true))

end Sys2Proof.Machine
namespace Sys2Proof.Machine

/-- The rational number of a finite value (-1)^s m 2^e (R179); zero for the others. -/
def FV.val (v : FV) : ℚ := match v with | .fin s m e => (if s then -1 else 1) * (m : ℚ) * (2 : ℚ) ^ e | _ => 0

/-- A finite value. -/
def FV.isFin (v : FV) : Bool := match v with | .fin .. => true | _ => false

/-- b encodes a finite value of the format (R179). -/
def Fmt.IsFin (F : Fmt) (b : Nat) : Prop := b < 2 ^ F.width ∧ (F.decode false b).isFin = true

/-- The number a finite encoding stands for (R179). -/
def Fmt.num (F : Fmt) (b : Nat) : ℚ := (F.decode false b).val

/-- A directed mode that rounds a number of sign s away from zero: rdn below it, rup above it. -/
def awayFrom0 (mode : Mode) (s : Bool) : Prop := (mode = 2 ∧ s = true) ∨ (mode = 3 ∧ s = false)

/-- The number v, of sign s, rounds above the largest finite value under the mode, the exponent range taken as unbounded above (R192,
R195). Half a spacing above it, rne goes to the even neighbour: up, but in E4M3 down. -/
def Fmt.Overflows (F : Fmt) (mode : Mode) (s : Bool) (v : ℚ) : Prop :=
  let top := F.num F.maxBits
  let gap := top - F.num (F.maxBits - 1)
  if mode = 0 then (if F.inf = true then top + gap / 2 ≤ |v| else top + gap / 2 < |v|)
  else (awayFrom0 mode s ∧ top < |v|) ∨ (¬awayFrom0 mode s ∧ top + gap ≤ |v|)

/-- The number v, of sign s, rounded as if the exponent range were unbounded below, lies below the smallest normal value (R192). -/
def Fmt.IsTiny (F : Fmt) (mode : Mode) (s : Bool) (v : ℚ) : Prop :=
  let least : ℚ := 2 ^ (1 - (F.bias : Int))
  let step : ℚ := 2 ^ (1 - (F.bias : Int) - F.f)
  if mode = 0 then |v| < least - step / 4
  else (awayFrom0 mode s ∧ |v| ≤ least - step / 2) ∨ (¬awayFrom0 mode s ∧ |v| < least)

/-- b is the neighbour of v that the mode names: rne the nearest, the even one of two; rtz the nearest not beyond v; rdn the greatest
not above; rup the least not below (R192, R240). -/
def Fmt.Neighbour (F : Fmt) (mode : Mode) (v : ℚ) (b : Nat) : Prop :=
  match mode with
  | 0 => ∀ k, F.IsFin k → |F.num b - v| ≤ |F.num k - v| ∧ (|F.num b - v| = |F.num k - v| → F.num k ≠ F.num b → b % 2 = 0)
  | 1 => |F.num b| ≤ |v| ∧ ∀ k, F.IsFin k → |F.num k| ≤ |v| → |F.num k| ≤ |F.num b|
  | 2 => F.num b ≤ v ∧ ∀ k, F.IsFin k → F.num k ≤ v → F.num k ≤ F.num b
  | _ => v ≤ F.num b ∧ ∀ k, F.IsFin k → v ≤ F.num k → F.num b ≤ F.num k

/-- Bits r are an FP32 number, or the infinity beyond the largest, that lies within k ulp of the number a, or within 2^-22 where `floor`
is set; a zero keeps a's sign (R194). -/
def Approx.Near (a : Approx) (k : Nat) (floor : Bool) (r : Nat) : Prop :=
  let x := (FV.fin a.neg a.m a.e).val
  let tol : ℚ := max (k * 2 ^ ulpExp a.m a.e) (if floor then 2 ^ (-22 : Int) else 0)
  r < 2 ^ 32 ∧ match fp32.decode false r with
    | .nan => False
    | .inf s => s = a.neg ∧ 2 ^ (128 : Int) - 2 ^ (103 : Int) ≤ |x| + tol
    | .fin s m e => |(FV.fin s m e).val - x| ≤ tol ∧ (m = 0 → s = a.neg)

end Sys2Proof.Machine
namespace Sys2Proof.Machine

/-! ## Memory words -/

/-- What each weak load asks (R278 to R280). -/
def weakLoads (w : MW) (s : State) : List MemSpec :=
  [weakSpec (.ld w) w .load .load false s, weakSpec (.ldq w) w .load .load true s, weakSpec (.ldc w) w .load .load false s]

/-- What each weak store asks (R278, R279). -/
def weakStores (w : MW) (s : State) : List MemSpec :=
  [weakSpec (.st w) w .store .store false s, weakSpec (.stq w) w .store .store true s]

/-- What each strong word asks (R281 to R286, R292, R293). -/
def strongWords (w : MW) (s : State) : List MemSpec :=
  [strongSpec (.lda w) w .load .load (w.addr14 s) s,
   strongSpec (.stl w) w .store .store (w.addr14 s) s,
   { strongSpec (.atom w) w .atomic (.rmw (atomOp w.op) false) (w.addr10 s) s with narrow := w.bytes == 16 },
   { strongSpec (.cas w) w .atomic (.rmw .cas false) (w.addr10 s) s with
     narrow := w.bytes == 16, d1 := s.groupElem w.data w.bytes 0, d2 := s.groupElem w.data w.bytes 1 },
   { strongSpec (.atomf w) w .atomic (.rmw (atomfOp w.op) s.wave.ftz) (w.addr10 s) s with
     narrow := true, d1 := s.groupElem w.data 4 1 },
   { strongSpec (.red w) w .atomic (.rmw (redOp w.op) s.wave.ftz) (w.addr10 s) s with narrow := decide (w.op ≥ 11) },
   { strongSpec (.arv w) w .atomic (.rmw .arv false) (w.addr14 s) s with d1 := s.elem w.data 4 },
   { strongSpec (.await w) w .load (if w.cp.getLsbD 0 then .tryRead 0 else .load) (w.addr14 s) s with
     arg := fun l => BitVec.ofNat 64 (leVal (s.elem w.data 8 l)) }]

/-- The word is in flight in t, counted on its flag: the operation that issuing m in s makes (R206). -/
def InFlight (s t : State) (m : MemSpec) : Prop :=
  ∃ o, t.op? s.freshId = some o ∧ o.ins = m.ins ∧ o.wave = s.wave.id ∧ o.flag = s.wave.flagOf m.ins
    ∧ (∀ l ∈ m.lanes s, o.addr.get 0 l = m.addr l)
    ∧ ∀ f, t.wave.flag f = s.wave.flag f + if s.wave.flagOf m.ins = some f then 1 else 0

/-- The address registers after the word but for its own destination: the base stepped by a post-increment, the others as they were
(R217). -/
def BaseStepped (w : MW) (weak : Bool) (s t : State) : Prop :=
  ∀ r, (∀ n, w.data = .a n → n.toNat ≠ r) → t.wave.getA r = if w.pi = true ∧ (∃ n, w.base = .a n ∧ n.toNat = r)
    then w.stepBase weak (s.wave.getA r) ((s.wave.getM w.msel.toNat).setWidth 64) else s.wave.getA r

/-- Every register but the k from the destination d on and, for LDC, its predicate, and every other part of the wave but its flags and
address registers, is as it was. -/
def RegsKept (i : Instr) (d : Opd) (k : Nat) (w w' : Wave) : Prop :=
  w' = { w with v := w'.v, o := w'.o, s := w'.s, a := w'.a, p := w'.p, flags := w'.flags }
  ∧ (∀ q, ∀ l < 32, (∀ m, i = .ldc m → q ≠ m.msel.toNat) → w'.getP q l = w.getP q l)
  ∧ (∀ r, ∀ l < 32, (∀ n, d = .v n → r < n.toNat ∨ n.toNat + k ≤ r) → w'.getV r l = w.getV r l)
  ∧ (∀ r, ∀ l < 32, (∀ n, d = .o n → r < n.toNat ∨ n.toNat + k ≤ r) → w'.getO r l = w.getO r l)
  ∧ (∀ r, (∀ n, d = .s n → r < n.toNat ∨ n.toNat + k ≤ r) → w'.getS r = w.getS r)

/-- A request for the piece p of lane l is among the due events: the location, size and bytes (R102). -/
def Asked (s t : State) (m : MemSpec) (l : Nat) (p : Piece) (a : Nat) : Prop :=
  ∃ r, .l2Request r ∈ t.pending ∧ r.op = s.freshId ∧ r.wave = s.wave.id ∧ r.lane = l ∧ r.ia = a ∧ r.size = p.size ∧ r.pos = p.pos
    ∧ r.data = ((m.d1 l).drop p.pos).take p.size ∧ r.strong = m.strong

/-- Every piece lies at an IA. -/
def AllAtHomes (ps : List (Nat × Piece)) : Prop := ∀ p ∈ ps, ∃ a g, p.2.spot = .ia a g

/-- Every piece lies in a scratchpad. -/
def AllInPads (ps : List (Nat × Piece)) : Prop := ∀ p ∈ ps, ∃ b o, p.2.spot = .scr b o

/-- No piece touches the notify word of a block's command ring (R311). -/
def OffNotify (s : State) (ps : List (Nat × Piece)) : Prop :=
  ∀ p ∈ ps, ∀ b o, p.2.spot = .scr b o → ∀ x, s.blk? b = some x → x.logn = 0 ∨ o + p.2.size ≤ x.noff ∨ x.noff + 8 ≤ o

/-- A request for the piece p of lane l waits behind what the strong word m must not pass: for a release the wave's earlier accesses, for
every strong word the write-combining stores of the core (R92, R122). -/
def AskedLater (s t : State) (m : MemSpec) (l : Nat) (p : Piece) (a : Nat) : Prop :=
  ((m.rel = true ∧ ∃ o ∈ s.opsOf s.wave.id, o.awaited = true) ∨ s.wcQuiet s.wave.core = false)
  ∧ ∃ d ∈ t.deferred, d.wave = s.wave.id ∧ d.waits ≠ [] ∧ ∃ r, .l2Request r ∈ d.evs ∧ r.op = s.freshId ∧ r.lane = l ∧ r.ia = a
    ∧ r.size = p.size ∧ r.pos = p.pos ∧ r.data = ((m.d1 l).drop p.pos).take p.size ∧ r.strong = true

/-- No request of the focus wave is on its way, and no write-combining buffer of its core names a scratchpad. -/
def NoneOnWay (s : State) : Prop :=
  (∀ q ∈ s.onWay, q.wave ≠ s.wave.id) ∧ ∀ k, s.core? s.wave.core = some k → ∀ b ∈ k.wc, b.home.stack < 16

/-- The pieces at IAs lie at stacks, those in scratchpads at none. -/
def HomesOk (s : State) (m : MemSpec) : Prop :=
  ∀ p ∈ okPieces (m.checks s), ∀ a g, p.2.spot = .ia a g → (s.pieceReq m 0 p.1 p.2).home.stack < 16

/-- The request r stands first at its home: nothing it must wait for, and the entry e serves it without an error. -/
def AtHome (s : State) (r : Req) (e : Entry) : Prop :=
  s.lapsed r = false ∧ s.dieWait r = false ∧ s.fifoWait r = false ∧ r.home.stack < 16 ∧ s.homeHolds r = none ∧ s.sameLoc r = []
  ∧ s.siblingErr r = none ∧ s.reqErr r = none ∧ s.entry? r.home r.ia = some e ∧ e.mst ≠ 1 ∧ r.il = false
  ∧ (∀ c, s.ctx? r.wave.blk.ctx = some c → c.rings = []) ∧ (r.kind.writes = true → r.data.length = r.size ∧ r.data2.length ≤ r.size)

/-- Memory of t is that of s but for the bytes bs from key k on. -/
def MemWrote (s t : State) (k : Nat) (bs : List Byte) : Prop :=
  ∀ a, t.memByte a = if k ≤ a ∧ a < k + bs.length then bs.getD (a - k) 0 else s.memByte a

/-- The operation of r has one piece less to be answered, and the bytes bs at the piece's place (R206, R273). -/
def Answered (s t : State) (r : Req) (bs : List Byte) : Prop :=
  ∀ o, s.op? r.op = some o → ∃ o', t.op? r.op = some o' ∧ o'.left = o.left - 1
    ∧ ∀ i < bs.length, o'.data.get 0 (16 * r.lane + r.pos + i) = bs.getD i 0

/-- The wave has stopped at the word with a trap of this code and lane; its registers are as they were, and its record is due. -/
def Trapped (s t : State) (code lane : Nat) (addr : W64) : Prop :=
  t.mem = s.mem ∧ t.wave.v = s.wave.v ∧ t.wave.o = s.wave.o ∧ t.wave.x = s.wave.x ∧ t.wave.p = s.wave.p ∧ t.wave.s = s.wave.s
  ∧ t.wave.a = s.wave.a ∧ t.wave.m = s.wave.m
  ∧ t.wave.run = (if trapRestart code then .trapped code none else .halted)
  ∧ ∃ r, .trapRecordPost s.wave.id.blk.ctx r ∈ t.pending ∧ r.code = code ∧ r.lane = lane ∧ r.addr = addr ∧ r.pc = s.wave.curPc
    ∧ r.prec = true ∧ r.urg = trapUrgent code ∧ r.rst = trapRestart code ∧ r.who = some s.wave.id

/-- Scratchpad byte k of block b. -/
def State.scrByte (s : State) (b : BlkId) (k : Nat) : Byte := match s.blk? b with | some x => x.scratch.get 0 k | none => 0

end Sys2Proof.Machine
namespace Sys2Proof.Machine

/-! ## Control words -/

/-- Nothing but the focus wave's PCs, groups, address registers, exits and run state, the due events, and the count of free values drawn
may differ after a control word: memory and every other register and record are as they were. -/
def ControlFrame (s t : State) : Prop :=
  t = { s with wave := t.wave, pending := t.pending, free := t.free }
  ∧ t.wave = { s.wave with
      pc := t.wave.pc, mr := t.wave.mr, mstack := t.wave.mstack, freed := t.wave.freed, heldC := t.wave.heldC,
      a := t.wave.a, exited := t.wave.exited, ordinal := s.wave.ordinal + 1, waitC := 0, clause := none, run := t.wave.run,
      fell := t.wave.fell }

/-- The lanes of the clause that are in T go to their targets, the others that have not exited to the VA after the clause; every other
thread's PC is as it was (R265). -/
def PcsMoved (c : Clause) (T : List Nat) (tgt : Nat → W64) (w w' : Wave) : Prop :=
  ∀ l < 32, w'.getPc l = if l ∈ T then tgt l
    else if c.lanes.getLsbD l = true ∧ w.exited.getLsbD l = false then c.next else w.getPc l

/-- Every word that a fetch of the wave at va may return is a clause header, or the fetch itself fails (R224, R225). -/
def State.HeaderAt (s : State) (w : Wave) (va : W64) : Prop :=
  va.extractLsb' 0 3 = 0#3 ∧ ∀ x k, s.fetchAt w va = .word x k → ∀ y ∈ s.codeWords w.core x k, isHeader y = true

/-- No word that a fetch of the wave at va may return is a clause header (R224, R225). -/
def State.NoHeaderAt (s : State) (w : Wave) (va : W64) : Prop :=
  va.extractLsb' 0 3 ≠ 0#3 ∨ ∃ x k, s.fetchAt w va = .word x k ∧ ∀ y ∈ s.codeWords w.core x k, isHeader y = false

/-- The VA after the clause holds a header, or no thread goes on there (R224). -/
def GoesOn (s : State) (c : Clause) (T : List Nat) : Prop :=
  s.HeaderAt s.wave c.next ∨ ∀ l < 32, c.lanes.getLsbD l = true → l ∉ T → s.wave.exited.getLsbD l = true

/-- The focus wave waits at its word, which is not performed: it keeps everything but its wait counter, and other waves issue. A wave
whose block a trap has ended stops there (R362). -/
def Waited (s t : State) : Prop :=
  t.mem = s.mem ∧ t.blks = s.blks ∧ ∃ v ∈ t.waves, s.wave.waitC < v.waitC
    ∧ v = if s.blkDead s.wave.id then { s.wave with waitC := v.waitC, run := .halted, clause := none } else { s.wave with waitC := v.waitC }

/-- Command idx of block b. -/
def State.cmdAt (s : State) (b : BlkId) (idx : Nat) : Option Cmd := (s.blk? b).bind fun x => x.cmds.find? fun c => c.idx == idx

/-- What CSIG and CWAIT ask (R323, R324). -/
def counterWords (w : AW) (s : State) : List MemSpec :=
  [{ ctrSpec (.csig w) w .atomic (.rmw .csig false) s with
     rel := true, d1 := fun l => leBytes 8 (lo32 (s.rd false .n32 w.s2 l)).toNat },
   { ctrSpec (.cwait w) w .load (if w.try_ then .tryRead 0 else .load) s with
     acq := true, scope := some w.sco, arg := fun l => s.rd true .n64 w.s2 l }]

/-- The operation that this word makes is answered with the 32-bit value v, in lane l. -/
def AnsweredBy (s t : State) (l v : Nat) : Prop :=
  ∃ o, t.op? s.freshId = some o ∧ o.left = 0 ∧ leVal ((List.range 4).map fun i => o.data.get 0 (16 * l + i)) = v

/-- No operation of the focus wave is in the way of a release. -/
def NoneAwaited (s : State) : Prop := ∀ o ∈ s.opsOf s.wave.id, o.awaited = false

/-! ## Home commands -/

/-- The completion record of command c stands in its function's ring, where the ring has room and none waits, and no home holds the
record (R66). -/
def Reported (s t : State) (c : HomeCmd) (status count : Nat) (frame : W64) : Prop :=
  ∀ f, s.fn? c.fn = some f → ringOn f.hcc = true → f.hccWait = [] → f.hccpi.toNat - f.hccci.toNat < 2 ^ ringLog f.hcc →
    let a := ringIa f.hcc + 32 * (f.hccpi.toNat % 2 ^ ringLog f.hcc)
    t.fn? c.fn = some { f with hccpi := f.hccpi + 1 }
    ∧ ∀ e, t.devEntry? c.fn a = some e → t.pageHeld e a 32 = false → t.copyTarget e = none →
        t.memRead (e.key a) 32 = bytesOf [c.tag, BitVec.ofNat 64 (status + count % 2 ^ 16 * 2 ^ 16), frame, 0]

/-- A shoot-down of the page of entry e has begun for command c (R62). -/
def ShootsDown (s t : State) (h : HomeId) (ia : Nat) (e : Entry) (c : HomeCmd) (what : ShootFor) : Prop :=
  t.mem = s.mem ∧ t.entry? h ia = some { e with mst := 5 } ∧ (∀ d ∈ s.flushDies e, .pageFlush h (pageOf ia) d.1 d.2 ∈ t.pending)
  ∧ ∃ p, t.pageop? h ia = some p ∧ p.cmd = some c ∧ p.shoot = some what ∧ p.acks = s.flushDies e

/-- The request asks a home for one page alone, and is no hint. -/
def AsksOne (l : LeaseReq) (h : HomeId) (ia : Nat) : Prop := l.home = h ∧ l.pages = [pageOf ia] ∧ l.hint = false

/-- Every home command as an event of c, but for a reserved opcode. -/
def homeEvents (c : HomeCmd) : List Instr :=
  [.map c, .unmap c, .fill c, .refuse c, .evict c, .migrate c, .heatread c, .probe c, .resetacc c]

/-- No page operation runs on the page of c, and c passes R64's checks at its turn. -/
def Runs (s : State) (c : HomeCmd) : Prop :=
  s.cmdBehind c = false ∧ s.cmdBad c = none ∧ s.pageop? (s.cmdHome c) c.ia = none

end Sys2Proof.Machine
end

