-- ==== Sys2Proof/WellFormed.lean ====
section
/-! DEFINITION. Well-formed instructions: what a decoded word satisfies (its form), and what it must satisfy besides before a
wave of a given register cap performs it (its operands). Event rows carry no encoding and are well formed as they stand. -/

namespace Sys2Proof

/-- An instruction whose form a word can hold and whose operands are legal at register cap `cap` (R14, R80, R214, R218 to R222). -/
def Instr.wf (cap : Nat) (i : Instr) : Bool := formOk i && operandsOk cap i

/-- A clause: its header decodes and its words keep R204. -/
def clauseWf (h : W64) (ws : List W64) : Bool :=
  match decodeHeader h with
  | some hd => clauseOk hd ws
  | none => false

end Sys2Proof
end

