-- ==== Sys2Proof/Certificates/Slice0/Obligations.lean ====
section
/-! DEFINITION. The statements: what the spec's numbered rules say the machine does, in terms of the model. -/

open Sys2Proof Sys2Proof.Machine

/-! ## Memory, decoding, the step, reset -/

/-- Every step keeps memory in its canonical form.
The model's choices it rests on: log entry 4. -/
def Obligations.StepsKeepMemoryCanonical : Prop :=
  ∀ s t : State, s.Inv → step s = .next t → t.Inv

/-- Reset: memory in its canonical form, nothing listed; one package, not brought up; no context, no wave, nothing in flight (R390).
The model's choices it rests on: log entries 4, 5, 6, 8. -/
def Obligations.ResetState : Prop :=
  State.reset.Inv ∧ (∀ k, State.reset.memByte k = 0) ∧ State.reset.pkgs = [Pkg.atReset 0] ∧ (Pkg.atReset 0).up = false
  ∧ State.reset.ctxs = [] ∧ State.reset.allWaves = [] ∧ State.reset.blks = [] ∧ State.reset.homes = [] ∧ State.reset.ops = []
  ∧ State.reset.pending = [] ∧ step State.reset = .next { State.reset with turn := true }

/-- Reading what was written: the bytes written, and every other byte as before (R3).
The model's choices it rests on: log entry 4. -/
def Obligations.MemoryReadsWrites : Prop :=
  ∀ (s : State) (k a : Nat) (bs : List Byte),
    (s.memWrite k bs).memByte a = (if k ≤ a ∧ a < k + bs.length then bs.getD (a - k) 0 else s.memByte a)
    ∧ (s.memWrite k bs).memRead k bs.length = bs ∧ (s.Inv → (s.memWrite k bs).Inv)
    ∧ ∀ n v, leVal (leBytes n v) = v % 256 ^ n

/-- R211 to R223: decoding the word of a well-formed instruction gives it back, whatever its operands. -/
def Obligations.DecodeEncode : Prop :=
  ∀ (i : Instr) (w : W64), formOk i = true → encode i = some w → decode w = .ok i

/-- R211 to R223: a word that decodes is the word of the instruction it holds, which is well formed: no two words hold one instruction,
and no reserved encoding decodes. -/
def Obligations.EncodeDecode : Prop :=
  ∀ (i : Instr) (w : W64), decode w = .ok i → formOk i = true ∧ encode i = some w

/-- R203, R204: a header that decodes is the header of its fields; ECL above 3, a set flag of 12 to 14 or a nonzero reserved bit is none. -/
def Obligations.HeadersDecode : Prop :=
  ∀ w : W64, (∀ h, decodeHeader w = some h → encodeHeader h = w ∧ h.ecl < 4 ∧ h.cnt < 16 ∧ (h.seta < 12 ∨ h.seta = 15) ∧ (h.setb < 12 ∨ h.setb = 15))
    ∧ (decodeHeader w = none ↔ (w >>> 62).toNat ≠ 3 ∨ 4 ≤ (w >>> 59).toNat % 8 ∨ (w >>> 39).toNat % 16 ∈ [12, 13, 14]
        ∨ (w >>> 35).toNat % 16 ∈ [12, 13, 14] ∨ w.toNat % 2 ^ 34 ≠ 0)

/-- Words of the spec decode to the instructions they stand for. -/
def Obligations.SpecWordsDecode : Prop :=
  let t : Guard := ⟨false, 7⟩
  decode 0x00680A02C0C484E6#64 = .ok (.iadd ⟨⟨true, 2⟩, .v 10, .v 11, .v 12, .p 1, none, .n32, 6⟩)
  ∧ decode 0x804C0000FFFFFFF4#64 = .ok (.bra ⟨false, 3⟩ 0xFFFFFFF4#32)
  ∧ decode 0x825C000000000000#64 = .ok (.exit t)
  ∧ (decode 0x881D445200000000#64).toOption.isSome ∧ decodeTableWord 64 0xC88008F800000000 = none

/-- A step on the next word of the focus wave's open clause: where the word decodes to an instruction whose operands are legal for the
wave and that need not wait at issue, the step is that instruction's meaning at this state, after which a word performed is retired
(R145, R162, R206, R226).
The model's choices it rests on: log entries 8, 12. -/
def Obligations.StepRunsTheWord : Prop :=
  ∀ (s : State) (r : List Nat) (c : Clause) (i : Instr), s.order = 0 :: r → s.wave.clause = some c → s.wave.run = .run →
    decode c.word = .ok i →
    let s1 := { s with order := r }
    (operandsOk s.wave.cap i = true → s1.issueHeld i = false →
      (∀ t, exec i s1 = .next t → step s = .next (s1.after t)) ∧ (∀ f, exec i s1 = .fault f → step s = .fault f)
      ∧ (∀ f, exec i s1 = .refused f → step s = .refused f)
      ∧ ∀ t, exec i s1 = .next t → t.wave.id = s.wave.id → t.wave.clause = some c → t.wave.run = .run → c.k < c.hdr.cnt →
          ∃ u, step s = .next u ∧ u.mem = t.mem ∧ u.wave.clause = some { c with k := c.k + 1 } ∧ u.wave.ordinal = t.wave.ordinal + 1)
    ∧ (operandsOk s.wave.cap i = true → s1.issueHeld i = true → step s = .next s1.stall)

/-- R214, R218, R226, R361: a step on a word that decodes to no instruction, or whose operands are illegal for the wave, traps at the
word: illegal instruction (code 0x02) or illegal operand (0x03).
The model's choices it rests on: log entry 12. -/
def Obligations.IllegalWordsTrap : Prop :=
  ∀ (s : State) (r : List Nat) (c : Clause), s.order = 0 :: r → s.wave.clause = some c → s.wave.run = .run →
    let s1 := { s with order := r }
    (∀ e, decode c.word = .error e → ∃ t, step s = .next t ∧ Trapped s1 t (if e = .operand then 0x03 else 0x02) 0 0)
    ∧ ∀ i, decode c.word = .ok i → operandsOk s.wave.cap i = false → ∃ t, step s = .next t ∧ Trapped s1 t 0x03 0 0

/-- A step on a due event that `order` names is the event's meaning, the event no longer due.
The model's choices it rests on: log entries 8, 9. -/
def Obligations.StepBringsAboutEvents : Prop :=
  ∀ (s : State) (r : List Nat) (n : Nat) (e : Instr), s.order = (n + 1) :: r → s.pending[n]? = some e →
    step s = exec e { s with order := r, pending := s.pending.eraseIdx n }

/-- The word a host's probe places is the next one performed, with every thread active and no flag counted.
The model's choices it rests on: log entry 7. -/
def Obligations.FetchWordRuns : Prop :=
  ∀ (s : State) (n w : Nat) (i : Instr), decodeTableWord n w = some i → operandsOk s.wave.cap i = true →
    (s.opsOf s.wave.id).all (fun o => !o.acq) = true →
    let s1 := { (s.withFetchWord n w) with order := s.order }
    ∀ t, exec i s1 = .next t → step (s.withFetchWord n w) = .next (s1.after t)
/-! ## Class 00: integer words (R241 to R251) -/

/-- R241: IADD and ISUB give A + B + carry-in and A - B - borrow-in reduced to the width, or the exact sum or difference clamped
under .sat; .cout writes the carry or the borrow to the predicate in SC; nothing else changes. -/
def Obligations.AddAndSubtract : Prop :=
  ∀ (s : State) (w : CW) (sub : Bool),
    let wd := wide w.ty
    let ci := fun l => w.sub.getLsbD 1 && s.wave.getP w.c.pred l
    let n := if wd then 64 else 32
    let wrapped := fun l =>
      if sub then at2 wd (fun n a b => a - b - BitVec.ofNat n (ci l).toNat) (w.valA s l) (w.valB s l)
      else at2 wd (fun n a b => a + b + BitVec.ofNat n (ci l).toNat) (w.valA s l) (w.valB s l)
    let exact := fun l => if sub then w.intA s l - w.intB s l else w.intA s l + w.intB s l
    let carry := fun l =>
      if sub then decide (uval wd (w.valA s l) < uval wd (w.valB s l) + (ci l).toNat)
      else decide (2 ^ n ≤ uval wd (w.valA s l) + uval wd (w.valB s l) + (ci l).toNat)
    ∃ t w1, exec (if sub then .isub w else .iadd w) s = .next t ∧ OnlyWave s t
      ∧ Wrote wd w.d (s.wave.part w.g) (fun l => if w.sub.getLsbD 0
          then ofI wd (max (intMin n (tySigned w.ty)) (min (exact l) (intMax n (tySigned w.ty)))) else wrapped l) s.wave w1
      ∧ (if w.sub.getLsbD 2 then WroteP w.c.pred (s.wave.part w.g) carry w1 t.wave else t.wave = w1)

/-- R242, R243: the products, minimum and maximum, absolute values and the four-way dot product. That IDP4's C is one 32-bit integer
also where it is an inline constant is the model's choice.
The model's choices it rests on: log entry 17. -/
def Obligations.ProductsAndExtremes : Prop :=
  ∀ (s : State) (w : CW),
    let wd := wide w.ty
    let sg := tySigned w.ty
    let byte := fun (x : W64) (i : Nat) =>
      if sg then (x.extractLsb' (8 * i) 8).signExtend 32 else (x.extractLsb' (8 * i) 8).setWidth 32
    Gives s (.imul w) w.g wd w.d (fun l => at2 wd (fun _ a b => a * b) (w.valA s l) (w.valB s l))
    ∧ Gives s (.imulh w) w.g wd w.d (fun l => at2 wd (fun n a b =>
        if sg then ((a.signExtend (2 * n) * b.signExtend (2 * n)) >>> n).setWidth n
        else ((a.setWidth (2 * n) * b.setWidth (2 * n)) >>> n).setWidth n) (w.valA s l) (w.valB s l))
    ∧ Gives s (.imad w) w.g wd w.d (fun l => at2 wd (fun _ p c => p + c)
        (at2 wd (fun _ a b => a * b) (w.valA s l) (w.valB s l)) (w.valC s l))
    ∧ Gives s (.imadw w) w.g true w.d (fun l => prod64 wd sg (w.valA s l) (w.valB s l) + s.rd true w.ty w.c l)
    ∧ Gives s (.imin w) w.g wd w.d (fun l => at2 wd (fun _ a b =>
        if (if sg then a.sle b else a.ule b) then a else b) (w.valA s l) (w.valB s l))
    ∧ Gives s (.imax w) w.g wd w.d (fun l => at2 wd (fun _ a b =>
        if (if sg then a.sle b else a.ule b) then b else a) (w.valA s l) (w.valB s l))
    ∧ (sg = true → Gives s (.iabs w) w.g wd w.d (fun l => at1 wd (fun n a =>
        if a.slt 0 then (if w.sub.getLsbD 0 ∧ a = BitVec.intMin n then a - 1 else -a) else a) (w.valA s l)))
    ∧ Gives s (.isad w) w.g wd w.d (fun l => at2 wd (fun _ p c => p + c)
        (at2 wd (fun _ a b => if (if sg then a.slt b else a.ult b) then b - a else a - b) (w.valA s l) (w.valB s l)) (w.valC s l))
    ∧ Gives s (.idp4 w) w.g false w.d (fun l =>
        let c := s.rd false .b32 w.c l
        let a := w.valA s l
        let b := w.valB s l
        if w.sub.getLsbD 0 then
          ofI false (max (intMin 32 sg) (min (ival sg false c + byteI sg a 0 * byteI sg b 0 + byteI sg a 1 * byteI sg b 1
            + byteI sg a 2 * byteI sg b 2 + byteI sg a 3 * byteI sg b 3) (intMax 32 sg)))
        else (lo32 c + byte a 0 * byte b 0 + byte a 1 * byte b 1 + byte a 2 * byte b 2 + byte a 3 * byte b 3).setWidth 64)

/-- R244, R245: the three-input bit function, shifts and the funnel shift. -/
def Obligations.BitLogicAndShifts : Prop :=
  ∀ (s : State) (w : CW),
    let wd := wide w.ty
    let n := if wd then 64 else 32
    (∃ f, Gives s (.lop3 w) w.g wd w.d f ∧ ∀ l ∈ s.wave.part w.g, ∀ k < n, (f l).getLsbD k =
        w.c.const.getLsbD (((s.rd wd w.ty w.d l).getLsbD k).toNat + 2 * ((w.valA s l).getLsbD k).toNat
          + 4 * ((w.valB s l).getLsbD k).toNat))
    ∧ Gives s (.shl w) w.g wd w.d (fun l => at1 wd (fun _ a => a <<< (lo32 (w.valB s l)).toNat) (w.valA s l))
    ∧ Gives s (.shr w) w.g wd w.d (fun l => at1 wd (fun _ a => a >>> (lo32 (w.valB s l)).toNat) (w.valA s l))
    ∧ Gives s (.sar w) w.g wd w.d (fun l => at1 wd (fun _ a => a.sshiftRight (lo32 (w.valB s l)).toNat) (w.valA s l))
    ∧ Gives s (.shf w) w.g false w.d (fun l =>
        let y := join (lo32 (w.valB s l)) (lo32 (w.valA s l))
        let k := min (lo32 (w.valC s l)).toNat 32
        (if w.sub.getLsbD 0 then hi32 (y <<< k) else lo32 (y >>> k)).setWidth 64)

/-- R246: bit fields, reversal, counts and the byte permute. -/
def Obligations.FieldsAndCounts : Prop :=
  ∀ (s : State) (w : CW),
    let wd := wide w.ty
    let n := if wd then 64 else 32
    let ls := s.wave.part w.g
    (∃ f, Gives s (.bfe w) w.g wd w.d f ∧ ∀ l ∈ ls, ∀ i < n,
        let a := w.valA s l
        let pos := ((w.valB s l).extractLsb' 0 8).toNat
        let len := ((w.valB s l).extractLsb' 8 8).toNat
        let field := fun j => if pos + j < n then a.getLsbD (pos + j) else tySigned w.ty && a.getLsbD (n - 1)
        (f l).getLsbD i = (if len = 0 then false else if i < len then field i else tySigned w.ty && field (min len n - 1)))
    ∧ (∃ f, Gives s (.bfi w) w.g wd w.d f ∧ ∀ l ∈ ls, ∀ i < n,
        let pos := ((w.valC s l).extractLsb' 0 8).toNat
        let len := ((w.valC s l).extractLsb' 8 8).toNat
        (f l).getLsbD i = if pos ≤ i ∧ i < pos + len then (w.valA s l).getLsbD (i - pos) else (w.valB s l).getLsbD i)
    ∧ (∃ f, Gives s (.brev w) w.g wd w.d f ∧ ∀ l ∈ ls, ∀ i < n, (f l).getLsbD i = (w.valA s l).getLsbD (n - 1 - i))
    ∧ Gives s (.popc w) w.g false w.d (fun l =>
        BitVec.ofNat 64 ((Finset.range n).filter fun k => (w.valA s l).getLsbD k = true).card)
    ∧ (∃ z : Nat → Nat, Gives s (.clz w) w.g false w.d (fun l => BitVec.ofNat 64 (z l)) ∧ ∀ l ∈ ls,
        z l ≤ n ∧ (∀ k < n, n - z l ≤ k → (w.valA s l).getLsbD k = false) ∧ (z l < n → (w.valA s l).getLsbD (n - 1 - z l) = true))
    ∧ (∃ f, Gives s (.prmt w) w.g false w.d f ∧ ∀ l ∈ ls, ∀ i < 4,
        let sel := (w.valC s l).extractLsb' (5 * i) 5
        let e : Byte := (join (lo32 (w.valB s l)) (lo32 (w.valA s l))).extractLsb' (8 * (sel.extractLsb' 0 3).toNat) 8
        (f l).extractLsb' (8 * i) 8 = match (sel.extractLsb' 3 2).toNat with
          | 0 => e | 1 => 0#8 | 2 => if e.getLsbD 7 then 0xFF#8 else 0#8 | _ => e.reverse)

/-- R248 to R251: select, moves, one lane's value to all, and the address words. -/
def Obligations.MovesAndAddresses : Prop :=
  ∀ (s : State) (w : CW) (m : MovW),
    let wd := wide w.ty
    let sg := tySigned w.ty
    Gives s (.sel w) w.g wd w.d (fun l => if s.wave.getP w.c.pred l then w.valA s l else w.valB s l)
    ∧ Gives s (.mov w) w.g wd w.d (fun l => match w.imm with
        | some i => if wd then i.signExtend 64 else (i.signExtend 32).setWidth 64
        | none => s.rd wd w.ty w.a l)
    ∧ Gives s (.movw m) m.g (m.kind != 0#2) m.d (fun l => match m.kind.toNat with
        | 0 => m.imm.setWidth 64 | 1 => m.imm.setWidth 64 | 2 => m.imm.signExtend 64
        | _ => join m.imm (lo32 (s.rd true .b32 m.d l)))
    ∧ Gives s (.rdlane w) w.g wd w.d (fun _ =>
        s.rd wd w.ty w.a ((s.rd wd w.ty w.b ((s.wave.part w.g).headD 0)).toNat % 32))
    ∧ Gives s (.aadd w) w.g true w.d (fun l =>
        let b := match w.imm with | some i => i.signExtend 64 | none => s.rd wd w.ty w.b l
        s.rd true .n64 w.a l + if wd then b else if sg then (lo32 b).signExtend 64 else (lo32 b).setWidth 64)
    ∧ Gives s (.amad w) w.g true w.d (fun l => s.rd true .n64 w.a l + prod64 wd sg (w.valB s l) (w.valC s l))
    ∧ Gives s (.aset w) w.g true w.d (fun l => match w.sub.toNat with
        | 0 => 0xFF00000000000000#64 ||| (w.valA s l &&& 0xFFFFF#64)
        | 1 => 0xFF00000100000000#64 ||| (w.valA s l &&& 0x7FFFFF#64)
        | _ => 0xFF01000000000000#64 ||| (w.valA s l &&& 0xFFFFFFFFFFFF#64))
    ∧ Gives s (.ajoin w) w.g true w.d (fun l => join (lo32 (w.valB s l)) (lo32 (w.valA s l)))
    ∧ Gives s (.asplit w) w.g false w.d (fun l =>
        if w.sub.getLsbD 0 then s.rd true .n64 w.a l >>> 32 else s.rd true .n64 w.a l &&& 0xFFFFFFFF#64)
/-! ## Number formats and floating-point words (R179 to R199, R252 to R259) -/

/-- R179, R192, R193, R195: rounding: every number that is not zero goes to the neighbour its mode names, with its sign; NX is set where
that neighbour is not the number, and UF where the number is tiny besides. One that rounds above the largest finite value goes there
or to infinity, as mode and .sat say, with OF and NX. FTZ turns a subnormal result into the zero of its sign and sets UF.
A value that a format holds is its own rounding, with no flag. Sums and products are exact before their one rounding.
The model's choices it rests on: log entry 19. -/
def Obligations.ArithmeticIsExact : Prop :=
  (∀ F ∈ [fp32, fp16, bf16, e4m3, e5m2], ∀ (mode : Mode) (sat : Bool), mode < 4 →
    (∀ b, F.IsFin b → F.encode mode sat false (F.decode false b) = (b, 0))
    ∧ F.encode mode sat false .nan = (F.nan, 0)
    ∧ (∀ s, F.encode mode sat false (.inf s) =
        if sat then (s.toNat * 2 ^ (F.eb + F.f) + F.maxBits, fOF) else (F.infBits s, if F.inf then 0 else fOF))
    ∧ (∀ s e, F.encode mode sat false (.fin s 0 e) = (s.toNat * 2 ^ (F.eb + F.f), 0))
    ∧ (∀ s m e, m ≠ 0 →
        let v := (FV.fin s m e).val
        let r := F.encode mode sat false (.fin s m e)
        (F.Overflows mode s v →
          (sat = true ∨ mode = 1 ∨ (mode ≠ 0 ∧ ¬awayFrom0 mode s) → r = (s.toNat * 2 ^ (F.eb + F.f) + F.maxBits, fOF ||| fNX))
          ∧ (sat = false → mode = 0 ∨ awayFrom0 mode s → r = (F.infBits s, fOF ||| fNX)))
        ∧ (¬F.Overflows mode s v → F.IsFin r.1 ∧ r.1 / 2 ^ (F.eb + F.f) = s.toNat ∧ F.Neighbour mode v r.1
          ∧ (F.num r.1 = v → r.2 = 0) ∧ (F.num r.1 ≠ v → F.IsTiny mode s v → r.2 = fNX ||| fUF)
          ∧ (F.num r.1 ≠ v → ¬F.IsTiny mode s v → r.2 = fNX)))
    ∧ ∀ v, let r := F.encode mode sat false v
        let k := r.1 % 2 ^ (F.eb + F.f)
        F.encode mode sat true v = if F.flush = true ∧ k ≠ 0 ∧ k < 2 ^ F.f then (r.1 - k, r.2 ||| fUF) else r)
  ∧ (∀ x ∈ [(fp32, 0x7F7FFFFF, 0x7F800000, 0x7FC00000), (fp16, 0x7BFF, 0x7C00, 0x7E00), (bf16, 0x7F7F, 0x7F80, 0x7FC0),
        (e4m3, 0x7E, 0x7F, 0x7F), (e5m2, 0x7B, 0x7C, 0x7E)], x.1.maxBits = x.2.1 ∧ x.1.infBits false = x.2.2.1 ∧ x.1.nan = x.2.2.2
      ∧ x.1.infBits true = x.2.2.1 + if x.1.inf then 2 ^ (x.1.eb + x.1.f) else 0)
  ∧ (∀ (mode : Mode) (a b : FV), a.isFin = true → b.isFin = true →
    (FV.add mode a b).1.val = a.val + b.val ∧ (FV.mul a b).1.val = a.val * b.val ∧ (a.lt b = true ↔ a.val < b.val)
    ∧ (FV.add mode a b).1.isFin = true ∧ (FV.mul a b).1.isFin = true ∧ (FV.add mode a b).2 = 0 ∧ (FV.mul a b).2 = 0
    ∧ (FV.inf true).lt a = true ∧ a.lt (.inf true) = false ∧ a.lt (.inf false) = true ∧ (FV.inf false).lt a = false)
  ∧ (FV.inf true).lt (.inf false) = true ∧ (FV.inf false).lt (.inf true) = false
  ∧ ∀ a : FV, a.lt a = false ∧ a.lt .nan = false ∧ FV.nan.lt a = false

/-- R252, R253: the FP32 words: one rounding of the exact sum, product or fused result of the operands, a source negation flipping
the sign bit, subnormals read as zero under FTZ, the sticky flags ORed into ASTK. FRND sets no flag. FMIN and FMAX take the other operand
beside a NaN, else one that the other does not beat, -0 below +0; FRND's value is the integer its mode names, with the sign kept.
The model's choices it rests on: log entry 19. -/
def Obligations.Fp32Words : Prop :=
  ∀ (s : State) (w : CW),
    let z := s.wave.ftz
    let src := fun (o : Opd) (neg : Bool) (l : Nat) =>
      fp32.decode z (lo32 (s.rd false .f32 o l) ^^^ (if neg then 0x80000000#32 else 0#32)).toNat
    let rm := (w.sub.extractLsb' 0 2).toNat
    let na := w.sub.getLsbD 2
    let nb := w.sub.getLsbD 3
    let fin := fun (r : FV × Nat) => asBits ((fp32.encode rm false z r.1).1, r.2 ||| (fp32.encode rm false z r.1).2)
    GivesF s (.fadd w) w.g false w.d (fun l => fin (FV.add rm (src w.a na l) (src w.b nb l)))
    ∧ GivesF s (.fmul w) w.g false w.d (fun l => fin (FV.mul (src w.a na l) (src w.b nb l)))
    ∧ GivesF s (.ffma w) w.g false w.d (fun l =>
        let p := FV.mul (src w.a na l) (src w.b nb l)
        let r := FV.add rm p.1 (src w.c (w.sub.getLsbD 4) l)
        fin (r.1, p.2 ||| r.2))
    ∧ GivesF s (.fmin w) w.g false w.d (fun l => asBits (fp32.encode 0 false z (FV.minmax false (src w.a false l) (src w.b false l))))
    ∧ GivesF s (.fmax w) w.g false w.d (fun l => asBits (fp32.encode 0 false z (FV.minmax true (src w.a false l) (src w.b false l))))
    ∧ Gives s (.frnd w) w.g false w.d (fun l => BitVec.ofNat 64 (fp32.encode 0 false z (FV.integral rm (src w.a false l))).1)
    ∧ GivesF s (.fscale w) w.g false w.d (fun l =>
        fin (fscaleV (src w.a false l) (lo32 (s.rd false .i32 w.b l)).toInt, 0))
    ∧ (∀ (mx : Bool) (a : FV), FV.minmax mx .nan a = a ∧ FV.minmax mx a .nan = a)
    ∧ (∀ (mx : Bool) (a b : FV), a ≠ .nan → b ≠ .nan →
        let r := FV.minmax mx a b
        (r = a ∨ r = b) ∧ (∀ y ∈ [a, b], (if mx then r.lt y else y.lt r) = false)
        ∧ (a.isZero = true → b.isZero = true → r.sign = if mx then a.sign && b.sign else a.sign || b.sign))
    ∧ (∀ mode, FV.integral mode .nan = .nan ∧ ∀ sg, FV.integral mode (.inf sg) = .inf sg)
    ∧ (∀ mode sg m e, mode < 4 → ∃ q : Nat,
        let v := (FV.fin sg m e).val
        let r := FV.integral mode (.fin sg m e)
        r.isFin = true ∧ r.sign = sg ∧ r.val = (if sg then -1 else 1) * (q : ℚ)
        ∧ match mode with
          | 0 => |r.val - v| ≤ 1 / 2 ∧ (|r.val - v| = 1 / 2 → q % 2 = 0)
          | 1 => (q : ℚ) ≤ |v| ∧ |v| < q + 1
          | 2 => r.val ≤ v ∧ v < r.val + 1
          | _ => v ≤ r.val ∧ r.val - 1 < v)

/-- R254, R194: the special functions: a NaN gives the canonical NaN; the special values of R194 with their flags; every other
input a number within R194's bound of the function's value, the zero of its sign where FTZ flushes it, OF set for an infinity and never IV
or DZ. The function's value is FRCP's quotient and FRSQ's root to more than 100 bits, and for FSQRT an interval of 40 bits or more that
holds the root, so that its one rounding is the root's; for the others it is the model's fixed-point value.
The model's choices it rests on: log entry 20. -/
def Obligations.SpecialFunctionWords : Prop :=
  ∀ (s : State) (w : CW),
    let z := s.wave.ftz
    let x := fun l => lo32 (s.rd false .f32 w.a l)
    let gives := fun i (fn : SpFn) => GivesF s i w.g false w.d (fun l => asBits (special fn z (x l)))
    gives (.frcp w) .rcp ∧ gives (.frsq w) .rsq ∧ gives (.fexp2 w) .exp2 ∧ gives (.flog2 w) .log2
    ∧ gives (.fsin w) .sin ∧ gives (.fcos w) .cos ∧ gives (.ftanh w) .tanh
    ∧ GivesF s (.fsqrt w) w.g false w.d (fun l => asBits (s.round32 0 (fsqrtV (fp32.decode z (x l).toNat))))
    ∧ (∀ fn b, fp32.decode z b.toNat = .nan → special fn z b = (0x7FC00000, 0))
    ∧ special .rcp z 0x00000000#32 = (0x7F800000, fDZ) ∧ special .rcp z 0x80000000#32 = (0xFF800000, fDZ)
    ∧ special .rcp z 0x7F800000#32 = (0x00000000, 0) ∧ special .rcp z 0xFF800000#32 = (0x80000000, 0)
    ∧ special .rsq z 0x00000000#32 = (0x7F800000, fDZ) ∧ special .rsq z 0x7F800000#32 = (0x00000000, 0)
    ∧ (∀ b, 0x80800000 ≤ b.toNat → b.toNat ≤ 0xFF800000 →
        special .rsq z b = (0x7FC00000, fIV) ∧ special .log2 z b = (0x7FC00000, fIV)
        ∧ s.round32 0 (fsqrtV (fp32.decode z b.toNat)) = (0x7FC00000, fIV))
    ∧ special .exp2 z 0xFF800000#32 = (0x00000000, 0) ∧ special .exp2 z 0x7F800000#32 = (0x7F800000, 0)
    ∧ special .log2 z 0x00000000#32 = (0xFF800000, fDZ) ∧ special .log2 z 0x7F800000#32 = (0x7F800000, 0)
    ∧ special .sin z 0x7F800000#32 = (0x7FC00000, fIV) ∧ special .cos z 0xFF800000#32 = (0x7FC00000, fIV)
    ∧ special .sin z 0x80000000#32 = (0x80000000, 0) ∧ special .tanh z 0x80000000#32 = (0x80000000, 0)
    ∧ special .tanh z 0x7F800000#32 = (0x3F800000, 0) ∧ special .tanh z 0xFF800000#32 = (0xBF800000, 0)
    ∧ (∀ (b : W32) (sg : Bool) (m : Nat) (e : Int), fp32.decode z b.toNat = .fin sg m e →
        let v := (FV.fin sg m e).val
        let within := fun (fn : SpFn) (a : Approx) (k : Nat) (floor : Bool) =>
          let res := special fn z b
          ∃ r, a.Near k floor r
            ∧ res.1 = (if z = true ∧ r % 2 ^ 31 < 2 ^ 23 then r / 2 ^ 31 * 2 ^ 31 else r)
            ∧ res.2 &&& (fIV ||| fDZ) = 0 ∧ (res.2 &&& fOF ≠ 0 ↔ r % 2 ^ 31 = 0x7F800000)
        (m = 0 → within .exp2 ⟨false, 1, 0, true⟩ 2 false ∧ within .cos ⟨false, 1, 0, true⟩ 2 true
          ∧ fsqrtV (.fin sg m e) = (.fin sg m e, 0))
        ∧ (m ≠ 0 → within .rcp (rcpA sg m e) 1 false ∧ within .exp2 (exp2A sg m e) 2 false ∧ within .sin (trigA false sg m e) 2 true
          ∧ within .cos (trigA true sg m e) 2 true ∧ within .tanh (tanhA sg m e) 2 false
          ∧ (let a := rcpA sg m e
            a.neg = sg ∧ 2 ^ 100 ≤ a.m ∧ a.m * (2 : ℚ) ^ a.e * |v| ≤ 1 ∧ 1 < (a.m + 1) * (2 : ℚ) ^ a.e * |v|))
        ∧ (m ≠ 0 → sg = false → within .rsq (rsqA m e) 1 false
          ∧ within .log2 (log2A m e) 2 (decide (1 / 2 ≤ v ∧ v ≤ 2))
          ∧ (let a := rsqA m e
            a.neg = false ∧ 2 ^ 100 ≤ a.m ∧ (a.m * (2 : ℚ) ^ a.e) ^ 2 * v ≤ 1 ∧ 1 < ((a.m + 1) * (2 : ℚ) ^ a.e) ^ 2 * v)
          ∧ ∃ (q : Nat) (k : Int) (y : FV), fsqrtV (.fin sg m e) = (y, 0) ∧ y.sign = false ∧ 2 ^ 40 ≤ q
            ∧ (q * (2 : ℚ) ^ k) ^ 2 ≤ v ∧ v < ((q + 1) * (2 : ℚ) ^ k) ^ 2
            ∧ (v = (q * (2 : ℚ) ^ k) ^ 2 → y.val = q * (2 : ℚ) ^ k)
            ∧ (v ≠ (q * (2 : ℚ) ^ k) ^ 2 → q * (2 : ℚ) ^ k < y.val ∧ y.val < (q + 1) * (2 : ℚ) ^ k)))

/-- R255, R247: the packed 16-bit words act on each half by itself; the flags of both halves are ORed.
The model's choices it rests on: log entry 19. -/
def Obligations.PackedHalfWords : Prop :=
  ∀ (s : State) (w : CW),
    let z := s.wave.ftz
    let F := if w.ty = .bf16 then bf16 else fp16
    let rm := (w.sub.extractLsb' 0 2).toNat
    let half := fun (o : Opd) (neg : Bool) (l h : Nat) =>
      F.decode z (((s.rd false w.ty o l).extractLsb' (16 * h) 16 : W16) ^^^ (if neg then 0x8000#16 else 0#16)).toNat
    let na := w.sub.getLsbD 2
    let nb := w.sub.getLsbD 3
    let both := fun (f : Nat → Nat × Nat) => asBits ((f 0).1 + 65536 * (f 1).1, (f 0).2 ||| (f 1).2)
    let fin := fun (r : FV × Nat) => ((F.encode rm false z r.1).1, r.2 ||| (F.encode rm false z r.1).2)
    GivesF s (.hadd2 w) w.g false w.d (fun l => both fun h => fin (FV.add rm (half w.a na l h) (half w.b nb l h)))
    ∧ GivesF s (.hmul2 w) w.g false w.d (fun l => both fun h => fin (FV.mul (half w.a na l h) (half w.b nb l h)))
    ∧ GivesF s (.hfma2 w) w.g false w.d (fun l => both fun h =>
        let p := FV.mul (half w.a na l h) (half w.b nb l h)
        let r := FV.add rm p.1 (half w.c (w.sub.getLsbD 4) l h)
        fin (r.1, p.2 ||| r.2))
    ∧ GivesF s (.hmnmx2 w) w.g false w.d (fun l => both fun h =>
        F.encode 0 false z (FV.minmax (w.sub.getLsbD 0) (half w.a false l h) (half w.b false l h)))
    ∧ GivesF s (.hset2 w) w.g false w.d (fun l => both fun h =>
        let c := condFp (w.sub.extractLsb' 0 3).toNat (half w.a false l h) (half w.b false l h)
        (if c.1 then 0xFFFF else 0, c.2))

/-- R193, R195, R196, R256 to R259: the conversions: one to E4M3, E5M2 or CB4 flushes no source, and one to a float format sets OF and
NX, UF only where FTZ flushes its result.
The model's choices it rests on: log entries 18, 19. -/
def Obligations.ConversionWords : Prop :=
  ∀ (s : State) (w : CW) (v : CvtW),
    let z := s.wave.ftz
    let zt := fun (t : Ty) => z && t != .e4m3 && t != .e5m2 && t != .cb4
    let f32 := fun (o : Opd) (l : Nat) => fp32.decode z (lo32 (s.rd false .f32 o l)).toNat
    let src := fun (o : Opd) (l : Nat) => fp32.decode (zt w.ty) (lo32 (s.rd false .f32 o l)).toNat
    let F := narrowFmt w.ty
    let rm := (w.sub.extractLsb' 0 2).toNat
    let esel := (w.sub.extractLsb' 0 3).toNat
    GivesF s (.cvt v) v.g (wide v.ty) v.d (fun l => convert v.ty v.rm.toNat v.sat z
        (elemVal v.sty (zt v.ty) (s.rd (wide v.sty) v.sty v.a l >>> (tyBits v.sty * v.esel.toNat))))
    ∧ (∀ (G : Fmt) (m : Mode) (sat : Bool) (x : FV), G.conv m sat false x = ((G.encode m sat false x).1, (G.encode m sat false x).2 &&& (fOF ||| fNX)))
    ∧ GivesF s (.cvtsr w) w.g false w.d (fun l =>
        asBits (cvtsr F (w.sub.getLsbD 0) z s.wave.srseed l (s.rd true .n64 w.b l) (src w.a l)))
    ∧ GivesF s (.pack2 w) w.g false w.d (fun l =>
        let a := F.conv rm (w.sub.getLsbD 2) z (src w.a l)
        let b := F.conv rm (w.sub.getLsbD 2) z (src w.b l)
        let v := a.1 + b.1 * 2 ^ F.width
        let lo := if w.sub.getLsbD 3 then 16 else 0
        asBits (if isFp8 w.ty then replaceBits (s.rd false w.ty w.c l).toNat lo 16 v else v, a.2 ||| b.2))
    ∧ (w.ty = .cb4 → GivesF s (.quant w) w.g false w.d (fun l =>
        let q := cbQuant (src w.a l) (s.codebook w.b l)
        asBits (replaceBits (s.rd false w.ty w.c l).toNat (4 * esel) 4 q.1, q.2.1)))
    ∧ (w.ty ≠ .cb4 → GivesF s (.quant w) w.g false w.d (fun l =>
        let p := FV.mul (src w.a l) (src w.b l)
        let e := F.conv 0 (w.sub.getLsbD 3) z p.1
        asBits (replaceBits (s.rd false w.ty w.c l).toNat (8 * esel) 8 e.1, p.2 ||| e.2)))
    ∧ (w.ty = .cb4 → GivesF s (.deq w) w.g false w.d (fun l =>
        asBits (fp32.encode 0 false z ((s.codebook w.b l).getD ((s.rd false w.ty w.a l).toNat / 2 ^ (4 * esel) % 16) .nan))))
    ∧ (w.ty ≠ .cb4 → GivesF s (.deq w) w.g false w.d (fun l =>
        let p := FV.mul (F.decode false ((s.rd false w.ty w.a l).toNat / 2 ^ (8 * esel) % 256)) (f32 w.b l)
        let e := fp32.encode 0 false z p.1
        asBits (e.1, p.2 ||| e.2)))

/-! ## Compares, predicates and cross-lane words (R247, R253, R260 to R263) -/

/-- R247, R253, R260: compares combined with a predicate, the class test, predicate logic, packing and unpacking. With a NaN only .ne and
.uno hold of FP32 operands, and the four ordered conditions set IV; the class bits are -inf, -normal, -subnormal, -0, +0, +subnormal,
+normal, +inf, signalling and quiet NaN.
The model's choices it rests on: log entry 17. -/
def Obligations.ComparesAndPredicates : Prop :=
  ∀ (s : State) (w : CW),
    let z := s.wave.ftz
    let f32 := fun (o : Opd) (l : Nat) => fp32.decode z (lo32 (s.rd false .f32 o l)).toNat
    let cond := (w.sub.extractLsb' 0 3).toNat
    let join := fun (c : Bool) (l : Nat) => match (w.sub.extractLsb' 3 2).toNat with
      | 0 => c | 1 => c && s.wave.getP w.c.pred l | 2 => c || s.wave.getP w.c.pred l | _ => xor c (s.wave.getP w.c.pred l)
    let mask := fun l => BitVec.ofNat 64 (2 ^ classBit (lo32 (s.rd false .f32 w.a l))) &&& (s.rd false .b32 w.b l &&& 0x3FF#64)
    GivesMask s (.iset w) w.g w.d (fun l => join (match cond with
        | 0 => decide (w.intA s l = w.intB s l) | 1 => decide (w.intA s l ≠ w.intB s l)
        | 2 => decide (w.intA s l < w.intB s l) | 3 => decide (w.intA s l ≤ w.intB s l)
        | 4 => decide (w.intA s l > w.intB s l) | _ => decide (w.intA s l ≥ w.intB s l)) l)
    ∧ GivesFMask s (.fset w) w.g w.d (fun l =>
        (join (condFp cond (f32 w.a l) (f32 w.b l)).1 l, (condFp cond (f32 w.a l) (f32 w.b l)).2))
    ∧ (∀ n, w.d = .p n → GivesMask s (.fclass w) w.g w.d (fun l => mask l != 0#64))
    ∧ ((∀ n, w.d ≠ .p n) → Gives s (.fclass w) w.g false w.d mask)
    ∧ (∃ t, exec (.plop w) s = .next t ∧ OnlyWave s t ∧ WroteP w.d.pred (s.wave.part w.g) (fun l => w.c.const.getLsbD
        ((s.wave.getP w.d.pred l).toNat + 2 * (s.wave.getP w.a.pred l).toNat + 4 * (s.wave.getP w.b.pred l).toNat)) s.wave t.wave)
    ∧ (∃ f, Gives s (.ppack w) w.g false w.d f ∧ ∀ l ∈ s.wave.part w.g, ∀ i < 32, (f l).getLsbD i = (decide (i < 8) && s.wave.getP i l))
    ∧ (∃ t, exec (.punpack w) s = .next t ∧ OnlyWave s t ∧ t.wave = { s.wave with p := t.wave.p }
        ∧ ∀ q, ∀ l < 32, t.wave.getP q l =
          if l ∈ s.wave.part w.g ∧ q < 7 then (s.rd false .b32 w.a l).getLsbD q else s.wave.getP q l)
    ∧ (∀ k < 8, ∀ a b : FV,
        (a.isNan = true ∨ b.isNan = true → condFp k a b = (k == 1 || k == 7, if 2 ≤ k ∧ k ≤ 5 then fIV else 0))
        ∧ (a.isNan = false → b.isNan = false → condFp k a b = (match k with
          | 0 => !a.lt b && !b.lt a | 1 => a.lt b || b.lt a | 2 => a.lt b | 3 => !b.lt a
          | 4 => b.lt a | 5 => !a.lt b | 6 => true | _ => false, 0)))
    ∧ ∀ x : W32, classBit x = match fp32.decode false x.toNat with
        | .nan => if x.getLsbD 22 then 9 else 8
        | .inf sg => if sg then 0 else 7
        | .fin sg m e => if m = 0 then (if sg then 3 else 4)
          else if |(FV.fin sg m e).val| < 2 ^ (-126 : Int) then (if sg then 2 else 5) else if sg then 1 else 6

/-- R238, R261, R262: the words that read other lanes: SHFL's source lane, votes, ballots and matches over the participating lanes.
The model's choices it rests on: log entry 17. -/
def Obligations.CrossLaneWords : Prop :=
  ∀ (s : State) (w : CW),
    let ls := s.wave.part w.g
    let wd := wide w.ty
    let yes := ls.filter (s.wave.getP w.a.pred)
    let W := 32 / 2 ^ (w.sub.extractLsb' 2 3).toNat
    let n := fun l => lo32 (s.rd wd w.ty w.b l)
    let bit := match w.sub.toNat with
      | 0 => decide (∀ l ∈ ls, s.wave.getP w.a.pred l = true)
      | 1 => decide (∃ l ∈ ls, s.wave.getP w.a.pred l = true)
      | _ => decide (∀ l ∈ ls, ∀ k ∈ ls, s.wave.getP w.a.pred l = s.wave.getP w.a.pred k)
    ((w.sub.extractLsb' 2 3).toNat < 5 → Gives s (.shfl w) w.g wd w.d (fun l => s.rd wd w.ty w.a (match (w.sub.extractLsb' 0 2).toNat with
        | 0 => l - l % W + (n l).toNat % W
        | 1 => l - l % W + (l % W + (n l).toNat) % W
        | 2 => l - l % W + (min (max ((l % W : Nat) + (n l).toInt) 0) ((W : Int) - 1)).toNat
        | _ => l - l % W + (l % W ^^^ ((n l).toNat % W)))))
    ∧ (∀ p, w.d = .p p → ∃ t, exec (.vote w) s = .next t ∧ OnlyWave s t
        ∧ WroteP p.toNat ls (fun _ => if w.sub.toNat = 3 then yes.length % 2 == 1 else bit) s.wave t.wave)
    ∧ ((∀ p, w.d ≠ .p p) → Gives s (.vote w) w.g false w.d (fun _ =>
        if w.sub.toNat = 3 then BitVec.ofNat 64 yes.length else if bit then 1#64 else 0#64))
    ∧ (∃ m : W64, Gives s (.ballot w) w.g false w.d (fun _ => m) ∧ ∀ k < 64, m.getLsbD k = decide (k ∈ yes))
    ∧ (∃ f, Gives s (.matchw w) w.g wd w.d f ∧ ∀ l ∈ ls,
        let same := fun k => k ∈ ls ∧ s.rd wd w.ty w.a k = s.rd wd w.ty w.a l
        if w.sub.getLsbD 0 then ∃ k, same k ∧ (∀ j, same j → k ≤ j) ∧ f l = BitVec.ofNat 64 k
        else ∀ k < 32, ((f l).getLsbD k = true ↔ same k))

/-- R197, R263: reductions and scans over the participating lanes. Integer and bitwise REDUX give the fold over all of them, integer
SCAN the fold over those at or below, or strictly below, the lane; FP32 follows the fixed tree and the left-to-right order;
REDUXI writes a candidate that no other precedes. The combinations are the sum, minimum, maximum, AND, OR and XOR at the width of the
type, and the FP32 sum, minimum and maximum rounded once; an exclusive scan starts with the combination's identity, +0 for FP32.
The model's choices it rests on: log entry 17. -/
def Obligations.ReductionsAndScans : Prop :=
  ∀ (s : State) (w : CW),
    let ls := s.wave.part w.g
    let wd := wide w.ty
    let z := s.wave.ftz
    let op := (w.sub.extractLsb' 0 3).toNat
    let one := fun (a b : W64) => (comb w.ty op z (a, 0) (b, 0)).1
    let fold := fun (l : List Nat) => match l with | [] => scanId w.ty op | k :: r => r.foldl (fun a j => one a (w.valA s j)) (w.valA s k)
    let cand := fun l => (flush32 z (lo32 (s.rd false .f32 w.a l)), lo32 (s.rd false .n32 w.b l))
    (w.ty ≠ .f32 → op = w.sub.toNat → Gives s (.redux w) w.g wd w.d (fun _ => fold ls))
    ∧ (w.ty = .f32 → ls ≠ [] → ∃ r, (tree .f32 w.sub.toNat z 5 ((List.range 32).map fun l =>
          if l ∈ ls then some (w.valA s l, 0) else none)).head? = some (some r)
        ∧ GivesF s (.redux w) w.g false w.d (fun _ => r))
    ∧ (∃ t w1, exec (.scan w) s = .next t ∧ OnlyWave s t ∧ t.wave = { w1 with astk := t.wave.astk }
        ∧ Wrote wd w.d ls (fun l => fold (ls.filter fun k => if w.sub.getLsbD 3 then k < l else k ≤ l)) s.wave w1
        ∧ (w.ty ≠ .f32 → t.wave.astk = s.wave.astk))
    ∧ (∀ l ∈ ls, ∃ k ∈ ls, Gives s (.reduxi w) w.g true w.d (fun _ => join (cand k).2 (cand k).1)
        ∧ ∀ j ∈ ls, precedes (fp32.decode z (cand j).1.toNat) (cand j).2.toNat
            (fp32.decode z (cand k).1.toNat) (cand k).2.toNat = false)
    ∧ (∀ (ty : Ty) (a b : W64 × Nat), ty ≠ .f32 →
        let bin := fun k (f : (n : Nat) → BitVec n → BitVec n → BitVec n) =>
          zext (wide ty) (comb ty k z a b).1 = at2 (wide ty) f a.1 b.1 ∧ (comb ty k z a b).2 = a.2 ||| b.2
        let le := fun (n : Nat) (x y : BitVec n) => if tySigned ty then x.sle y else x.ule y
        bin 0 (fun _ x y => x + y) ∧ bin 1 (fun n x y => if le n x y then x else y) ∧ bin 2 (fun n x y => if le n x y then y else x)
        ∧ bin 3 (fun _ x y => x &&& y) ∧ bin 4 (fun _ x y => x ||| y) ∧ bin 5 (fun _ x y => x ^^^ y))
    ∧ (∀ a b : W64 × Nat,
        let x := fp32.decode z a.1.toNat
        let y := fp32.decode z b.1.toNat
        let out := fun (r : FV × Nat) => (BitVec.ofNat 64 (fp32.encode 0 false z r.1).1, a.2 ||| b.2 ||| (r.2 ||| (fp32.encode 0 false z r.1).2))
        comb .f32 0 z a b = out (FV.add 0 x y) ∧ comb .f32 1 z a b = out (FV.minmax false x y, 0)
        ∧ comb .f32 2 z a b = out (FV.minmax true x y, 0))
    ∧ (∀ ty : Ty, ty ≠ .f32 →
        let id := fun k (f : (n : Nat) → BitVec n) => zext (wide ty) (scanId ty k) = at1 (wide ty) (fun n _ => f n) 0
        id 0 (fun _ => 0) ∧ id 1 (fun n => if tySigned ty then BitVec.intMax n else BitVec.allOnes n)
        ∧ id 2 (fun n => if tySigned ty then BitVec.intMin n else 0) ∧ id 3 BitVec.allOnes ∧ id 4 (fun _ => 0) ∧ id 5 (fun _ => 0))
    ∧ scanId .f32 0 = 0#64 ∧ scanId .f32 1 = 0x7F800000#64 ∧ scanId .f32 2 = 0xFF800000#64
/-! ## Class 01: memory words (R271 to R296) -/

/-- R206, R217, R274, R277: a weak load whose lanes pass their checks is performed: it is in flight, counted once on its flag, its base
stepped, memory as it was, and each global piece is served from a line of the core's L1 at the current generation or requested. A load
from the scratchpad, with no older request of its wave on its way, has its bytes at once and its completion due. With no participating
lane the word only steps its base.
The model's choices it rests on: log entries 27, 31, 44. -/
def Obligations.WeakLoadsIssue : Prop :=
  ∀ (s : State) (w : MW) (c : Clause), s.wave.clause = some c → w.sz.toNat ≤ 4 →
    ∀ m ∈ weakLoads w s,
      (m.lanes s = [] → ∃ t, exec m.ins s = .next t ∧ OnlyWave s t ∧ BaseStepped w true s t ∧ t.wave = { s.wave with a := t.wave.a })
      ∧ (m.lanes s ≠ [] → m.faults (m.checks s) = [] →
        ∃ t, exec m.ins s = .next t ∧ t.mem = s.mem ∧ InFlight s t m ∧ BaseStepped w true s t ∧ RegsKept m.ins w.data 4 s.wave t.wave
          ∧ (∀ p ∈ okPieces (m.checks s), ∀ a g, p.2.spot = .ia a g → Asked s t m p.1 p.2 a ∨
              ∃ k x, s.core? s.wave.core = some k ∧ x ∈ k.l1 ∧ x.ia = lineOf a ∧ x.ctx = s.wave.id.blk.ctx ∧ x.stale = false
                ∧ x.gen = k.gl.get 0 s.wave.id.blk.ctx)
          ∧ (w.sp = .scr → NoneOnWay s → (∀ f, s.wave.flagOf m.ins = some f → .flagCompletion s.freshId ∈ t.pending)
              ∧ ∃ o, t.op? s.freshId = some o ∧ ∀ p ∈ okPieces (m.checks s), ∀ i < p.2.size,
                o.data.get 0 (16 * p.1 + p.2.pos + i) = s.scrByte s.wave.id.blk ((m.addr p.1).toNat + p.2.pos + i)))

/-- R41, R50, R92, R274, R276, R278, R311: a weak store whose lanes pass their checks is performed. Into scratchpads, off the notify words of
command rings and with no older request of its wave on its way, its bytes are there at once, the highest lane's where lanes meet, and no other
byte changes; to global memory each piece is requested with its bytes, or where it is write-combining gathered in a buffer of its line, memory
unchanged until its home performs it. Of an access of both, the pieces to global memory draw no error response. A store to the notify word of its
own block leaves RI alone and publishes the entries up to the new WI; one that would overrun the ring traps. With no participating lane the
word only steps its base.
The model's choices it rests on: log entry 28. -/
def Obligations.WeakStoresIssue : Prop :=
  ∀ (s : State) (w : MW) (c : Clause), s.wave.clause = some c → w.sz.toNat ≤ 4 →
    ∀ m ∈ weakStores w s, m.faults (m.checks s) = [] → HomesOk s m →
      let ps := okPieces (m.checks s)
      let bytes := fun (p : Nat × Piece) => ((m.d1 p.1).drop p.2.pos).take p.2.size
      (OffNotify s ps → AllAtHomes ps ∨ AllInPads ps ∨ (∀ p ∈ ps, ∀ a g, p.2.spot = .ia a g → effPolicy w.cp g.mt ≠ .wc ∧ s.reqErr (s.pieceReq m s.freshId p.1 p.2) = none) →
        ∃ t, exec m.ins s = .next t ∧ t.mem = s.mem ∧ BaseStepped w true s t ∧ t.wave = { s.wave with a := t.wave.a }
          ∧ (∀ p ∈ ps, ∀ a g, p.2.spot = .ia a g → effPolicy w.cp g.mt ≠ .wc → Asked s t m p.1 p.2 a)
          ∧ (∀ p ∈ ps, ∀ a g, p.2.spot = .ia a g → effPolicy w.cp g.mt = .wc → (s.core? s.wave.core).isSome →
              ∃ k, t.core? s.wave.core = some k ∧ ∃ f ∈ k.wc, f.ia = lineOf a ∧ f.ctx = s.wave.id.blk.ctx ∧ s.freshId ∈ f.ops ∧ (s.freshId, a - lineOf a, bytes p) ∈ f.parts)
          ∧ (NoneOnWay s → ∀ b k, s.blk? b ≠ none → t.scrByte b k =
              match ps.reverse.find? fun p =>
                match p.2.spot with | .scr b' o => decide (b' = b ∧ o ≤ k ∧ k < o + p.2.size) | .ia _ _ => false with
              | some p => (match p.2.spot with | .scr _ o => (m.d1 p.1).getD (p.2.pos + (k - o)) 0 | .ia _ _ => 0)
              | none => s.scrByte b k))
      ∧ (∀ l p o b, ps = [(l, p)] → p.spot = .scr b.id o → s.blk? s.wave.id.blk = some b → b.logn ≠ 0 → (bytes (l, p)).length = p.size →
          b.noff < o + p.size → o < b.noff + 8 → NoneOnWay s →
          let v := leVal (readBytes (writeBytes b.scratch o (bytes (l, p))) b.noff 4)
          let n := (v + 2 ^ 32 - b.wi) % 2 ^ 32
          let free := 2 ^ b.logn - (b.wi + 2 ^ 32 - b.ri) % 2 ^ 32
          (n ≤ free → ∃ t b', exec m.ins s = .next t ∧ t.mem = s.mem ∧ t.blk? b.id = some b' ∧ b'.wi = v ∧ b'.ri = b.ri
            ∧ b'.scrRead b.noff 8 = leBytes 4 v ++ leBytes 4 b.ri
            ∧ b'.cmds.length = b.cmds.length + n ∧ (∀ x ∈ b.cmds, x ∈ b'.cmds)
            ∧ ∀ i < n, ∃ x ∈ b'.cmds, x.idx = (b.wi + i) % 2 ^ 32 ∧ x.taken = false ∧ x.wave = some s.wave.id)
          ∧ (free < n → ∃ t, exec m.ins s = .next t ∧ Trapped s t 0x0E l (BitVec.ofNat 64 b.noff)))

/-- R92, R275, R277, R281 to R286, R292, R293: a strong word whose lanes pass their checks and the alignment check is performed: in flight
and counted on its flag where it has one, its base stepped. To global memory, each piece is requested at once, or waits for the wave's
earlier accesses, where the word releases, and for the core's write-combining stores; memory is unchanged until its home performs it. To
scratchpads, memory is unchanged. With no participating lane the word only steps its base.
The model's choices it rests on: log entries 13, 28. -/
def Obligations.StrongWordsIssue : Prop :=
  ∀ (s : State) (w : MW) (c : Clause), s.wave.clause = some c → ∀ m ∈ strongWords w s,
    (m.lanes s = [] → ∃ t, exec m.ins s = .next t ∧ OnlyWave s t ∧ BaseStepped w false s t ∧ t.wave = { s.wave with a := t.wave.a })
    ∧ (m.faults (m.checks s) = [] → m.misaligned s = [] → okPieces (m.checks s) ≠ [] → HomesOk s m →
      (AllAtHomes (okPieces (m.checks s)) →
        ∃ t, exec m.ins s = .next t ∧ t.mem = s.mem ∧ InFlight s t m ∧ BaseStepped w false s t
          ∧ t.wave = { s.wave with flags := t.wave.flags, a := t.wave.a }
          ∧ ∀ p ∈ okPieces (m.checks s), ∀ a g, p.2.spot = .ia a g → Asked s t m p.1 p.2 a ∨ AskedLater s t m p.1 p.2 a)
      ∧ ((∀ x, s.ctx? s.wave.id.blk.ctx = some x → x.rings = []) → ∃ t, exec m.ins s = .next t ∧ t.mem = s.mem))

/-- R274, R275, R296, R361, R364: where a lane fails a check, or a strong address is no multiple of its size, the word traps in the lowest such
lane and performs nothing: a stack-limit, address, Lockring or alignment fault with its record, which names the access and for a Lockring
conflict the entry's range; with ALR = 1 that trap writes no record.
The model's choices it rests on: log entry 14. -/
def Obligations.MemoryWordsTrap : Prop :=
  ∀ (s : State) (w : MW) (c : Clause), s.wave.clause = some c → ∀ m ∈ weakLoads w s ++ weakStores w s ++ strongWords w s,
    (∀ l e es, m.faults (m.checks s) = (l, e) :: es → (∀ d a lo hi, e ≠ .lock d a lo hi) →
      ∃ t, exec m.ins s = .next t ∧ Trapped s t e.code l (m.addr l))
    ∧ (∀ l d a lo hi es, m.faults (m.checks s) = (l, .lock d a lo hi) :: es →
      let alr := match s.ctx? s.wave.id.blk.ctx with | some x => x.trd.getLsbD 5 | none => false
      (alr = true → exec m.ins s = .next { s with wave := { s.wave with run := .trapped 0x06 none } })
      ∧ (alr = false → ∃ t r, exec m.ins s = .next t ∧ Trapped s t 0x06 l (BitVec.ofNat 64 a)
          ∧ .trapRecordPost s.wave.id.blk.ctx r ∈ t.pending ∧ r.code = 0x06 ∧ r.sub = d.toNat ∧ r.lane = l
          ∧ r.aux0 = BitVec.ofNat 64 lo ∧ r.aux1 = BitVec.ofNat 64 hi))
    ∧ (∀ l ls, m.faults (m.checks s) = [] → m.misaligned s = l :: ls →
      ∃ t, exec m.ins s = .next t ∧ Trapped s t 0x0A l (m.addr l))

/-- R89, R93, R95, R225, R287, R294, R295: FENCE waits for its wave's accesses and then makes the bumps of its acquire; PREF asks for the
line of each lane that passes its checks, under a policy that allocates, and for nothing else; CCTL.inv drops the copies of its lines in
its core and die, CCTL.unpin the context's pins on them, in the die and at the home; the others advance the generations they name. Each
changes nothing else: neither memory nor any register but a stepped base.
The model's choices it rests on: log entry 30. -/
def Obligations.FencesAndCacheWords : Prop :=
  ∀ (s : State) (w : MW),
    let ctx := s.wave.id.blk.ctx
    let c := s.wave.core
    let none_ := (s.wave.part w.g).isEmpty = true
    let copies := fun (t : State) => t = { s with cores := t.cores, dies := t.dies }
    let bumped := fun (t : State) (die : Bool) =>
      copies t
      ∧ (∀ k, s.core? c = some k → ∃ k', t.core? c = some k' ∧ k'.gl.get 0 ctx = (k.gl.get 0 ctx + 1) % 65536
          ∧ (k'.gl.get 0 ctx = 0 → ∀ x ∈ k'.l1, x.ctx ≠ ctx) ∧ (k'.gl.get 0 ctx ≠ 0 → k'.l1 = k.l1)
          ∧ ∀ x, x ≠ ctx → k'.gl.get 0 x = k.gl.get 0 x)
      ∧ (die = false → t.dies = s.dies)
      ∧ (die = true → ∀ d, s.die? c.pkg c.die = some d → ∃ d', t.die? c.pkg c.die = some d' ∧ d'.g.get 0 ctx = (d.g.get 0 ctx + 1) % 65536
          ∧ ∀ x, x ≠ ctx → d'.g.get 0 x = d.g.get 0 x)
    (∀ i ∈ [Instr.fence w, .cctlInvl1 w, .cctlInvdie w, .cctlIinv w], none_ → exec i s = .next s)
    ∧ (¬none_ → s.settled s.wave = false → ∃ t, exec (.fence w) s = .next t ∧ Waited s t)
    ∧ (¬none_ → s.settled s.wave = true → ∃ t, exec (.fence w) s = .next t
        ∧ (w.order = .rel ∨ w.scope = .core → t = s) ∧ (w.order ≠ .rel → w.scope ≠ .core → bumped t (w.scope != .die)))
    ∧ (¬none_ → ∃ t, exec (.cctlInvl1 w) s = .next t ∧ bumped t false)
    ∧ (¬none_ → ∃ t, exec (.cctlInvdie w) s = .next t ∧ bumped t true)
    ∧ (¬none_ → ∃ t, exec (.cctlIinv w) s = .next t ∧ t = { s with cores := t.cores, seq := s.seq + 1 }
        ∧ ∀ k, s.core? c = some k → t.core? c = some { k with iseq := s.seq + 1 })
    ∧ (∃ t, exec (.cctlInv w) s = .next t ∧ copies t
        ∧ (∀ k, s.core? c = some k → ∃ k', t.core? c = some k' ∧ k' = { k with l1 := k'.l1 }
            ∧ (∀ x ∈ s.cctlIas w, ∀ y ∈ k'.l1, y.ia = lineOf x.2 → y.stale = true)
            ∧ ∀ y, (∀ x ∈ s.cctlIas w, y.ia ≠ lineOf x.2) → (y ∈ k'.l1 ↔ y ∈ k.l1))
        ∧ ∀ d, s.die? c.pkg c.die = some d → ∃ d', t.die? c.pkg c.die = some d' ∧ d' = { d with l2 := d'.l2 }
            ∧ (∀ x ∈ s.cctlIas w, ∀ y ∈ d'.l2, y.ia = lineOf x.2 → y.stale = true)
            ∧ (∀ x ∈ s.cctlIas w, ∀ y ∈ d.l2, y.ia = lineOf x.2 → y.pin.isSome = true → { y with stale := true } ∈ d'.l2)
            ∧ ∀ y, (∀ x ∈ s.cctlIas w, y.ia ≠ lineOf x.2) → (y ∈ d'.l2 ↔ y ∈ d.l2))
    ∧ (∃ t, exec (.cctlUnpin w) s = .next t ∧ t = { s with dies := t.dies }
        ∧ ∀ x ∈ s.cctlIas w,
          (∀ d', t.die? c.pkg c.die = some d' → ∀ y ∈ d'.l2, y.ia = lineOf x.2 → y.pin ≠ some ctx)
          ∧ ∀ k, s.ctx? ctx = some k → let h := homeOf k (s.saltOf k) x.1 x.2
            ∀ d', t.die? h.pkg (h.stack / 4) = some d' → (lineOf x.2, ctx) ∉ d'.pins)
    ∧ (∀ t, exec (.cctlUnpin w) s = .next t → ∀ p i d, s.die? p i = some d → ∃ d', t.die? p i = some d'
        ∧ d' = { d with l2 := d'.l2, pins := d'.pins } ∧ (∀ q ∈ d.pins, q.2 ≠ ctx → q ∈ d'.pins) ∧ ∀ y ∈ d.l2, y.pin ≠ some ctx → y ∈ d'.l2)
    ∧ (∃ t reqs, exec (.pref w) s = .next t ∧ t = { s with wave := t.wave, pending := s.pending ++ reqs } ∧ BaseStepped w true s t
        ∧ t.wave = { s.wave with a := t.wave.a }
        ∧ (∀ l ∈ s.wave.part w.g, ∀ ps, s.lanePieces s.wave w.sp .load false false false 1 (w.addr14 s l) l = .ok ps →
            ∀ p ∈ ps, ∀ a g, p.spot = .ia a g → effPolicy w.cp g.mt ≠ .wc → effPolicy w.cp g.mt ≠ .uncached →
              ∃ r, .l2Request r ∈ reqs ∧ r.kind = .load ∧ r.lane = l ∧ r.ia = a ∧ r.pol = effPolicy w.cp g.mt)
        ∧ ∀ e ∈ reqs, ∃ r, e = .l2Request r ∧ r.kind = .load ∧ r.op = 0 ∧ r.strong = false ∧ r.pol ≠ .wc ∧ r.pol ≠ .uncached
            ∧ r.lane ∈ s.wave.part w.g)

/-- R206, R209, R273, R277, R280: the completion of a flag-setting operation of the focus wave, all of its pieces answered and none of its
registers written early: every performed lane's destination registers hold the element's words, LDC's predicate tells which lanes were
performed, with zero in the others' registers, the operation's sticky flags are ORed into ASTK, its flag falls by one, and memory is as it
was.
The model's choices it rests on: log entries 27, 31. -/
def Obligations.CompletionWrites : Prop :=
  ∀ (s : State) (id : Nat) (o : Op) (f : Nat), s.op? id = some o → o.left = 0 → o.fault = none → o.early = [] → o.flag = some f →
    o.wave = s.wave.id → s.wave ≠ Wave.idle →
    let ws := fun (sz : Nat) (sx : Bool) (l : Nat) => elemWords (o.bytes l sz) sx
    let file := fun (n sz : Nat) (sx : Bool) (get get' : Nat → Nat → W32) => ∀ r, ∀ l < 32, get' r l =
      if o.ok.getLsbD l = true ∧ n ≤ r ∧ r < n + (ws sz sx l).length then (ws sz sx l).getD (r - n) 0 else get r l
    let lead := (lanesOf o.ok).headD 0
    ∃ t, exec (.flagCompletion id) s = .next t ∧ t.mem = s.mem ∧ t.op? id = none
      ∧ t.wave.flag f = s.wave.flag f - 1 ∧ (∀ g, g ≠ f → t.wave.flag g = s.wave.flag g)
      ∧ (∀ k < 64, t.wave.astk.getLsbD k = (s.wave.astk.getLsbD k || o.sticky.testBit k))
      ∧ ((∀ w, o.ins ≠ .ldc w) → ∀ n sz sx, destOf o.ins = some (.v n, sz, sx) → file n.toNat sz sx s.wave.getV t.wave.getV)
      ∧ ((∀ w, o.ins ≠ .ldc w) → ∀ n sz sx, destOf o.ins = some (.o n, sz, sx) → file n.toNat sz sx s.wave.getO t.wave.getO)
      ∧ ((∀ w, o.ins ≠ .ldc w) → ∀ n sz sx, destOf o.ins = some (.s n, sz, sx) → ∀ r, t.wave.getS r =
          if o.ok ≠ 0 ∧ n.toNat ≤ r ∧ r < n.toNat + (ws sz sx lead).length then (ws sz sx lead).getD (r - n.toNat) 0 else s.wave.getS r)
      ∧ ((∀ w, o.ins ≠ .ldc w) → ∀ n sz sx, destOf o.ins = some (.a n, sz, sx) → (ws sz sx lead).length ≤ 2 → ∀ r, t.wave.getA r =
          if o.ok ≠ 0 ∧ r = n.toNat ∧ ws sz sx lead ≠ [] then join ((ws sz sx lead).getD 1 0) ((ws sz sx lead).getD 0 0) else s.wave.getA r)
      ∧ (∀ w, o.ins = .ldc w →
          (∀ q, ∀ l < 32, t.wave.getP q l = if q = w.msel.toNat ∧ q ≠ 7 ∧ o.arg.get 0 l ≠ 0 then false
            else if q = w.msel.toNat ∧ q ≠ 7 ∧ o.ok.getLsbD l = true then true else s.wave.getP q l)
          ∧ ∀ n, w.data = .v n → ∀ r, ∀ l < 32, t.wave.getV r l =
            if o.arg.get 0 l ≠ 0 ∧ n.toNat ≤ r ∧ r < n.toNat + (w.bytes + 3) / 4 then 0
            else if o.ok.getLsbD l = true ∧ n.toNat ≤ r ∧ r < n.toNat + (ws w.bytes w.sx l).length
              then (ws w.bytes w.sx l).getD (r - n.toNat) 0 else s.wave.getV r l)
      ∧ (destOf o.ins = none → t.wave.v = s.wave.v ∧ t.wave.o = s.wave.o ∧ t.wave.s = s.wave.s ∧ t.wave.a = s.wave.a)

/-- R121, R122, R125, R126, R142: a store that has landed leaves, and what waited for it alone becomes due; an error response to a weak
store ends its block with an imprecise record: its waves stop, its commands are cancelled, and what the wave had waiting behind the store
never takes effect; the data of a read answer its operation, which completes with the last of them.
The model's choices it rests on: log entries 15, 31. -/
def Obligations.AnswersToOperations : Prop :=
  ∀ (s : State) (id : Nat) (o : Op), s.op? id = some o →
    (o.fault = none → (∀ w, o.ins ≠ .logmark w) →
      ∃ t, exec (.storeLanded id) s = .next t ∧ t = { s with ops := t.ops, deferred := t.deferred, pending := t.pending }
        ∧ t.op? id = none ∧ (∀ x, x ∈ t.ops ↔ x ∈ s.ops ∧ x.id ≠ id)
        ∧ (∀ d ∈ s.deferred, (∀ x ∈ d.waits, x = id) → ∀ e ∈ d.evs, e ∈ t.pending)
        ∧ (∀ d ∈ s.deferred, (∃ x ∈ d.waits, x ≠ id) → { d with waits := d.waits.filter fun x => x != id } ∈ t.deferred)
        ∧ ∀ d ∈ t.deferred, id ∉ d.waits)
    ∧ (∀ e ia b, e ≠ .ctxDead → s.blk? o.wave.blk = some b → b.failed = false → b.cluster = [] ∨ b.id ∈ b.cluster →
        ∃ t r b', exec (.weakStoreError id e ia) s = .next t ∧ t.mem = s.mem ∧ t.op? id = none ∧ .trapRecordPost o.wave.blk.ctx r ∈ t.pending
          ∧ r.code = e.code.1 ∧ r.sub = e.code.2 ∧ r.prec = false ∧ r.pc = o.pc ∧ r.addr = BitVec.ofNat 64 (ia / 64 * 64)
          ∧ t.blk? b.id = some b' ∧ b'.failed = true ∧ (∀ k ∈ b'.cmds, k.done = true) ∧ b'.tiles = []
          ∧ (∀ w ∈ t.allWaves, w.id.blk = b.id → w.run = .halted ∨ w.clause.isSome = true)
          ∧ (∀ w ∈ t.allWaves, w.id.blk = b.id → w.run = .halted → .waveEnd w.id ∈ t.pending) ∧ ∀ d ∈ t.deferred, d.wave ≠ o.wave)
    ∧ (∀ r, r.op = id → r.strong = false ∨ (∀ c, s.ctx? r.ctx = some c → c.rings = []) →
        ∃ t, exec (.readCompletionReturns r) s = .next t ∧ t.mem = s.mem ∧ Answered s t r r.data
          ∧ (o.left = 1 → o.fault = none → o.flag.isSome = true → .flagCompletion id ∈ t.pending))

/-- R89: a slice of the L2 serves a load off its home die from a valid copy, and passes every other load, store and read-modify-write on
to the home, with its place in the order in which the die takes requests on; a weak store updates the die's copy. Memory is unchanged.
The model's choices it rests on: log entry 29. -/
def Obligations.L2Slices : Prop :=
  ∀ (s : State) (r : Req) (d : Die), s.lapsed r = false → s.overlapWait r = false → s.progWait r = false →
    s.die? r.src.pkg r.src.die = some d →
    let away := (r.src.pkg, r.src.die) ≠ homeDie r.home ∧ r.strong = false ∧ r.pol.cached = true
    let hits := ∃ x ∈ d.l2, x.valid r.ctx (d.g.get 0 r.ctx) r.ia = true
    let on := { r with rcv := s.seq + 1, g := d.g.get 0 r.ctx }
    ∃ t, exec (.l2Request r) s = .next t ∧ t.mem = s.mem
      ∧ (r.kind = .load → ¬(away ∧ hits) → .homeAccess on ∈ t.pending)
      ∧ (r.kind = .load → away → hits → ∃ x ∈ d.l2, x.valid r.ctx (d.g.get 0 r.ctx) r.ia = true
          ∧ Answered s t r (lineBytes x r.ia r.size))
      ∧ (∀ n, r.kind = .tryRead n → .homeAccess on ∈ t.pending)
      ∧ (r.kind = .store → .homeAccess on ∈ t.pending ∧ (r.strong = false → r.il = false → ∀ d', t.die? r.src.pkg r.src.die = some d' →
          ∀ x ∈ d.l2, x.ia = lineOf r.ia → x.update r.ia (r.data.take r.size) ∈ d'.l2))
      ∧ (∀ op z, r.kind = .rmw op z → on.atHome ∈ t.pending)

/-- R56, R72, R82, R89, R102, R142, R276, R283 to R286, R292, R323: a request performed at its home: a store leaves its bytes there, a
read-modify-write the bytes its operation computes of the old ones, a load leaves memory as it was; every other byte of memory is
unchanged. The operation receives the old bytes, or only its answer; what is read through a port of the package comes back with a
completion. A read-modify-write leaves no valid copy of its line in its core and die. In a scratchpad the same, memory unchanged.
The model's choices it rests on: log entry 31. -/
def Obligations.HomesPerform : Prop :=
  ∀ (s : State) (r : Req),
    (∀ e, AtHome s r e →
      let key := e.key r.ia
      let old := s.memRead key r.size
      let back := fun (t : State) => ∃ q, .readCompletionReturns q ∈ t.pending ∧ q.op = r.op ∧ q.lane = r.lane ∧ q.pos = r.pos ∧ q.data = old
      (r.kind = .load → s.waitRead r (iaKey r.home r.ia) old = none →
        ∃ t, exec (.homeAccess r) s = .next t ∧ t.mem = s.mem ∧ (e.loc = 1 → Answered s t r old) ∧ (e.loc = 2 ∨ e.loc = 3 → back t))
      ∧ (∀ n, r.kind = .tryRead n →
        ∃ t, exec (.homeAccess r) s = .next t ∧ t.mem = s.mem ∧ (e.loc ≠ 3 → Answered s t r old) ∧ (e.loc = 3 → back t))
      ∧ (r.kind = .store → ∃ t, exec (.homeAccess r) s = .next t ∧ MemWrote s t key r.data ∧ Answered s t r [])
      ∧ (∀ op z, r.kind = .rmw op z → ∀ i ∈ [Instr.homeAccess r, .arvPerform r, .counterSignalPerform r],
          ∃ t, exec i s = .next t ∧ MemWrote s t key ((rmwApply op z old r.data r.data2).1.take r.size)
            ∧ (op ≠ .arv → op ≠ .csig → (e.loc ≠ 3 → Answered s t r old) ∧ (e.loc = 3 → back t))
            ∧ (∀ d, t.die? r.src.pkg r.src.die = some d → ∀ x ∈ d.l2, x.ia = lineOf r.ia → x.stale = true)
            ∧ ∀ k, t.core? r.src = some k → ∀ x ∈ k.l1, x.ia = lineOf r.ia → x.stale = true))
    ∧ (∀ b, 16 ≤ r.home.stack → s.scrTarget r = some b → s.blk? b.id = some b → b.logn = 0 → s.lapsed r = false →
        s.overlapWait r = false → s.progWait r = false → s.sameLoc r = [] → s.siblingErr r = none → (∀ c, s.ctx? r.wave.blk.ctx = some c → c.rings = []) →
        (r.kind.writes = true → r.data.length = r.size ∧ r.data2.length ≤ r.size) →
        let old := b.scrRead r.ia r.size
        let holds := fun (t : State) (bs : List Byte) => t.mem = s.mem ∧ ∀ k, t.scrByte b.id k =
          if r.ia ≤ k ∧ k < r.ia + bs.length then bs.getD (k - r.ia) 0 else s.scrByte b.id k
        (r.kind = .load → s.waitRead r (scrKey b.id r.ia) old = none →
          ∃ t, exec (.homeAccess r) s = .next t ∧ holds t [] ∧ Answered s t r old)
        ∧ (∀ n, r.kind = .tryRead n → ∃ t, exec (.homeAccess r) s = .next t ∧ holds t [] ∧ Answered s t r old)
        ∧ (r.kind = .store → ∃ t, exec (.homeAccess r) s = .next t ∧ holds t r.data ∧ Answered s t r [])
        ∧ (∀ op z, r.kind = .rmw op z → ∀ i ∈ [Instr.homeAccess r, .arvPerform r, .counterSignalPerform r],
            ∃ t, exec i s = .next t ∧ holds t (rmwApply op z old r.data r.data2).1 ∧ (op ≠ .arv → op ≠ .csig → Answered s t r old)))

/-- R283 to R286, R292: what the read-modify-writes compute: the value a location of n bytes is left with, as unsigned and signed
numbers; incw and decw wrap at the operand; an arrival of k counts down and turns the phase. The floating-point ones give the sum,
minimum or maximum of two FP32 numbers, or of two FP16 or bf16 numbers in each half, rounded once to nearest even, and their flags.
The model's choices it rests on: log entry 19. -/
def Obligations.ReadModifyWrites : Prop :=
  ∀ (old v v2 : List Byte) (z : Bool), old.length ∈ [4, 8, 16] → v.length = old.length →
    let M := 256 ^ old.length
    let o := leVal old
    let x := leVal v
    let sg := fun (y : Nat) => if 2 * y < M then (y : Int) else y - M
    let res := fun op => leVal (rmwApply op z old v v2).1
    res .add = (o + x) % M ∧ res .csig = (o + x) % M
    ∧ sg (res .smin) = min (sg o) (sg x) ∧ sg (res .smax) = max (sg o) (sg x)
    ∧ res .umin = min o x ∧ res .umax = max o x ∧ res .band = o &&& x ∧ res .bor = o ||| x ∧ res .bxor = o ^^^ x ∧ res .swap = x
    ∧ res .incw = (if o ≥ x then 0 else o + 1) ∧ res .decw = (if o = 0 ∨ o > x then x else o - 1)
    ∧ (rmwApply .cas z old v v2).1 = (if o = x then v2 else old)
    ∧ (old.length = 8 →
        let pend := o % 65536
        let ex := o / 65536 % 65536
        let phase := o / 2 ^ 32 % 2 ^ 31
        let top := o / 2 ^ 63
        res .arv = if x = 0 then o else if ex = 0 ∨ x ≥ pend then top * 2 ^ 63 + (phase + 1) % 2 ^ 31 * 2 ^ 32 + ex * 65536 + ex
          else top * 2 ^ 63 + phase * 2 ^ 32 + ex * 65536 + (pend - x))
    ∧ (old.length = 4 →
        let one := fun (F : Fmt) (k a b : Nat) =>
          let r := match k with
            | 0 => FV.add 0 (F.decode z a) (F.decode z b)
            | 1 => (FV.minmax false (F.decode z a) (F.decode z b), 0)
            | _ => (FV.minmax true (F.decode z a) (F.decode z b), 0)
          ((F.encode 0 false z r.1).1, r.2 ||| (F.encode 0 false z r.1).2)
        let gives := fun op (r : Nat × Nat) => res op = r.1 ∧ (rmwApply op z old v v2).2 = r.2
        let two := fun (F : Fmt) k => ((one F k (o % 65536) (x % 65536)).1 + 65536 * (one F k (o / 65536) (x / 65536)).1,
          (one F k (o % 65536) (x % 65536)).2 ||| (one F k (o / 65536) (x / 65536)).2)
        gives .fadd (one fp32 0 o x) ∧ gives .fmin (one fp32 1 o x) ∧ gives .fmax (one fp32 2 o x)
        ∧ gives .hadd (two fp16 0) ∧ gives .hmin (two fp16 1) ∧ gives .hmax (two fp16 2)
        ∧ gives .badd (two bf16 0) ∧ gives .bmin (two bf16 1) ∧ gives .bmax (two bf16 2))
/-! ## Control words (R264 to R270) -/

/-- R264, R265: BRA, BRX, CALL, CALLX and RET move the participating lanes to their targets and the other active lanes to the VA after
the clause; CALL and CALLX leave that VA in a12 where a lane participates; nothing else changes but the clause's end. A target that
is no clause header traps with the entry fault and moves no lane. -/
def Obligations.ControlTransfers : Prop :=
  ∀ (s : State) (c : Clause) (g : Guard) (off : W32) (a : Opd), s.wave.clause = some c →
    let T := s.wave.part g
    let rel : Nat → W64 := fun _ => c.hva + 8 * off.signExtend 64
    let reg : Nat → W64 := fun l => s.rd true .b32 a l
    ∀ x ∈ [(Instr.bra g off, false, rel), (.brx g a, false, reg), (.call g off, true, rel), (.callx g a, true, reg),
        (.ret g, false, fun _ => s.wave.getA 12)],
      ((∀ l ∈ T, s.HeaderAt s.wave (x.2.2 l)) → GoesOn s c T →
        ∃ t, exec x.1 s = .next t ∧ ControlFrame s t ∧ PcsMoved c T x.2.2 s.wave t.wave
          ∧ t.wave.exited = s.wave.exited
          ∧ ∀ r, t.wave.getA r = if x.2.1 = true ∧ T ≠ [] ∧ r = 12 then c.next else s.wave.getA r)
      ∧ (∀ l ∈ T, s.NoHeaderAt s.wave (x.2.2 l) → (∀ k ∈ T, k < l → s.HeaderAt s.wave (x.2.2 k)) →
        ∃ t, exec x.1 s = .next t ∧ Trapped s t 0x04 l (x.2.2 l) ∧ t.wave.pc = s.wave.pc)

/-- R267: MEET sets the meeting register of the participating lanes, MEETS pushes it first, MEETL pops it, NONE from an empty stack;
a MEETS with eight entries in a lane traps with the meeting-stack fault and changes no lane. -/
def Obligations.MeetingWords : Prop :=
  ∀ (s : State) (c : Clause) (g : Guard) (off : W32), s.wave.clause = some c →
    let T := s.wave.part g
    let tgt := c.hva + 8 * off.signExtend 64
    let only := fun (t : State) => OnlyWave s t ∧ t.wave = { s.wave with mr := t.wave.mr, mstack := t.wave.mstack }
    (∃ t, exec (.meet g off) s = .next t ∧ only t ∧ ∀ l < 32, t.wave.getStack l = s.wave.getStack l
        ∧ t.wave.getMr l = if l ∈ T then tgt else s.wave.getMr l)
    ∧ ((∀ l ∈ T, (s.wave.getStack l).length < 8) → ∃ t, exec (.meets g off) s = .next t ∧ only t ∧ ∀ l < 32,
        t.wave.getStack l = (if l ∈ T then s.wave.getMr l :: s.wave.getStack l else s.wave.getStack l)
        ∧ t.wave.getMr l = if l ∈ T then tgt else s.wave.getMr l)
    ∧ (∀ l ∈ T, 8 ≤ (s.wave.getStack l).length → (∀ k ∈ T, k < l → (s.wave.getStack k).length < 8) →
        ∃ t, exec (.meets g off) s = .next t ∧ Trapped s t 0x0C l 0 ∧ t.wave.mr = s.wave.mr ∧ t.wave.mstack = s.wave.mstack)
    ∧ (∃ t, exec (.meetl g) s = .next t ∧ only t ∧ ∀ l < 32, t.wave.getStack l = (if l ∈ T then (s.wave.getStack l).tail else s.wave.getStack l)
        ∧ t.wave.getMr l = if l ∈ T then (s.wave.getStack l).headD 0xFFFFFFFFFFFFFFFF#64 else s.wave.getMr l)

/-- R123, R166, R268, R269: EXIT waits until every store of the wave has landed, then the participating lanes have exited and the others
go on after the clause; with no thread left and no flag counted the wave's end is due. YIELD moves every active lane on and gives
up the focus. NOP changes nothing.
The model's choices it rests on: log entry 24. -/
def Obligations.ExitYieldNop : Prop :=
  ∀ (s : State) (c : Clause) (g : Guard), s.wave.clause = some c →
    let T := s.wave.part g
    exec (.nop g) s = .next s
    ∧ (s.settled s.wave = false → ∃ t, exec (.exit g) s = .next t ∧ Waited s t)
    ∧ (s.settled s.wave = true → GoesOn s c T → ∃ t, exec (.exit g) s = .next t ∧ ControlFrame s t
        ∧ (∀ l < 32, t.wave.exited.getLsbD l = (s.wave.exited.getLsbD l || decide (l ∈ T)))
        ∧ (∀ l < 32, t.wave.getPc l =
            if l ∉ T ∧ c.lanes.getLsbD l = true ∧ s.wave.exited.getLsbD l = false then c.next else s.wave.getPc l)
        ∧ (s.wave.run = .run → (∀ b, s.blk? s.wave.id.blk = some b → b.failed = false) → (∀ f < 12, s.wave.flag f = 0) →
            t.wave.exited = 0xFFFFFFFF#32 → t.wave.run = .exiting ∧ .waveEnd s.wave.id ∈ t.pending))
    ∧ (GoesOn s c [] → ∃ t v, exec (.yield g) s = .next t ∧ t.mem = s.mem ∧ t.wave = Wave.idle ∧ t.waves = s.waves ++ [v]
        ∧ v.id = s.wave.id ∧ v.clause = none ∧ PcsMoved c [] (fun _ => 0) s.wave v ∧ v.v = s.wave.v ∧ v.a = s.wave.a)
/-! ## Waves: clauses, barriers, ends, traps and their responses (R158 to R167, R203 to R208, R224, R288 to R290, R360 to R367) -/

/-- R162, R203, R204, R208: the first wave of the quadrant that may issue takes the focus, and the clause of its chosen group is opened:
its header and words as fetched, the first word next, its lanes the threads of the group; the last-result file is cleared, and no
other register and no byte of memory changes. A clause that breaks R204 traps with the illegal-clause fault.
The model's choices it rests on: log entries 8, 26. -/
def Obligations.ClausesIssue : Prop :=
  ∀ (s : State) (c : CoreId) (q : Nat) (w : Wave) (pc h : W64) (ia : Nat) (hd : Header) (ws : List W64),
    (s.core? c).isSome = true → (s.waves ++ [s.wave]).find? (fun w => decide (w.core = c) && w.quad == q && s.eligible w) = some w →
    (s.waves ++ [s.wave]).find? (fun v => decide (v.id = w.id)) = some w → s.hist = [] →
    s.nextGroup w = some pc → pc.extractLsb' 0 3 = 0#3 → s.fetchAt w pc = .word h ia → decodeHeader h = some hd →
    ws.length = hd.cnt + 1 → (∀ i ≤ hd.cnt, ∃ a, s.fetchAt w (pc + BitVec.ofNat 64 (8 * (i + 1))) = .word (ws.getD i 0) a) →
    ∃ t, exec (.clauseIssue c q) s = .next t ∧ t.mem = s.mem ∧ t.wave.id = w.id
      ∧ (clauseOk hd ws = true → ∃ m, t.wave.clause = some ⟨pc, hd, ws, 0, m⟩ ∧ (∀ l < 32, m.getLsbD l = decide (l ∈ w.members pc))
          ∧ t.wave.clauses = w.clauses + 1
          ∧ t.wave = { w with
            clause := t.wave.clause, clauses := t.wave.clauses, stamp := t.wave.stamp, freed := t.wave.freed, heldC := t.wave.heldC,
            x := [], fell := w.fell.filter fun p => p.1 != pc })
      ∧ (clauseOk hd ws = false → t.wave.run = .halted ∧ ∃ r, .trapRecordPost w.id.blk.ctx r ∈ t.pending ∧ r.code = 0x01)

/-- R123, R288, R289, R290: BAR and CBAR with a participating lane and a count in bounds wait until the wave's stores have landed and then
arrive; registration counts the arrival; at the expected count, that of the phase's first arrival or the waves that have not ended, every
waiting wave goes on, the tally is empty and the completion count one higher; short of it the wave waits, or goes on where it only arrives.
A count out of bounds traps. No other barrier, no other wave's registers and no memory change.
The model's choices it rests on: log entry 37. -/
def Obligations.Barriers : Prop :=
  ∀ (s : State) (w : MW) (cb : Bool),
    let i := if cb then Instr.cbar w else .bar w
    let n := (w.off.extractLsb' 0 4).toNat
    let cnt := if w.mx.getLsbD 5 then some (lo32 (s.rd false .n32 w.data 0)).toNat else none
    let fits := ∀ k, cnt = some k → 1 ≤ k ∧ k ≤ if cb then 256 else 32
    (s.wave.part w.g = [] → exec i s = .next s)
    ∧ (s.wave.part w.g ≠ [] → fits → s.settled s.wave = true → ∃ t, exec i s = .next t
        ∧ t = { s with
          wave := { s.wave with run := .barrier cb n }
          pending := s.pending ++ [.barrierArrivalRegister s.wave.id cb n cnt (w.mx.getLsbD 4)] })
    ∧ (s.wave.part w.g ≠ [] → fits → s.settled s.wave = false → ∃ t, exec i s = .next t ∧ Waited s t)
    ∧ (s.wave.part w.g ≠ [] → ¬fits → s.wave.clause.isSome = true →
        ∃ t, exec i s = .next t ∧ Trapped s t 0x0B ((s.wave.part w.g).headD 0) 0)
    ∧ ∀ (b hb : Blk) (v : WaveId) (x : Wave) (k : Nat) (kc : Option Nat) (arr : Bool), s.blk? v.blk = some b →
        s.blk? (b.barHome cb) = some hb → v.wid ≠ 99 → s.wave? v = some x → x.run = .barrier cb k →
        (∀ c, s.ctx? v.blk.ctx = some c → c.rings = []) → s.ctx? hb.id.ctx = s.ctx? v.blk.ctx →
        let old := hb.bar cb k
        let tally := if old.open_ then old.tally + 1 else 1
        let want := (if old.open_ then old.count else kc).getD (s.liveWaves (b.barUsers cb))
        let waits := (if old.open_ then old.wait else []) ++ [v]
        ∃ t hb', exec (.barrierArrivalRegister v cb k kc arr) s = .next t ∧ t.mem = s.mem ∧ t.ops = s.ops ∧ t.pending = s.pending
          ∧ t.dies = s.dies ∧ t.blk? hb.id = some hb' ∧ (∀ j, j ≠ hb.id → t.blk? j = s.blk? j)
          ∧ hb' = { hb with bars := hb'.bars, cbars := hb'.cbars } ∧ (∀ cb' j, (cb', j) ≠ (cb, k) → hb'.bar cb' j = hb.bar cb' j)
          ∧ (want ≤ tally → hb'.bar cb k = { Bar.zero with done := old.done + 1 }
              ∧ ∀ y ∈ waits, ∀ z cb' j, s.wave? y = some z → z.run = .barrier cb' j → t.wave? y = some { z with run := .run, waitC := 0 })
          ∧ (tally < want → hb'.bar cb k
                = ⟨tally, if old.open_ then old.count else kc, true, old.done, if arr then (if old.open_ then old.wait else []) else waits⟩
              ∧ t.wave? v = some (if arr then { x with run := .run, waitC := 0 } else x)
              ∧ ∀ y, y ≠ v → t.wave? y = s.wave? y)

/-- R166, R82, R289: a wave that has no thread left and no flag counted, or that a trap has halted, ends: it leaves its core, and its block
counts it; the block goes on while others are left, and every open barrier phase without a count is looked at again, which completes it
where the arrivals reach the waves that have not ended. The last wave's end ends the block: its exit-fired contribution is due where
the launch asks for one and no trap ended the block; otherwise the block is over, its tile entries and commands gone, and its leases are
to be given back unless a task of its tree still runs.
The model's choices it rests on: log entries 24, 37, 64. -/
def Obligations.WavesEnd : Prop :=
  (∀ (s : State) (id : WaveId) (w : Wave) (b : Blk), s.wave? id = some w → (s.allWaves.filter fun v => decide (v.id = id)) = [w] →
    w.run = .halted ∨ (w.run = .exiting ∧ ∀ f < 12, w.flag f = 0) → s.blk? id.blk = some b →
    let mark := fun cb n => Instr.barrierArrivalRegister ⟨id.blk, 99⟩ cb n none true
    let contributes := (((s.ctx? id.blk.ctx).bind fun c => c.launch? id.blk.launch).any (·.colv)) && !id.blk.task && !b.failed
    ∃ t, exec (.waveEnd id) s = .next t ∧ (∀ v ∈ t.allWaves, v.id ≠ id)
      ∧ (∀ n, (b.bar false n).open_ = true → (b.bar false n).count = none → mark false n ∈ t.pending)
      ∧ (∀ n hb, s.blk? (b.barHome true) = some hb → (hb.bar true n).open_ = true → (hb.bar true n).count = none → mark true n ∈ t.pending)
      ∧ (b.ended + 1 < b.nwaves → t.mem = s.mem ∧ t.blk? id.blk = some { b with ended := b.ended + 1 } ∧ t.ops = s.ops)
      ∧ (b.nwaves ≤ b.ended + 1 → contributes = true → t.mem = s.mem ∧ t.ops = s.ops ∧ .exitFiredContribution id.blk ∈ t.pending
          ∧ t.blk? id.blk = some { b with ended := b.ended + 1, state := .exitRead })
      ∧ (b.nwaves ≤ b.ended + 1 → contributes = false →
          (∀ x, t.blk? id.blk = some x → x.state = .over ∧ x.tiles = [] ∧ x.cmds = [])
          ∧ (id.blk.task = true ∨ s.treeAlive id.blk.ctx id.blk.launch id.blk.idx = false → ∀ l ∈ b.leases, .leaseRelease l ∈ t.pending)))
  ∧ ∀ (s : State) (v : BlkId) (b hb : Blk) (cb : Bool) (k : Nat), s.blk? v = some b → s.blk? (b.barHome cb) = some hb →
    (∀ c, s.ctx? v.ctx = some c → c.rings = []) → s.ctx? hb.id.ctx = s.ctx? v.ctx → s.wave? ⟨v, 99⟩ = none →
    let old := hb.bar cb k
    old.open_ = true → old.count = none →
    ∃ t hb', exec (.barrierArrivalRegister ⟨v, 99⟩ cb k none true) s = .next t ∧ t.mem = s.mem ∧ t.ops = s.ops ∧ t.pending = s.pending
      ∧ t.blk? hb.id = some hb' ∧ (∀ j, j ≠ hb.id → t.blk? j = s.blk? j)
      ∧ hb' = { hb with bars := hb'.bars, cbars := hb'.cbars } ∧ (∀ cb' j, (cb', j) ≠ (cb, k) → hb'.bar cb' j = hb.bar cb' j)
      ∧ (s.liveWaves (b.barUsers cb) ≤ old.tally → hb'.bar cb k = { Bar.zero with done := old.done + 1 }
          ∧ ∀ y ∈ old.wait, ∀ z cb' j, s.wave? y = some z → z.run = .barrier cb' j → t.wave? y = some { z with run := .run, waitC := 0 })
      ∧ (old.tally < s.liveWaves (b.barUsers cb) → hb'.bar cb k = old ∧ ∀ y, t.wave? y = s.wave? y)

/-- R360, R365, R366: the words of a trap record: its fields where R360 puts them; an urgent record that finds room stands in the ring at
the producer index, which advances; one that finds none is counted as dropped. An ordinary record leaves 32 slots free: it waits, in the
order in which records came, with OFL set, until more are free; then the oldest that waits is written, its wave goes on, and the next is
due. While the home holds the descriptor's page, a record waits.
The model's choices it rests on: log entries 38, 39. -/
def Obligations.TrapRecords : Prop :=
  (∀ (r : TrapRec) (n k : Nat), r.cont = [] →
    let w := fun i => (TrapRecWords r n k).getD i 0
    (w 0).extractLsb' 0 8 = BitVec.ofNat 8 r.code ∧ (w 0).getLsbD 8 = r.urg ∧ (w 0).getLsbD 9 = r.prec ∧ (w 0).getLsbD 10 = r.rst
    ∧ (w 0).extractLsb' 16 16 = BitVec.ofNat 16 r.sub ∧ (w 0).extractLsb' 32 24 = BitVec.ofNat 24 r.lser
    ∧ (w 0).extractLsb' 56 8 = BitVec.ofNat 8 (k / 2 ^ n % 255 + 1)
    ∧ (w 1).extractLsb' 0 53 = BitVec.ofNat 53 r.iid ∧ (w 1).getLsbD 53 = r.tk ∧ (w 1).extractLsb' 54 5 = BitVec.ofNat 5 r.wv
    ∧ (w 1).extractLsb' 59 5 = BitVec.ofNat 5 r.lane ∧ w 2 = r.pc ∧ (w 3).extractLsb' 0 32 = BitVec.ofNat 32 r.ord
    ∧ (w 3).extractLsb' 32 8 = BitVec.ofNat 8 r.pkg ∧ (w 3).extractLsb' 40 2 = BitVec.ofNat 2 r.die
    ∧ (w 3).extractLsb' 42 6 = BitVec.ofNat 6 r.core ∧ w 4 = r.addr ∧ w 5 = r.aux0 ∧ w 6 = r.aux1 ∧ w 7 = r.aux2)
  ∧ ∀ (s : State) (x : Nat) (c : Ctx) (r : TrapRec) (e d : Entry), s.ctx? x = some c → r.urg = true → r.cont = [] → r.rst = false →
      let fn := fnOf c.id
      let k := s.trapPi c
      let slot := c.rbase + 64 * (k % 2 ^ c.logn)
      (s.devHeld fn c.desc 1024 = true → exec (.trapRecordPost x r) s = .next { s with pending := s.pending ++ [.trapRecordPost x r] })
      ∧ (s.devHeld fn c.desc 1024 = false →
      s.devEntry? fn slot = some e → s.devEntry? fn (c.desc + 520) = some d → e.mst ≠ 1 → d.mst ≠ 1 → s.pageHeld e slot 64 = false →
      s.pageHeld d (c.desc + 520) 8 = false →
      (e.key slot + 64 ≤ d.key (c.desc + 520) ∨ d.key (c.desc + 520) + 8 ≤ e.key slot) → k + 1 < 2 ^ 64 → c.id = x →
      (k - s.trapCi c < 2 ^ c.logn → ∃ t, exec (.trapRecordPost x r) s = .next t
        ∧ t.memRead (e.key slot) 64 = bytesOf (TrapRecWords r c.logn k) ∧ t.memRead (d.key (c.desc + 520)) 8 = leBytes 8 (k + 1)
        ∧ t.entries = s.entries ∧ t.ops = s.ops)
      ∧ (2 ^ c.logn ≤ k - s.trapCi c → ∃ t, exec (.trapRecordPost x r) s = .next t ∧ t.ctxs = s.ctxs
        ∧ (∀ n v, Sent.msix n v ∈ t.outbox → Sent.msix n v ∈ s.outbox)
        ∧ ∀ f, s.devEntry? fn (c.desc + 536) = some f → f.mst ≠ 1 → s.pageHeld f (c.desc + 536) 8 = false →
            ((t.devWord fn (c.desc + 536)).extractLsb' 16 32).toNat
            = min (((s.devWord fn (c.desc + 536)).extractLsb' 16 32).toNat + 1) (2 ^ 32 - 1)))
  ∧ ∀ (s : State) (x : Nat) (c : Ctx) (r : TrapRec), s.ctx? x = some c → c.id = x → r.urg = false → r.rst = false →
      s.devHeld (fnOf x) c.desc 1024 = false →
      let fn := fnOf x
      let k := s.trapPi c
      let free := 2 ^ c.logn - (k - s.trapCi c)
      let queue := c.trapq ++ if r ∈ c.trapq then [] else [r]
      (free ≤ 32 → ∃ t, exec (.trapRecordPost x r) s = .next t ∧ t.ctx? x = some { c with trapq := queue } ∧ t.ops = s.ops
        ∧ ∀ f, s.devEntry? fn (c.desc + 536) = some f → f.mst ≠ 1 → s.pageHeld f (c.desc + 536) 8 = false →
            (t.devWord fn (c.desc + 536)).getLsbD 0 = true)
      ∧ ∀ (y : TrapRec) (q : List TrapRec) (e d : Entry), 32 < free → queue = y :: q → y.rst = false → y.cont = [] →
        let slot := c.rbase + 64 * (k % 2 ^ c.logn)
        s.devEntry? fn slot = some e → s.devEntry? fn (c.desc + 520) = some d → e.mst ≠ 1 → d.mst ≠ 1 → s.pageHeld e slot 64 = false →
        s.pageHeld d (c.desc + 520) 8 = false →
        (e.key slot + 64 ≤ d.key (c.desc + 520) ∨ d.key (c.desc + 520) + 8 ≤ e.key slot) → k + 1 < 2 ^ 64 →
        ∃ t, exec (.trapRecordPost x r) s = .next t
          ∧ t.memRead (e.key slot) 64 = bytesOf (TrapRecWords y c.logn k) ∧ t.memRead (d.key (c.desc + 520)) 8 = leBytes 8 (k + 1)
          ∧ t.ctx? x = some { c with trapq := q } ∧ t.entries = s.entries ∧ t.ops = s.ops
          ∧ (∀ z, q.head? = some z → .trapRecordPost x z ∈ t.pending)
          ∧ ∀ wv, y.who = some wv → ∀ u, s.wave? wv = some u → u.run = .posting → t.wave? wv = some { u with run := .run }

/-- R333, R337, R363 to R365, R367: a trapped wave that is answered resumes, with a new stack limit where the response carries one, or
its block ends; with ALR set a Lockring conflict tries again; a watchdog that expires ends the wave's block with its record; a sleep
that expires and a breakpoint that is resumed let the wave go on.
The model's choices it rests on: log entry 40. -/
def Obligations.TrapResponses : Prop :=
  ∀ (s : State) (x k : Nat) (v : W64) (id : WaveId) (code : Nat) (w : Wave) (c : Ctx), s.wave? id = some w → w.exited ≠ 0xFFFFFFFF#32 →
    s.ctx? id.blk.ctx = some c →
    (s.respWave x k = some (id, code) →
      (∃ t, exec (.trapResponseResume x k) s = .next t ∧ t.mem = s.mem ∧ t.wave? id = some { w with run := .run }
        ∧ ∀ d, t.ctx? x = some d → ∀ r ∈ d.recs, r.1 ≠ k)
      ∧ (code = 0x05 → ∃ t, exec (.trapResponseStklim x k v) s = .next t ∧ t.mem = s.mem
        ∧ t.wave? id = some { w with run := .run, stklim := v &&& 0xFFFFFFFFFFFF#64 })
      ∧ (∀ b, s.blk? id.blk = some b → b.cluster = [] ∨ b.id ∈ b.cluster → ∃ t b', exec (.trapResponseEnd x k) s = .next t ∧ t.mem = s.mem ∧ t.blk? id.blk = some b'
        ∧ b'.failed = true ∧ b'.tiles = [] ∧ .waveEnd id ∈ t.pending ∧ ∃ w', t.wave? id = some w' ∧ w'.run = .halted))
    ∧ (c.trd.getLsbD 5 = true → w.run = .trapped 0x06 none →
        ∃ t, exec (.lockringAutoRestart id) s = .next t ∧ t.mem = s.mem ∧ t.wave? id = some { w with run := .run })
    ∧ (c.wdlog ≠ 0 → s.counts w = true → ∃ t r, exec (.watchdogWaitExpiry id) s = .next t ∧ t.mem = s.mem
        ∧ .trapRecordPost id.blk.ctx r ∈ t.pending ∧ r.code = 0x14 ∧ r.sub = 1 ∧ r.aux0 = BitVec.ofNat 64 (2 ^ c.wdlog)
        ∧ ∃ w', t.wave? id = some w' ∧ w'.run = .halted)
    ∧ (∀ l, c.wdlog ≠ 0 → w.held l = true → w.freed.getLsbD l = false → w.run = .run → s.logHolds w = false →
        ∃ t r, exec (.watchdogHeldExpiry id l) s = .next t
        ∧ t.mem = s.mem ∧ .trapRecordPost id.blk.ctx r ∈ t.pending ∧ r.code = 0x14 ∧ r.sub = 2 ∧ r.lane = l)
    ∧ (w.run = .sleep → ∃ t, exec (.sleepExpiry id) s = .next t ∧ t.mem = s.mem ∧ t.wave? id = some { w with run := .run })
    ∧ (w.run = .breakpoint → c.trapq = [] → ∃ t, exec (.breakpointResume id) s = .next t ∧ t.mem = s.mem
        ∧ t.wave? id = some { w with run := .run })

/-! ## System words (R328 to R337) -/

/-- R334, R335, R36, R37: CSRR reads the CSRs of its wave and context; CSRW writes those a user may, by their field rules, and faults on
the others; the range registers and the tag window are firmware's, a user's write of them traps; a range that is valid keeps its
bounds and reports REJ; what is written while a block of the context runs is in force when the context is next scheduled. A word with no
participating lane does nothing.
The model's choices it rests on: log entries 41, 42, 98. -/
def Obligations.ControlRegisters : Prop :=
  ∀ (s : State) (w : AW) (c : Ctx) (k : Clause), s.ctx? s.wave.id.blk.ctx = some c → s.wave.clause = some k →
    let lead := (s.wave.part w.g).headD 0
    let v := s.csrSrc w
    let dst := fun (x : W64) => ∃ t, exec (.csrr w) s = .next t ∧ OnlyWave s t ∧ Wrote (w.w64 || isA w.d) w.d [0] (fun _ => x) s.wave t.wave
    let setWave := fun (f : Wave) => exec (.csrw w) s = .next { s with wave := f }
    (s.wave.part w.g = [] → ∀ i ∈ [Instr.csrr w, .csrw w, .rngattrWrite w, .rangeBoundWrite w, .tagwinWrite w], exec i s = .next s)
    ∧ (s.wave.part w.g ≠ [] → isS w.d = true ∨ isA w.d = true →
        (w.csr = 0x000 → dst s.wave.astk) ∧ (w.csr = 0x001 → dst s.wave.fpctl) ∧ (w.csr = 0x002 → dst s.wave.srseed)
        ∧ (w.csr = 0x003 → dst s.wave.stklim) ∧ (w.csr = 0x004 → dst s.wave.colroute) ∧ (w.csr = 0x005 → dst s.wave.merr)
        ∧ (w.csr = 0x007 → dst (BitVec.ofNat 64 s.wave.depth)) ∧ (w.csr = 0x008 → dst (BitVec.ofNat 64 s.wave.tserial))
        ∧ (w.csr = 0x011 → dst (BitVec.ofNat 64 c.pindrop)) ∧ (w.csr = 0x012 → dst (s.hsalt s.wave.core.pkg)) ∧ (w.csr = 0x014 → dst c.tagwin)
        ∧ (w.csr = 0x013 → dst (BitVec.ofNat 64 (4 * c.dies.length))) ∧ (w.csr = 0x015 → dst (c.dbgctl &&& 1#64))
        ∧ (∀ b, s.blk? s.wave.id.blk = some b → w.csr = 0x006 → dst b.cmdq)
        ∧ ∀ i r, (if s.wave.fw then c.staged.getD c.ranges else c.ranges)[i]? = some r → i < 16 → (w.csr = 0x020 + i → dst r.base) ∧ (w.csr = 0x030 + i → dst r.lim)
          ∧ (w.csr = 0x040 + i → dst r.ia) ∧ (w.csr = 0x050 + i → dst r.attr))
    ∧ (s.wave.part w.g ≠ [] → s.wave.fw = false →
        (w.csr = 0x000 → setWave { s.wave with astk := s.wave.astk &&& ~~~v }) ∧ (w.csr = 0x002 → setWave { s.wave with srseed := v })
        ∧ (w.csr = 0x003 → setWave { s.wave with stklim := v &&& 0xFFFFFFFFFFFF#64 })
        ∧ (w.csr = 0x004 → setWave { s.wave with colroute := v &&& 0x1FFFF#64 })
        ∧ (w.csr = 0x005 → setWave (if v.getLsbD 15 then { s.wave with merr := 0 } else s.wave))
        ∧ (w.csr ∈ [0x001, 0x011, 0x015] → ∃ t, exec (.csrw w) s = .next t ∧ Trapped s t 0x13 lead 0)
        ∧ (w.csr ∈ [0x007, 0x008, 0x010, 0x012, 0x013, 0x009, 0x060] → ∃ t, exec (.csrw w) s = .next t ∧ Trapped s t 0x12 lead 0)
        ∧ (w.csr = 0x014 → ∃ t, exec (.tagwinWrite w) s = .next t ∧ Trapped s t 0x13 lead 0)
        ∧ (0x020 ≤ w.csr → w.csr < 0x050 → ∃ t, exec (.rangeBoundWrite w) s = .next t ∧ Trapped s t 0x13 lead 0)
        ∧ (0x050 ≤ w.csr → w.csr < 0x060 → ∃ t, exec (.rngattrWrite w) s = .next t ∧ Trapped s t 0x13 lead 0))
    ∧ (s.wave.part w.g ≠ [] → s.wave.fw = true → c.id = s.wave.id.blk.ctx →
        let r' := fun (t : State) (i : Nat) => (t.ctx? c.id).bind fun d => (d.staged.getD d.ranges)[i]?
        let runs := ∃ v ∈ s.allWaves, v.id.blk.ctx = c.id ∧ v.fw = false
        let when_ := fun (t : State) => (runs → (t.ctx? c.id).map (·.ranges) = some c.ranges)
          ∧ (¬runs → (t.ctx? c.id).map (·.staged) = some none)
        (w.csr = 0x001 → setWave { s.wave with fpctl := v &&& 1#64 })
        ∧ (w.csr = 0x015 → ∃ t, exec (.csrw w) s = .next t ∧ t.mem = s.mem ∧ t.wave = s.wave ∧ t.ctx? c.id = some { c with dbgctl := v &&& 1#64 })
        ∧ (∀ r, 0x020 ≤ w.csr → w.csr < 0x050 → (c.staged.getD c.ranges)[w.csr % 16]? = some r →
          ∃ t, exec (.rangeBoundWrite w) s = .next t ∧ t.mem = s.mem ∧ t.wave = s.wave ∧ when_ t
            ∧ (r.valid = true → r' t (w.csr % 16) = some { r with attr := r.attr ||| 0x8000000000000000#64 })
            ∧ (r.valid = false → w.csr < 0x030 → ∃ q, r' t (w.csr % 16) = some q ∧ q.base = v &&& 0x01FFFFFFFFFF0000#64 ∧ q.lim = r.lim))
        ∧ (∀ r, 0x050 ≤ w.csr → w.csr < 0x060 → (c.staged.getD c.ranges)[w.csr % 16]? = some r → r.valid = false → v.getLsbD 0 = true →
          ∃ t q, exec (.rngattrWrite w) s = .next t ∧ t.mem = s.mem ∧ t.wave = s.wave ∧ when_ t ∧ r' t (w.csr % 16) = some q
            ∧ q.valid = !({ r with attr := v &&& attrMask }.rejected c.dies) ∧ q.attr.getLsbD 63 = !q.valid ∧ q.base = r.base)
        ∧ (w.csr = 0x014 → (v.extractLsb' 0 18).toNat + (v.extractLsb' 18 19).toNat ≤ 262144 →
          ∃ t d, exec (.tagwinWrite w) s = .next t ∧ t.mem = s.mem ∧ t.wave = s.wave ∧ t.ctx? c.id = some d
            ∧ d.tagwin = v &&& 0x1FFFFFFFFF#64))

/-- R328 to R333, R336, R337: TRAPF waits for the flags and traps where a chosen sticky bit is set; TRAP posts its record once the stores
have landed, and ends the block with .fatal; BPT stops the wave under debug; CLOCK reads a counter that only advances; SLEEP waits;
PHINT stops the wave where a save is pending; LOGMARK with the log off does nothing.
The model's choices it rests on: log entry 11. -/
def Obligations.TrapTimeAndHints : Prop :=
  ∀ (s : State) (w : AW) (off : W32) (c : Ctx) (k : Clause) (b : Blk), s.ctx? s.wave.id.blk.ctx = some c → c.id = s.wave.id.blk.ctx →
    s.wave.clause = some k → s.blk? s.wave.id.blk = some b → b.id = s.wave.id.blk →
    let lead := (s.wave.part w.g).headD 0
    let m := (s.op32 w.s1 &&& 0x1FF#32).setWidth 64
    let n := min (s.op32 w.s1).toNat (2 ^ 24)
    (s.wave.part w.g = [] → ∀ i ∈ [Instr.trapf w, .trap w, .bpt w, .clock w, .sleep w, .logmark w, .phint w.g off], exec i s = .next s)
    ∧ (s.wave.part w.g ≠ [] →
      ((∀ f < 12, s.wave.flag f = 0) → s.wave.astk &&& m = 0 → exec (.trapf w) s = .next s)
      ∧ ((∀ f < 12, s.wave.flag f = 0) → s.wave.astk &&& m ≠ 0 → ∃ t, exec (.trapf w) s = .next t ∧ Trapped s t 0x11 lead 0)
      ∧ ((∃ f < 12, s.wave.flag f ≠ 0) → exec (.trapf w) s = .next s.stall)
      ∧ (s.settled s.wave = true → w.xb 9 = true → ∃ t r, exec (.trap w) s = .next t ∧ t.mem = s.mem ∧ t.wave.run = .halted
          ∧ .trapRecordPost c.id r ∈ t.pending ∧ r.code = 0x1B ∧ r.sub = (s.op32 w.s1).toNat % 65536 ∧ r.aux0 = s.op64 w.s2)
      ∧ (s.settled s.wave = true → w.xb 9 = false → ∃ r, exec (.trap w) s = .next { s with
            wave := { s.wave with run := .posting }
            pending := s.pending ++ [.trapRecordPost c.id r] }
          ∧ r.code = 0x1B ∧ r.sub = (s.op32 w.s1).toNat % 65536 ∧ r.aux0 = s.op64 w.s2 ∧ r.who = some s.wave.id)
      ∧ (c.dbgctl.getLsbD 0 = true → ∃ r, exec (.bpt w) s = .next { s with
            wave := { s.wave with run := .breakpoint }
            pending := s.pending ++ [.trapRecordPost c.id r] } ∧ r.code = 0x1C ∧ r.sub = w.y.toNat ∧ r.pc = s.wave.curPc)
      ∧ (c.dbgctl.getLsbD 0 = false → exec (.bpt w) s = .next s)
      ∧ (isS w.d = true ∨ isA w.d = true → ∀ x, s.core? s.wave.core = some x → ∃ t y, exec (.clock w) s = .next t ∧ t.mem = s.mem
          ∧ t.core? s.wave.core = some y ∧ x.cycle ≤ y.cycle ∧ Wrote true w.d [0] (fun _ => BitVec.ofNat 64 y.cycle) s.wave t.wave)
      ∧ (n = 0 → exec (.sleep w) s = .next s)
      ∧ (n ≠ 0 → ∃ t, exec (.sleep w) s = .next t ∧ t.mem = s.mem ∧ t.wave = { s.wave with run := .sleep }
          ∧ .sleepExpiry s.wave.id ∈ t.pending)
      ∧ (∀ ws, s.liveAt (k.hva + off.signExtend 64) = .ok ws →
          (b.save = false → exec (.phint w.g off) s = .next s)
          ∧ (b.save = true → ∃ t, exec (.phint w.g off) s = .next t ∧ t.mem = s.mem
            ∧ t.wave = { s.wave with run := .stopped, live := some ws }))
      ∧ (c.logmode = 0 → exec (.logmark w) s = .next s)
      ∧ (c.rings = [] → ∃ t, exec (.logmark w) s = .next t ∧ t.mem = s.mem ∧ t.wave = s.wave ∧ t.op? s.freshId = none))

/-! ## Matrix and stream words (R298 to R321) -/

/-- R298, R301 to R310: a matrix word with a participating lane whose Lockring entries find room is in flight on its flag, at the end of
its handle's queue with its operands as read at issue, and the matrix unit starts on it where the queue was empty, where a SHAPE releases
the handle's grant and is granted what it asks if the core's accumulator memory has room, and nothing if it has none for the smallest
shape; nothing else of the wave changes, and the other handles keep theirs. A MEPI whose tag operand is refused takes the tag fault; a word with no participating
lane does nothing.
The model's choices it rests on: log entry 31. -/
def Obligations.MatrixWordsQueue : Prop :=
  ∀ (s : State) (w : AW) (b : Blk), s.blk? s.wave.id.blk = some b → (s.locksAt b.core).length + 4 ≤ 32 →
    let h := w.handle
    let room := (s.modTile b.id h fun x => x.fresh none 0).accFree b.core
    let q := shapeAsks w
    let words := [Instr.shape w, .shapeRel w, .mzero w, .mloop w, .mepiCol w, .mlda w, .msta w, .mcb w]
    (s.wave.part w.g = [] → ∀ i ∈ Instr.mepi w :: words, exec i s = .next s)
    ∧ (s.wave.part w.g ≠ [] → w.xb 9 = true → s.tagBad (s.op64 w.d) = true → s.wave.clause.isSome = true →
        ∃ t, exec (.mepi w) s = .next t ∧ Trapped s t 0x0F ((s.wave.part w.g).headD 0) (s.op64 w.d))
    ∧ (s.wave.part w.g ≠ [] → ∀ i ∈ Instr.mepi w :: words, (i = .mepi w → w.xb 9 = false ∨ s.tagBad (s.op64 w.d) = false) →
        ∃ t b' m o, exec i s = .next t ∧ t.mem = s.mem ∧ t.blk? b.id = some b'
          ∧ (b'.tile h).queue = (b.tile h).queue ++ [m] ∧ m.ins = i ∧ m.op = s.freshId ∧ m.desc = s.opBlock w.s1 ∧ m.addr = s.op64 w.s1
          ∧ m.step = 0
          ∧ (i ≠ .shape w ∨ (b.tile h).queue ≠ [] → (b'.tile h).grant = (b.tile h).grant ∧ (b'.tile h).sums = (b.tile h).sums)
          ∧ (i = .shape w → (b.tile h).queue = [] → (b'.tile h).sums = [] ∧ (b'.tile h).nans = []
            ∧ (q.1 * q.2.1 ≤ room → (b'.tile h).grant = some (q.1, q.2.1) ∧ (b'.tile h).kc = q.2.2)
            ∧ (room < 1024 → (b'.tile h).grant = none))
          ∧ (∀ q, q ≠ h → b'.tile q = b.tile q) ∧ b' = { b with tiles := b'.tiles }
          ∧ t.op? s.freshId = some o ∧ o.ins = i ∧ o.wave = s.wave.id ∧ o.flag = s.wave.flagOf i ∧ o.left = 1
          ∧ t.wave = { s.wave with flags := t.wave.flags }
          ∧ (∀ f, t.wave.flag f = s.wave.flag f + if s.wave.flagOf i = some f then 1 else 0)
          ∧ ((b.tile h).queue = [] → .matrixOpComplete b.id h ∈ t.pending))

/-- R186 to R191, R300 to R310: the operation at the head of a handle's queue runs: SHAPE answers with the shape granted to it, zeros for none;
SHAPE.rel and MZERO empty; a SHAPE that comes next releases the grant and is granted what it asks where there is room; a step of MLOOP enters its products in every
element; MEPI converts an element to its destination; MEPI.col sends the raw tile; MLDA and MSTA move raw elements; MCB loads a codebook.
An operation on a handle without a grant ends with MERR code 1.
The model's choices it rests on: log entries 48, 49. -/
def Obligations.MatrixUnitRuns : Prop :=
  ∀ (s : State) (id : BlkId) (h : Nat) (b : Blk) (m : MatOp) (rest : List MatOp) (w : AW), s.blk? id = some b → b.state = .running →
    b.failed = false → (b.tile h).queue = m :: rest → s.lockWaits b.core (.op m.op) = false → s.scrOwed m.op = false →
    b.size ≤ 2 ^ 20 →
    let tl := b.tile h
    let after := fun (P : State → Tile → Prop) =>
      ∃ t b', exec (.matrixOpComplete id h) s = .next t ∧ t.blk? id = some b' ∧ P t (b'.tile h)
    let own := fun (a n : Nat) => s.scrGet (id, a) n
    let off := (m.addr.extractLsb' 0 20).toNat
    let calm := ∀ m' ∈ rest.head?, ∀ w', m'.ins ≠ .shape w'
    (m.ins = .shape w → ∀ o, s.op? m.op = some o → o.flag.isSome = true → o.fault = none →
      let g := tl.grant.getD (0, 0)
      after fun t x => t.mem = s.mem ∧ x.queue = rest ∧ (calm → x = { tl with queue := rest }) ∧ .flagCompletion m.op ∈ t.pending
        ∧ ∃ o', t.op? m.op = some o' ∧ o'.left = 0 ∧ ∀ k < 8, o'.data.get 0 k = (leBytes 4 g.1 ++ leBytes 4 g.2).getD k 0)
    ∧ (m.ins = .shapeRel w → after fun t x => t.mem = s.mem ∧ x.queue = rest ∧ (calm → x.grant = none)
        ∧ ∀ m' w', rest.head? = some m' → m'.ins = .shape w' →
          let q := shapeAsks w'
          let F := (s.modTile id h fun x => x.fresh none 0).accFree b.core
          (q.1 * q.2.1 ≤ F → x.grant = some (q.1, q.2.1) ∧ x.kc = q.2.2 ∧ x.sums = [] ∧ x.nans = []) ∧ (F < 1024 → x.grant = none))
    ∧ (tl.grant = none → m.ins ∈ [Instr.mzero w, .mloop w, .mepi w, .mepiCol w, .mlda w, .msta w, .mcb w] →
        ∀ o v, s.op? m.op = some o → s.wave? o.wave = some v → v.merr.getLsbD 15 = false → h < 8 →
          after fun t x => t.mem = s.mem ∧ x.queue = rest ∧ ∃ v', t.wave? o.wave = some v'
            ∧ v'.merr = BitVec.ofNat 64 (1 + h * 2 ^ 8 + matOpn m.ins * 2 ^ 11 + 2 ^ 15))
    ∧ ∀ M N, tl.grant = some (M, N) →
      (m.ins = .mzero w → after fun t x => t.mem = s.mem ∧ x.queue = rest
          ∧ (calm → x = { tl with sums := [], nans := [], count := 0, anchor := none, queue := rest }))
      ∧ (m.ins = .mloop w → loopKindOk tl.kc w = true → m.layoutOk w = true → m.ksteps ≠ 0 → m.step ≠ 0 ∨ s.loopAddr b m w tl.kc M N = none →
          m.step + 1 < m.ksteps ∨ calm →
          after fun t x => t.mem = s.mem ∧ x.count = (tl.count + kExt tl.kc) % 2 ^ 64
            ∧ x.anchor = some (tl.anchor.getD (BitVec.ofNat 8 (m.f 4 16 8)).toInt)
            ∧ (∀ i < M, ∀ j < N,
                let r := enterAll (s.loopProds b m w tl M N m.step (tl.anchor.getD (BitVec.ofNat 8 (m.f 4 16 8)).toInt) i j)
                  (tl.sums.get 0 (i * N + j)) (tl.nans.get false (i * N + j))
                x.sums.get 0 (i * N + j) = r.1 ∧ x.nans.get false (i * N + j) = r.2.1)
            ∧ (m.step + 1 < m.ksteps → x.queue = { m with step := m.step + 1 } :: rest ∧ .matrixOpComplete id h ∈ t.pending)
            ∧ (m.ksteps ≤ m.step + 1 → x.queue = rest))
      ∧ (m.ins = .mlda w → w.xb 10 = false → off % 4 = 0 → off + 12 * M * N ≤ b.size → calm →
          after fun t x => t.mem = s.mem ∧ x.queue = rest ∧ x.anchor = some (m.opt.extractLsb' 0 8).toInt ∧ x.count = 0
            ∧ ∀ k < M * N,
              let v := BitVec.ofNat 96 (leVal (own (off + 12 * k) 12))
              x.sums.get 0 k = v.signExtend 128 ∧ x.nans.get false k = decide (v = 0x800000000000000000000000#96))
      ∧ (m.ins = .msta w → w.xb 10 = false → off % 4 = 0 → off + 12 * M * N ≤ b.size → m.step < M * N →
          after fun t x => t.mem = s.mem ∧ (m.step + 1 < M * N ∨ calm → x.sums = tl.sums ∧ x.nans = tl.nans)
            ∧ ∀ k, t.scrByte id k = if off + 12 * m.step ≤ k ∧ k < off + 12 * m.step + 12
              then (leBytes 12 (tl.raw m.step).1.toNat).getD (k - (off + 12 * m.step)) 0 else s.scrByte id k)
      ∧ (m.ins = .mcb w → off % 32 = 0 → off + 32 ≤ b.size → calm →
          after fun t x => t.mem = s.mem ∧ x.queue = rest ∧
            let cb := (List.range 16).map fun i => BitVec.ofNat 16 (leVal (own (off + 2 * i) 2))
            (w.xb 9 = false → x.cbA = cb ∧ x.cbB = tl.cbB) ∧ (w.xb 9 = true → x.cbB = cb ∧ x.cbA = tl.cbA))
      ∧ (m.ins = .mepiCol w → m.contrib = false → m.route.getLsbD 16 = true →
          let bs := (List.range (M * N)).flatMap fun k => leBytes 12 (tl.raw k).1.toNat
          let buf := (m.route.extractLsb' 0 16).toNat
          (s.boundFor id.ctx b.core.pkg buf (m.d 0).toNat bs.length).isSome = true →
          after fun t x => t.mem = s.mem ∧ x.sums = tl.sums ∧ x.queue = { m with contrib := true } :: rest
            ∧ .contributionCount ⟨id.ctx, buf, (m.d 0).toNat, b.core.pkg, .mepi id h, bs⟩ ∈ t.pending)
      ∧ (∀ ty, m.ins = .mepi w → w.xb 10 = false → decodeTy w.mty = some ty →
          let sz := tyBits ty / 8
          let dest := m.f 0 0 20
          let stride := (m.d 2).toNat
          let at_ := dest + m.step / N * stride + m.step % N * sz
          dest % sz = 0 → stride % sz = 0 → N * sz ≤ stride → dest + (M - 1) * stride + N * sz ≤ b.size → w.y.getLsbD 6 = false →
          m.step < M * N →
          after fun t x => t.mem = s.mem ∧ (m.step + 1 < M * N ∨ calm → x.sums = tl.sums) ∧
            let r : Readout :=
              { sA := fp32.decode false (m.d 3).toNat, sB := fp32.decode false (m.d 4).toNat, bias := none, act := (w.x.extractLsb' 2 2).toNat,
                lo := fp32.decode false (m.d 6).toNat, hi := fp32.decode false (m.d 7).toNat, ty := ty, rm := (w.x.extractLsb' 5 2).toNat,
                sat := w.xb 13, ftz := m.ftz }
            let y := (r.run (tl.nans.get false m.step) (tl.sums.get 0 m.step) (tl.anchor.getD 0)).1
            ∀ k, t.scrByte id k = if at_ ≤ k ∧ k < at_ + sz then (leBytes sz y.toNat).getD (k - at_) 0 else s.scrByte id k)

/-- R298, R311, R316, R318 to R321: XFER and XRING write their entry into the ring, advance WI, answer the ticket and wake the engine;
without a ring they take the ring fault, with a full one, or before the wave's stores have landed, they wait. XWAIT is answered with the
status of a command that is done, 0 where it waits for the source and that has been read without error, or 6 for a stale ticket; else it
waits. XCANCEL
ends a command with status 4. XSLOT hands slots of a ring to the wave and back, all ones where none is to come; a write of CMDQ sets up
the ring, waits while a command is not done, and is ignored for a value that breaks R311.
The model's choices it rests on: log entry 50. -/
def Obligations.StreamWords : Prop :=
  ∀ (s : State) (w : AW) (b : Blk), s.blk? s.wave.id.blk = some b →
    let lead := (s.wave.part w.g).headD 0
    let tk := (s.op32 w.s1).toNat
    let ws := entryOf (s.opBlock w.s1)
    let e := b.roff + 32 * (b.wi % 2 ^ b.logn)
    let cancel := Instr.xcancel w
    let words := [Instr.xfer w, .xring w, .xslotAcq w, .xslotRel w, .xwait w, cancel, .cmdqWrite w]
    (s.wave.part w.g = [] → ∀ i ∈ words, exec i s = .next s)
    ∧ (s.wave.part w.g ≠ [] →
      (∀ i ring, (i, ring) ∈ [(Instr.xfer w, false), (.xring w, true)] →
        let c := Cmd.at_ b.wi ws (some s.wave.id) s.wave.ordinal ring s.wave.ftz
        let full := 2 ^ b.logn ≤ (b.wi + 2 ^ 32 - b.ri) % 2 ^ 32
        (b.logn = 0 → s.wave.clause.isSome = true → ∃ t, exec i s = .next t ∧ Trapped s t 0x0D lead 0)
        ∧ (b.logn ≠ 0 → full → exec i s = .next s.stall)
        ∧ (b.logn ≠ 0 → ¬full → (s.locksAt b.core).length + 3 ≤ 32 → s.settled s.wave = false → ∃ t, exec i s = .next t ∧ Waited s t)
        ∧ (b.logn ≠ 0 → ¬full → (s.locksAt b.core).length + 3 ≤ 32 → s.settled s.wave = true →
            b.noff + 8 ≤ e ∨ e + 32 ≤ b.noff →
            ∃ t b', exec i s = .next t ∧ t.mem = s.mem ∧ t.blk? b.id = some b' ∧ b'.wi = (b.wi + 1) % 2 ^ 32 ∧ b'.ri = b.ri
              ∧ c ∈ b'.cmds ∧ .commandTake b.id ∈ t.pending
              ∧ (∀ k < 32, t.scrByte b.id (e + k) = (bytesOf ws).getD k 0)
              ∧ (∀ k < 8, t.scrByte b.id (b.noff + k) = (leBytes 8 b'.notify.toNat).getD k 0)
              ∧ (∀ k, (k < e ∨ e + 32 ≤ k) → (k < b.noff ∨ b.noff + 8 ≤ k) → t.scrByte b.id k = s.scrByte b.id k)
              ∧ ∀ n, w.d = .s n → t.wave = s.wave.setS n.toNat (BitVec.ofNat 32 b.wi)))
      ∧ (b.stale tk = true →
          (∃ t o, exec (.xwait w) s = .next t ∧ t.mem = s.mem ∧ t.blks = s.blks ∧ t.op? s.freshId = some o ∧ o.ins = .xwait w ∧ o.left = 0
            ∧ leVal ((List.range 4).map fun i => o.data.get 0 i) = 6)
          ∧ exec cancel s = .next s ∧ exec (.xslotRel w) s = .next s
          ∧ ∀ n, w.d = .s n → exec (.xslotAcq w) s = .next { s with wave := s.wave.setS n.toNat 0xFFFFFFFF#32 })
      ∧ (∀ c, b.stale tk = false → b.cmd? tk = some c →
          let none_ := ∀ n, w.d = .s n → exec (.xslotAcq w) s = .next { s with wave := s.wave.setS n.toNat 0xFFFFFFFF#32 }
          let waits := ∃ t o, exec (.xwait w) s = .next t ∧ t.mem = s.mem ∧ t.blks = s.blks ∧ t.op? s.freshId = some o ∧ o.ins = .xwait w
            ∧ o.left = 1 ∧ o.flag = s.wave.flagOf (.xwait w) ∧ o.acq = w.xb 9
          (c.done = true → c.status < 8 →
            (∃ t o, exec (.xwait w) s = .next t ∧ t.mem = s.mem ∧ t.blks = s.blks ∧ t.op? s.freshId = some o ∧ o.ins = .xwait w
              ∧ o.left = 0 ∧ leVal ((List.range 4).map fun i => o.data.get 0 i) = if w.xb 9 = false ∧ c.srcOk = true then 0 else c.status)
            ∧ exec cancel s = .next s ∧ exec (.xslotRel w) s = .next s ∧ none_)
          ∧ (c.done = false →
            (c.srcd = false ∨ w.xb 9 = true → waits)
            ∧ (c.srcd = true → w.xb 9 = false → ∃ t o, exec (.xwait w) s = .next t ∧ t.mem = s.mem ∧ t.blks = s.blks
              ∧ t.op? s.freshId = some o ∧ o.ins = .xwait w ∧ o.left = 0 ∧ leVal ((List.range 4).map fun i => o.data.get 0 i) = 0)
            ∧ (∃ t, exec cancel s = .next t ∧ t.mem = s.mem ∧ t.cmdAt b.id tk
                  = some { c with taken := true, srcd := true, done := true, status := 4, fcode := 0, failed := true }
                ∧ ∀ i, i ≠ tk → t.cmdAt b.id i = s.cmdAt b.id i)
            ∧ (c.taken = true → c.isRing = false ∨ c.bc ≤ c.acq → none_)
            ∧ (c.taken = false → ∃ t, exec (.xslotAcq w) s = .next t ∧ Waited s t)
            ∧ (c.taken = true → c.isRing = true → c.acq < c.bc →
                (c.slot c.acq = (if c.opc = 6 then .full else .free) → ∀ n tl, w.d = .s n → s.tlrOf b c = some tl →
                  ∃ t, exec (.xslotAcq w) s = .next t ∧ t.mem = s.mem
                    ∧ t.wave = s.wave.setS n.toNat (BitVec.ofNat 32 (c.soff + c.acq % c.nslots * tl.bytes))
                    ∧ t.cmdAt b.id tk = some { c.setSlot c.acq .held with acq := c.acq + 1 })
                ∧ (c.slot c.acq ≠ (if c.opc = 6 then .full else .free) → ∃ t, exec (.xslotAcq w) s = .next t ∧ Waited s t))
            ∧ (c.acq ≤ c.rel → exec (.xslotRel w) s = .next s)
            ∧ (c.rel < c.acq → s.settled s.wave = false → ∃ t, exec (.xslotRel w) s = .next t ∧ Waited s t)
            ∧ (c.rel < c.acq → s.settled s.wave = true →
                (c.opc = 6 → c.rel + c.nslots < c.bc → ∃ t, exec (.xslotRel w) s = .next t ∧ t.mem = s.mem
                  ∧ t.wave = s.wave ∧ t.cmdAt b.id tk = some { c.setSlot c.rel .filling with rel := c.rel + 1 }
                  ∧ .slotBoxLoaded b.id tk ∈ t.pending)
                ∧ (c.opc = 6 → c.bc ≤ c.rel + c.nslots → ∃ t, exec (.xslotRel w) s = .next t ∧ t.mem = s.mem ∧ t.wave = s.wave
                  ∧ t.cmdAt b.id tk = some { c.setSlot c.rel .free with rel := c.rel + 1 }
                  ∧ t.pending = s.pending ++ if c.rel + 1 = c.bc then [.copyArrival b.id tk] else [])
                ∧ (c.opc ≠ 6 → ∃ t, exec (.xslotRel w) s = .next t ∧ t.mem = s.mem ∧ t.wave = s.wave
                  ∧ t.cmdAt b.id tk = some { c.setSlot c.rel .draining with rel := c.rel + 1 } ∧ .slotBoxStored b.id tk ∈ t.pending))))
      ∧ (let v := s.csrSrc w &&& 0xFFFFFFFFFFF#64
         ((∃ c ∈ b.cmds, c.done = false) → exec (.cmdqWrite w) s = .next s.stall)
         ∧ ((∀ c ∈ b.cmds, c.done = true) → v.extractLsb' 20 4 = 0#4 ∨ cmdqOk v b.size = true →
             ∃ t b', exec (.cmdqWrite w) s = .next t ∧ t.mem = s.mem ∧ t.wave = s.wave ∧ t.blk? b.id = some b' ∧ b'.cmdq = v ∧ b'.wi = 0
               ∧ b'.ri = 0 ∧ b'.cmds = []
               ∧ ∀ k, t.scrByte b.id k = if v.extractLsb' 20 4 ≠ 0#4 ∧ b'.noff ≤ k ∧ k < b'.noff + 8 then 0 else s.scrByte b.id k)
         ∧ ((∀ c ∈ b.cmds, c.done = true) → v.extractLsb' 20 4 ≠ 0#4 → cmdqOk v b.size = false → exec (.cmdqWrite w) s = .next s)))

/-- R129, R311, R314, R315, R317 to R319: the stream engine takes a published entry: one that fails its check ends with its status, a fifth
ring with status 5, and a copy begins. A copy moves by pieces between memory and scratchpads as its opcode says, padding what lies outside
the tensor; with the last source byte it is SRCD and its arrival is due. The arrival adds one to its counter and the command is DONE. Each
box of a ring moves through its slot.
The model's choices it rests on: log entries 50, 51. -/
def Obligations.StreamEngineMoves : Prop :=
  ∀ (s : State) (id : BlkId) (idx : Nat) (b : Blk) (c : Cmd), s.blk? id = some b → b.state = .running → b.failed = false →
    b.cmd? idx = some c →
    (b.toTake = some c → c.words = [] →
      let ws := wordsOf (s.scrGet (id, b.roff + 32 * (idx % 2 ^ b.logn)) 32) 4
      let c1 := { c with words := ws }
      let p := s.plan b c1
      let rings := (b.cmds.filter fun x => x.taken && !x.done && x.isRing).length
      let ends := fun (st f : Nat) => ∃ t c', exec (.commandTake id) s = .next t ∧ t.mem = s.mem ∧ t.cmdAt id idx = some c' ∧ c'.done = true
        ∧ c'.status = st ∧ c'.fcode = f
      (p.status ≠ 0 → ends p.status p.fcode)
      ∧ (p.status = 0 → (s.locksAt b.core).length + p.spans.length ≤ 32 →
          (c1.isRing = true → 4 ≤ rings → ends 5 0)
          ∧ (c1.isRing = false → ∃ t, exec (.commandTake id) s = .next t ∧ t.mem = s.mem
              ∧ t.cmdAt id idx = some { c1 with taken := true, slots := [] } ∧ .copySourceReleased id idx ∈ t.pending)
          ∧ (c1.opc = 6 → rings < 4 → ∃ t c', exec (.commandTake id) s = .next t ∧ t.mem = s.mem ∧ t.cmdAt id idx = some c' ∧ c'.taken = true
              ∧ c'.done = c.done ∧ .slotBoxLoaded id idx ∈ t.pending)
          ∧ (c1.opc = 7 → rings < 4 → ∃ t c', exec (.commandTake id) s = .next t ∧ t.mem = s.mem ∧ t.cmdAt id idx = some c' ∧ c'.taken = true
              ∧ c'.done = c.done)))
    ∧ (c.taken = true → c.done = false → s.lockWaits b.core (.cmd id idx) = false →
      let p := c.box
      let a := c.addr + BitVec.ofNat 64 p
      let en := b.roff + 32 * (idx % 2 ^ b.logn)
      let tot := c.total (s.tlrOf b c)
      let went := fun (n : Nat) (P : State → Prop) => ∃ t c', exec (.copySourceReleased id idx) s = .next t ∧ t.cmdAt id idx = some c'
        ∧ c'.box = n ∧ (n < tot → c'.srcd = false ∧ .copySourceReleased id idx ∈ t.pending)
        ∧ (tot ≤ n → c'.srcd = true ∧ .copyArrival id idx ∈ t.pending) ∧ P t
      let got := fun (o : Nat) (bs : List Byte) (t : State) => t.mem = s.mem ∧ ∀ k, (k ≤ en ∨ en + 3 ≤ k) →
        t.scrByte id k = if o ≤ k ∧ k < o + bs.length then bs.getD (k - o) 0 else s.scrByte id k
      (c.srcd = false →
        (∀ x l, c.opc = 0 →
          let n := min (64 - a.toNat % 64) (c.len - p)
          s.engXlate b .load a n = .ok x → s.engWaits b x n = false → s.engLook b x n false 1 = .ok l →
          went (p + n) (got (c.soff + p) (l.flatMap fun q => s.memRead (q.2.2.key q.1) q.2.1)))
        ∧ (∀ x e, c.opc = 1 →
          let n := min (64 - a.toNat % 64) (c.len - p)
          s.engXlate b .store a n = .ok x → s.engWaits b x n = false → s.engLook b x n true 2 = .ok [(x.ia, n, e)] →
          s.copyTarget e = none → went (p + n) fun t => MemWrote s t (e.key x.ia) (s.scrGet (id, c.soff + p) n))
        ∧ (∀ o, c.opc = 4 →
          let n := min 64 (c.len - p)
          s.scrSpan b true (c.bits 1 0 23 + p) n = .ok o → o.1 ≠ id → went (p + n) fun t => t.mem = s.mem
            ∧ ∀ k, t.scrByte o.1 k = if o.2 ≤ k ∧ k < o.2 + n then s.scrByte id (c.soff + p + (k - o.2)) else s.scrByte o.1 k)
        ∧ (∀ x e, c.opc = 5 → s.engXlate b .atomic a 4 = .ok x → s.engWaits b x 4 = false →
          s.cut b.core.pkg (s.homeAt id.ctx x.rng x.ia).pkg = false → s.homeFind id.ctx (s.homeAt id.ctx x.rng x.ia) x.ia = .ok e → s.poison.contains (e.key x.ia / 64) = false →
          s.copyTarget e = none →
          went (p + 4) fun t => MemWrote s t (e.key x.ia)
            (rmwApply .fadd c.ftz (s.memRead (e.key x.ia) 4) (s.scrGet (id, c.soff + p) 4) []).1)
        ∧ (∀ tl, c.opc = 2 → s.tlrOf b c = some tl → tl.va (c.box_ 0) p = none → tl.pad = 0 →
          went (p + 1) (got (c.soff + tl.place (p * tl.ub)) (leBytes tl.ub 0)))
        ∧ (∀ tl va x l, c.opc = 2 → s.tlrOf b c = some tl → tl.va (c.box_ 0) p = some va → tl.half (c.box_ 0) p = false →
          s.engXlate b .load va tl.ub = .ok x → s.engWaits b x tl.ub = false → s.engLook b x tl.ub false 1 = .ok l →
          went (p + 1) (got (c.soff + tl.place (p * tl.ub)) (l.flatMap fun q => s.memRead (q.2.2.key q.1) q.2.1)))
        ∧ (∀ tl, c.opc = 3 → s.tlrOf b c = some tl → tl.va (c.box_ 0) p = none → went (p + 1) fun t => t.mem = s.mem))
      ∧ (∀ x, s.ctx? id.ctx = some x → x.rings = [] → c.arrives = true →
          (c.cinc = false → ∃ t c', exec (.copyArrival id idx) s = .next t ∧ t.mem = s.mem ∧ t.cmdAt id idx = some c' ∧ c'.done = true
            ∧ c'.status = 0)
          ∧ (∀ r ia e, c.cinc = true → s.ctxAt id.ctx (vaOf c.caddr) 8 .atomic = .ok (r, ia) → s.engHeld id.ctx ⟨ia, r⟩ 8 = false →
              s.cut b.core.pkg (s.homeAt id.ctx r ia).pkg = false → s.homeFind id.ctx (s.homeAt id.ctx r ia) ia = .ok e → s.poison.contains (e.key ia / 64) = false → s.copyTarget e = none →
              ∃ t c', exec (.copyArrival id idx) s = .next t ∧ t.cmdAt id idx = some c' ∧ c'.done = true ∧ c'.status = 0
                ∧ MemWrote s t (e.key ia) (leBytes 8 (leVal (s.memRead (e.key ia) 8) + 1))))
      ∧ (∀ tl u, c.box < c.bc → s.tlrOf b c = some tl →
          (c.slot c.box = .filling → s.moveBox b tl (c.box_ c.box) (c.soff + c.box % c.nslots * tl.bytes) true = .ok u →
            ∃ t c', exec (.slotBoxLoaded id idx) s = .next t ∧ t.mem = u.mem ∧ t.cmdAt id idx = some c' ∧ c'.box = c.box + 1
              ∧ c'.slots = (c.setSlot c.box .full).slots ∧ c'.srcd = (c.srcd || decide (c.box + 1 = c.bc)))
          ∧ (c.slot c.box = .draining → s.moveBox b tl (c.box_ c.box) (c.soff + c.box % c.nslots * tl.bytes) false = .ok u →
            ∃ t c', exec (.slotBoxStored id idx) s = .next t ∧ t.mem = u.mem ∧ t.cmdAt id idx = some c' ∧ c'.box = c.box + 1
              ∧ c'.slots = (c.setSlot c.box .free).slots ∧ c'.srcd = (c.srcd || decide (c.box + 1 = c.bc))
              ∧ (c.box + 1 = c.bc → .copyArrival id idx ∈ t.pending))))

/-! ## Tasks, counters, tags (R171 to R176, R322 to R326, R355) -/

/-- R172, R322 to R326, R355: SPAWN refuses a misplaced record with a trap and answers each offered one: 4 for a bad record, 2 at depth 15,
0 for a task that goes to the head of its core's deque. CSIG and CWAIT ask for their counters. TAGPUB publishes once its wave's accesses
and its core's write-combining stores have landed; TAGWAIT is answered when its tag is met, traps on a stale one, and waits otherwise. A publication enters the Cassette where
its generation is newer, and goes to the context's other packages.
The model's choices it rests on: log entries 32, 34, 36. -/
def Obligations.TasksCountersTags : Prop :=
  ∀ (s : State) (w : AW) (c : Ctx) (b : Blk), s.ctx? s.wave.id.blk.ctx = some c → s.blk? s.wave.id.blk = some b → s.wave.clause.isSome = true →
    let ls := s.wave.part w.g
    let lead := ls.headD 0
    let off := fun l => (lo32 (s.rd false .n32 w.s1 l)).toNat
    let mis := ls.filter fun l => off l % 16 != 0
    let far := ls.filter fun l => decide (b.size < off l + 128)
    let tw := s.op64 w.s1
    let pub := tagPubOf s.wave.id s.wave.core.pkg (s.wave.ordinal % 2 ^ 32) tw
    (ls = [] → ∀ i ∈ [Instr.spawn w, .tagpub w, .tagwait w], exec i s = .next s)
    ∧ (∀ l r, mis = l :: r → ∃ t, exec (.spawn w) s = .next t ∧ Trapped s t 0x0A l (BitVec.ofNat 64 (off l)))
    ∧ (∀ l r, mis = [] → far = l :: r → ∃ t, exec (.spawn w) s = .next t ∧ Trapped s t 0x07 l (BitVec.ofNat 64 (off l)))
    ∧ (∀ l, ls = [l] → mis = [] → far = [] → NoneAwaited s → s.held = [] → c.rings = [] → c.id = s.wave.id.blk.ctx →
        let rec_ := b.scrRead (off l) 128
        let p := s.pkg? s.wave.core.pkg
        let n := match p with | some p => p.serials.get 0 c.id | none => 0
        let t0 := s.wave.task (s.rootOf s.wave.id.blk) (c.logical s.wave.core.pkg % 256 * 2 ^ 45 + n % 2 ^ 45) rec_
        (taskRecOk rec_ = false → ∃ t, exec (.spawn w) s = .next t ∧ t.mem = s.mem ∧ AnsweredBy s t l 4)
        ∧ (taskRecOk rec_ = true → taskCtrs rec_ = [] → 15 ≤ s.wave.depth → ∃ t, exec (.spawn w) s = .next t ∧ t.mem = s.mem ∧ AnsweredBy s t l 2)
        ∧ (taskRecOk rec_ = true → taskCtrs rec_ = [] → s.wave.depth < 15 → ∀ k, s.core? s.wave.core = some k → k.deque.length < 64 →
            ∃ t k', exec (.spawn w) s = .next t ∧ t.mem = s.mem ∧ AnsweredBy s t l 0 ∧ t.core? s.wave.core = some k'
              ∧ k'.deque = t0 :: k.deque ∧ .taskStart s.wave.core ∈ t.pending))
    ∧ (∀ m ∈ counterWords w s, m.faults (m.checks s) = [] → m.misaligned s = [] → HomesOk s m →
        okPieces (m.checks s) ≠ [] → AllAtHomes (okPieces (m.checks s)) →
        ∃ t, exec m.ins s = .next t ∧ t.mem = s.mem ∧ InFlight s t m ∧ t.wave = { s.wave with flags := t.wave.flags, a := t.wave.a }
          ∧ ∀ p ∈ okPieces (m.checks s), ∀ a g, p.2.spot = .ia a g → Asked s t m p.1 p.2 a ∨ AskedLater s t m p.1 p.2 a)
    ∧ (ls ≠ [] → s.tagBad tw = true → ∀ i ∈ [Instr.tagpub w, .tagwait w], ∃ t, exec i s = .next t ∧ Trapped s t 0x0F lead tw)
    ∧ (ls ≠ [] → s.tagBad tw = false →
        (NoneAwaited s → s.wcQuiet s.wave.core = true → ∃ t, exec (.tagpub w) s = .next t ∧ t.mem = s.mem ∧ t.wave = s.wave
            ∧ t.pending = s.pending ++ [.tagPublicationApply pub])
        ∧ ((∃ o ∈ s.opsOf s.wave.id, o.awaited = true ∧ o.id ≠ 0) ∨ (∃ i ∈ s.coreWc s.wave.core, i ≠ 0) → ∃ t d, exec (.tagpub w) s = .next t ∧ t.mem = s.mem ∧ t.wave = s.wave
            ∧ d ∈ t.deferred ∧ d.wave = s.wave.id ∧ d.waits ≠ [] ∧ d.evs = [.tagPublicationApply pub])
        ∧ (c.rings = [] →
            let look := s.tagLook c s.wave.core.pkg (twIdx tw) (twGen tw)
            (look = .met → ∃ t, exec (.tagwait w) s = .next t ∧ t.mem = s.mem ∧ AnsweredBy s t 0 0)
            ∧ (∀ g, look = .stale g → ∃ t, exec (.tagwait w) s = .next t ∧ Trapped s t 0x10 lead (BitVec.ofNat 64 (twIdx tw)))
            ∧ (∀ f, look = .later f → w.try_ = true → ∃ t, exec (.tagwait w) s = .next t ∧ t.mem = s.mem ∧ AnsweredBy s t 0 1)
            ∧ (∀ f, look = .later f → w.try_ = false → ∃ t o, exec (.tagwait w) s = .next t ∧ t.mem = s.mem ∧ t.pending = s.pending
                ∧ t.op? s.freshId = some o ∧ o.ins = .tagwait w ∧ o.left = 1 ∧ o.flag = s.wave.flagOf (.tagwait w))))
    ∧ (∀ (p : TagPub) (l : Launch) (k : Pkg) (q : Nat), p.ctx = s.wave.id.blk.ctx → c.life = .live → c.off = [] → c.rings = [] →
        c.launch? p.who.blk.launch = some l → l.fallback = false →
        let e := c.tagBase + p.idx
        (s.pkg? p.src = some k → ∃ t k', exec (.tagPublicationApply p) s = .next t ∧ t.mem = s.mem ∧ t.pkg? p.src = some k'
          ∧ (tagNewer p.gen (k.tags.get (0, 0) e).1 = true → k'.tags.get (0, 0) e = (p.gen, p.sco))
          ∧ (tagNewer p.gen (k.tags.get (0, 0) e).1 = false → k' = k)
          ∧ (∀ e', e' ≠ e → k'.tags.get (0, 0) e' = k.tags.get (0, 0) e')
          ∧ ∀ q ∈ c.pkgs, q ≠ p.src → .tagForward q p ∈ t.pending)
        ∧ (s.pkg? q = some k → ∃ t k', exec (.tagForward q p) s = .next t ∧ t.mem = s.mem ∧ t.pkg? q = some k'
          ∧ (tagNewer p.gen (k.tags.get (0, 0) e).1 = true → k'.tags.get (0, 0) e = (p.gen, p.sco))
          ∧ (tagNewer p.gen (k.tags.get (0, 0) e).1 = false → k' = k)))

/-- R92, R152, R168, R174 to R176, R343, R355, R357: a worker core's deque below 32 records takes the oldest overflow record that may run there;
a task that fits starts with its wave, in replay the one its log names; an idle core steals the tail record it picks; a placed block that is
ready starts and its waves become resident, and one with a stale tile fails its launch; work recorded while a context was off its package
fires; a write-combining buffer drains its valid bytes into its line and no other byte.
The model's choices it rests on: log entries 28, 35. -/
def Obligations.StartsAndDrains : Prop :=
  ∀ (s : State) (c : CoreId) (k : Core), s.core? c = some k →
    ((∀ x ∈ s.ctxs, x.parked = []) →
      (∀ p t, worker c = true → k.deque.length < 32 → s.pkg? c.pkg = some p → (p.ovfl.find? fun t => s.hasWork k t.ctx) = some t →
        ∃ u k' p', exec (.dequeRefill c) s = .next u ∧ u.mem = s.mem ∧ u.core? c = some k' ∧ k' = { k with deque := k.deque ++ [t] }
          ∧ u.pkg? c.pkg = some p' ∧ p' = { p with ovfl := delFirst (fun x => decide (x = t)) p.ovfl } ∧ .taskStart c ∈ u.pending)
      ∧ (32 ≤ k.deque.length → exec (.dequeRefill c) s = .next s)
      ∧ (∀ t l q x, s.taskFor c k = some (t, l, q) → s.ctx? t.ctx = some x → x.rings = [] →
          let id : BlkId := ⟨t.ctx, true, t.launch, t.serial⟩
          ∃ u b k', exec (.taskStart c) s = .next u ∧ u.mem = s.mem ∧ u.waves = s.waves ++ [TaskRecWave t l id c q] ∧ u.blks = s.blks ++ [b]
            ∧ b.id = id ∧ b.state = .running ∧ b.core = c ∧ b.task = some t ∧ b.size = t.sgr * 4096 ∧ u.core? c = some k'
            ∧ k'.deque = delFirst (fun x => decide (x = t)) k.deque)
      ∧ (∀ t lp pay x, k.deque = [] → (∀ y ∈ s.ctxs, y.replays = false) → s.stealPick c = some (t, lp, pay) → s.ctx? t.ctx = some x → x.rings = [] →
          ∃ u k', exec (.taskSteal c) s = .next u ∧ u.mem = s.mem ∧ u.core? c = some k' ∧ k'.deque = [t] ∧ .taskStart c ∈ u.pending
            ∧ (∃ v ∈ victims c, ∃ y, s.core? ⟨c.pkg, c.die, v⟩ = some y ∧ y.deque.getLast? = some t)
            ∧ ∀ d y, d ≠ c → d.pkg = c.pkg → s.core? d = some y → ∃ y', u.core? d = some y' ∧ y'.deque = delFirst (fun x => decide (x = t)) y.deque)
      ∧ (∀ x p, s.ctx? x.id = some x → p ∉ x.off → ∃ u y, exec (.triggeredWorkFire x.id p) s = .next u ∧ u.mem = s.mem ∧ u.ctx? x.id = some y
          ∧ y = { x with trig := x.trig.filter fun t => t.1 != p } ∧ ∀ e, (p, .event e) ∈ x.trig → e ∈ u.pending))
    ∧ (∀ i b x l, s.blk? i = some b → s.ctx? i.ctx = some x → x.launch? i.launch = some l → b.state = .placed → l.bad = false →
        x.gateFailed l = false → x.life = .live →
        (b.wanted = [] → x.rings = [] → s.staleTile x l b = none → b.group = [i] → s.startReady x l b = true → x.preempting = false →
          b.core.pkg ∉ x.off → ∃ u, exec (.blockStart i) s = .next u ∧ u.mem = s.mem ∧ u.waves = s.waves ++ b.image
            ∧ u.blk? i = some { b with state := .running, image := [] })
        ∧ (∀ t, s.staleTile x l b = some t → ∃ u r y m, exec (.blockStart i) s = .next u ∧ u.mem = s.mem
            ∧ .trapRecordPost i.ctx r ∈ u.pending ∧ r.code = 0x10 ∧ r.addr = BitVec.ofNat 64 t.1 ∧ r.aux0 = BitVec.ofNat 64 l.tgen
            ∧ r.aux1 = BitVec.ofNat 64 t.2.1 ∧ u.ctx? i.ctx = some y ∧ y.launch? i.launch = some m ∧ m.bad = true))
    ∧ (∀ x q, s.ctx? x.id = some x → x.parked = [q] → x.trig = [(c.pkg, .ready q.task.serial)] → q.core = c → q.task.ctx = x.id →
        c.pkg ∉ x.off → k.deque.length < 64 → ∃ u k' y, exec (.triggeredWorkFire x.id c.pkg) s = .next u ∧ u.mem = s.mem
          ∧ u.core? c = some k' ∧ k'.deque = q.task :: k.deque ∧ .taskStart c ∈ u.pending ∧ u.ctx? x.id = some y ∧ y.parked = [] ∧ y.trig = [])
    ∧ (∀ line f e, (k.wc.find? fun f => f.ia == line) = some f → s.cut c.pkg f.home.pkg = false → s.homeFind f.ctx f.home line = .ok e → e.mst ≠ 1 →
        s.pageHeld e line 64 = false → s.drainWaits c f = false → s.poison.contains (e.key line / 64) = false → 0 ∉ f.ops →
        (∀ o ∈ f.ops, s.bufLapsed f o = false) → ∃ u k', exec (.wcBufferDrain c line) s = .next u ∧ u.core? c = some k' ∧ k'.wc = delFirst (fun f => f.ia == line) k.wc
          ∧ (∀ i < 64, ∀ x, f.byte f.ops i = some x → u.memByte (e.key line + i) = x)
          ∧ ∀ a, (∀ i < 64, f.valid i = true → a ≠ e.key line + i) → u.memByte a = s.memByte a)

/-! ## Homes (R53 to R77) -/

/-- R53 to R55, R60, R67, R70, R71: a lease request is granted where each of its pages may be leased, pins each page once more and counts its
new pins; it is refused, waits for a pin, or brings in an absent page. A grant is added to its block, which may start with the last one; a
refusal at placement fails the launch with its record. A release lowers the count; the last one frees the pin, lets requests that wait for
one try again, and lets a deferred unmap run.
The model's choices it rests on: log entries 43, 54. -/
def Obligations.LeasesPinPages : Prop :=
  ∀ (s : State) (l : LeaseReq) (h : Home), s.home? l.home = some h → (l.pages.map pageOf).Nodup →
    (l.blk.ctx ∉ h.dead → l.hint = false →
      ((∃ p ∈ l.pages, s.leaseLook l p = .refuse) ∨ pinMax < s.blkPins l →
        exec (.leaseRequest l) s = .next { s with pending := s.pending ++ [.leaseRefused l] })
      ∧ ((∀ p ∈ l.pages, s.leaseLook l p = .grant) → s.blkPins l ≤ pinMax →
          (h.pins + s.newPins l ≤ pinMax → ∃ t h', exec (.leaseRequest l) s = .next t ∧ t.mem = s.mem ∧ t.home? l.home = some h'
            ∧ h' = { h with pins := h.pins + s.newPins l } ∧ .leaseGrantReceived l ∈ t.pending
            ∧ (∀ p ∈ l.pages, ∀ e, s.entry? l.home p = some e → t.entry? l.home p = some { e with lcnt := min (e.lcnt + 1) 65535 })
            ∧ ∀ g a, (g ≠ l.home ∨ pageOf a ∉ l.pages.map pageOf) → t.entry? g a = s.entry? g a)
          ∧ (pinMax < h.pins + s.newPins l → ∃ t, exec (.leaseRequest l) s = .next t ∧ t.entries = s.entries
              ∧ t.home? l.home = some { h with queue := h.queue ++ [l] }))
      ∧ (∀ p e, l.pages = [p] → s.leaseLook l p = .absent → s.entry? l.home p = some e → s.blkPins l ≤ pinMax → s.pageop? l.home p = none →
          ∃ t o, exec (.leaseRequest l) s = .next t ∧ t.entry? l.home p = some { e with mst := 2 } ∧ t.pageop? l.home p = some o
            ∧ o.held = [l] ∧ o.cmd = none))
    ∧ (∀ b, s.blk? l.blk = some b →
        (l ∈ b.wanted → ∃ t b', exec (.leaseGrantReceived l) s = .next t ∧ t.mem = s.mem ∧ t.blk? l.blk = some b'
          ∧ b'.leases = b.leases ++ [l] ∧ b'.wanted = b.wanted.erase l
          ∧ (b.wanted.length = 1 → b.state = .placed → .blockStart b.id ∈ t.pending) ∧ (b.wanted.length ≠ 1 → t.pending = s.pending))
        ∧ (l ∉ b.wanted → exec (.leaseGrantReceived l) s = .next { s with pending := s.pending ++ [.leaseRelease l] })
        ∧ (∀ c x, b.state = .placed → b.id.task = false → s.ctx? b.id.ctx = some c → c.launch? b.id.launch = some x →
            ∃ t r c' x', exec (.leaseRefused l) s = .next t ∧ .trapRecordPost b.id.ctx r ∈ t.pending ∧ r.code = 0x16 ∧ r.sub = 0
              ∧ r.addr = BitVec.ofNat 64 l.va ∧ (∀ y ∈ t.blks, y.id = b.id → y.state ≠ .placed) ∧ t.ctx? b.id.ctx = some c'
              ∧ c'.launch? b.id.launch = some x' ∧ x'.bad = true))
    ∧ (∀ p e, l.pages = [p] → s.entry? l.home p = some e →
        (e.lcnt = 0 ∨ e.lcnt = 65535 → exec (.leaseRelease l) s = .next s)
        ∧ (1 < e.lcnt → e.lcnt ≠ 65535 → ∃ t, exec (.leaseRelease l) s = .next t ∧ t.mem = s.mem ∧ t.homes = s.homes ∧ t.pending = s.pending
            ∧ t.entry? l.home p = some { e with lcnt := e.lcnt - 1 })
        ∧ (e.lcnt = 1 → e.mst = 0 → ∃ t, exec (.leaseRelease l) s = .next t ∧ t.mem = s.mem ∧ t.entry? l.home p = some { e with lcnt := 0 }
            ∧ t.home? l.home = some { h with pins := h.pins - 1, queue := [] } ∧ ∀ q ∈ h.queue, .leaseRequest q ∈ t.pending)
        ∧ (∀ o c, e.lcnt = 1 → e.mst = 3 → s.pageop? l.home p = some o → o.cmd = some c →
            ∃ t, exec (.leaseRelease l) s = .next t ∧ ShootsDown s t l.home p { e with lcnt := 0 } c .unmap))

/-- R63 to R71: the Hub takes the descriptors of a function's queue and delivers each; one that breaks R64 is answered BADCMD or DENIED. MAP
makes an entry. UNMAP and EVICT shoot a page down, or wait for its leases; RESETACC shoots it down; FILL starts the copy of a page that waits
for it, and REFUSE refuses what waits; MIGRATE starts a copy. HEATREAD and PROBE write their records and cool.
The model's choices it rests on: log entries 52, 53, 54. -/
def Obligations.HomeCommands : Prop :=
  ∀ (s : State) (c : HomeCmd) (f : Fn), s.fn? c.fn = some f →
    let h := s.cmdHome c
    let ends := fun (i : Instr) (st n : Nat) (w : W64) => ∃ t, exec i s = .next t ∧ Reported s t c st n w
    let full := ringOn f.hcc = false ∨ 2 ^ ringLog f.hcc ≤ f.hccpi.toNat - f.hccci.toNat
    let buf := (c.frb.extractLsb' 0 56).toNat
    (∀ pi, let n := ringLog f.hcq
      let k := if ringOn f.hcq then min (pi - f.hcqci.toNat) (2 ^ n) else 0
      (k ≠ 0 → s.devHeld c.fn (ringIa f.hcq) (64 * 2 ^ n) = true →
        exec (.homeCommandDoorbell c.fn pi) s = .next { s with pending := s.pending ++ [.homeCommandDoorbell c.fn pi] })
      ∧ (k = 0 ∨ s.devHeld c.fn (ringIa f.hcq) (64 * 2 ^ n) = false → ∃ t, exec (.homeCommandDoorbell c.fn pi) s = .next t ∧ t.mem = s.mem
        ∧ t.fn? c.fn = some { f with hcqpi := BitVec.ofNat 64 (max f.hcqpi.toNat pi), hcqci := BitVec.ofNat 64 (f.hcqci.toNat + k) }
        ∧ ∀ i < k, ∀ bs, s.devRead c.fn (ringIa f.hcq + 64 * ((f.hcqci.toNat + i) % 2 ^ n)) 64 = some bs →
            homeCmdEvent (parseHomeCmd c.fn (f.hcqci.toNat + i) bs) ∈ t.pending))
    ∧ (s.cmdBehind c = false → (∀ st, s.cmdBad c = some st → ∀ i ∈ homeEvents c, ends i st 0 0) ∧ ends (.badcmdOpcode c) 11 0 0)
    ∧ (s.cmdBehind c = true → ∀ i ∈ .badcmdOpcode c :: homeEvents c, exec i s = .next { s with pending := s.pending ++ [i] })
    ∧ (Runs s c →
      (∀ x, s.home? h = some x → s.entry? h c.ia = none → s.frameOk h c.fra c.ia = true →
          x.cap ≤ (s.entries.filter fun e => decide (e.home = h)).length → ends (.map c) 6 0 0)
      ∧ (∀ x, s.home? h = some x → s.entry? h c.ia = none → s.frameOk h c.fra c.ia = true →
        (s.entries.filter fun e => decide (e.home = h)).length < x.cap → ∃ t e, exec (.map c) s = .next t ∧ Reported s t c 0 1 0 ∧ t.entry? h c.ia = some e ∧ e.home = h ∧ e.ia = c.ia ∧ e.owner = c.ctx
          ∧ e.loc = frLoc c.fra ∧ e.faddr = frAddr c.fra ∧ e.shr = c.fra.getLsbD 2 ∧ e.swc = c.swc ∧ e.lcnt = 0 ∧ e.mst = 0 ∧ e.acc = 0
          ∧ e.d = false ∧ e.rpf = 0 ∧ e.heat = 0)
      ∧ (∀ e, s.entry? h c.ia = some e → ends (.map c) 2 0 0)
      ∧ (s.entry? h c.ia = none → s.frameOk h c.fra c.ia = false → ends (.map c) 5 0 0)
      ∧ (s.cmdEntry c h = none → ∀ i ∈ [Instr.unmap c, .evict c, .migrate c, .resetacc c, .fill c, .refuse c], ends i 1 0 0)
      ∧ (s.bufOk c.fn buf 32 = false → ends (.probe c) 12 0 0) ∧ (s.cmdEntry c h = none → s.bufOk c.fn buf 32 = true → s.devHeld c.fn buf 32 = false → ends (.probe c) 1 0 0)
      ∧ (s.bufOk c.fn buf (4 * c.cnt) = false → ends (.heatread c) 12 0 0)
      ∧ (s.bufOk c.fn buf 32 = true → s.devHeld c.fn buf 32 = true → exec (.probe c) s = .next { s with pending := s.pending ++ [.probe c] })
      ∧ (s.bufOk c.fn buf (4 * c.cnt) = true → s.devHeld c.fn buf (4 * c.cnt) = true →
          exec (.heatread c) s = .next { s with pending := s.pending ++ [.heatread c] })
      ∧ (∀ e, s.cmdEntry c h = some e →
        (e.mst = 0 → e.lcnt = 0 → (∃ t, exec (.unmap c) s = .next t ∧ ShootsDown s t h c.ia e c .unmap)
          ∧ (e.loc ≠ 0 → ∃ t, exec (.evict c) s = .next t ∧ ShootsDown s t h c.ia e c .evict))
        ∧ (e.mst = 0 → ∃ t, exec (.resetacc c) s = .next t ∧ ShootsDown s t h c.ia e c .resetacc)
        ∧ (e.mst = 0 → e.lcnt ≠ 0 →
            (∃ t, exec (.unmap c) s = .next t ∧ t.mem = s.mem ∧ t.entry? h c.ia = some { e with mst := 3 })
            ∧ (e.loc ≠ 0 → ∃ t, exec (.evict c) s = .next t ∧ t.mem = s.mem ∧ t.entry? h c.ia = some { e with mst := 4 }))
        ∧ (e.mst = 0 → e.loc = 0 → ends (.evict c) 4 0 0)
        ∧ (e.mst = 0 → e.loc = 1 ∨ e.loc = 2 → frLoc c.fra = 1 ∨ frLoc c.fra = 2 → s.frameOk h c.fra c.ia = true → s.copies h < 64 →
            ∃ t p, exec (.migrate c) s = .next t ∧ t.mem = s.mem ∧ t.entry? h c.ia = some { e with mst := 1 } ∧ t.pageop? h c.ia = some p
              ∧ p.cmd = some c ∧ p.copy = some 0 ∧ p.wait = false ∧ .migrationSectorCopy h (pageOf c.ia) ∈ t.pending)
        ∧ (e.mst ≠ 5 → s.bufOk c.fn buf 32 = true → s.devHeld c.fn buf 32 = false → ends (.probe c) 0 1 0
            ∧ ∀ d, s.devEntry? c.fn buf = some d → d.mst ≠ 1 → s.pageHeld d buf 32 = false → full → buf % 64 ≤ 32 →
              ∃ t, exec (.probe c) s = .next t ∧ MemWrote s t (d.key buf) (bytesOf e.words)))
      ∧ (∀ e, c.cnt = 1 → s.fnEntry c.fn c.ia = some e → s.entry? e.home c.ia = some e → e.mst ≠ 5 → s.bufOk c.fn buf 4 = true → s.devHeld c.fn buf 4 = false →
          ends (.heatread c) 0 1 0
          ∧ (∃ t, exec (.heatread c) s = .next t
              ∧ t.fnEntry c.fn c.ia = some { e with heat := if c.clr then 0 else if c.halve then e.heat / 2 else e.heat })
          ∧ ∀ d, s.devEntry? c.fn buf = some d → d.mst ≠ 1 → s.pageHeld d buf 4 = false → full → buf % 64 ≤ 60 →
              ∃ t, exec (.heatread c) s = .next t ∧ MemWrote s t (d.key buf) (leBytes 4 (heatRecord (some e)))))
    ∧ (∀ e p, s.cmdBehind c = false → s.cmdBad c = none → s.cmdEntry c h = some e → s.pageop? h c.ia = some p →
        (e.mst ≠ 0 → ends (.evict c) 3 0 0 ∧ ends (.migrate c) 3 0 0 ∧ ends (.resetacc c) 3 0 0)
        ∧ (e.mst = 2 → p.cmd = none →
          (s.frameOk h c.fra c.ia = true → frLoc c.fra ≠ 0 → c.zero = true ∨ (s.frameOk h c.frb c.ia = true ∧ frLoc c.frb ≠ 0) →
            ∃ t, exec (.fill c) s = .next t ∧ t.mem = s.mem ∧ t.pageop? h c.ia = some { p with cmd := some c, copy := some 0 }
              ∧ .fillCopyDone h c.ia ∈ t.pending)
          ∧ (∃ t, exec (.refuse c) s = .next t ∧ Reported s t c 0 1 0 ∧ t.entry? h c.ia = some { e with mst := 0 }
              ∧ ∀ l ∈ p.held, .leaseRefused l ∈ t.pending)))

/-- R62, R67 to R76: a copy moves by sectors and then the entry names the new frame; a filled page holds its source and lets what waits go on;
a page flush drops every copy of the page in its die, and with the last acknowledgement an unmapped entry is gone, an evicted one has no frame
and a reset one no accesses. A row under retirement is switched to a free spare, which the persistent list then holds; without a spare each entry
of its frames is reported to the control complex.
The model's choices it rests on: log entries 55, 96. -/
def Obligations.PagesMove : Prop :=
  ∀ (s : State) (h : HomeId) (x : Home) (ia : Nat), s.Inv → s.home? h = some x →
    (∀ p e, (s.pageops.find? fun p => decide (p.home = h) && p.wait) = some p → s.copies h < 64 → p.ia = pageOf p.ia → s.entry? h p.ia = some e →
      ∃ t, exec (.migrationSlotStart h) s = .next t ∧ t.mem = s.mem ∧ t.entry? h p.ia = some { e with mst := 1 }
        ∧ .migrationSectorCopy h p.ia ∈ t.pending)
    ∧ (∀ p e c k, s.pageop? h ia = some p → s.entry? h ia = some e → p.cmd = some c → p.copy = some k →
      let done := { e with loc := frLoc c.fra, faddr := frAddr c.fra, mst := 0 }
      let dst := e.inFrame c.fra
      let src := e.inFrame c.frb
      (e.mst = 1 → p.wait = false →
        (64 * k < pageSize ia → s.copyHeld e dst (e.ia + 64 * k) 64 = true →
          exec (.migrationSectorCopy h ia) s = .next { s with pending := s.pending ++ [.migrationSectorCopy h ia] })
        ∧ (64 * k < pageSize ia → s.copyHeld e dst (e.ia + 64 * k) 64 = false → s.poison.contains (e.key (e.ia + 64 * k) / 64) = false →
          ∃ t, exec (.migrationSectorCopy h ia) s = .next t ∧ MemWrote s t (dst.key (e.ia + 64 * k)) (s.memRead (e.key (e.ia + 64 * k)) 64)
            ∧ t.pageop? h ia = some { p with copy := some (k + 1) } ∧ .migrationSectorCopy h ia ∈ t.pending)
        ∧ (pageSize ia ≤ 64 * k → ∃ t, exec (.migrationSectorCopy h ia) s = .next t ∧ t.entry? h ia = some done
            ∧ Reported s t c 0 1 e.frame ∧ .migrationSlotStart h ∈ t.pending))
      ∧ (e.mst = 2 → s.copyHeld (if c.zero then dst else src) dst e.ia (pageSize ia) = true →
          exec (.fillCopyDone h ia) s = .next { s with pending := s.pending ++ [.fillCopyDone h ia] })
      ∧ (e.mst = 2 → s.copyHeld (if c.zero then dst else src) dst e.ia (pageSize ia) = false →
          (c.zero = true ∨ ∀ q ∈ s.poison, inSpan q (src.key e.ia) (pageSize ia) = false) →
          (p.held = [] → ∃ t, exec (.fillCopyDone h ia) s = .next t ∧ t.entry? h ia = some done ∧ Reported s t c 0 1 0
            ∧ ∀ f, s.fn? c.fn = some f → ringOn f.hcc = false ∨ 2 ^ ringLog f.hcc ≤ f.hccpi.toNat - f.hccci.toNat → ∀ i < pageSize ia,
                t.memByte (dst.key e.ia + i) = if c.zero then 0 else s.memByte (src.key e.ia + i))
          ∧ (∀ l, p.held = [l] → AsksOne l h ia → l.blk.ctx ∉ x.dead → e.serves l.blk.ctx = true → frLoc c.fra ≠ 0 → s.blkPins l ≤ pinMax →
              x.pins < pinMax → ∃ t, exec (.fillCopyDone h ia) s = .next t ∧ .leaseGrantReceived l ∈ t.pending)))
    ∧ (∀ p pkg die d, s.pageop? h ia = some p → s.die? pkg die = some d → (pkg, die) ∈ p.acks →
        ∃ t d', exec (.pageFlush h ia pkg die) s = .next t ∧ t.mem = s.mem ∧ .shootDownAck h ia pkg die ∈ t.pending
          ∧ t.die? pkg die = some d' ∧ (∀ y ∈ d'.l2, pageOf y.ia ≠ pageOf ia) ∧ (∀ y ∈ d'.pins, pageOf y.1 ≠ pageOf ia)
          ∧ ∀ k ∈ t.cores, k.id.pkg = pkg → k.id.die = die → ∀ y ∈ k.l1, pageOf y.ia ≠ pageOf ia)
    ∧ (∀ p e c d, s.pageop? h ia = some p → s.entry? h ia = some e → p.cmd = some c → d ∈ p.acks →
        let rest := p.acks.filter fun y => y != d
        (rest ≠ [] → ∃ t, exec (.shootDownAck h ia d.1 d.2) s = .next t ∧ t.mem = s.mem ∧ t.entries = s.entries
          ∧ t.pageop? h ia = some { p with acks := rest })
        ∧ (rest = [] → ∃ t, exec (.shootDownAck h ia d.1 d.2) s = .next t ∧ (∀ r ∈ p.reqs, r.atHome ∈ t.pending)
            ∧ (∀ l, p.shoot = some .unmap → p.held = [l] → AsksOne l h ia → l.blk.ctx ∉ x.dead → .leaseRefused l ∈ t.pending))
        ∧ (rest = [] → p.held = [] → ∃ t, exec (.shootDownAck h ia d.1 d.2) s = .next t
            ∧ (p.shoot = some .unmap → t.entry? h ia = none ∧ Reported s t c 0 1 e.frame)
            ∧ (p.shoot = some .evict → t.entry? h ia = some { e with loc := 0, faddr := 0, acc := 0, d := false, rpf := 0, mst := 0 }
                ∧ Reported s t c 0 1 e.frame)
            ∧ (p.shoot = some .resetacc → t.entry? h ia = some { e with acc := 0, d := false, rpf := 0, mst := 0 } ∧ Reported s t c 0 1 0)))
    ∧ (∀ fn f ci, s.fn? fn = some f → f.prqWait = [] → ∃ t, exec (.prqciWrite fn ci) s = .next t ∧ t.mem = s.mem
        ∧ t.fn? fn = some { f with prqci := BitVec.ofNat 64 ci })
    ∧ (∀ r bad, r.home = h →
        ((∃ y ∈ x.rows, y.row = r) → exec (.rowRetirementOrder r bad) s = .next s)
        ∧ ((∀ y ∈ x.rows, y.row ≠ r) → x.bankSpares r < 8 → x.remap.length + x.rows.length < 4096 →
            ∃ t, exec (.rowRetirementOrder r bad) s = .next t ∧ t.mem = s.mem
              ∧ t.home? h = some { x with rows := x.rows ++ [⟨r, bad, []⟩] } ∧ .rowRemapSwitch r ∈ t.pending)
        ∧ ((∀ y ∈ x.rows, y.row ≠ r) → 8 ≤ x.bankSpares r ∨ 4096 ≤ x.remap.length + x.rows.length →
            ∃ t y, exec (.rowRetirementOrder r bad) s = .next t ∧ t.home? h = some y
              ∧ (∀ k ∈ stackSectors h bad, k ∈ t.poison ∧ k ∈ y.failing)
              ∧ y.remap = x.remap ∧ (y.rows.map fun z => z.row) = x.rows.map (fun z => z.row)
              ∧ ∀ e ∈ s.entries, e.touchesRow r = true →
                let lp := match s.fn? (fnOf e.owner) with | some f => f.logical h.pkg | none => 0
                .retire h.pkg [BitVec.ofNat 64 e.ia, e.swc, BitVec.ofNat 64 (e.owner + h.stack * 2 ^ 16 + lp * 2 ^ 20 + 2 * 2 ^ 32), e.frame]
                  ∈ t.outbox)
        ∧ (∀ o i, (x.rows.find? fun y => decide (y.row = r)) = some o → x.freeSpare = some i →
            ∃ t y, exec (.rowRemapSwitch r) s = .next t ∧ t.mem = s.mem ∧ t.home? h = some y ∧ y.remap = (r, i) :: x.remap
              ∧ y.rows = delFirst (fun z => decide (z.row = r)) x.rows ∧ (∀ q ∈ o.held, q.atHome ∈ t.pending)
              ∧ .retiredRowPersist h.pkg r ∈ t.pending)
        ∧ (∀ p y, s.pkg? h.pkg = some p → (x.remap.find? fun z => decide (z.1 = r)) = some y →
            let other := if p.writesA then p.listB else p.listA
            ∃ t v, let new : RowList := ⟨other.seq + 1, y :: other.entries.filter (fun z => z != y), v⟩
              exec (.retiredRowPersist h.pkg r) s = .next t ∧ t.mem = s.mem
              ∧ t.pkg? h.pkg = some (if p.writesA then { p with listA := new } else { p with listB := new })
              ∧ (v ≠ none → listValid h.pkg new = true) ∧ (v = none → .retiredRowPersist h.pkg r ∈ t.pending)))

/-! ## Packages, functions, contexts (R12 to R24, R47, R76, R77, R138 to R140, R383 to R393) -/

/-- R12, R17, R19, R24, R76, R77, R390, R391, R393: a boot whose images verify brings the package up with its cores, dies and homes, its
memory empty and its retired rows applied; one that fails stops at its step, with the digests it has taken, and reports. Loss of power leaves the row lists alone.
Attestation reports the measurements; frequency, link and lane events change the one register each; a package without heartbeat is
fenced.
The model's choices it rests on: log entries 4, 5, 81, 82, 84. -/
def Obligations.PackagesComeAndGo : Prop :=
  ∀ (s : State) (pkg : Nat) (p : Pkg), s.pkg? pkg = some p →
    let cleared := fun (t : State) => ∀ a, t.memByte a = if keyInPkg pkg a then 0 else s.memByte a
    let came := fun (t : State) (q : Pkg) (l : RowList) (cfg : BootCfg) => t.pkg? pkg = some q ∧ q.up = true ∧ q.fault = none
      ∧ q.meas = cfg.digests.take 16 ∧ q.joined = cfg.joined
      ∧ q.coreMap = (cfg.enabled.zip cfg.fwCore).map (fun x => workers x.1 x.2)
      ∧ (∀ d < 4, t.die? pkg d = some (Die.new pkg d) ∧ ∀ i < 49, t.core? ⟨pkg, d, i⟩ = some (Core.new ⟨pkg, d, i⟩ s.seq))
      ∧ ∀ k < 16, t.home? ⟨pkg, k⟩ = some (Home.new cfg.xstcap l ⟨pkg, k⟩)
    let stops := fun (cfg : BootCfg) (step code n : Nat) => ∃ t q, exec (.packageBoot pkg cfg) s = .next t ∧ t.pkg? pkg = some q ∧ q.up = false
      ∧ q.fault = some step ∧ q.meas = cfg.digests.take n ∧ q.listA = p.listA ∧ q.listB = p.listB ∧ .report pkg code ∈ t.outbox ∧ cleared t
    (pkg < 144 → ∀ cfg,
      (cfg.badImage = some 0 → stops cfg 1 1 0)
      ∧ (∀ k, cfg.badImage = some (k + 1) → stops cfg 2 2 (k + 1))
      ∧ (cfg.badImage = none →
        (cfg.hbmOk = false → stops cfg 2 2 16)
        ∧ (cfg.hbmOk = true → p.rowList = none → stops cfg 2 0x77 16)
        ∧ (∀ l, cfg.hbmOk = true → p.rowList = some l →
          (BootCfgOk cfg = false → stops cfg 3 3 16)
          ∧ (BootCfgOk cfg = true → cfg.joinOk = false → stops cfg 4 4 16)
          ∧ (BootCfgOk cfg = true → cfg.joinOk = true → cfg.portOk = false → stops cfg 5 5 16)
          ∧ (BootCfgOk cfg = true → cfg.joinOk = true → cfg.portOk = true →
            ∃ t q, exec (.packageBoot pkg cfg) s = .next t ∧ came t q l cfg ∧ q.listA = p.listA ∧ q.listB = p.listB ∧ cleared t
              ∧ (s.fns = [] → t.fns = (List.range 64).map Fn.new)))))
    ∧ (∀ cfg l, p.boot = some cfg → p.fault = some 2 → p.rowList = none → listValid pkg l = true → cfg.badImage = none → cfg.hbmOk = true →
        BootCfgOk cfg = true → cfg.joinOk = true → cfg.portOk = true →
        ∃ t q, exec (.signedListRestore pkg l) s = .next t ∧ t.mem = s.mem ∧ t.pkg? pkg = some q ∧ q.up = true ∧ q.fault = none
          ∧ q.listA = l ∧ q.meas = cfg.digests.take 16)
    ∧ (∃ t, exec (.powerLoss pkg) s = .next t ∧ cleared t ∧ t.pkg? pkg = some { Pkg.atReset pkg with listA := p.listA, listB := p.listB }
        ∧ (∀ w ∈ t.waves, w.core.pkg ≠ pkg) ∧ (∀ e ∈ t.entries, e.home.pkg ≠ pkg) ∧ ∀ k ∈ t.cores, k.id.pkg ≠ pkg)
    ∧ (∀ nonce, p.up = true → ∃ t sig, exec (.attestationRequest pkg nonce) s = .next t ∧ t.mem = s.mem ∧ sig.length = 2420
        ∧ t.outbox = s.outbox ++ [.attestation pkg (p.attested nonce ++ sig)])
    ∧ (∀ island mhz, island < 16 → 0 < mhz → mhz ≤ 3000 → ∃ t q, exec (.frequencyChange pkg island mhz) s = .next t ∧ t.mem = s.mem
        ∧ t.pkg? pkg = some q ∧ q = { p with mhz := q.mhz, volt := q.volt } ∧ ∀ i, q.mhz.get 3000 i = if i = island then mhz else p.mhz.get 3000 i)
    ∧ (∀ d1 d2, neighbours d1 d2 = true → ∃ t q, exec (.neighbourLinkFailure pkg d1 d2) s = .next t ∧ t.mem = s.mem ∧ t.pkg? pkg = some q
        ∧ ((d1, d2) ∈ q.links ∨ (d2, d1) ∈ q.links) ∧ q = { p with links := q.links })
    ∧ (∀ lane, lane < 72 → lane ∉ p.lanes → ∃ t, exec (.laneFailure pkg lane) s = .next t ∧ t.mem = s.mem
        ∧ t.pkg? pkg = some { p with lanes := p.lanes ++ [lane] } ∧ t.outbox = s.outbox ++ [.report pkg 0x13]
        ∧ (p.lanes.length = 71 → .heartbeatMiss pkg ∈ t.pending))
    ∧ (s.jobsOf pkg = [] → pkg ∉ s.rack.lost → ∃ t, exec (.heartbeatMiss pkg) s = .next t ∧ t.mem = s.mem ∧ pkg ∈ t.rack.lost
        ∧ t.pkg? pkg = some { p with failed := true } ∧ (pkg % 4 = 0 → .trayStandbyTakeover (pkg / 4) ∈ t.pending))

/-- R5, R383, R384, R387, R388: a write of a function register changes it or sets its event off, and a ring register is left alone while its
ring is in use; the partition mask is taken while the function has no context. A function without a context is reset at once. A host write
through BAR2 lands at the page that serves it; a host read is answered with its bytes, or as an unsupported request.
The model's choices it rests on: log entries 80, 83. -/
def Obligations.FunctionsAnswerTheHost : Prop :=
  ∀ (s : State) (fn : Nat) (f : Fn), s.fn? fn = some f →
    let put := fun (off : Nat) (v : W64) (g : Fn) => ∃ t, exec (.functionRegisterWrite fn off v) s = .next t ∧ t.mem = s.mem
      ∧ t.fn? fn = some g ∧ t.pending = s.pending
    let sets := fun (off : Nat) (v : W64) (e : Instr) =>
      exec (.functionRegisterWrite fn off v) s = .next { s with pending := s.pending ++ [e] }
    let w := fun (off : Nat) => f.window off
    (∀ v : W64,
      put 0x0008 v { f with ctxtab := v &&& 0x00FFFFFFFFFFE000#64, tabWr := true }
      ∧ (v.extractLsb' 10 2 = 1#2 → sets 0x0010 v (.ctxcmdCreate fn (v.extractLsb' 0 10).toNat))
      ∧ (v.extractLsb' 10 2 = 2#2 → sets 0x0010 v (.ctxcmdTeardown fn (v.extractLsb' 0 10).toNat))
      ∧ put 0x0020 v (if f.hcqpi = f.hcqci then { f with hcq := v &&& 0x00FFFFFFFFFFF01F#64 } else f)
      ∧ (∃ t, exec (.functionRegisterWrite fn 0x0028 v) s = .next t ∧ t.mem = s.mem ∧ t.fn? fn = some { f with hcqpi := v }
          ∧ t.pending = s.pending ++ [.homeCommandDoorbell fn v.toNat])
      ∧ (f.hccWait = [] → put 0x0038 v (if f.hccpi = f.hccci then { f with hcc := v &&& 0x00FFFFFFFFFFF01F#64 } else f))
      ∧ (f.hccWait = [] → put 0x0048 v { f with hccci := v })
      ∧ (f.prqWait = [] → put 0x0050 v (if f.prqpi = f.prqci then { f with prq := v &&& 0x00FFFFFFFFFFF01F#64 } else f))
      ∧ (f.prqWait = [] → put 0x0060 v { f with prqci := v })
      ∧ put 0x0068 v { f with barwin := v &&& 0x00FFFFFFFFFF03FF#64 }
      ∧ sets 0x0100 v (.queueDoorbell fn (v.extractLsb' 0 10).toNat (v.extractLsb' 10 6).toNat (v.extractLsb' 16 32).toNat)
      ∧ (∀ off ∈ [0x0000, 0x0018, 0x0030, 0x0040, 0x0058], exec (.functionRegisterWrite fn off v) s = .next s))
    ∧ (∀ mask, (s.liveCtxs [fn] = [] → ∃ t, exec (.fpartWrite fn mask) s = .next t ∧ t.mem = s.mem
          ∧ t.fn? fn = some { f with fpart := mask, hmap := [] })
        ∧ (s.liveCtxs [fn] ≠ [] → exec (.fpartWrite fn mask) s = .next s))
    ∧ (fn = 0 → ∀ j g i v, s.fn? j = some g → j < 64 → i < 9 → s.liveCtxs [j] = [] →
        ∃ t, exec (.functionRegisterWrite 0 (0x2400 + 72 * j + 8 * i) v) s = .next t ∧ t.mem = s.mem
          ∧ t.fn? j = some { g with fpart := maskPut g.fpart i v, hmap := [] })
    ∧ (fn ≠ 0 → (s.liveCtxs [fn] = [] → ∃ t, exec (.functionLevelReset fn) s = .next t ∧ t.mem = s.mem ∧ t.fn? fn = some f.reset)
        ∧ (s.liveCtxs [fn] ≠ [] → (s.ctxs.map (·.id)).Nodup → ∃ t, exec (.functionLevelReset fn) s = .next t ∧ .functionLevelReset fn ∈ t.pending
            ∧ ∀ c ∈ t.ctxs, fnOf c.id = fn → c.life ≠ .live))
    ∧ (∀ pkg p, fn = 0 → s.pkg? pkg = some p → exec (.hotReset pkg) s = .next { s with pending := s.pending ++ [.functionLevelReset 0] })
    ∧ (∀ req off bytes, off + bytes.length ≤ 2 ^ 36 → s.hostWrites req = [] → bytes ≠ [] →
        (∀ e, s.hostLook (w off).1 (w off).2 bytes.length = .ok [((w off).2, bytes.length, e)] → e.mst ≠ 1 →
          ∃ t, exec (.hostBar2Write ⟨req, fn⟩ off bytes) s = .next t ∧ MemWrote s t (e.key (w off).2) bytes ∧ t.fn? fn = some f)
        ∧ (s.hostLook (w off).1 (w off).2 bytes.length = .refused →
          ∃ t, exec (.hostBar2Write ⟨req, fn⟩ off bytes) s = .next t ∧ t.mem = s.mem ∧ t.fn? fn = some f ∧ t.outbox = s.outbox ++ [.unsupported fn 0]))
    ∧ (∀ req off bytes, 2 ^ 36 < off + bytes.length →
        exec (.hostBar2Write ⟨req, fn⟩ off bytes) s = .next { s with outbox := s.outbox ++ [.unsupported fn 0] })
    ∧ (∀ req off size tag, off + size ≤ 2 ^ 36 →
        (s.hostWrites req ≠ [] → exec (.hostBar2Read ⟨req, fn⟩ off size tag) s = .next { s with pending := s.pending ++ [.hostBar2Read ⟨req, fn⟩ off size tag] })
        ∧ (s.hostWrites req = [] →
          (∀ l, s.hostLook (w off).1 (w off).2 size = .ok l → ∃ t out bad, exec (.hostBar2Read ⟨req, fn⟩ off size tag) s = .next t ∧ t.mem = s.mem
            ∧ t.outbox = s.outbox ++ out ++ [.completion fn tag (l.flatMap fun p => s.memRead (p.2.2.key p.1) p.2.1) bad]
            ∧ ((∀ p ∈ l, p.2.2.loc = 1) → out = [])
            ∧ (bad = true ↔ ∃ p ∈ l, p.2.2.key p.1 / 64 ∈ s.poison))
          ∧ (s.hostLook (w off).1 (w off).2 size = .held →
            exec (.hostBar2Read ⟨req, fn⟩ off size tag) s = .next { s with pending := s.pending ++ [.hostBar2Read ⟨req, fn⟩ off size tag] })
          ∧ (s.hostLook (w off).1 (w off).2 size = .refused →
            exec (.hostBar2Read ⟨req, fn⟩ off size tag) s = .next { s with outbox := s.outbox ++ [.unsupported fn tag] })))
    ∧ (∀ req off size tag, 2 ^ 36 < off + size →
        exec (.hostBar2Read ⟨req, fn⟩ off size tag) s = .next { s with outbox := s.outbox ++ [.unsupported fn tag] })

/-- R7, R73, R138 to R140, R383, R385: CTXCMD creates a context from its descriptor, once CTXTAB has been written, or answers why not; its teardown stops the launches, then at
every core its waves exit and what it holds there goes, then every home rejects it, and with the last one it is dead.
The model's choices it rests on: log entries 77, 78, 79. -/
def Obligations.ContextsLiveAndDie : Prop :=
  ∀ (s : State) (fn n : Nat) (f : Fn), s.fn? fn = some f → n < 1024 →
    let id := fn * 1024 + n
    let desc := (f.ctxtab.extractLsb' 13 43).toNat * 8192 + 8192 * n
    let answers := fun (i : Instr) (st : Nat) => ∃ t, exec i s = .next t ∧ t.mem = s.mem ∧ t.fn? fn = some { f with
      ctxst := ((f.ctxst &&& 0x8000000000000000#64) ^^^ 0x8000000000000000#64) ||| BitVec.ofNat 64 (n + st * 1024) }
    let clean := (∀ b ∈ s.blks, b.id.ctx ≠ id) ∧ ∀ w ∈ s.allWaves, w.id.blk.ctx ≠ id
    let up := ∀ d ∈ f.dies, ∃ p, s.pkg? d.2.1 = some p ∧ p.up = true ∧ p.failed = false
    (s.ctx? id = none →
      (clean → f.dies ≠ [] → up →
        (f.tabWr = false → answers (.ctxcmdCreate fn n) 1)
        ∧ (∀ bs, f.tabWr = true → s.devHeld fn desc 8192 = false → s.devRead fn desc 8192 = some bs →
          let ok := s.descOk fn (newCtx id desc f.dies bs) bs
          answers (.ctxcmdCreate fn n) (if ok then 0 else 1)
          ∧ ∃ t, exec (.ctxcmdCreate fn n) s = .next t ∧ t.ctx? id = if ok then some (newCtx id desc f.dies bs) else none)
        ∧ (s.devHeld fn desc 8192 = false → s.devRead fn desc 8192 = none → answers (.ctxcmdCreate fn n) 1)
        ∧ (f.tabWr = true → s.devHeld fn desc 8192 = true →
          exec (.ctxcmdCreate fn n) s = .next { s with pending := s.pending ++ [.ctxcmdCreate fn n] }))
      ∧ answers (.ctxcmdTeardown fn n) 1)
    ∧ (∀ c, s.ctx? id = some c →
      (c.life ≠ .dead → answers (.ctxcmdCreate fn n) 2)
      ∧ (c.life = .dead → answers (.ctxcmdTeardown fn n) 1)
      ∧ (c.life ≠ .dead → c.life ≠ .live → c.auto = false → answers (.ctxcmdTeardown fn n) 2)
      ∧ (c.life = .live → s.coresOf c ≠ [] → ∃ t c', exec (.ctxcmdTeardown fn n) s = .next t ∧ t.mem = s.mem ∧ t.ctx? id = some c'
          ∧ c'.life = .stopping ∧ (∀ l ∈ c'.launches, l.ended = true) ∧ c'.parked = [] ∧ c'.trig = []
          ∧ (∀ d ∈ t.dies, ∀ i ∈ d.list, i.ctx ≠ id) ∧ ∀ k ∈ s.coresOf c, .coreRevocation id k ∈ t.pending)
      ∧ (∀ k, c.life = .stopping ∨ c.life = .revoking → k ∈ s.coresOf c → k ∉ c.revoked → (s.allWaves.map (·.id)).Nodup →
          (∀ y ∈ s.ctxs, ∀ q ∈ y.parked, q.task.ctx ≠ id) → (∃ x, s.core? k = some x) →
          ∃ t, exec (.coreRevocation id k) s = .next t
            ∧ (∀ w ∈ t.allWaves, w.id.blk.ctx = id → w.core = k → w.run = .halted ∧ w.exited = 0xFFFFFFFF#32)
            ∧ (∀ y, t.core? k = some y → (∀ r ∈ y.deque, r.ctx ≠ id) ∧ ∀ b ∈ y.wc, b.ctx ≠ id)
            ∧ ((∃ q ∈ s.coresOf c, q ≠ k ∧ q ∉ c.revoked) → ∃ c', t.ctx? id = some c' ∧ c'.life = .revoking ∧ k ∈ c'.revoked)
            ∧ ((∀ q ∈ s.coresOf c, q = k ∨ q ∈ c.revoked) → ∀ h ∈ s.homesOf c, .contextRejection id h ∈ t.pending))
      ∧ (∀ h x, c.life = .rejecting → s.home? h = some x → id ∉ x.dead →
          ∃ t x', exec (.contextRejection id h) s = .next t ∧ t.home? h = some x' ∧ id ∈ x'.dead
            ∧ (∀ c', (∀ g ∈ s.homesOf c, g ≠ h → ∀ y, s.home? g = some y → id ∈ y.dead) → t.ctx? id = some c' → c'.life = .dead)))

/-! ## Queues and distributors (R96, R97, R339 to R357, R386) -/

/-- R96, R339 to R342, R353, R356, R371, R372, R386: a doorbell sets the write index, or is answered with a record. Each packet, at its turn
in a live queue, has its effect and advances the read index: a LAUNCH enters its record and hands blocks down, or fails with its record; a
SIGNAL fires when the launches before it have ended, writes its word and raises its interrupt; WAIT and BARRIER-AND hold the queue until their
conditions are met, and one whose address fails is complete as met, with one record; PHASE begins a phase; BIND and UNBIND make and remove a binding; LEASE-HINT asks for pages; an invalid packet is
recorded.
The model's choices it rests on: log entries 56, 57, 58, 59. -/
def Obligations.QueuePackets : Prop :=
  ∀ (s : State) (p : Packet) (c : Ctx) (x : Queue), s.ctx? p.ctx = some c → c.queue? p.q = some x →
    let fn := fnOf p.ctx
    let ri := (x.ri + 1) % 2 ^ 32
    let home := s.devPut fn (c.desc + 640 + 32 * p.q + 16) (BitVec.ofNat 64 ri)
    let after := fun (i : Instr) (P : State → Ctx → Queue → Prop) => ∃ t c' x', exec i s = .next t ∧ t.ctx? p.ctx = some c'
      ∧ c'.queue? p.q = some x' ∧ P t c' x'
    let recorded := fun (t : State) (typ : Nat) => ∃ r, .trapRecordPost p.ctx r ∈ t.pending ∧ r.code = 0x17 ∧ r.sub = typ
      ∧ r.addr = BitVec.ofNat 64 p.q
    let cond := fun (k : Nat) => (p.w (1 + 2 * k), p.w (2 + 2 * k))
    let raised := fun (t : State) => ∀ f, s.fn? fn = some f → p.f 0 28 1 = 1 →
      (f.masked (p.f 0 18 10) = false → .msix fn (p.f 0 18 10) ∈ t.outbox)
      ∧ (f.masked (p.f 0 18 10) = true → ∃ g, t.fn? fn = some g ∧ p.f 0 18 10 ∈ g.pba)
    (∀ f wi, s.fn? fn = some f → c.life = .live →
      ((wi % 2 ^ 32 + 2 ^ 32 - x.ri) % 2 ^ 32 ≤ 2 ^ x.logs →
        after (.queueDoorbell fn (p.ctx % 1024) p.q wi) fun t _ x' => t.mem = s.mem ∧ x' = { x with wi := wi % 2 ^ 32 })
      ∧ (2 ^ x.logs < (wi % 2 ^ 32 + 2 ^ 32 - x.ri) % 2 ^ 32 →
        after (.queueDoorbell fn (p.ctx % 1024) p.q wi) fun t _ x' => t.mem = s.mem ∧ x' = x ∧ recorded t 0))
    ∧ (c.life = .live → x.ri = p.slot → x.hold = [] →
      after (.invalidPacket p) (fun t _ x' => x' = { x with ri := ri } ∧ recorded t (p.f 0 0 8))
      ∧ after (.phase p) (fun _ _ x' => x' = { x with ri := ri, phase := (x.phase + 1) % 2 ^ 32 })
      ∧ (let iv : Interval := ⟨p.f 1 57 2, p.f 1 0 57, p.f 2 0 32, false⟩
         after (.leaseHint p) fun t _ x' => x' = { x with ri := ri }
          ∧ (∀ ls, s.leaseReqs c ⟨c.id, false, 0, 0⟩ 0 0 iv = .ok ls → ∀ l ∈ ls, .leaseRequest { l with hint := true } ∈ t.pending)
          ∧ (∀ va, s.leaseReqs c ⟨c.id, false, 0, 0⟩ 0 0 iv = .error va → recorded t 6))
      ∧ (let open_ := (c.launches.filter fun l => l.q == p.q && !l.ended).map (·.id)
         after (.signal p) fun t _ x' => (open_ = [] → x' = { x with ri := ri } ∧ .signalFire p ∈ t.pending)
          ∧ (open_ ≠ [] → x' = { x with ri := ri, sigs := x.sigs ++ [(p, open_)] }))
      ∧ (c.queuePkg ∉ c.off → (∀ k < 3, s.vaHeld p.ctx (cond k).1 8 .load = false) →
        let gone := { x with ri := ri, held := p.f 0 0 8, met := false }
        let held := fun (h : List (W64 × W64)) => { x with ri := ri, held := p.f 0 0 8, met := false, hold := h }
        (home.condition p.ctx (cond 0) = some true → after (.wait p) fun _ _ x' => x' = gone)
        ∧ (home.condition p.ctx (cond 0) = some false → after (.wait p) fun _ _ x' => x' = held [cond 0])
        ∧ (home.condition p.ctx (cond 0) = none → after (.wait p) fun t _ x' => x' = gone ∧ recorded t (p.f 0 0 8))
        ∧ ((∀ k < p.f 0 16 2, home.condition p.ctx (cond k) = some true) → 0 < p.f 0 16 2 →
            after (.barrierAnd p) fun _ _ x' => x' = gone)
        ∧ ((∀ k < p.f 0 16 2, home.condition p.ctx (cond k) ≠ none) → (∃ k < p.f 0 16 2, home.condition p.ctx (cond k) = some false) →
            after (.barrierAnd p) fun _ _ x' => x' = held ((List.range (p.f 0 16 2)).map cond))
        ∧ ((∃ k < p.f 0 16 2, home.condition p.ctx (cond k) = none) →
            after (.barrierAnd p) fun t _ x' => x' = gone ∧ recorded t (p.f 0 0 8)))
      ∧ (let b := s.bindingOf p
         after (.bind p) fun t c' x' => x' = { x with ri := ri } ∧ (s.bindOk c b = true → c'.binds = c.binds ++ [b])
          ∧ (s.bindOk c b = false → c'.binds = c.binds ∧ recorded t 5))
      ∧ (p.f 0 8 8 = 0 → p.f 0 32 20 = 0 → p.f 0 53 11 = 0 → p.zeros 1 8 = true →
        (∀ b, c.bind? (p.f 0 16 16) = some b →
          (b.failed = true ∨ s.bindIdle p.ctx b = true →
            after (.unbind p) fun _ c' x' => x' = { x with ri := ri } ∧ c'.binds = c.binds.filter fun y => y.buf != p.f 0 16 16)
          ∧ (b.failed = false → s.bindIdle p.ctx b = false → exec (.unbind p) s = .next { s with pending := s.pending ++ [.unbind p] }))
        ∧ (c.bind? (p.f 0 16 16) = none → after (.unbind p) fun t c' x' => x' = { x with ri := ri } ∧ c'.binds = c.binds ∧ recorded t 5))
      ∧ (4 ≤ x.unread →
        let l := Launch.ofPacket c x p
        let read := { x with ri := (x.ri + 4) % 2 ^ 32, nread := x.nread + 1 }
        let bad := l.dep ≠ 0 ∧ ∃ k, l.prev.bind c.launch? = some k ∧ k.bad = true
        (l.valid c = true → l.dep = 0 → c.preempting = false → (∀ o ∈ s.ops, o.ctx = p.ctx → ∀ w, o.ins ≠ .tagwait w) → after (.launch p) fun t c' x' => x' = read ∧ c'.nlaunch = c.nlaunch + 1
          ∧ (∃ l', l' ∈ c'.launches ∧ l' = { l with fallback := l'.fallback }) ∧ .drrRound ∈ t.pending)
        ∧ (l.valid c = false → after (.launch p) fun t c' x' => x' = read ∧ c'.launches = c.launches ++ [{ l with nblk := 0, bad := true, ended := true }]
          ∧ ∃ r, .trapRecordPost p.ctx r ∈ t.pending ∧ r.code = 0x18 ∧ r.sub = 0 ∧ r.lser = l.lser)
        ∧ (l.valid c = true → bad → ∃ t r, exec (.launch p) s = .next t ∧ .trapRecordPost p.ctx r ∈ t.pending ∧ r.code = 0x18 ∧ r.sub = 1
          ∧ r.lser = l.lser)))
    ∧ (c.life = .live → c.queuePkg ∉ c.off →
      (s.vaHeld p.ctx (p.w 1) 8 .store = true → exec (.signalFire p) s = .next { s with pending := s.pending ++ [.signalFire p] })
      ∧ (∀ r ia e, s.vaHeld p.ctx (p.w 1) 8 .store = false → p.f 0 16 1 = 0 → s.ctxAt p.ctx (p.w 1) 8 .store = .ok (r, ia) → s.engFind p.ctx ⟨ia, r⟩ 8 true 2 = .ok [(ia, 8, e)] →
        e.mst ≠ 1 → ∃ t, exec (.signalFire p) s = .next t ∧ MemWrote s t (e.key ia) (leBytes 8 (p.w 2).toNat) ∧ raised t)
      ∧ (∀ r ia e, s.vaHeld p.ctx (p.w 1) 8 .store = false → p.f 0 16 1 = 1 → s.ctxAt p.ctx (p.w 1) 8 .atomic = .ok (r, ia) → s.homeFind p.ctx (s.homeAt p.ctx r ia) ia = .ok e →
        s.poison.contains (e.key ia / 64) = false → e.mst ≠ 1 →
        ∃ t, exec (.signalFire p) s = .next t ∧ MemWrote s t (e.key ia) (leBytes 8 (leVal (s.memRead (e.key ia) 8) + (p.w 2).toNat)) ∧ raised t)
      ∧ (x.hold ≠ [] → x.met = true → after (.waitRecheck p.ctx p.q) fun t _ x' => t.mem = s.mem ∧ x' = { x with hold := [], met := false })
      ∧ (x.hold ≠ [] → x.met = false → (∀ h ∈ x.hold, s.vaHeld p.ctx h.1 8 .load = false) →
        let gone := { x with hold := [], met := false }
        ((∀ h ∈ x.hold, s.condition p.ctx h = some true) → after (.waitRecheck p.ctx p.q) fun t _ x' => t.mem = s.mem ∧ x' = gone)
        ∧ ((∀ h ∈ x.hold, s.condition p.ctx h ≠ none) → (∃ h ∈ x.hold, s.condition p.ctx h = some false) →
            after (.waitRecheck p.ctx p.q) fun t _ x' => t.mem = s.mem ∧ x' = x)
        ∧ ((∃ h ∈ x.hold, s.condition p.ctx h = none) →
            after (.waitRecheck p.ctx p.q) fun t _ x' => t.mem = s.mem ∧ x' = gone ∧ recorded t x.held)))
    ∧ (c.life = .live → c.queuePkg ∈ c.off → x.hold ≠ [] → (∀ h ∈ x.hold, s.vaHeld p.ctx h.1 8 .load = false) → x.met = false →
      (∀ h ∈ x.hold, s.condition p.ctx h = some true) → after (.waitRecheck p.ctx p.q) fun t c' x' => t.mem = s.mem ∧ x' = { x with met := true }
        ∧ c'.trig = c.trig ++ [(c.queuePkg, .event (.waitRecheck p.ctx p.q))])

/-- R95 to R97, R345 to R354: a round pays each queue its quantum up to the limit, and a queue with credit hands down its next blocks; a cost is
charged and the mean kept. A chunk's blocks join the list of their key's die, which places its head on the best core with its lease
requests; a phase is cleaned first. An idle die steals from the longest list of its package, an idle package from the one named. The tray
distributor collects lengths, forwards costs, and its standby copies and takes over.
The model's choices it rests on: log entries 60, 61, 62, 63, 65. -/
def Obligations.DistributorsPlaceAndSteal : Prop :=
  ∀ (s : State) (c : Ctx), s.ctx? c.id = some c → c.life = .live →
    (∀ x, c.queue? x.num = some x → c.preempting = false → (∀ y ∈ s.ctxs, ∀ q ∈ y.queues, (y.id, q.num) = (c.id, x.num) ∨ y.backlog q.num = 0) →
      (s.ctxs.map (·.id)).Nodup → (c.queues.map (·.num)).Nodup → (c.launches.map (·.id)).Nodup →
      (∀ y ∈ s.ctxs, ∀ l ∈ y.launches, l.complete = false) →
      let d : Int := Int.ofNat (8 * s.quantum c x)
      let v := min (x.def_ + Int.ofNat (s.quantum c x)) d
      let after := fun (P : State → Ctx → Queue → Prop) => ∃ t c' x', exec .drrRound s = .next t ∧ t.mem = s.mem ∧ t.ctx? c.id = some c'
        ∧ c'.queue? x.num = some x' ∧ P t c' x'
      (c.backlog x.num = 0 → after fun _ c' x' => x'.def_ = 0 ∧ c'.launches = c.launches)
      ∧ (c.backlog x.num ≠ 0 → v ≤ 0 → after fun _ c' x' => x'.def_ = v ∧ c'.launches = c.launches)
      ∧ (∀ l, 0 < v → (c.launches.find? fun l => l.q == x.num && decide (l.next < l.nblk) && !l.bad) = some l → l.neverFits = true →
          ∃ t r, exec .drrRound s = .next t ∧ .trapRecordPost c.id r ∈ t.pending ∧ r.code = 0x18 ∧ r.sub = 0 ∧ r.lser = l.lser)
      ∧ (∀ l, 0 < v → (c.launches.find? fun l => l.q == x.num && decide (l.next < l.nblk) && !l.bad) = some l →
          (∀ y ∈ c.launches, y.neverFits = false) → after fun t c' _ => (∃ l', c'.launch? l.id = some l' ∧ l.next + min 64 (l.nblk - l.next) ≤ l'.next)
            ∧ ∀ i < min 64 (l.nblk - l.next), (s.placeKey c l (l.next + i)).1 ∈ c.dies.map (·.1) →
                ∃ idxs pk, .chunkAppend c.id l.id pk idxs ∈ t.pending ∧ l.next + i ∈ idxs))
    ∧ (∀ b cost l x, b.ctx = c.id → c.launch? b.launch = some l → c.queue? l.q = some x →
        let e := if b.task then 0 else l.ests.get 0 (b.idx / 64)
        ∃ t c' x', exec (.blockCostCharge b cost) s = .next t ∧ t.mem = s.mem ∧ t.ctx? c.id = some c' ∧ c'.queue? l.q = some x'
          ∧ x'.def_ = max (x.def_ + Int.ofNat e - Int.ofNat cost) (-Int.ofNat (8 * s.quantum c x)))
    ∧ (∀ launch pkg idxs l, c.launch? launch = some l → l.bad = false →
        ∃ t, exec (.chunkAppend c.id launch pkg idxs) s = .next t ∧ t.mem = s.mem
          ∧ t.blks = s.blks ++ idxs.map (fun i => l.blk c.id i (s.placeKey c l i) (pkg, (s.placeKey c l i).2))
          ∧ ∀ i d, idxs = [i] → s.die? pkg (s.placeKey c l i).2 = some d →
              t.die? pkg (s.placeKey c l i).2 = some { d with list := listPut ⟨c.id, false, launch, i⟩ d.list })
    ∧ (∀ pkg die d,  s.die? pkg die = some d →
      (∀ b l k q, d.list = [b.id] → s.blk? b.id = some b → b.id.ctx = c.id → b.cluster = [] → c.launch? b.id.launch = some l → l.bad = false →
        c.gateFailed l = false → c.places pkg = true → c.phaseOpen l = true → s.cleaning pkg die c.id = false → (∀ y ∈ s.ctxs, y.replays = false) →
        (d.phase.get 0 (phaseKey c.id l.q) ≠ l.phase → ∃ t, exec (.dieDistributorRound pkg die) s = .next t ∧ t.mem = s.mem
            ∧ .phaseClean pkg die c.id l.q l.phase ∈ t.pending)
        ∧ (d.phase.get 0 (phaseKey c.id l.q) = l.phase → l.tileOut c b.id.idx = none → s.bestCore b (s.dieCores pkg die) = some (k, q) →
            ∀ ls, s.leaseReqsAll c b.id pkg die b.intervals = .ok ls →
            ∃ t b', exec (.dieDistributorRound pkg die) s = .next t ∧ t.mem = s.mem ∧ t.blk? b.id = some b' ∧ b'.state = .placed ∧ b'.core = k
              ∧ b'.image = (q.zipIdx.map fun y => l.wave b.id k y.1 y.2) ∧ (ls = [] → .blockStart b.id ∈ t.pending)
              ∧ (ls ≠ [] → b'.wanted = ls) ∧ ∀ r ∈ ls, .leaseRequest r ∈ t.pending)
        ∧ (d.phase.get 0 (phaseKey c.id l.q) = l.phase → s.bestCore b (s.dieCores pkg die) = none →
            ∃ t d', exec (.dieDistributorRound pkg die) s = .next t ∧ t.mem = s.mem ∧ t.blk? b.id = some b ∧ t.die? pkg die = some d' ∧ d'.list = [b.id])
        ∧ (∀ y, d.phase.get 0 (phaseKey c.id l.q) = l.phase → l.tileOut c b.id.idx = some y → s.bestCore b (s.dieCores pkg die) = some (k, q) →
            ∃ t r, exec (.dieDistributorRound pkg die) s = .next t ∧ .trapRecordPost c.id r ∈ t.pending ∧ r.code = 0x0F
              ∧ r.addr = tileWord y l.tgen ∧ r.lser = l.lser ∧ r.pkg = pkg ∧ r.die = die))
      ∧ (∀ q ph, (∀ k ∈ s.cores, k.id.pkg = pkg → k.id.die = die → ∀ b ∈ k.wc, b.ctx ≠ c.id) → (∀ o ∈ s.ops, o.ctx = c.id → o.store = false) →
          (∀ r ∈ s.onWay, r.ctx = c.id → r.kind ≠ .store) →
          ∃ t d', exec (.phaseClean pkg die c.id q ph) s = .next t ∧ t.mem = s.mem ∧ t.die? pkg die = some d'
            ∧ d'.phase.get 0 (phaseKey c.id q) = ph ∧ d'.g.get 0 c.id = (d.g.get 0 c.id + 1) % 65536)
      ∧ (c.rings = [] → c.replays = false → d.list = [] → c.places pkg = true → (∃ x ∈ c.dies, x.2.1 = pkg ∧ x.2.2 = die) →
          (∀ y ∈ s.ctxs, y = c ∨ y.places pkg = false) → c ∈ s.ctxs →
          (∀ v, s.longest c pkg (some die) = some v → s.stealTail c v ≠ [] → s.stealRoom pkg die (s.stealTail c v) = true →
            ∃ t d', exec (.stealWithinPackage pkg die) s = .next t ∧ t.mem = s.mem ∧ t.die? pkg die = some d' ∧ d'.list = s.stealTail c v
              ∧ ∀ y, s.die? v.pkg v.die = some v → t.die? v.pkg v.die = some y → y.list = v.list.filter fun i => !(s.stealTail c v).contains i)
          ∧ (∀ wide vp v, (∀ y ∈ s.dies, y.pkg = pkg → y.list = []) → s.trayUp (pkg / 4) = true → s.namedVictim c pkg wide = some vp →
              s.longest c vp none = some v → s.stealTail c v ≠ [] →
              (∀ e ∈ s.dies, e.pkg = pkg → s.stealRoom pkg e.die (s.stealTail c v) = true) →
              ∃ t d', exec (.stealBetweenPackages pkg die wide) s = .next t ∧ t.mem = s.mem ∧ t.die? pkg die = some d'
                ∧ d'.list = s.stealTail c v)))
    ∧ (∀ tray, s.trayPkgs tray ≠ [] → s.trayUp tray = true →
        (∃ t, exec (.trayLengthCollect tray) s = .next t ∧ t.mem = s.mem ∧ (∀ d ∈ s.dies, d.pkg / 4 = tray →
            (c.id, d.pkg, d.die, (d.list.filter fun i => i.ctx == c.id).length) ∈ t.rack.lens)
          ∧ ∀ x ∈ s.rack.lens, inTray tray x = false → x ∈ t.rack.lens)
        ∧ (∃ t, exec (.trayCostForward tray) s = .next t ∧ t.mem = s.mem ∧ (∀ x ∈ t.rack.costs, x.1 ≠ tray)
          ∧ ∀ x ∈ s.rack.costs, x.1 = tray → .blockCostCharge x.2.1 x.2.2 ∈ t.pending)
        ∧ ∃ t, exec (.trayStandbyRefresh tray) s = .next t ∧ t.mem = s.mem ∧ (tray, s.rack.lens.filter (inTray tray)) ∈ t.rack.standby)
    ∧ (∀ tray, s.trayPkgs tray ≠ [] → s.trayUp tray = false → tray ∉ s.rack.slot1 →
        ∃ t, exec (.trayStandbyTakeover tray) s = .next t ∧ t.mem = s.mem ∧ tray ∈ t.rack.slot1 ∧ .trayCostForward tray ∈ t.pending)

/-! ## Pre-emption, context switch, log rings (R143 to R156, R328, R329, R357, R358, R368 to R370) -/

/-- R143, R148 to R156, R328, R329, R357, R358, R368 to R370: pre-emption waits for the trays' reports, then marks
every running block for a save and takes placed blocks back into their dies' lists; the bound stops waves
between clauses and asks for full saves; a block whose waves have stopped is saved and leaves its core; it asks for its leases, and with
them its waves resume on a core. A switch-off saves the blocks, then takes the context's tags and ready tasks off the package; a switch-on
brings the tags back and fires triggered work. A drain moves CI and admits held events; a log ends with an END record; the replay reader
takes the records of a ring in order; an event held too long is submitted again. A record's fields lie where R143 puts them.
The model's choices it rests on: log entries 66, 67, 68, 69, 70. -/
def Obligations.PreemptionAndLogs : Prop :=
  ∀ (s : State) (ctx : Nat) (c : Ctx), s.ctx? ctx = some c →
    let late := fun (b : Blk) => b.id.ctx = ctx ∧ b.save = true ∧ b.state = .running
    let trays := (c.pkgs.map fun p => p / 4).dedup
    let marked := fun (t : State) => t.mem = s.mem ∧ t.waves = s.waves ∧ t.wave = s.wave
      ∧ t.blks = s.blks.map (fun b => if b.id.ctx = ctx ∧ b.state = .running then { b with save := true, full := false }
          else if b.id.ctx = ctx ∧ b.state = .placed then { b with state := .pending, image := [], leases := [], wanted := [] } else b)
      ∧ (∀ b ∈ s.blks, b.id.ctx = ctx → b.state = .running → .blockSave (b.group.headD b.id) ∈ t.pending)
      ∧ ∀ b ∈ s.blks, b.id.ctx = ctx → b.state = .placed → (∀ l ∈ b.leases, .leaseRelease l ∈ t.pending)
        ∧ ∀ d, t.die? b.core.pkg b.core.die = some d → b.id ∈ d.list
    (c.life = .live → c.preempting = false → c.logmode ≠ 1 → (s.blks.map (·.id)).Nodup → ∃ t c', exec (.rackPreemption ctx) s = .next t
        ∧ t.ctx? ctx = some c' ∧ c'.preempting = true ∧ c'.preempts = c.preempts + 1
        ∧ (s.mute c trays = [] → marked t)
        ∧ (s.mute c trays ≠ [] → t.mem = s.mem ∧ t.blks = s.blks ∧ .rackPreemption ctx ∈ t.pending
          ∧ ∀ n ∈ s.mute c trays, (ctx, n) ∈ t.rack.stops))
    ∧ (c.life = .live → c.preempting = true → (s.blks.map (·.id)).Nodup →
        let ts := (s.rack.stops.filter fun x => x.1 == ctx).map (·.2)
        (ts = [] → exec (.rackPreemption ctx) s = .next s)
        ∧ (ts ≠ [] → s.mute c ts = [] → ∃ t, exec (.rackPreemption ctx) s = .next t ∧ marked t ∧ ∀ x ∈ t.rack.stops, x.1 ≠ ctx)
        ∧ (s.mute c ts ≠ [] → ∃ t, exec (.rackPreemption ctx) s = .next t ∧ t.blks = s.blks ∧ .rackPreemption ctx ∈ t.pending))
    ∧ (∃ t, exec (.preemptionBoundExpiry ctx) s = .next t ∧ t.mem = s.mem
        ∧ (∀ b ∈ s.blks, (late b → { b with full := true } ∈ t.blks ∧ .blockSave (b.group.headD b.id) ∈ t.pending) ∧ (¬ late b → b ∈ t.blks))
        ∧ ∀ w ∈ s.waves, if (∃ b ∈ s.blks, late b ∧ b.id = w.id.blk) ∧ w.run = .run ∧ w.clause = none ∧ s.stops w = false
            then { w with run := .stopped } ∈ t.waves else w ∈ t.waves)
    ∧ (∀ i b, s.blk? i = some b → i.ctx = ctx → b.group = [i] → b.state = .running → b.failed = false → b.save = true → s.saveReady b = true →
        s.saveAreaOk c b.core.pkg = true → c.logmode ≠ 1 →
        let ws := s.allWaves.filter fun w => decide (w.id.blk = i)
        let full := b.full || !s.covered b (namedRanges b ws)
        let idle := full = false ∧ (∀ k ∈ b.cmds, k.done = true) ∧ spanNamed (namedRanges b ws) b.noff (b.noff + 8) = false
        ∃ t x, exec (.blockSave i) s = .next t ∧ t.mem = s.mem ∧ t.blk? i = some x ∧ x.state = .saved ∧ x.save = false ∧ x.leases = []
          ∧ x.image = ws.map (fun w => w.saved full) ∧ (full = true → x.scratch = b.scratch) ∧ x.id = b.id ∧ x.dims = b.dims
          ∧ (x.wi, x.ri, x.cmds) = (if idle then (0, 0, []) else (b.wi, b.ri, b.cmds))
          ∧ (∀ w ∈ t.waves, w.id.blk ≠ i) ∧ (s.wave.id.blk = i → t.wave = Wave.idle) ∧ (∀ o ∈ t.ops, o.wave.blk ≠ i)
          ∧ (∀ w ∈ s.waves, w.id.blk ≠ i → w ∈ t.waves) ∧ ∀ l ∈ b.leases, .leaseRelease l ∈ t.pending)
    ∧ (∀ i b k, s.blk? i = some b → i.ctx = ctx → i.task = false → b.state = .saved → c.life = .live → c.off = [] → c.preempting = false →
        (s.core? k).isSome = true → worker k = true → s.drains k = false →
        let s1 := s.modBlk i fun b => { b with core := k }
        (∀ ls, s1.restoreReqs c b k = .ok ls → b.leases = [] → b.wanted = [] → ls ≠ [] → ∃ t, exec (.blockRestore i k) s = .next t
            ∧ t.mem = s.mem ∧ t.blk? i = some { b with core := k, wanted := ls } ∧ ∀ l ∈ ls, .leaseRequest l ∈ t.pending)
        ∧ (∀ ls q, s1.restoreReqs c b k = .ok ls → b.wanted = [] → b.leases ≠ [] ∨ ls = [] → b.group = [i] →
            s1.savedFits { b with core := k } k = some q → s1.saveAreaOk c k.pkg = true → b.waits = [] → b.images = [] → b.cmds = [] →
            (∀ r ∈ c.resp, r.1.blk ≠ i) →
            ∃ t x, exec (.blockRestore i k) s = .next t ∧ t.mem = s.mem ∧ t.blk? i = some x ∧ x.state = .running ∧ x.core = k ∧ x.image = []
              ∧ x.save = false ∧ x.scratch = b.scratch
              ∧ t.waves = s.waves ++ (b.image.zip q).map fun p => { p.1 with
                  core := k, quad := p.2, run := if p.1.run = .stopped then .run else p.1.run, live := none }))
    ∧ (∀ pkg p, s.pkg? pkg = some p → c.life = .live → pkg ∈ c.pkgs → (∀ x ∈ c.saved, x.1 ≠ pkg) →
        ((∀ b ∈ s.blks, b.id.ctx = ctx → b.core.pkg ≠ pkg) → s.saveAreaOk c pkg = true → ∃ t c' p', exec (.contextSwitchOff ctx pkg) s = .next t
            ∧ t.mem = s.mem ∧ t.ctx? ctx = some c' ∧ pkg ∈ c'.off ∧ t.pkg? pkg = some p'
            ∧ c'.saved = c.saved ++ [(pkg, p.tags.filter fun x => decide (c.tagBase ≤ x.1) && decide (x.1 < c.tagBase + c.tagCnt))]
            ∧ p'.tags = (p.tags.filter fun x => !(decide (c.tagBase ≤ x.1) && decide (x.1 < c.tagBase + c.tagCnt)))
            ∧ (∀ k ∈ t.cores, k.id.pkg = pkg → ∀ r ∈ k.deque, r.ctx ≠ ctx)
            ∧ ∀ k ∈ s.cores, k.id.pkg = pkg → ∀ r ∈ k.deque, r.ctx = ctx → r ∈ p'.ovfl)
        ∧ ((s.blks.map (·.id)).Nodup → (∃ b ∈ s.blks, b.id.ctx = ctx ∧ b.core.pkg = pkg ∧ b.state = .running) →
            ∃ t c', exec (.contextSwitchOff ctx pkg) s = .next t ∧ t.mem = s.mem ∧ t.ctx? ctx = some c' ∧ pkg ∈ c'.off
              ∧ .contextSwitchOff ctx pkg ∈ t.pending
              ∧ ∀ b ∈ s.blks, b.id.ctx = ctx → b.core.pkg = pkg → b.state = .running → .blockSave (b.group.headD b.id) ∈ t.pending))
    ∧ (∀ pkg p x, s.pkg? pkg = some p → c.life = .live → c.preempting = false → c.staged = none → (c.saved.find? fun x => x.1 == pkg) = some x →
        s.saveAreaOk c pkg = true → ∃ t p', exec (.contextSwitchOn ctx pkg) s = .next t ∧ t.mem = s.mem
          ∧ t.ctx? ctx = some { c with saved := c.saved.filter (fun x => x.1 != pkg), off := c.off.filter fun p => p != pkg }
          ∧ .triggeredWorkFire ctx pkg ∈ t.pending ∧ t.pkg? pkg = some p'
          ∧ ((x.2.map (·.1)).Nodup → ∀ e ∈ x.2, p'.tags.get (0, 0) e.1 = e.2))
    ∧ (∀ lpkg r, c.ring? lpkg = some r →
        (r.ring = [] → ∀ ci, r.ci ≤ ci → ci ≤ r.pi → ∃ t c', exec (.logRingDrain ctx lpkg ci) s = .next t ∧ t.ctx? ctx = some c'
            ∧ ((r.hiw = true ∧ 2 ^ r.lrsz - (r.pi - ci) ≤ 64) ∨ r.lost = true ∨ 64 < { r with ci := ci }.room →
                c'.ring? lpkg = some { r with ci := ci, hiw := r.hiw && decide (2 ^ r.lrsz - (r.pi - ci) ≤ 64) })
            ∧ (∀ h ∈ t.held, h.ctx = ctx → h.again = true) ∧ ∀ h ∈ s.held, h.ctx = ctx → h.again = false → h.ev ∈ t.pending)
        ∧ (∀ ci, ci < r.ci ∨ r.pi < ci → exec (.logRingDrain ctx lpkg ci) s = .next s)
        ∧ (∀ reason, c.rings = [r] → c.logmode = 1 → reason ≠ 0 ∨ c.quiet = true → r.lost = false → r.claimed = [] → r.room ≠ 0 →
            r.hiw = true ∨ 65 < r.room → ∀ m, let a := r.base + 32 * (r.pi % 2 ^ r.lrsz)
              (∀ e, s.devEntry? (fnOf ctx) a = some e → s.poison.contains (e.key a / 64) = false) →
              s.devWrite (fnOf ctx) a (bytesOf (endRec reason (r.pi + r.ring.length))) = some m →
              ∃ t c', exec (.logEnd ctx reason) s = .next t ∧ t.mem = (m.devPut (fnOf ctx) (r.desc + 8) (BitVec.ofNat 64 (r.pi + 1))).mem
                ∧ t.ctx? ctx = some c' ∧ c'.ring? lpkg = some { r with pi := r.pi + 1 })
        ∧ (c.replays = true → r.ended = false → r.window = [] → r.desc % 32 = 0 →
            s.devHeld (fnOf ctx) r.desc 32 = false → s.devHeld (fnOf ctx) r.base (32 * 2 ^ r.lrsz) = false →
            (∀ e, s.devEntry? (fnOf ctx) r.desc = some e → s.copyTarget e = none) →
            let pi := (s.devWord (fnOf ctx) (r.desc + 8)).toNat
            let ws := wordsOf ((s.devRead (fnOf ctx) (r.base + 32 * (r.ci % 2 ^ r.lrsz)) 32).getD []) 4
            pi = r.ci + 1 → recBad ws = false → passedOver (recTyp ws) = false → recSeq ws = s.nextSeq ctx (recOpt ws) →
            ∃ t c', exec (.replayReaderTake ctx lpkg) s = .next t ∧ t.ctx? ctx = some c'
              ∧ c'.ring? lpkg = some { r with ci := pi, pi := pi, window := [ws] }
              ∧ ∀ h ∈ s.held, h.ctx = ctx → h.again = false → h.ev ∈ t.pending))
    ∧ (c.logmode = 0 → ∀ reason, exec (.logEnd ctx reason) s = .next s)
    ∧ (∀ n h, (s.held.find? fun h => h.id == n && h.ctx == ctx) = some h → c.replays = true →
        let feeds := ∃ r, c.ring? h.lpkg = some r ∧ (r.window ≠ [] ∨ r.ci < (s.devWord (fnOf ctx) (r.desc + 8)).toNat)
        (feeds → ∃ t, exec (.replayHoldTimeout ctx n) s = .next t ∧ t.mem = s.mem ∧ h.ev ∈ t.pending ∧ { h with age := 2 ^ 24 + 1, again := true } ∈ t.held)
        ∧ (¬ feeds → exec (.replayHoldTimeout ctx n) s = .next s))
    ∧ ∀ (e : LogEv) (seq : Nat) (pay : W64), e.typ < 32 → e.opt < 2 ^ 32 →
        let r := e.words seq pay
        r.length = 4 ∧ recTyp r = e.typ ∧ recLser r = e.lser % 2 ^ 16 ∧ recSeq r = seq % 2 ^ 40 ∧ recOpt r = e.opt ∧ recOrd r = e.ord % 2 ^ 32
          ∧ recWv r = e.wv % 32 ∧ recLane r = e.lane % 32 ∧ recTk r = e.tk ∧ recIid r = e.iid % 2 ^ 53 ∧ recPay r = pay
          ∧ (recW r 0).getLsbD 5 = e.ph

/-! ## Collectives (R327, R371 to R381) -/

/-- R134, R327, R373 to R381: COLSEND is answered 1 where its buffer is not bound, and otherwise sends what it reads; a block's exit
contribution is read and sent, or its resources are released. A contribution is counted; the last of an instance sends the partial to the
shadow's home, where a landing slot is free, or lands its shard. Partials combine in the shadow; with the last one the result is written
and the signal is due. Shards land, count and go on to the next participant. The signal and the object step by one; a failure drops the
buffer's state, sets bit 63 of the signal and answers every contribution under way with status 4.
The model's choices it rests on: log entries 71, 72, 73, 74, 75. -/
def Obligations.CollectivesCombine : Prop :=
  (∀ (s : State) (w : AW) (b : Blk), s.blk? s.wave.id.blk = some b →
    let r := s.wave.colroute
    let len := (s.op32 w.s2).toNat
    let chunk := (s.op32 w.s3).toNat
    let buf := (r.extractLsb' 0 16).toNat
    let a := s.op64 w.s1 &&& 0xFFFFF#64
    let bound := s.boundFor b.id.ctx b.core.pkg buf chunk len
    (s.wave.part w.g = [] → exec (.colsend w) s = .next s)
    ∧ (s.wave.part w.g ≠ [] → r.getLsbD 16 = false ∨ bound = none → ∃ t, exec (.colsend w) s = .next t ∧ t.mem = s.mem ∧ AnsweredBy s t 0 1)
    ∧ (s.wave.part w.g ≠ [] → r.getLsbD 16 = true → bound ≠ none → w.y.getLsbD 0 = false → s.locksAt b.core = [] →
        NoneOnWay s → a.toNat + len ≤ b.size →
        ∃ t o, exec (.colsend w) s = .next t ∧ t.mem = s.mem ∧ t.op? s.freshId = some o ∧ o.ins = .colsend w ∧ o.left = 1
          ∧ o.flag = s.wave.flagOf (.colsend w)
          ∧ .contributionCount ⟨b.id.ctx, buf, chunk, b.core.pkg, .colsend s.freshId, b.scrRead a.toNat len⟩ ∈ t.pending))
  ∧ (∀ (s : State) (id : BlkId) (b : Blk) (l : Launch) (c : Ctx), s.blk? id = some b → s.ctx? id.ctx = some c → c.launch? id.launch = some l →
      b.state = .exitRead → ∀ i r, b.intervals = i :: r →
      let chunk := match s.bind? id.ctx l.colbuf with | some x => if x.nch = 0 then 0 else id.idx % x.nch | none => 0
      let src : Bool × W64 × Nat := (true, vaOf (i.base % 2 ^ 57), i.len)
      (s.boundFor id.ctx b.core.pkg l.colbuf chunk i.len = none → exec (.exitFiredContribution id) s = .next (s.closeBlk id))
      ∧ (∀ x bs, s.boundFor id.ctx b.core.pkg l.colbuf chunk i.len = some x → x.failed = false → s.readSpan b src = .bytes bs →
          exec (.exitFiredContribution id) s
            = .next { s with pending := s.pending ++ [.contributionCount ⟨id.ctx, l.colbuf, chunk, b.core.pkg, .exit id, bs⟩] }))
  ∧ ∀ (s : State) (ctx buf : Nat) (c : Ctx) (b : Binding), s.ctx? ctx = some c → c.bind? buf = some b → c.rings = [] →
    let adds := fun (t : State) (x : Range × Nat) (f : List Byte → List Byte) =>
      ∀ e, s.homeFind ctx (s.homeAt ctx x.1 x.2) x.2 = .ok e → s.poison.contains (e.key x.2 / 64) = false → s.copyTarget e = none →
        MemWrote s t (e.key x.2) (f (s.memRead (e.key x.2) 8))
    (∀ (k : Contrib) (id : BlkId) (h : Nat) (blk : Blk), k.ctx = ctx → k.buf = buf → k.src = .mepi id h → s.contribBlk k.src = some blk →
      (s.boundFor ctx k.pkg buf k.chunk k.bytes.length = none → exec (.contributionCount k) s = .next (s.contribDone k.src 1))
      ∧ (s.boundFor ctx k.pkg buf k.chunk k.bytes.length = some b → b.failed = true → exec (.contributionCount k) s = .next (s.contribDone k.src 4))
      ∧ (s.boundFor ctx k.pkg buf k.chunk k.bytes.length = some b → b.failed = false → b.room (c.logical k.pkg) k.chunk = true →
          let lp := c.logical k.pkg
          let inst := b.inst lp k.chunk
          let old := (b.chunks.find? fun x => x.chunk == k.chunk && x.lpkg == lp && x.inst == inst).getD ⟨k.chunk, lp, inst, 0, [], []⟩
          let new := b.addTo old k.bytes
          ∃ t b', exec (.contributionCount k) s = .next t ∧ t.mem = s.mem ∧ t.bind? ctx buf = some b'
            ∧ b'.counts = b.counts.set 0 (chunkKey lp k.chunk) (b.counts.get 0 (chunkKey lp k.chunk) + 1)
            ∧ (old.got + 1 ≠ b.expc → new ∈ b'.chunks ∧ new.got = old.got + 1)
            ∧ (old.got + 1 = b.expc → b.gather = true → .shardLand ⟨ctx, buf, k.chunk, inst, lp - b.lp0, 0, k.bytes⟩ ∈ t.pending)
            ∧ (old.got + 1 = b.expc → b.gather = false → ∀ hm x, s.shadowHome ctx b k.chunk = some hm → s.home? hm = some x → x.landing < 256 →
                .shadowCombine ⟨ctx, buf, k.chunk, inst, lp, new.elems.map colRaw⟩ ∈ t.pending
                ∧ t.home? hm = some { x with landing := x.landing + 1 })))
    ∧ (∀ (p : Partial) sh dst, p.ctx = ctx → p.buf = buf → b.failed = false → b.sh = some sh → b.dst = some dst →
        let off := 12 * (p.chunk * b.ne)
        let doff := p.chunk * b.ne * bufSize b.dfmt
        let x := (b.shadows.find? fun x => x.chunk == p.chunk).getD ⟨p.chunk, 0, 0, []⟩
        let nans := shadowNans (if x.got = 0 then [] else x.nans) p.elems
        x.inst = p.inst → s.hubHeld ctx sh off (12 * b.ne) = false → s.hubHeld ctx dst doff (b.ne * bufSize b.dfmt) = false →
        ∀ ws, (if x.got = 0 then (.ok p.elems : Except EngErr _) else (s.hubRead ctx sh off (12 * b.ne) 7).map fun bs =>
            shadowOp b.op nans (rawWords b.ne bs) p.elems) = .ok ws →
        ∀ s1, s.hubWrite ctx sh off (ws.flatMap rawBytes) = .ok s1 →
          let put := fun (t : State) (y : Shadow) => t.bind? ctx buf = some { b with shadows := b.shadows.filter (fun z => z.chunk != p.chunk) ++ [y] }
          (x.got + 1 < b.np → ∃ t, exec (.shadowCombine p) s = .next t ∧ t.mem = s1.mem ∧ put t { x with got := x.got + 1, nans := nans })
          ∧ (b.np ≤ x.got + 1 → ∀ s2, s1.hubWrite ctx dst doff (ws.flatMap b.convertElem) = .ok s2 → ∃ t, exec (.shadowCombine p) s = .next t
              ∧ t.mem = s2.mem ∧ put t { x with inst := x.inst + 1, got := 0, nans := [] } ∧ .completionSignalUpdate ctx buf 0 ∈ t.pending))
    ∧ (∀ (x : Shard) dst s1, x.ctx = ctx → x.buf = buf → b.failed = false → s.landSpan b x = some dst → b.np ≤ b.nslot ∨ x.k < b.nslot →
        let n := b.landed.get 0 (landKey x.inst x.at_ x.k) + 1
        let next : Shard := { x with at_ := (x.at_ + 1) % b.np, k := x.k + 1 }
        s.hubHeld ctx dst 0 b.chb = false → (∀ r, b.rl = some r → s.hubHeld ctx r (8 * x.at_) 8 = false) →
        s.hubWrite ctx dst 0 x.bytes = .ok s1 → ∃ t b', exec (.shardLand x) s = .next t ∧ t.mem = s1.mem
          ∧ t.bind? ctx buf = some b' ∧ b'.landed = ({ b with landed := b.landed.set 0 (landKey x.inst x.at_ x.k) n }.retire x.inst).landed
          ∧ (n = b.nch → .completionSignalUpdate ctx buf x.at_ ∈ t.pending)
          ∧ (x.k + 1 < b.np → ∀ q, s.pkg? (c.participant b next.at_) = some q → q.landing < 256 → .shardLand next ∈ t.pending))
    ∧ (∀ (x : Shard) q, b.failed = false → (b.shards.find? fun y => shardId y == shardId x) = some x → s.pkg? (c.participant b x.at_) = some q →
        (q.landing < 256 → ∃ t b', exec (.slotReservationRetry ctx buf (shardId x)) s = .next t ∧ t.mem = s.mem ∧ .shardLand x ∈ t.pending
          ∧ t.pkg? q.id = some { q with landing := q.landing + 1 } ∧ t.bind? ctx buf = some b' ∧ x ∉ b'.shards)
        ∧ (256 ≤ q.landing → b.tries.get 0 (shardId x) < 1024 → ∃ t b', exec (.slotReservationRetry ctx buf (shardId x)) s = .next t
            ∧ t.mem = s.mem ∧ .slotReservationRetry ctx buf (shardId x) ∈ t.pending ∧ t.bind? ctx buf = some b'
            ∧ b'.tries.get 0 (shardId x) = b.tries.get 0 (shardId x) + 1)
        ∧ (256 ≤ q.landing → 1024 ≤ b.tries.get 0 (shardId x) → ∃ t, exec (.slotReservationRetry ctx buf (shardId x)) s = .next t
            ∧ t.mem = s.mem ∧ .collectiveFailure ctx buf ∈ t.pending))
    ∧ (∀ j x, (b.sg = some x ∧ b.av = none → s.hubHeld ctx x (8 * j) 8 = false → ∃ t, exec (.completionSignalUpdate ctx buf j) s = .next t
          ∧ adds t (x.1, x.2 + 8 * j) fun old => leBytes 8 (leVal old + 1))
        ∧ (b.sg = none ∧ b.av = some x → s.hubHeld ctx x (8 * j) 8 = false → ∃ t, exec (.completionSignalUpdate ctx buf j) s = .next t
          ∧ adds t (x.1, x.2 + 8 * j) fun old => leBytes 8 (arvWord (BitVec.ofNat 64 (leVal old)) 1).toNat)
        ∧ (b.sg = none → b.av = none → exec (.completionSignalUpdate ctx buf j) s = .next s))
    ∧ (b.failed = true → b.sg = none → b.av = none → exec (.collectiveFailure ctx buf) s = .next s)
    ∧ (b.failed = false → b.av = none →
        let dead := fun (t : State) => t.bind? ctx buf
            = some { b with failed := true, chunks := [], waiting := [], shards := [], landed := [], tries := [] }
          ∧ (∀ k : Contrib, k.ctx = ctx → k.buf = buf → .contributionCount k ∉ t.pending)
          ∧ (∀ p : Partial, p.ctx = ctx → p.buf = buf → .shadowCombine p ∉ t.pending)
          ∧ ∀ x : Shard, x.ctx = ctx → x.buf = buf → .shardLand x ∉ t.pending
        let told := fun (t : State) => (b.waiting ++ s.contribs ctx buf).dedup.foldl (fun s k => s.contribDone k.src 4) t
        (b.sg = none → ∃ u, dead u ∧ u.mem = s.mem ∧ exec (.collectiveFailure ctx buf) s = .next (told u))
        ∧ (∀ x, b.gather = false → b.sg = some x → s.hubHeld ctx x 0 8 = false → ∃ u, dead u
            ∧ adds u x (fun old => leBytes 8 (leVal old + 2 ^ 63)) ∧ exec (.collectiveFailure ctx buf) s = .next (told u)))
end

