-- ==== Sys2Proof/Laws/Tab.lean ====
section
/-! SUPPORT. Laws of sparse tables: reading after writing, and that the canonical form is kept. -/

namespace Sys2Proof

variable {α : Type}

theorem Tab.get_del (d : α) (t : Tab α) (k j : Nat) : (t.del k).get d j = if j = k then d else t.get d j := by
  induction t with
  | nil => simp [Tab.del, Tab.get]
  | cons p r ih =>
    obtain ⟨i, v⟩ := p
    by_cases h : i = k <;> by_cases hj : j = k
    · subst hj
      simpa [Tab.del, h] using ih
    · simp [Tab.del, Tab.get, h, ih, hj, Ne.symm hj]
    · subst hj
      simp [Tab.del, Tab.get, h, ih]
    · simp [Tab.del, Tab.get, h, ih, hj]

theorem Tab.get_put (d : α) (t : Tab α) (k j : Nat) (v : α) : (t.put k v).get d j = if j = k then v else t.get d j := by
  induction t with
  | nil =>
    by_cases hj : j = k
    · simp [Tab.put, Tab.get, hj]
    · simp [Tab.put, Tab.get, hj, Ne.symm hj]
  | cons p r ih =>
    obtain ⟨i, w⟩ := p
    by_cases h : i = k <;> by_cases hj : j = k
    · simp [Tab.put, Tab.get, h, hj]
    · simp [Tab.put, Tab.get, h, hj, Ne.symm hj]
    · subst hj
      by_cases h2 : j < i <;> simp [Tab.put, Tab.get, h, h2, ih]
    · by_cases h2 : k < i <;> simp [Tab.put, Tab.get, h, h2, hj, Ne.symm hj, ih]

/-- Reading a key after a write. -/
theorem Tab.get_set [DecidableEq α] (d : α) (t : Tab α) (k j : Nat) (v : α) :
    (t.set d k v).get d j = if j = k then v else t.get d j := by
  unfold Tab.set
  split
  · rename_i h
    subst h
    rw [Tab.get_del]
  · exact Tab.get_put d t k j v

theorem Tab.get_set_self [DecidableEq α] (d : α) (t : Tab α) (k : Nat) (v : α) : (t.set d k v).get d k = v := by
  simp [Tab.get_set]

theorem Tab.get_set_ne [DecidableEq α] (d : α) (t : Tab α) (k j : Nat) (v : α) (h : j ≠ k) : (t.set d k v).get d j = t.get d j := by
  simp [Tab.get_set, h]

theorem Tab.sortedFrom_mono {a b : Nat} (h : a ≤ b) {t : Tab α} (ht : t.sortedFrom b = true) : t.sortedFrom a = true := by
  cases t with
  | nil => rfl
  | cons p r =>
    obtain ⟨k, v⟩ := p
    simp only [Tab.sortedFrom, Bool.and_eq_true, decide_eq_true_eq] at ht ⊢
    exact ⟨h.trans ht.1, ht.2⟩

theorem Tab.sortedFrom_del {a : Nat} (k : Nat) {t : Tab α} (ht : t.sortedFrom a = true) : (t.del k).sortedFrom a = true := by
  induction t generalizing a with
  | nil => rfl
  | cons p r ih =>
    obtain ⟨i, v⟩ := p
    simp only [Tab.sortedFrom, Bool.and_eq_true, decide_eq_true_eq] at ht
    by_cases h : i = k
    · simp only [Tab.del, if_pos h]
      exact Tab.sortedFrom_mono (by omega) (ih ht.2)
    · simp only [Tab.del, if_neg h, Tab.sortedFrom, Bool.and_eq_true, decide_eq_true_eq]
      exact ⟨ht.1, ih ht.2⟩

theorem Tab.sortedFrom_put {a k : Nat} (v : α) {t : Tab α} (hk : a ≤ k) (ht : t.sortedFrom a = true) :
    (t.put k v).sortedFrom a = true := by
  induction t generalizing a with
  | nil => simp [Tab.put, Tab.sortedFrom, hk]
  | cons p r ih =>
    obtain ⟨i, w⟩ := p
    simp only [Tab.sortedFrom, Bool.and_eq_true, decide_eq_true_eq] at ht
    by_cases h : i = k
    · subst h
      simp [Tab.put, Tab.sortedFrom, ht]
    · by_cases h2 : k < i
      · have : i ≠ k := h
        simp only [Tab.put, if_neg h, if_pos h2, Tab.sortedFrom, Bool.and_eq_true, decide_eq_true_eq]
        exact ⟨hk, by omega, ht.2⟩
      · simp only [Tab.put, if_neg h, if_neg h2, Tab.sortedFrom, Bool.and_eq_true, decide_eq_true_eq]
        exact ⟨ht.1, ih (by omega) ht.2⟩

theorem Tab.sortedFrom_filter {a : Nat} (p : Nat × α → Bool) {t : Tab α} (ht : t.sortedFrom a = true) :
    Tab.sortedFrom a (t.filter p) = true := by
  induction t generalizing a with
  | nil => rfl
  | cons q r ih =>
    obtain ⟨i, v⟩ := q
    simp only [Tab.sortedFrom, Bool.and_eq_true, decide_eq_true_eq] at ht
    by_cases h : p (i, v) = true
    · simp only [List.filter_cons_of_pos h, Tab.sortedFrom, Bool.and_eq_true, decide_eq_true_eq]
      exact ⟨ht.1, ih ht.2⟩
    · simp only [List.filter_cons_of_neg h]
      exact Tab.sortedFrom_mono (by omega) (ih ht.2)

theorem Tab.mem_del {k : Nat} {t : Tab α} {p : Nat × α} (h : p ∈ t.del k) : p ∈ t := by
  induction t with
  | nil => exact h
  | cons q r ih =>
    obtain ⟨i, v⟩ := q
    simp only [Tab.del] at h
    split at h
    · exact List.mem_cons_of_mem _ (ih h)
    · rcases List.mem_cons.1 h with rfl | h
      · exact List.mem_cons_self
      · exact List.mem_cons_of_mem _ (ih h)

theorem Tab.mem_put {k : Nat} {v : α} {t : Tab α} {p : Nat × α} (h : p ∈ t.put k v) : p = (k, v) ∨ p ∈ t := by
  induction t with
  | nil => exact .inl (by simpa [Tab.put] using h)
  | cons q r ih =>
    obtain ⟨i, w⟩ := q
    simp only [Tab.put] at h
    split at h
    · rcases List.mem_cons.1 h with rfl | h
      · exact .inl rfl
      · exact .inr (List.mem_cons_of_mem _ h)
    · split at h
      · rcases List.mem_cons.1 h with rfl | h
        · exact .inl rfl
        · exact .inr h
      · rcases List.mem_cons.1 h with rfl | h
        · exact .inr List.mem_cons_self
        · rcases ih h with h | h
          · exact .inl h
          · exact .inr (List.mem_cons_of_mem _ h)

theorem Tab.wf_iff [DecidableEq α] (d : α) (t : Tab α) :
    t.wf d = true ↔ t.sortedFrom 0 = true ∧ ∀ p ∈ t, p.2 ≠ d := by
  simp [Tab.wf, List.all_eq_true]

theorem Tab.wf_nil [DecidableEq α] (d : α) : Tab.wf d ([] : Tab α) = true := rfl

/-- A write keeps the canonical form. -/
theorem Tab.wf_set [DecidableEq α] {d : α} {t : Tab α} (k : Nat) (v : α) (ht : t.wf d = true) : (t.set d k v).wf d = true := by
  rw [Tab.wf_iff] at ht ⊢
  unfold Tab.set
  split
  · exact ⟨Tab.sortedFrom_del k ht.1, fun p hp => ht.2 p (Tab.mem_del hp)⟩
  · refine ⟨Tab.sortedFrom_put v (Nat.zero_le k) ht.1, fun p hp => ?_⟩
    rcases Tab.mem_put hp with rfl | hp
    · assumption
    · exact ht.2 p hp

/-- Dropping entries keeps the canonical form. -/
theorem Tab.wf_filter [DecidableEq α] {d : α} {t : Tab α} (p : Nat × α → Bool) (ht : t.wf d = true) : Tab.wf d (t.filter p) = true := by
  rw [Tab.wf_iff] at ht ⊢
  exact ⟨Tab.sortedFrom_filter p ht.1, fun q hq => ht.2 q (List.mem_filter.1 hq).1⟩

/-! ## Lists of records by name -/

theorem find?_updFirst {p : α → Bool} {f : α → α} (hp : ∀ a, p a = true → p (f a) = true) (l : List α) :
    (updFirst p f l).find? p = (l.find? p).map f := by
  induction l with
  | nil => rfl
  | cons a r ih =>
    by_cases h : p a = true
    · simp [updFirst, h, hp a h]
    · simp [updFirst, h, ih]

theorem find?_updFirst_of_ne {p q : α → Bool} {f : α → α} (hq : ∀ a, p a = true → q (f a) = q a) (h : ∀ a, p a = true → q a = false)
    (l : List α) : (updFirst p f l).find? q = l.find? q := by
  induction l with
  | nil => rfl
  | cons a r ih =>
    by_cases hp : p a = true
    · simp [updFirst, hp, hq a hp, h a hp]
    · simp only [updFirst, hp, Bool.false_eq_true, if_false, List.find?_cons, ih]

theorem mem_updFirst {p : α → Bool} {f : α → α} {l : List α} {a : α} (h : a ∈ updFirst p f l) :
    a ∈ l ∨ ∃ b ∈ l, p b = true ∧ a = f b := by
  induction l with
  | nil => simp [updFirst] at h
  | cons b r ih =>
    by_cases hb : p b = true
    · simp only [updFirst, hb, if_true, List.mem_cons] at h
      rcases h with rfl | h
      · exact .inr ⟨b, List.mem_cons_self, hb, rfl⟩
      · exact .inl (List.mem_cons_of_mem _ h)
    · simp only [updFirst, hb, Bool.false_eq_true, if_false, List.mem_cons] at h
      rcases h with rfl | h
      · exact .inl List.mem_cons_self
      · rcases ih h with h | ⟨c, hc, h⟩
        · exact .inl (List.mem_cons_of_mem _ h)
        · exact .inr ⟨c, List.mem_cons_of_mem _ hc, h⟩

theorem mem_of_mem_delFirst {p : α → Bool} {l : List α} {a : α} (h : a ∈ delFirst p l) : a ∈ l := by
  induction l with
  | nil => exact h
  | cons b r ih =>
    by_cases hb : p b = true
    · simp only [delFirst, hb, if_true] at h
      exact List.mem_cons_of_mem _ h
    · simp only [delFirst, hb, Bool.false_eq_true, if_false, List.mem_cons] at h
      rcases h with rfl | h
      · exact List.mem_cons_self
      · exact List.mem_cons_of_mem _ (ih h)

end Sys2Proof
end

