-- ==== Sys2Proof/Laws/Memory.lean ====
section
/-! SUPPORT. Laws of memory: every operation keeps the canonical form, and what one byte reads as after it. -/

namespace Sys2Proof.Machine

/-- A byte after a write of several. -/
theorem get_writeBytes (bs : List Byte) (m : Tab Byte) (k a : Nat) :
    (writeBytes m k bs).get 0 a = if k ≤ a ∧ a < k + bs.length then bs.getD (a - k) 0 else m.get 0 a := by
  induction bs generalizing m k with
  | nil => simp [writeBytes]
  | cons b r ih =>
    simp only [writeBytes, ih, Tab.get_set, List.length_cons]
    by_cases h : a = k
    · subst h
      simp
    · by_cases h2 : k + 1 ≤ a ∧ a < k + 1 + r.length
      · rw [if_pos h2, if_pos (by omega)]
        obtain ⟨j, hj⟩ : ∃ j, a - k = j + 1 := ⟨a - k - 1, by omega⟩
        rw [hj, show a - (k + 1) = j by omega]
        simp
      · rw [if_neg h2, if_neg h, if_neg (by omega)]

theorem wf_writeBytes (bs : List Byte) (m : Tab Byte) (k : Nat) (h : Tab.wf 0 m = true) : Tab.wf 0 (writeBytes m k bs) = true := by
  induction bs generalizing m k with
  | nil => exact h
  | cons b r ih => exact ih _ _ (Tab.wf_set k b h)

/-- Memory operations keep the canonical form: a write, a clearing, a copy, a filter (R58, R67, R390). -/
theorem wf_memWrite (s : State) (k : Nat) (bs : List Byte) (h : s.Inv) : (s.memWrite k bs).Inv :=
  wf_writeBytes bs s.mem k h

theorem wf_zeroBytes (m : Tab Byte) (k n : Nat) (h : Memory.wf m = true) : Memory.wf (zeroBytes m k n) = true := by
  exact Tab.wf_filter _ h

theorem wf_copyBytes (m : Tab Byte) (src dst n : Nat) (h : Memory.wf m = true) : Memory.wf (copyBytes m src dst n) = true := by
  have hf : ∀ (l : List (Nat × Byte)) (t : Tab Byte), Memory.wf t = true →
      Memory.wf (l.foldl (fun (m : Tab Byte) p => m.set 0 p.1 p.2) t) = true := by
    intro l
    induction l with
    | nil => exact fun _ h => h
    | cons p r ih => exact fun t ht => ih _ (Tab.wf_set p.1 p.2 ht)
  exact hf _ _ (Tab.wf_filter _ h)

@[simp] theorem mem_due (s : State) (l : List Instr) : (s.due l).mem = s.mem := rfl

theorem mem_noteCode (s : State) (e : Entry) (ia n : Nat) : (s.noteCode e ia n).mem = s.mem := by
  unfold State.noteCode
  dsimp only
  split <;> rfl

/-- A page's bytes written, with their copy in a migration under way (R69), keep the form. -/
theorem wf_frameSet (s : State) (e : Entry) (ia : Nat) (bs : List Byte) (h : s.Inv) : (s.frameSet e ia bs).Inv := by
  unfold State.frameSet State.Inv
  dsimp only
  split
  · exact wf_writeBytes bs _ _ (wf_writeBytes bs s.mem _ h)
  · exact wf_writeBytes bs s.mem _ h

theorem mem_egress (s : State) (e : Entry) (ia n : Nat) (w : Option (List Byte)) : (s.egress e ia n w).mem = s.mem := by
  unfold State.egress
  dsimp only
  split <;> rfl

theorem wf_framePut (s : State) (e : Entry) (ia : Nat) (bs : List Byte) (h : s.Inv) : (s.framePut e ia bs).Inv := by
  have h1 := wf_frameSet s e ia bs h
  unfold State.framePut
  dsimp only
  split <;> simpa only [State.Inv, mem_egress] using h1

theorem wf_frameWrite (s : State) (e : Entry) (ia : Nat) (bs : List Byte) (h : s.Inv) : (s.frameWrite e ia bs).Inv :=
  wf_framePut (s.noteCode e ia bs.length) e ia bs (by rw [State.Inv, mem_noteCode]; exact h)

theorem wf_filterMem (m : List Host.Cell) (p : Host.Cell → Bool) (h : Memory.wf m = true) : Memory.wf (m.filter p) = true :=
  Tab.wf_filter p h

/-- Memory after reset has the form. -/
theorem reset_inv : State.reset.Inv := rfl

theorem memByte_memWrite (s : State) (k a : Nat) (bs : List Byte) :
    (s.memWrite k bs).memByte a = if k ≤ a ∧ a < k + bs.length then bs.getD (a - k) 0 else s.memByte a :=
  get_writeBytes bs s.mem k a

end Sys2Proof.Machine
end

