-- ==== Sys2Proof/Laws/State.lean ====
section
/-! SUPPORT. One lemma per field per update of the state, and the records found after one. -/

namespace Sys2Proof.Machine

section
variable (s : State)


@[simp] theorem State.modBlk_wave (i : BlkId) (f : Blk → Blk) : (s.modBlk i f).wave = s.wave := rfl
@[simp] theorem State.modBlk_waves (i : BlkId) (f : Blk → Blk) : (s.modBlk i f).waves = s.waves := rfl
@[simp] theorem State.modBlk_cores (i : BlkId) (f : Blk → Blk) : (s.modBlk i f).cores = s.cores := rfl
@[simp] theorem State.modBlk_dies (i : BlkId) (f : Blk → Blk) : (s.modBlk i f).dies = s.dies := rfl
@[simp] theorem State.modBlk_homes (i : BlkId) (f : Blk → Blk) : (s.modBlk i f).homes = s.homes := rfl
@[simp] theorem State.modBlk_entries (i : BlkId) (f : Blk → Blk) : (s.modBlk i f).entries = s.entries := rfl
@[simp] theorem State.modBlk_pageops (i : BlkId) (f : Blk → Blk) : (s.modBlk i f).pageops = s.pageops := rfl
@[simp] theorem State.modBlk_pkgs (i : BlkId) (f : Blk → Blk) : (s.modBlk i f).pkgs = s.pkgs := rfl
@[simp] theorem State.modBlk_ctxs (i : BlkId) (f : Blk → Blk) : (s.modBlk i f).ctxs = s.ctxs := rfl
@[simp] theorem State.modBlk_fns (i : BlkId) (f : Blk → Blk) : (s.modBlk i f).fns = s.fns := rfl
@[simp] theorem State.modBlk_rack (i : BlkId) (f : Blk → Blk) : (s.modBlk i f).rack = s.rack := rfl
@[simp] theorem State.modBlk_mem (i : BlkId) (f : Blk → Blk) : (s.modBlk i f).mem = s.mem := rfl
@[simp] theorem State.modBlk_poison (i : BlkId) (f : Blk → Blk) : (s.modBlk i f).poison = s.poison := rfl
@[simp] theorem State.modBlk_hist (i : BlkId) (f : Blk → Blk) : (s.modBlk i f).hist = s.hist := rfl
@[simp] theorem State.modBlk_ops (i : BlkId) (f : Blk → Blk) : (s.modBlk i f).ops = s.ops := rfl
@[simp] theorem State.modBlk_deferred (i : BlkId) (f : Blk → Blk) : (s.modBlk i f).deferred = s.deferred := rfl
@[simp] theorem State.modBlk_watches (i : BlkId) (f : Blk → Blk) : (s.modBlk i f).watches = s.watches := rfl
@[simp] theorem State.modBlk_copySco (i : BlkId) (f : Blk → Blk) : (s.modBlk i f).copySco = s.copySco := rfl
@[simp] theorem State.modBlk_owed (i : BlkId) (f : Blk → Blk) : (s.modBlk i f).owed = s.owed := rfl
@[simp] theorem State.modBlk_inputs (i : BlkId) (f : Blk → Blk) : (s.modBlk i f).inputs = s.inputs := rfl
@[simp] theorem State.modBlk_held (i : BlkId) (f : Blk → Blk) : (s.modBlk i f).held = s.held := rfl
@[simp] theorem State.modBlk_seqs (i : BlkId) (f : Blk → Blk) : (s.modBlk i f).seqs = s.seqs := rfl
@[simp] theorem State.modBlk_pending (i : BlkId) (f : Blk → Blk) : (s.modBlk i f).pending = s.pending := rfl
@[simp] theorem State.modBlk_order (i : BlkId) (f : Blk → Blk) : (s.modBlk i f).order = s.order := rfl
@[simp] theorem State.modBlk_turn (i : BlkId) (f : Blk → Blk) : (s.modBlk i f).turn = s.turn := rfl
@[simp] theorem State.modBlk_seq (i : BlkId) (f : Blk → Blk) : (s.modBlk i f).seq = s.seq := rfl
@[simp] theorem State.modBlk_free (i : BlkId) (f : Blk → Blk) : (s.modBlk i f).free = s.free := rfl
@[simp] theorem State.modBlk_outbox (i : BlkId) (f : Blk → Blk) : (s.modBlk i f).outbox = s.outbox := rfl

@[simp] theorem State.modCtx_wave (i : Nat) (f : Ctx → Ctx) : (s.modCtx i f).wave = s.wave := rfl
@[simp] theorem State.modCtx_waves (i : Nat) (f : Ctx → Ctx) : (s.modCtx i f).waves = s.waves := rfl
@[simp] theorem State.modCtx_blks (i : Nat) (f : Ctx → Ctx) : (s.modCtx i f).blks = s.blks := rfl
@[simp] theorem State.modCtx_cores (i : Nat) (f : Ctx → Ctx) : (s.modCtx i f).cores = s.cores := rfl
@[simp] theorem State.modCtx_dies (i : Nat) (f : Ctx → Ctx) : (s.modCtx i f).dies = s.dies := rfl
@[simp] theorem State.modCtx_homes (i : Nat) (f : Ctx → Ctx) : (s.modCtx i f).homes = s.homes := rfl
@[simp] theorem State.modCtx_entries (i : Nat) (f : Ctx → Ctx) : (s.modCtx i f).entries = s.entries := rfl
@[simp] theorem State.modCtx_pageops (i : Nat) (f : Ctx → Ctx) : (s.modCtx i f).pageops = s.pageops := rfl
@[simp] theorem State.modCtx_pkgs (i : Nat) (f : Ctx → Ctx) : (s.modCtx i f).pkgs = s.pkgs := rfl
@[simp] theorem State.modCtx_fns (i : Nat) (f : Ctx → Ctx) : (s.modCtx i f).fns = s.fns := rfl
@[simp] theorem State.modCtx_rack (i : Nat) (f : Ctx → Ctx) : (s.modCtx i f).rack = s.rack := rfl
@[simp] theorem State.modCtx_mem (i : Nat) (f : Ctx → Ctx) : (s.modCtx i f).mem = s.mem := rfl
@[simp] theorem State.modCtx_poison (i : Nat) (f : Ctx → Ctx) : (s.modCtx i f).poison = s.poison := rfl
@[simp] theorem State.modCtx_hist (i : Nat) (f : Ctx → Ctx) : (s.modCtx i f).hist = s.hist := rfl
@[simp] theorem State.modCtx_ops (i : Nat) (f : Ctx → Ctx) : (s.modCtx i f).ops = s.ops := rfl
@[simp] theorem State.modCtx_deferred (i : Nat) (f : Ctx → Ctx) : (s.modCtx i f).deferred = s.deferred := rfl
@[simp] theorem State.modCtx_watches (i : Nat) (f : Ctx → Ctx) : (s.modCtx i f).watches = s.watches := rfl
@[simp] theorem State.modCtx_copySco (i : Nat) (f : Ctx → Ctx) : (s.modCtx i f).copySco = s.copySco := rfl
@[simp] theorem State.modCtx_owed (i : Nat) (f : Ctx → Ctx) : (s.modCtx i f).owed = s.owed := rfl
@[simp] theorem State.modCtx_inputs (i : Nat) (f : Ctx → Ctx) : (s.modCtx i f).inputs = s.inputs := rfl
@[simp] theorem State.modCtx_held (i : Nat) (f : Ctx → Ctx) : (s.modCtx i f).held = s.held := rfl
@[simp] theorem State.modCtx_seqs (i : Nat) (f : Ctx → Ctx) : (s.modCtx i f).seqs = s.seqs := rfl
@[simp] theorem State.modCtx_pending (i : Nat) (f : Ctx → Ctx) : (s.modCtx i f).pending = s.pending := rfl
@[simp] theorem State.modCtx_order (i : Nat) (f : Ctx → Ctx) : (s.modCtx i f).order = s.order := rfl
@[simp] theorem State.modCtx_turn (i : Nat) (f : Ctx → Ctx) : (s.modCtx i f).turn = s.turn := rfl
@[simp] theorem State.modCtx_seq (i : Nat) (f : Ctx → Ctx) : (s.modCtx i f).seq = s.seq := rfl
@[simp] theorem State.modCtx_free (i : Nat) (f : Ctx → Ctx) : (s.modCtx i f).free = s.free := rfl
@[simp] theorem State.modCtx_outbox (i : Nat) (f : Ctx → Ctx) : (s.modCtx i f).outbox = s.outbox := rfl

@[simp] theorem State.modCore_wave (i : CoreId) (f : Core → Core) : (s.modCore i f).wave = s.wave := rfl
@[simp] theorem State.modCore_waves (i : CoreId) (f : Core → Core) : (s.modCore i f).waves = s.waves := rfl
@[simp] theorem State.modCore_blks (i : CoreId) (f : Core → Core) : (s.modCore i f).blks = s.blks := rfl
@[simp] theorem State.modCore_dies (i : CoreId) (f : Core → Core) : (s.modCore i f).dies = s.dies := rfl
@[simp] theorem State.modCore_homes (i : CoreId) (f : Core → Core) : (s.modCore i f).homes = s.homes := rfl
@[simp] theorem State.modCore_entries (i : CoreId) (f : Core → Core) : (s.modCore i f).entries = s.entries := rfl
@[simp] theorem State.modCore_pageops (i : CoreId) (f : Core → Core) : (s.modCore i f).pageops = s.pageops := rfl
@[simp] theorem State.modCore_pkgs (i : CoreId) (f : Core → Core) : (s.modCore i f).pkgs = s.pkgs := rfl
@[simp] theorem State.modCore_ctxs (i : CoreId) (f : Core → Core) : (s.modCore i f).ctxs = s.ctxs := rfl
@[simp] theorem State.modCore_fns (i : CoreId) (f : Core → Core) : (s.modCore i f).fns = s.fns := rfl
@[simp] theorem State.modCore_rack (i : CoreId) (f : Core → Core) : (s.modCore i f).rack = s.rack := rfl
@[simp] theorem State.modCore_mem (i : CoreId) (f : Core → Core) : (s.modCore i f).mem = s.mem := rfl
@[simp] theorem State.modCore_poison (i : CoreId) (f : Core → Core) : (s.modCore i f).poison = s.poison := rfl
@[simp] theorem State.modCore_hist (i : CoreId) (f : Core → Core) : (s.modCore i f).hist = s.hist := rfl
@[simp] theorem State.modCore_ops (i : CoreId) (f : Core → Core) : (s.modCore i f).ops = s.ops := rfl
@[simp] theorem State.modCore_deferred (i : CoreId) (f : Core → Core) : (s.modCore i f).deferred = s.deferred := rfl
@[simp] theorem State.modCore_watches (i : CoreId) (f : Core → Core) : (s.modCore i f).watches = s.watches := rfl
@[simp] theorem State.modCore_copySco (i : CoreId) (f : Core → Core) : (s.modCore i f).copySco = s.copySco := rfl
@[simp] theorem State.modCore_owed (i : CoreId) (f : Core → Core) : (s.modCore i f).owed = s.owed := rfl
@[simp] theorem State.modCore_inputs (i : CoreId) (f : Core → Core) : (s.modCore i f).inputs = s.inputs := rfl
@[simp] theorem State.modCore_held (i : CoreId) (f : Core → Core) : (s.modCore i f).held = s.held := rfl
@[simp] theorem State.modCore_seqs (i : CoreId) (f : Core → Core) : (s.modCore i f).seqs = s.seqs := rfl
@[simp] theorem State.modCore_pending (i : CoreId) (f : Core → Core) : (s.modCore i f).pending = s.pending := rfl
@[simp] theorem State.modCore_order (i : CoreId) (f : Core → Core) : (s.modCore i f).order = s.order := rfl
@[simp] theorem State.modCore_turn (i : CoreId) (f : Core → Core) : (s.modCore i f).turn = s.turn := rfl
@[simp] theorem State.modCore_seq (i : CoreId) (f : Core → Core) : (s.modCore i f).seq = s.seq := rfl
@[simp] theorem State.modCore_free (i : CoreId) (f : Core → Core) : (s.modCore i f).free = s.free := rfl
@[simp] theorem State.modCore_outbox (i : CoreId) (f : Core → Core) : (s.modCore i f).outbox = s.outbox := rfl

@[simp] theorem State.modDie_wave (p d : Nat) (f : Die → Die) : (s.modDie p d f).wave = s.wave := rfl
@[simp] theorem State.modDie_waves (p d : Nat) (f : Die → Die) : (s.modDie p d f).waves = s.waves := rfl
@[simp] theorem State.modDie_blks (p d : Nat) (f : Die → Die) : (s.modDie p d f).blks = s.blks := rfl
@[simp] theorem State.modDie_cores (p d : Nat) (f : Die → Die) : (s.modDie p d f).cores = s.cores := rfl
@[simp] theorem State.modDie_homes (p d : Nat) (f : Die → Die) : (s.modDie p d f).homes = s.homes := rfl
@[simp] theorem State.modDie_entries (p d : Nat) (f : Die → Die) : (s.modDie p d f).entries = s.entries := rfl
@[simp] theorem State.modDie_pageops (p d : Nat) (f : Die → Die) : (s.modDie p d f).pageops = s.pageops := rfl
@[simp] theorem State.modDie_pkgs (p d : Nat) (f : Die → Die) : (s.modDie p d f).pkgs = s.pkgs := rfl
@[simp] theorem State.modDie_ctxs (p d : Nat) (f : Die → Die) : (s.modDie p d f).ctxs = s.ctxs := rfl
@[simp] theorem State.modDie_fns (p d : Nat) (f : Die → Die) : (s.modDie p d f).fns = s.fns := rfl
@[simp] theorem State.modDie_rack (p d : Nat) (f : Die → Die) : (s.modDie p d f).rack = s.rack := rfl
@[simp] theorem State.modDie_mem (p d : Nat) (f : Die → Die) : (s.modDie p d f).mem = s.mem := rfl
@[simp] theorem State.modDie_poison (p d : Nat) (f : Die → Die) : (s.modDie p d f).poison = s.poison := rfl
@[simp] theorem State.modDie_hist (p d : Nat) (f : Die → Die) : (s.modDie p d f).hist = s.hist := rfl
@[simp] theorem State.modDie_ops (p d : Nat) (f : Die → Die) : (s.modDie p d f).ops = s.ops := rfl
@[simp] theorem State.modDie_deferred (p d : Nat) (f : Die → Die) : (s.modDie p d f).deferred = s.deferred := rfl
@[simp] theorem State.modDie_watches (p d : Nat) (f : Die → Die) : (s.modDie p d f).watches = s.watches := rfl
@[simp] theorem State.modDie_copySco (p d : Nat) (f : Die → Die) : (s.modDie p d f).copySco = s.copySco := rfl
@[simp] theorem State.modDie_owed (p d : Nat) (f : Die → Die) : (s.modDie p d f).owed = s.owed := rfl
@[simp] theorem State.modDie_inputs (p d : Nat) (f : Die → Die) : (s.modDie p d f).inputs = s.inputs := rfl
@[simp] theorem State.modDie_held (p d : Nat) (f : Die → Die) : (s.modDie p d f).held = s.held := rfl
@[simp] theorem State.modDie_seqs (p d : Nat) (f : Die → Die) : (s.modDie p d f).seqs = s.seqs := rfl
@[simp] theorem State.modDie_pending (p d : Nat) (f : Die → Die) : (s.modDie p d f).pending = s.pending := rfl
@[simp] theorem State.modDie_order (p d : Nat) (f : Die → Die) : (s.modDie p d f).order = s.order := rfl
@[simp] theorem State.modDie_turn (p d : Nat) (f : Die → Die) : (s.modDie p d f).turn = s.turn := rfl
@[simp] theorem State.modDie_seq (p d : Nat) (f : Die → Die) : (s.modDie p d f).seq = s.seq := rfl
@[simp] theorem State.modDie_free (p d : Nat) (f : Die → Die) : (s.modDie p d f).free = s.free := rfl
@[simp] theorem State.modDie_outbox (p d : Nat) (f : Die → Die) : (s.modDie p d f).outbox = s.outbox := rfl

@[simp] theorem State.modHome_wave (h : HomeId) (f : Home → Home) : (s.modHome h f).wave = s.wave := rfl
@[simp] theorem State.modHome_waves (h : HomeId) (f : Home → Home) : (s.modHome h f).waves = s.waves := rfl
@[simp] theorem State.modHome_blks (h : HomeId) (f : Home → Home) : (s.modHome h f).blks = s.blks := rfl
@[simp] theorem State.modHome_cores (h : HomeId) (f : Home → Home) : (s.modHome h f).cores = s.cores := rfl
@[simp] theorem State.modHome_dies (h : HomeId) (f : Home → Home) : (s.modHome h f).dies = s.dies := rfl
@[simp] theorem State.modHome_entries (h : HomeId) (f : Home → Home) : (s.modHome h f).entries = s.entries := rfl
@[simp] theorem State.modHome_pageops (h : HomeId) (f : Home → Home) : (s.modHome h f).pageops = s.pageops := rfl
@[simp] theorem State.modHome_pkgs (h : HomeId) (f : Home → Home) : (s.modHome h f).pkgs = s.pkgs := rfl
@[simp] theorem State.modHome_ctxs (h : HomeId) (f : Home → Home) : (s.modHome h f).ctxs = s.ctxs := rfl
@[simp] theorem State.modHome_fns (h : HomeId) (f : Home → Home) : (s.modHome h f).fns = s.fns := rfl
@[simp] theorem State.modHome_rack (h : HomeId) (f : Home → Home) : (s.modHome h f).rack = s.rack := rfl
@[simp] theorem State.modHome_mem (h : HomeId) (f : Home → Home) : (s.modHome h f).mem = s.mem := rfl
@[simp] theorem State.modHome_poison (h : HomeId) (f : Home → Home) : (s.modHome h f).poison = s.poison := rfl
@[simp] theorem State.modHome_hist (h : HomeId) (f : Home → Home) : (s.modHome h f).hist = s.hist := rfl
@[simp] theorem State.modHome_ops (h : HomeId) (f : Home → Home) : (s.modHome h f).ops = s.ops := rfl
@[simp] theorem State.modHome_deferred (h : HomeId) (f : Home → Home) : (s.modHome h f).deferred = s.deferred := rfl
@[simp] theorem State.modHome_watches (h : HomeId) (f : Home → Home) : (s.modHome h f).watches = s.watches := rfl
@[simp] theorem State.modHome_copySco (h : HomeId) (f : Home → Home) : (s.modHome h f).copySco = s.copySco := rfl
@[simp] theorem State.modHome_owed (h : HomeId) (f : Home → Home) : (s.modHome h f).owed = s.owed := rfl
@[simp] theorem State.modHome_inputs (h : HomeId) (f : Home → Home) : (s.modHome h f).inputs = s.inputs := rfl
@[simp] theorem State.modHome_held (h : HomeId) (f : Home → Home) : (s.modHome h f).held = s.held := rfl
@[simp] theorem State.modHome_seqs (h : HomeId) (f : Home → Home) : (s.modHome h f).seqs = s.seqs := rfl
@[simp] theorem State.modHome_pending (h : HomeId) (f : Home → Home) : (s.modHome h f).pending = s.pending := rfl
@[simp] theorem State.modHome_order (h : HomeId) (f : Home → Home) : (s.modHome h f).order = s.order := rfl
@[simp] theorem State.modHome_turn (h : HomeId) (f : Home → Home) : (s.modHome h f).turn = s.turn := rfl
@[simp] theorem State.modHome_seq (h : HomeId) (f : Home → Home) : (s.modHome h f).seq = s.seq := rfl
@[simp] theorem State.modHome_free (h : HomeId) (f : Home → Home) : (s.modHome h f).free = s.free := rfl
@[simp] theorem State.modHome_outbox (h : HomeId) (f : Home → Home) : (s.modHome h f).outbox = s.outbox := rfl

@[simp] theorem State.modPkg_wave (p : Nat) (f : Pkg → Pkg) : (s.modPkg p f).wave = s.wave := rfl
@[simp] theorem State.modPkg_waves (p : Nat) (f : Pkg → Pkg) : (s.modPkg p f).waves = s.waves := rfl
@[simp] theorem State.modPkg_blks (p : Nat) (f : Pkg → Pkg) : (s.modPkg p f).blks = s.blks := rfl
@[simp] theorem State.modPkg_cores (p : Nat) (f : Pkg → Pkg) : (s.modPkg p f).cores = s.cores := rfl
@[simp] theorem State.modPkg_dies (p : Nat) (f : Pkg → Pkg) : (s.modPkg p f).dies = s.dies := rfl
@[simp] theorem State.modPkg_homes (p : Nat) (f : Pkg → Pkg) : (s.modPkg p f).homes = s.homes := rfl
@[simp] theorem State.modPkg_entries (p : Nat) (f : Pkg → Pkg) : (s.modPkg p f).entries = s.entries := rfl
@[simp] theorem State.modPkg_pageops (p : Nat) (f : Pkg → Pkg) : (s.modPkg p f).pageops = s.pageops := rfl
@[simp] theorem State.modPkg_ctxs (p : Nat) (f : Pkg → Pkg) : (s.modPkg p f).ctxs = s.ctxs := rfl
@[simp] theorem State.modPkg_fns (p : Nat) (f : Pkg → Pkg) : (s.modPkg p f).fns = s.fns := rfl
@[simp] theorem State.modPkg_rack (p : Nat) (f : Pkg → Pkg) : (s.modPkg p f).rack = s.rack := rfl
@[simp] theorem State.modPkg_mem (p : Nat) (f : Pkg → Pkg) : (s.modPkg p f).mem = s.mem := rfl
@[simp] theorem State.modPkg_poison (p : Nat) (f : Pkg → Pkg) : (s.modPkg p f).poison = s.poison := rfl
@[simp] theorem State.modPkg_hist (p : Nat) (f : Pkg → Pkg) : (s.modPkg p f).hist = s.hist := rfl
@[simp] theorem State.modPkg_ops (p : Nat) (f : Pkg → Pkg) : (s.modPkg p f).ops = s.ops := rfl
@[simp] theorem State.modPkg_deferred (p : Nat) (f : Pkg → Pkg) : (s.modPkg p f).deferred = s.deferred := rfl
@[simp] theorem State.modPkg_watches (p : Nat) (f : Pkg → Pkg) : (s.modPkg p f).watches = s.watches := rfl
@[simp] theorem State.modPkg_copySco (p : Nat) (f : Pkg → Pkg) : (s.modPkg p f).copySco = s.copySco := rfl
@[simp] theorem State.modPkg_owed (p : Nat) (f : Pkg → Pkg) : (s.modPkg p f).owed = s.owed := rfl
@[simp] theorem State.modPkg_inputs (p : Nat) (f : Pkg → Pkg) : (s.modPkg p f).inputs = s.inputs := rfl
@[simp] theorem State.modPkg_held (p : Nat) (f : Pkg → Pkg) : (s.modPkg p f).held = s.held := rfl
@[simp] theorem State.modPkg_seqs (p : Nat) (f : Pkg → Pkg) : (s.modPkg p f).seqs = s.seqs := rfl
@[simp] theorem State.modPkg_pending (p : Nat) (f : Pkg → Pkg) : (s.modPkg p f).pending = s.pending := rfl
@[simp] theorem State.modPkg_order (p : Nat) (f : Pkg → Pkg) : (s.modPkg p f).order = s.order := rfl
@[simp] theorem State.modPkg_turn (p : Nat) (f : Pkg → Pkg) : (s.modPkg p f).turn = s.turn := rfl
@[simp] theorem State.modPkg_seq (p : Nat) (f : Pkg → Pkg) : (s.modPkg p f).seq = s.seq := rfl
@[simp] theorem State.modPkg_free (p : Nat) (f : Pkg → Pkg) : (s.modPkg p f).free = s.free := rfl
@[simp] theorem State.modPkg_outbox (p : Nat) (f : Pkg → Pkg) : (s.modPkg p f).outbox = s.outbox := rfl

@[simp] theorem State.modFn_wave (n : Nat) (f : Fn → Fn) : (s.modFn n f).wave = s.wave := rfl
@[simp] theorem State.modFn_waves (n : Nat) (f : Fn → Fn) : (s.modFn n f).waves = s.waves := rfl
@[simp] theorem State.modFn_blks (n : Nat) (f : Fn → Fn) : (s.modFn n f).blks = s.blks := rfl
@[simp] theorem State.modFn_cores (n : Nat) (f : Fn → Fn) : (s.modFn n f).cores = s.cores := rfl
@[simp] theorem State.modFn_dies (n : Nat) (f : Fn → Fn) : (s.modFn n f).dies = s.dies := rfl
@[simp] theorem State.modFn_homes (n : Nat) (f : Fn → Fn) : (s.modFn n f).homes = s.homes := rfl
@[simp] theorem State.modFn_entries (n : Nat) (f : Fn → Fn) : (s.modFn n f).entries = s.entries := rfl
@[simp] theorem State.modFn_pageops (n : Nat) (f : Fn → Fn) : (s.modFn n f).pageops = s.pageops := rfl
@[simp] theorem State.modFn_pkgs (n : Nat) (f : Fn → Fn) : (s.modFn n f).pkgs = s.pkgs := rfl
@[simp] theorem State.modFn_ctxs (n : Nat) (f : Fn → Fn) : (s.modFn n f).ctxs = s.ctxs := rfl
@[simp] theorem State.modFn_rack (n : Nat) (f : Fn → Fn) : (s.modFn n f).rack = s.rack := rfl
@[simp] theorem State.modFn_mem (n : Nat) (f : Fn → Fn) : (s.modFn n f).mem = s.mem := rfl
@[simp] theorem State.modFn_poison (n : Nat) (f : Fn → Fn) : (s.modFn n f).poison = s.poison := rfl
@[simp] theorem State.modFn_hist (n : Nat) (f : Fn → Fn) : (s.modFn n f).hist = s.hist := rfl
@[simp] theorem State.modFn_ops (n : Nat) (f : Fn → Fn) : (s.modFn n f).ops = s.ops := rfl
@[simp] theorem State.modFn_deferred (n : Nat) (f : Fn → Fn) : (s.modFn n f).deferred = s.deferred := rfl
@[simp] theorem State.modFn_watches (n : Nat) (f : Fn → Fn) : (s.modFn n f).watches = s.watches := rfl
@[simp] theorem State.modFn_copySco (n : Nat) (f : Fn → Fn) : (s.modFn n f).copySco = s.copySco := rfl
@[simp] theorem State.modFn_owed (n : Nat) (f : Fn → Fn) : (s.modFn n f).owed = s.owed := rfl
@[simp] theorem State.modFn_inputs (n : Nat) (f : Fn → Fn) : (s.modFn n f).inputs = s.inputs := rfl
@[simp] theorem State.modFn_held (n : Nat) (f : Fn → Fn) : (s.modFn n f).held = s.held := rfl
@[simp] theorem State.modFn_seqs (n : Nat) (f : Fn → Fn) : (s.modFn n f).seqs = s.seqs := rfl
@[simp] theorem State.modFn_pending (n : Nat) (f : Fn → Fn) : (s.modFn n f).pending = s.pending := rfl
@[simp] theorem State.modFn_order (n : Nat) (f : Fn → Fn) : (s.modFn n f).order = s.order := rfl
@[simp] theorem State.modFn_turn (n : Nat) (f : Fn → Fn) : (s.modFn n f).turn = s.turn := rfl
@[simp] theorem State.modFn_seq (n : Nat) (f : Fn → Fn) : (s.modFn n f).seq = s.seq := rfl
@[simp] theorem State.modFn_free (n : Nat) (f : Fn → Fn) : (s.modFn n f).free = s.free := rfl
@[simp] theorem State.modFn_outbox (n : Nat) (f : Fn → Fn) : (s.modFn n f).outbox = s.outbox := rfl

@[simp] theorem State.modOp_wave (i : Nat) (f : Op → Op) : (s.modOp i f).wave = s.wave := rfl
@[simp] theorem State.modOp_waves (i : Nat) (f : Op → Op) : (s.modOp i f).waves = s.waves := rfl
@[simp] theorem State.modOp_blks (i : Nat) (f : Op → Op) : (s.modOp i f).blks = s.blks := rfl
@[simp] theorem State.modOp_cores (i : Nat) (f : Op → Op) : (s.modOp i f).cores = s.cores := rfl
@[simp] theorem State.modOp_dies (i : Nat) (f : Op → Op) : (s.modOp i f).dies = s.dies := rfl
@[simp] theorem State.modOp_homes (i : Nat) (f : Op → Op) : (s.modOp i f).homes = s.homes := rfl
@[simp] theorem State.modOp_entries (i : Nat) (f : Op → Op) : (s.modOp i f).entries = s.entries := rfl
@[simp] theorem State.modOp_pageops (i : Nat) (f : Op → Op) : (s.modOp i f).pageops = s.pageops := rfl
@[simp] theorem State.modOp_pkgs (i : Nat) (f : Op → Op) : (s.modOp i f).pkgs = s.pkgs := rfl
@[simp] theorem State.modOp_ctxs (i : Nat) (f : Op → Op) : (s.modOp i f).ctxs = s.ctxs := rfl
@[simp] theorem State.modOp_fns (i : Nat) (f : Op → Op) : (s.modOp i f).fns = s.fns := rfl
@[simp] theorem State.modOp_rack (i : Nat) (f : Op → Op) : (s.modOp i f).rack = s.rack := rfl
@[simp] theorem State.modOp_mem (i : Nat) (f : Op → Op) : (s.modOp i f).mem = s.mem := rfl
@[simp] theorem State.modOp_poison (i : Nat) (f : Op → Op) : (s.modOp i f).poison = s.poison := rfl
@[simp] theorem State.modOp_hist (i : Nat) (f : Op → Op) : (s.modOp i f).hist = s.hist := rfl
@[simp] theorem State.modOp_deferred (i : Nat) (f : Op → Op) : (s.modOp i f).deferred = s.deferred := rfl
@[simp] theorem State.modOp_watches (i : Nat) (f : Op → Op) : (s.modOp i f).watches = s.watches := rfl
@[simp] theorem State.modOp_copySco (i : Nat) (f : Op → Op) : (s.modOp i f).copySco = s.copySco := rfl
@[simp] theorem State.modOp_owed (i : Nat) (f : Op → Op) : (s.modOp i f).owed = s.owed := rfl
@[simp] theorem State.modOp_inputs (i : Nat) (f : Op → Op) : (s.modOp i f).inputs = s.inputs := rfl
@[simp] theorem State.modOp_held (i : Nat) (f : Op → Op) : (s.modOp i f).held = s.held := rfl
@[simp] theorem State.modOp_seqs (i : Nat) (f : Op → Op) : (s.modOp i f).seqs = s.seqs := rfl
@[simp] theorem State.modOp_pending (i : Nat) (f : Op → Op) : (s.modOp i f).pending = s.pending := rfl
@[simp] theorem State.modOp_order (i : Nat) (f : Op → Op) : (s.modOp i f).order = s.order := rfl
@[simp] theorem State.modOp_turn (i : Nat) (f : Op → Op) : (s.modOp i f).turn = s.turn := rfl
@[simp] theorem State.modOp_seq (i : Nat) (f : Op → Op) : (s.modOp i f).seq = s.seq := rfl
@[simp] theorem State.modOp_free (i : Nat) (f : Op → Op) : (s.modOp i f).free = s.free := rfl
@[simp] theorem State.modOp_outbox (i : Nat) (f : Op → Op) : (s.modOp i f).outbox = s.outbox := rfl

@[simp] theorem State.modEntry_wave (h : HomeId) (a : Nat) (f : Entry → Entry) : (s.modEntry h a f).wave = s.wave := rfl
@[simp] theorem State.modEntry_waves (h : HomeId) (a : Nat) (f : Entry → Entry) : (s.modEntry h a f).waves = s.waves := rfl
@[simp] theorem State.modEntry_blks (h : HomeId) (a : Nat) (f : Entry → Entry) : (s.modEntry h a f).blks = s.blks := rfl
@[simp] theorem State.modEntry_cores (h : HomeId) (a : Nat) (f : Entry → Entry) : (s.modEntry h a f).cores = s.cores := rfl
@[simp] theorem State.modEntry_dies (h : HomeId) (a : Nat) (f : Entry → Entry) : (s.modEntry h a f).dies = s.dies := rfl
@[simp] theorem State.modEntry_homes (h : HomeId) (a : Nat) (f : Entry → Entry) : (s.modEntry h a f).homes = s.homes := rfl
@[simp] theorem State.modEntry_pageops (h : HomeId) (a : Nat) (f : Entry → Entry) : (s.modEntry h a f).pageops = s.pageops := rfl
@[simp] theorem State.modEntry_pkgs (h : HomeId) (a : Nat) (f : Entry → Entry) : (s.modEntry h a f).pkgs = s.pkgs := rfl
@[simp] theorem State.modEntry_ctxs (h : HomeId) (a : Nat) (f : Entry → Entry) : (s.modEntry h a f).ctxs = s.ctxs := rfl
@[simp] theorem State.modEntry_fns (h : HomeId) (a : Nat) (f : Entry → Entry) : (s.modEntry h a f).fns = s.fns := rfl
@[simp] theorem State.modEntry_rack (h : HomeId) (a : Nat) (f : Entry → Entry) : (s.modEntry h a f).rack = s.rack := rfl
@[simp] theorem State.modEntry_mem (h : HomeId) (a : Nat) (f : Entry → Entry) : (s.modEntry h a f).mem = s.mem := rfl
@[simp] theorem State.modEntry_poison (h : HomeId) (a : Nat) (f : Entry → Entry) : (s.modEntry h a f).poison = s.poison := rfl
@[simp] theorem State.modEntry_hist (h : HomeId) (a : Nat) (f : Entry → Entry) : (s.modEntry h a f).hist = s.hist := rfl
@[simp] theorem State.modEntry_ops (h : HomeId) (a : Nat) (f : Entry → Entry) : (s.modEntry h a f).ops = s.ops := rfl
@[simp] theorem State.modEntry_deferred (h : HomeId) (a : Nat) (f : Entry → Entry) : (s.modEntry h a f).deferred = s.deferred := rfl
@[simp] theorem State.modEntry_watches (h : HomeId) (a : Nat) (f : Entry → Entry) : (s.modEntry h a f).watches = s.watches := rfl
@[simp] theorem State.modEntry_copySco (h : HomeId) (a : Nat) (f : Entry → Entry) : (s.modEntry h a f).copySco = s.copySco := rfl
@[simp] theorem State.modEntry_owed (h : HomeId) (a : Nat) (f : Entry → Entry) : (s.modEntry h a f).owed = s.owed := rfl
@[simp] theorem State.modEntry_inputs (h : HomeId) (a : Nat) (f : Entry → Entry) : (s.modEntry h a f).inputs = s.inputs := rfl
@[simp] theorem State.modEntry_held (h : HomeId) (a : Nat) (f : Entry → Entry) : (s.modEntry h a f).held = s.held := rfl
@[simp] theorem State.modEntry_seqs (h : HomeId) (a : Nat) (f : Entry → Entry) : (s.modEntry h a f).seqs = s.seqs := rfl
@[simp] theorem State.modEntry_pending (h : HomeId) (a : Nat) (f : Entry → Entry) : (s.modEntry h a f).pending = s.pending := rfl
@[simp] theorem State.modEntry_order (h : HomeId) (a : Nat) (f : Entry → Entry) : (s.modEntry h a f).order = s.order := rfl
@[simp] theorem State.modEntry_turn (h : HomeId) (a : Nat) (f : Entry → Entry) : (s.modEntry h a f).turn = s.turn := rfl
@[simp] theorem State.modEntry_seq (h : HomeId) (a : Nat) (f : Entry → Entry) : (s.modEntry h a f).seq = s.seq := rfl
@[simp] theorem State.modEntry_free (h : HomeId) (a : Nat) (f : Entry → Entry) : (s.modEntry h a f).free = s.free := rfl
@[simp] theorem State.modEntry_outbox (h : HomeId) (a : Nat) (f : Entry → Entry) : (s.modEntry h a f).outbox = s.outbox := rfl

@[simp] theorem State.due_wave (l : List Instr) : (s.due l).wave = s.wave := rfl
@[simp] theorem State.due_waves (l : List Instr) : (s.due l).waves = s.waves := rfl
@[simp] theorem State.due_blks (l : List Instr) : (s.due l).blks = s.blks := rfl
@[simp] theorem State.due_cores (l : List Instr) : (s.due l).cores = s.cores := rfl
@[simp] theorem State.due_dies (l : List Instr) : (s.due l).dies = s.dies := rfl
@[simp] theorem State.due_homes (l : List Instr) : (s.due l).homes = s.homes := rfl
@[simp] theorem State.due_entries (l : List Instr) : (s.due l).entries = s.entries := rfl
@[simp] theorem State.due_pageops (l : List Instr) : (s.due l).pageops = s.pageops := rfl
@[simp] theorem State.due_pkgs (l : List Instr) : (s.due l).pkgs = s.pkgs := rfl
@[simp] theorem State.due_ctxs (l : List Instr) : (s.due l).ctxs = s.ctxs := rfl
@[simp] theorem State.due_fns (l : List Instr) : (s.due l).fns = s.fns := rfl
@[simp] theorem State.due_rack (l : List Instr) : (s.due l).rack = s.rack := rfl
@[simp] theorem State.due_mem (l : List Instr) : (s.due l).mem = s.mem := rfl
@[simp] theorem State.due_poison (l : List Instr) : (s.due l).poison = s.poison := rfl
@[simp] theorem State.due_hist (l : List Instr) : (s.due l).hist = s.hist := rfl
@[simp] theorem State.due_ops (l : List Instr) : (s.due l).ops = s.ops := rfl
@[simp] theorem State.due_deferred (l : List Instr) : (s.due l).deferred = s.deferred := rfl
@[simp] theorem State.due_watches (l : List Instr) : (s.due l).watches = s.watches := rfl
@[simp] theorem State.due_copySco (l : List Instr) : (s.due l).copySco = s.copySco := rfl
@[simp] theorem State.due_owed (l : List Instr) : (s.due l).owed = s.owed := rfl
@[simp] theorem State.due_inputs (l : List Instr) : (s.due l).inputs = s.inputs := rfl
@[simp] theorem State.due_held (l : List Instr) : (s.due l).held = s.held := rfl
@[simp] theorem State.due_seqs (l : List Instr) : (s.due l).seqs = s.seqs := rfl
@[simp] theorem State.due_order (l : List Instr) : (s.due l).order = s.order := rfl
@[simp] theorem State.due_turn (l : List Instr) : (s.due l).turn = s.turn := rfl
@[simp] theorem State.due_seq (l : List Instr) : (s.due l).seq = s.seq := rfl
@[simp] theorem State.due_free (l : List Instr) : (s.due l).free = s.free := rfl
@[simp] theorem State.due_outbox (l : List Instr) : (s.due l).outbox = s.outbox := rfl

@[simp] theorem State.memWrite_wave (k : Nat) (l : List Byte) : (s.memWrite k l).wave = s.wave := rfl
@[simp] theorem State.memWrite_waves (k : Nat) (l : List Byte) : (s.memWrite k l).waves = s.waves := rfl
@[simp] theorem State.memWrite_blks (k : Nat) (l : List Byte) : (s.memWrite k l).blks = s.blks := rfl
@[simp] theorem State.memWrite_cores (k : Nat) (l : List Byte) : (s.memWrite k l).cores = s.cores := rfl
@[simp] theorem State.memWrite_dies (k : Nat) (l : List Byte) : (s.memWrite k l).dies = s.dies := rfl
@[simp] theorem State.memWrite_homes (k : Nat) (l : List Byte) : (s.memWrite k l).homes = s.homes := rfl
@[simp] theorem State.memWrite_entries (k : Nat) (l : List Byte) : (s.memWrite k l).entries = s.entries := rfl
@[simp] theorem State.memWrite_pageops (k : Nat) (l : List Byte) : (s.memWrite k l).pageops = s.pageops := rfl
@[simp] theorem State.memWrite_pkgs (k : Nat) (l : List Byte) : (s.memWrite k l).pkgs = s.pkgs := rfl
@[simp] theorem State.memWrite_ctxs (k : Nat) (l : List Byte) : (s.memWrite k l).ctxs = s.ctxs := rfl
@[simp] theorem State.memWrite_fns (k : Nat) (l : List Byte) : (s.memWrite k l).fns = s.fns := rfl
@[simp] theorem State.memWrite_rack (k : Nat) (l : List Byte) : (s.memWrite k l).rack = s.rack := rfl
@[simp] theorem State.memWrite_poison (k : Nat) (l : List Byte) : (s.memWrite k l).poison = s.poison := rfl
@[simp] theorem State.memWrite_hist (k : Nat) (l : List Byte) : (s.memWrite k l).hist = s.hist := rfl
@[simp] theorem State.memWrite_ops (k : Nat) (l : List Byte) : (s.memWrite k l).ops = s.ops := rfl
@[simp] theorem State.memWrite_deferred (k : Nat) (l : List Byte) : (s.memWrite k l).deferred = s.deferred := rfl
@[simp] theorem State.memWrite_watches (k : Nat) (l : List Byte) : (s.memWrite k l).watches = s.watches := rfl
@[simp] theorem State.memWrite_copySco (k : Nat) (l : List Byte) : (s.memWrite k l).copySco = s.copySco := rfl
@[simp] theorem State.memWrite_owed (k : Nat) (l : List Byte) : (s.memWrite k l).owed = s.owed := rfl
@[simp] theorem State.memWrite_inputs (k : Nat) (l : List Byte) : (s.memWrite k l).inputs = s.inputs := rfl
@[simp] theorem State.memWrite_held (k : Nat) (l : List Byte) : (s.memWrite k l).held = s.held := rfl
@[simp] theorem State.memWrite_seqs (k : Nat) (l : List Byte) : (s.memWrite k l).seqs = s.seqs := rfl
@[simp] theorem State.memWrite_pending (k : Nat) (l : List Byte) : (s.memWrite k l).pending = s.pending := rfl
@[simp] theorem State.memWrite_order (k : Nat) (l : List Byte) : (s.memWrite k l).order = s.order := rfl
@[simp] theorem State.memWrite_turn (k : Nat) (l : List Byte) : (s.memWrite k l).turn = s.turn := rfl
@[simp] theorem State.memWrite_seq (k : Nat) (l : List Byte) : (s.memWrite k l).seq = s.seq := rfl
@[simp] theorem State.memWrite_free (k : Nat) (l : List Byte) : (s.memWrite k l).free = s.free := rfl
@[simp] theorem State.memWrite_outbox (k : Nat) (l : List Byte) : (s.memWrite k l).outbox = s.outbox := rfl

@[simp] theorem State.due_pending (l : List Instr) : (s.due l).pending = s.pending ++ l := rfl
@[simp] theorem State.memWrite_mem (k : Nat) (l : List Byte) : (s.memWrite k l).mem = writeBytes s.mem k l := rfl
@[simp] theorem State.choose_state (n : Nat) : (s.choose n).2 = { s with free := s.free + 1 } := rfl
@[simp] theorem State.anyWord_state : s.anyWord.2 = { s with free := s.free + 1 } := rfl

/-! ## Records found after an update -/

theorem State.blk?_modBlk (i : BlkId) (f : Blk → Blk) (hf : ∀ b, b.id = i → (f b).id = i) :
    (s.modBlk i f).blk? i = (s.blk? i).map f :=
  find?_updFirst (by simpa using hf) _

theorem State.ctx?_modCtx (i : Nat) (f : Ctx → Ctx) (hf : ∀ c, c.id = i → (f c).id = i) :
    (s.modCtx i f).ctx? i = (s.ctx? i).map f :=
  find?_updFirst (by simpa using hf) _

theorem State.op?_modOp (i : Nat) (f : Op → Op) (hf : ∀ o, o.id = i → (f o).id = i) :
    (s.modOp i f).op? i = (s.op? i).map f :=
  find?_updFirst (by simpa using hf) _

theorem State.pkg?_modPkg (i : Nat) (f : Pkg → Pkg) (hf : ∀ p, p.id = i → (f p).id = i) :
    (s.modPkg i f).pkg? i = (s.pkg? i).map f :=
  find?_updFirst (by simpa using hf) _

theorem State.fn?_modFn (i : Nat) (f : Fn → Fn) (hf : ∀ x, x.num = i → (f x).num = i) :
    (s.modFn i f).fn? i = (s.fn? i).map f :=
  find?_updFirst (by simpa using hf) _

theorem State.home?_modHome (h : HomeId) (f : Home → Home) (hf : ∀ x, x.id = h → (f x).id = h) :
    (s.modHome h f).home? h = (s.home? h).map f :=
  find?_updFirst (by simpa using hf) _

theorem State.blk?_id {i : BlkId} {b : Blk} (h : s.blk? i = some b) : b.id = i := by
  simpa using List.find?_some h

theorem State.ctx?_id {i : Nat} {c : Ctx} (h : s.ctx? i = some c) : c.id = i := by
  simpa using List.find?_some h

theorem State.op?_id {i : Nat} {o : Op} (h : s.op? i = some o) : o.id = i := by
  simpa using List.find?_some h

theorem State.pkg?_id {i : Nat} {p : Pkg} (h : s.pkg? i = some p) : p.id = i := by
  simpa using List.find?_some h

/-- A field that every step of a fold keeps is kept by the fold. -/
theorem foldl_keeps {α β γ : Type} {g : β → γ} {f : β → α → β} (h : ∀ b a, g (f b a) = g b) (l : List α) (b : β) :
    g (l.foldl f b) = g b := by
  induction l generalizing b with
  | nil => rfl
  | cons a r ih => rw [List.foldl_cons, ih, h]

end

end Sys2Proof.Machine
end

