-- ==== Sys2Proof/Laws/Ops.lean ====
section
/-! SUPPORT. What the shared operations over waves can change: waves, blocks' fates, cores' locks, launches and due events, and nothing
else; and what an operation's answers and completion can change besides. -/

namespace Sys2Proof.Machine

/-- t differs from s at most in waves, blocks, cores, contexts, due events and the count of free values drawn. -/
structure AtWaves (s t : State) : Prop where
  dies : t.dies = s.dies
  homes : t.homes = s.homes
  entries : t.entries = s.entries
  pageops : t.pageops = s.pageops
  pkgs : t.pkgs = s.pkgs
  fns : t.fns = s.fns
  rack : t.rack = s.rack
  mem : t.mem = s.mem
  poison : t.poison = s.poison
  hist : t.hist = s.hist
  ops : t.ops = s.ops
  deferred : t.deferred = s.deferred
  watches : t.watches = s.watches
  copySco : t.copySco = s.copySco
  owed : t.owed = s.owed
  inputs : t.inputs = s.inputs
  held : t.held = s.held
  seqs : t.seqs = s.seqs
  order : t.order = s.order
  turn : t.turn = s.turn
  seq : t.seq = s.seq
  outbox : t.outbox = s.outbox

theorem AtWaves.refl (s : State) : AtWaves s s := by constructor <;> rfl

theorem AtWaves.trans {s t u : State} (h : AtWaves s t) (k : AtWaves t u) : AtWaves s u := by
  constructor <;> first
    | exact k.dies.trans h.dies | exact k.homes.trans h.homes | exact k.entries.trans h.entries | exact k.pageops.trans h.pageops
    | exact k.pkgs.trans h.pkgs | exact k.fns.trans h.fns | exact k.rack.trans h.rack | exact k.mem.trans h.mem
    | exact k.poison.trans h.poison | exact k.hist.trans h.hist | exact k.ops.trans h.ops | exact k.deferred.trans h.deferred
    | exact k.watches.trans h.watches | exact k.copySco.trans h.copySco | exact k.owed.trans h.owed | exact k.inputs.trans h.inputs | exact k.held.trans h.held | exact k.seqs.trans h.seqs | exact k.order.trans h.order
    | exact k.turn.trans h.turn | exact k.seq.trans h.seq | exact k.outbox.trans h.outbox

theorem AtWaves.foldl {α : Type} {f : State → α → State} (hf : ∀ s a, AtWaves s (f s a)) (l : List α) (s : State) :
    AtWaves s (l.foldl f s) := by
  induction l generalizing s with
  | nil => exact .refl s
  | cons a r ih => exact (hf s a).trans (ih _)

theorem ite_atWaves {p : Prop} [Decidable p] {s t u : State} (h : AtWaves s t) (k : AtWaves s u) : AtWaves s (if p then t else u) := by
  split <;> assumption

/-! ## The focus, waves, due events -/

theorem due_atWaves (s : State) (l : List Instr) : AtWaves s (s.due l) := by constructor <;> rfl
theorem modCtx_atWaves (s : State) (i : Nat) (f : Ctx → Ctx) : AtWaves s (s.modCtx i f) := by constructor <;> rfl
theorem modWave_atWaves (s : State) (i : WaveId) (f : Wave → Wave) : AtWaves s (s.modWave i f) := by
  unfold State.modWave
  split <;> constructor <;> rfl
theorem unfocus_atWaves (s : State) : AtWaves s s.unfocus := by
  unfold State.unfocus
  split <;> constructor <;> rfl
theorem focus_atWaves (s : State) (i : WaveId) : AtWaves s (s.focus i) := by
  unfold State.focus
  dsimp only
  split
  · exact (unfocus_atWaves s).trans (by constructor <;> rfl)
  · exact unfocus_atWaves s
theorem dueEnd_atWaves (s : State) (i : WaveId) : AtWaves s (s.dueEnd i) := by
  unfold State.dueEnd
  split
  · exact .refl s
  · exact due_atWaves s _
theorem haltFocus_atWaves (s : State) : AtWaves s s.haltFocus :=
  AtWaves.trans (by constructor <;> rfl) (dueEnd_atWaves { s with wave := { s.wave with run := .halted, clause := none } } _)
theorem stall_atWaves (s : State) : AtWaves s s.stall :=
  ite_atWaves ((haltFocus_atWaves s).trans (unfocus_atWaves _)) (unfocus_atWaves s)
theorem checkEnd_atWaves (s : State) (i : WaveId) : AtWaves s (s.checkEnd i) := by
  unfold State.checkEnd
  split
  · split
    · exact due_atWaves s _
    · exact .refl s
  · exact .refl s
theorem await_atWaves (s : State) : AtWaves s s.await_ := by
  unfold State.await_
  refine AtWaves.trans ?_ (stall_atWaves _)
  constructor <;> rfl

/-! ## Taking a trap, and returning from one (R359 to R366) -/

theorem fatal_atWaves (s : State) (i : WaveId) : AtWaves s (s.fatal i) := by
  unfold State.fatal
  split
  · exact (modWave_atWaves s _ _).trans (dueEnd_atWaves _ _)
  · dsimp only
    refine AtWaves.trans (modWave_atWaves s i fun w => { w with run := .halted, clause := none }) ?_
    refine ite_atWaves ?_ (AtWaves.trans (AtWaves.trans ?_ (due_atWaves _ _)) (modCtx_atWaves _ _ _)) <;>
    · refine AtWaves.trans ?_ (AtWaves.foldl dueEnd_atWaves _ _)
      refine ite_atWaves (AtWaves.trans ?_ (due_atWaves _ _)) ?_ <;> constructor <;> rfl

/-- Taking a trap changes waves, the fate of blocks, Lockring entries and launches, and makes events due; nothing else. -/
theorem takeTrap_atWaves (s : State) (i : WaveId) (r : TrapRec) : AtWaves s (s.takeTrap i r) := by
  unfold State.takeTrap
  dsimp only
  repeat' split
  all_goals first
    | exact modWave_atWaves s _ _
    | exact (modWave_atWaves s _ _).trans (due_atWaves _ _)
    | exact (fatal_atWaves s _).trans (due_atWaves _ _)

theorem trapHere_atWaves (s : State) (code sub : Nat) (a x y : W64) (l : Nat) : AtWaves s (s.trapHere code sub a x y l) :=
  takeTrap_atWaves s _ _

theorem resume_atWaves (s : State) (i : WaveId) : AtWaves s (s.resume i) := modWave_atWaves s i _

theorem ctxDead_atWaves (s : State) (i : WaveId) : AtWaves s (s.ctxDead i) := (modWave_atWaves s i _).trans (dueEnd_atWaves _ _)

/-- A trap of a word always has its record due, but for a Lockring conflict under ALR (R364, R366). -/
theorem takeTrap_due (s : State) (i : WaveId) (r : TrapRec) (h : r.code ≠ 0x06) :
    .trapRecordPost i.blk.ctx r ∈ (s.takeTrap i r).pending := by
  unfold State.takeTrap
  dsimp only
  repeat' split
  all_goals simp_all

/-! ## The end of a word and of a clause -/

theorem boundary_atWaves (s : State) (w : Wave) : AtWaves s (s.boundary w) := by
  unfold State.boundary
  refine ite_atWaves ?_ ?_
  · exact AtWaves.trans (by constructor <;> rfl) (dueEnd_atWaves _ _)
  · constructor <;> rfl

theorem fellTrap_atWaves (s : State) (w : Wave) (va : W64) (l o : Nat) : AtWaves s (s.fellTrap w va l o) := by
  unfold State.fellTrap
  exact takeTrap_atWaves s _ _

/-- Fetching a word, and the test of a branch target, draw free values and change nothing else. -/
theorem fetchWord_atWaves (s : State) (w : Wave) (va : W64) : AtWaves s (s.fetchWord w va).2 := by
  unfold State.fetchWord
  split
  · split
    · exact .refl s
    · constructor <;> rfl
  · exact .refl s

theorem notHeader_atWaves (s : State) (w : Wave) (va : W64) : AtWaves s (s.notHeader w va).2 := by
  have h := fetchWord_atWaves s w va
  unfold State.notHeader
  split
  · exact .refl s
  · split <;> simp_all

theorem badTarget_atWaves (s : State) (w : Wave) (ls : List Nat) (tgt : Nat → W64) : AtWaves s (s.badTarget w ls tgt).2 := by
  induction ls generalizing s with
  | nil => exact .refl s
  | cons l r ih =>
    have h := notHeader_atWaves s w (tgt l)
    unfold State.badTarget
    dsimp only
    split
    · exact h
    · exact h.trans (ih _)

theorem leave_atWaves (s : State) (c : Clause) (f : Wave → Wave) (l : List Nat) : AtWaves s (s.leave c f l) := by
  have hb := fun w => boundary_atWaves s w
  have hm : ∀ (t : State) (w : Wave), AtWaves t { t with wave := w } := fun t w => by constructor <;> rfl
  have hn : ∀ (t : State) (p : Bool) (w : Wave) (a : W64), AtWaves s t → AtWaves s (if p then t.notHeader w a else (false, t)).2 := by
    intro t p w a h
    split
    · exact h.trans (notHeader_atWaves _ _ _)
    · exact h
  unfold State.leave
  extract_lets w live w1 t mark t'
  split
  · exact hb _
  · have ht : AtWaves s t' := (hb _).trans (hm _ _)
    have h := hn t' (t'.wave.run == .run) w c.next ht
    generalize (if (t'.wave.run == .run) = true then t'.notHeader w c.next else (false, t')) = x at h ⊢
    obtain ⟨bad, u⟩ := x
    exact ite_atWaves (h.trans (fellTrap_atWaves _ _ _ _ _)) h

theorem retire_atWaves (s : State) : AtWaves s s.retire := by
  unfold State.retire
  split
  · exact .refl s
  · split
    · refine ite_atWaves (AtWaves.trans ?_ (haltFocus_atWaves _)) ?_ <;> constructor <;> rfl
    · exact leave_atWaves s _ _ _

/-- The work of a word is counted in its wave's block alone (R346). -/
theorem tally_atWaves (s t : State) : AtWaves t (s.tally t) := by
  unfold State.tally
  constructor <;> (dsimp only; first | rfl | (repeat' split) <;> rfl)

/-- What follows a word's meaning leaves everything but waves, blocks' fates and due events. -/
theorem after_atWaves (s t : State) : AtWaves t (s.after t) := by
  unfold State.after
  split
  · exact (tally_atWaves s t).trans (retire_atWaves _)
  · exact .refl t

theorem fetchTrap_atWaves (s : State) (w : Wave) (a : W64) (ls : List Nat) (f : Fetched) : AtWaves s (s.fetchTrap w a ls f) := by
  unfold State.fetchTrap
  dsimp only
  split
  · exact takeTrap_atWaves s _ _
  · exact takeTrap_atWaves s _ _
  · exact takeTrap_atWaves s _ _
  · exact .refl s

/-! ## Answers and completion -/

/-- As AtWaves, and operations, what waits behind them, and generations may differ besides. -/
structure AtOps (s t : State) : Prop where
  homes : t.homes = s.homes
  entries : t.entries = s.entries
  pageops : t.pageops = s.pageops
  pkgs : t.pkgs = s.pkgs
  fns : t.fns = s.fns
  rack : t.rack = s.rack
  mem : t.mem = s.mem
  poison : t.poison = s.poison
  hist : t.hist = s.hist
  copySco : t.copySco = s.copySco
  owed : t.owed = s.owed
  inputs : t.inputs = s.inputs
  held : t.held = s.held
  seqs : t.seqs = s.seqs
  order : t.order = s.order
  turn : t.turn = s.turn
  seq : t.seq = s.seq
  outbox : t.outbox = s.outbox

theorem AtWaves.atOps {s t : State} (h : AtWaves s t) : AtOps s t :=
  ⟨h.homes, h.entries, h.pageops, h.pkgs, h.fns, h.rack, h.mem, h.poison, h.hist, h.copySco, h.owed, h.inputs, h.held, h.seqs, h.order, h.turn, h.seq, h.outbox⟩

theorem AtOps.refl (s : State) : AtOps s s := (AtWaves.refl s).atOps

theorem AtOps.trans {s t u : State} (h : AtOps s t) (k : AtOps t u) : AtOps s u := by
  constructor <;> first
    | exact k.homes.trans h.homes | exact k.entries.trans h.entries | exact k.pageops.trans h.pageops
    | exact k.pkgs.trans h.pkgs | exact k.fns.trans h.fns | exact k.rack.trans h.rack | exact k.mem.trans h.mem
    | exact k.poison.trans h.poison | exact k.hist.trans h.hist
    | exact k.copySco.trans h.copySco | exact k.owed.trans h.owed | exact k.inputs.trans h.inputs
    | exact k.held.trans h.held | exact k.seqs.trans h.seqs | exact k.order.trans h.order
    | exact k.turn.trans h.turn | exact k.seq.trans h.seq | exact k.outbox.trans h.outbox

theorem AtOps.foldl {α : Type} {f : State → α → State} (hf : ∀ s a, AtOps s (f s a)) (l : List α) (s : State) :
    AtOps s (l.foldl f s) := by
  induction l generalizing s with
  | nil => exact .refl s
  | cons a r ih => exact (hf s a).trans (ih _)

theorem ite_atOps {p : Prop} [Decidable p] {s t u : State} (h : AtOps s t) (k : AtOps s u) : AtOps s (if p then t else u) := by
  split <;> assumption

theorem modOp_atOps (s : State) (i : Nat) (f : Op → Op) : AtOps s (s.modOp i f) := by constructor <;> rfl
theorem dropOp_atOps (s : State) (i : Nat) : AtOps s (s.dropOp i) := by constructor <;> rfl
theorem acquireBump_atOps (s : State) (n : Nat) (c : CoreId) (sc : Scope) : AtOps s (s.acquireBump n c sc) := by
  unfold State.acquireBump
  split <;> constructor <;> rfl

theorem writeEarly_atOps (s : State) (i : Nat) : AtOps s (s.writeEarly i) := by
  unfold State.writeEarly
  split
  · exact .refl s
  · dsimp only
    have hp : ∀ ks, AtOps s (s.pick ks).2 := fun ks => by constructor <;> rfl
    exact ite_atOps (hp _) ((hp _).trans ((modWave_atWaves _ _ _).atOps.trans (modOp_atOps _ _ _)))

theorem unwait_atOps (s : State) (i : Nat) : AtOps s (s.unwait i) := by constructor <;> rfl
theorem endWatches_atOps (s : State) (i : Nat) : AtOps s (s.endWatches i) := by constructor <;> rfl
theorem dropDeferred_atOps (s : State) (i : WaveId) : AtOps s (s.dropDeferred i) := by constructor <;> rfl

/-- An operation's last answer writes registers early, lets what waited for it go, and makes its completion due. -/
theorem finishOp_atOps (s : State) (i : Nat) : AtOps s (s.finishOp i) := by
  have hd : ∀ (t : State) l, AtOps t (t.due l) := fun t l => (due_atWaves t l).atOps
  unfold State.finishOp
  split
  · exact .refl s
  · refine ite_atOps (.refl s) (ite_atOps (.refl s) (ite_atOps (hd s _) (ite_atOps ?_ (hd s _))))
    exact ((modOp_atOps s i _).trans (writeEarly_atOps _ i)).trans ((unwait_atOps _ i).trans (hd _ _))

theorem answer_atOps (s : State) (i l p : Nat) (bs : List Byte) : AtOps s (s.answer i l p bs) :=
  (modOp_atOps s i _).trans (finishOp_atOps _ i)

theorem opFault_atOps (s : State) (o : Op) (r : TrapRec) : AtOps s (s.opFault o r) := by
  unfold State.opFault
  dsimp only
  have h := ((dropOp_atOps s o.id).trans (dropDeferred_atOps _ o.wave)).trans (unwait_atOps _ o.id)
  have hb := fun t => ite_atOps (p := r.prec = true) (modWave_atWaves t o.wave o.undo).atOps (.refl t)
  exact (h.trans (hb _)).trans (ite_atOps (ite_atOps (due_atWaves _ _).atOps (.refl _)) (takeTrap_atWaves _ _ _).atOps)

theorem complete_atOps (s : State) (o : Op) : AtOps s (s.complete o) := by
  unfold State.complete
  refine AtOps.trans ?_ (checkEnd_atWaves _ _).atOps
  have h : ∀ f, AtOps s (((s.modWave o.wave f).dropOp o.id).unwait o.id) := fun f =>
    ((modWave_atWaves s _ f).atOps.trans (dropOp_atOps _ _)).trans (unwait_atOps _ _)
  dsimp only
  split
  · exact (h _).trans (acquireBump_atOps _ _ _ _)
  · exact h _

/-- The completion of a flag-setting operation: its fault is taken, or its registers, sticky bits and flag are written. -/
theorem flagDone_atOps (s : State) (i : Nat) : AtOps s (s.flagDone i) := by
  unfold State.flagDone
  split
  · exact .refl s
  · split
    · exact opFault_atOps s _ _
    · exact complete_atOps s _

theorem storeDone_atOps (s : State) (i : Nat) : AtOps s (s.storeDone i) := by
  unfold State.storeDone
  split
  · exact .refl s
  · split
    · exact opFault_atOps s _ _
    · exact (dropOp_atOps s i).trans (unwait_atOps _ i)

theorem refusePiece_atOps (s : State) (i l a : Nat) (e : HomeErr) : AtOps s (s.refusePiece i l a e) := by
  unfold State.refusePiece
  split
  · exact .refl s
  · rename_i o _
    split
    · exact ((ctxDead_atWaves s _).atOps.trans (by constructor <;> rfl)).trans (unwait_atOps _ i)
    · exact ite_atOps (ite_atOps (modOp_atOps s i _) ((modOp_atOps s i _).trans (due_atWaves _ _).atOps))
        (((endWatches_atOps s i).trans (modOp_atOps _ i _)).trans (finishOp_atOps _ i))

/-- No operation in flight has the fresh number. -/
theorem State.op?_freshId (s : State) : s.op? s.freshId = none := by
  have h : ∀ (l : List Nat) (n : Nat), n ≤ l.foldl max n ∧ ∀ x ∈ l, x ≤ l.foldl max n := by
    intro l
    induction l with
    | nil => simp
    | cons a r ih =>
      intro n
      simp only [List.foldl_cons, List.mem_cons, forall_eq_or_imp]
      have := ih (max n a)
      exact ⟨by omega, by omega, this.2⟩
  simp only [State.op?, List.find?_eq_none, State.freshId]
  intro o ho
  have := (h (s.ops.map (·.id) ++ s.onWay.map (·.op) ++ s.cores.flatMap fun c => c.wc.flatMap fun b => b.ops) s.seq).2 o.id
    (by simp only [List.mem_append, List.mem_map]; exact .inl (.inl ⟨o, ho, rfl⟩))
  simp only [beq_iff_eq]
  omega

end Sys2Proof.Machine
end

