-- ==== Sys2Proof/Laws/PerInstr.lean ====
section
/-! SUPPORT. Per instruction: the word of an instruction is no clause header, and its class and opcode are listed (R203, R223). An event row
has no word. -/

namespace Sys2Proof

theorem extract_append_high {n m : Nat} (x : BitVec n) (y : BitVec m) : (x ++ y).extractLsb' m n = x := by
  apply BitVec.eq_of_getLsbD_eq
  intro i hi
  simp [BitVec.getLsbD_append, hi]

theorem extract_append_low {n m : Nat} (x : BitVec n) (y : BitVec m) (a k : Nat) (h : a + k ≤ m) :
    (x ++ y).extractLsb' a k = y.extractLsb' a k := by
  apply BitVec.eq_of_getLsbD_eq
  intro i hi
  simp [BitVec.getLsbD_append, hi, show a + i < m by omega]

/-- R211: the class of a packed word. -/
theorem packWord_class (c : BitVec 2) (o : BitVec 8) (g : Guard) (b : BitVec 50) : fld (packWord c o g b) 62 2 = c :=
  extract_append_high c _

/-- R211: the opcode of a packed word. -/
theorem packWord_opcode (c : BitVec 2) (o : BitVec 8) (g : Guard) (b : BitVec 50) : fld (packWord c o g b) 54 8 = o :=
  (extract_append_low c (o ++ (BitVec.ofBool g.neg ++ (g.p ++ b))) 54 8 (by decide)).trans (extract_append_high (m := 54) o _)

end Sys2Proof

namespace Sys2Proof.Laws.Encoded

/-- What every word of an instruction satisfies. -/
def Statement (i : Instr) : Prop :=
  ∀ w, encode i = some w → isHeader w = false ∧ opcodeListed (fld w 62 2).toNat (fld w 54 8).toNat = true

/-- A packed word of a listed opcode satisfies it. -/
theorem of_packWord {i : Instr} (c : BitVec 2) (o : BitVec 8) (g : Guard) (b : BitVec 50) (h : encode i = some (packWord c o g b))
    (hc : (c == 0b11#2) = false) (ho : opcodeListed c.toNat o.toNat = true) : Statement i := by
  intro w hw
  rw [h] at hw
  injection hw with hw
  subst hw
  rw [isHeader, packWord_class, packWord_opcode]
  exact ⟨hc, ho⟩

theorem of_none {i : Instr} (h : encode i = none) : Statement i := by
  intro w hw
  rw [h] at hw
  cases hw

theorem iadd (w : CW) : Statement (.iadd w) := of_packWord 0b00#2 0x01#8 w.g _ rfl rfl rfl
theorem isub (w : CW) : Statement (.isub w) := of_packWord 0b00#2 0x02#8 w.g _ rfl rfl rfl
theorem imul (w : CW) : Statement (.imul w) := of_packWord 0b00#2 0x03#8 w.g _ rfl rfl rfl
theorem imulh (w : CW) : Statement (.imulh w) := of_packWord 0b00#2 0x04#8 w.g _ rfl rfl rfl
theorem imad (w : CW) : Statement (.imad w) := of_packWord 0b00#2 0x05#8 w.g _ rfl rfl rfl
theorem imadw (w : CW) : Statement (.imadw w) := of_packWord 0b00#2 0x06#8 w.g _ rfl rfl rfl
theorem imin (w : CW) : Statement (.imin w) := of_packWord 0b00#2 0x07#8 w.g _ rfl rfl rfl
theorem imax (w : CW) : Statement (.imax w) := of_packWord 0b00#2 0x08#8 w.g _ rfl rfl rfl
theorem iabs (w : CW) : Statement (.iabs w) := of_packWord 0b00#2 0x09#8 w.g _ rfl rfl rfl
theorem isad (w : CW) : Statement (.isad w) := of_packWord 0b00#2 0x0A#8 w.g _ rfl rfl rfl
theorem idp4 (w : CW) : Statement (.idp4 w) := of_packWord 0b00#2 0x0B#8 w.g _ rfl rfl rfl
theorem lop3 (w : CW) : Statement (.lop3 w) := of_packWord 0b00#2 0x0C#8 w.g _ rfl rfl rfl
theorem shl (w : CW) : Statement (.shl w) := of_packWord 0b00#2 0x0D#8 w.g _ rfl rfl rfl
theorem shr (w : CW) : Statement (.shr w) := of_packWord 0b00#2 0x0E#8 w.g _ rfl rfl rfl
theorem sar (w : CW) : Statement (.sar w) := of_packWord 0b00#2 0x0F#8 w.g _ rfl rfl rfl
theorem shf (w : CW) : Statement (.shf w) := of_packWord 0b00#2 0x10#8 w.g _ rfl rfl rfl
theorem bfe (w : CW) : Statement (.bfe w) := of_packWord 0b00#2 0x11#8 w.g _ rfl rfl rfl
theorem bfi (w : CW) : Statement (.bfi w) := of_packWord 0b00#2 0x12#8 w.g _ rfl rfl rfl
theorem brev (w : CW) : Statement (.brev w) := of_packWord 0b00#2 0x13#8 w.g _ rfl rfl rfl
theorem popc (w : CW) : Statement (.popc w) := of_packWord 0b00#2 0x14#8 w.g _ rfl rfl rfl
theorem clz (w : CW) : Statement (.clz w) := of_packWord 0b00#2 0x15#8 w.g _ rfl rfl rfl
theorem prmt (w : CW) : Statement (.prmt w) := of_packWord 0b00#2 0x16#8 w.g _ rfl rfl rfl
theorem iset (w : CW) : Statement (.iset w) := of_packWord 0b00#2 0x17#8 w.g _ rfl rfl rfl
theorem sel (w : CW) : Statement (.sel w) := of_packWord 0b00#2 0x18#8 w.g _ rfl rfl rfl
theorem mov (w : CW) : Statement (.mov w) := of_packWord 0b00#2 0x20#8 w.g _ rfl rfl rfl
theorem movw (w : MovW) : Statement (.movw w) := of_packWord 0b00#2 0x21#8 w.g _ rfl rfl rfl
theorem rdlane (w : CW) : Statement (.rdlane w) := of_packWord 0b00#2 0x22#8 w.g _ rfl rfl rfl
theorem aadd (w : CW) : Statement (.aadd w) := of_packWord 0b00#2 0x24#8 w.g _ rfl rfl rfl
theorem amad (w : CW) : Statement (.amad w) := of_packWord 0b00#2 0x25#8 w.g _ rfl rfl rfl
theorem aset (w : CW) : Statement (.aset w) := of_packWord 0b00#2 0x26#8 w.g _ rfl rfl rfl
theorem ajoin (w : CW) : Statement (.ajoin w) := of_packWord 0b00#2 0x27#8 w.g _ rfl rfl rfl
theorem asplit (w : CW) : Statement (.asplit w) := of_packWord 0b00#2 0x28#8 w.g _ rfl rfl rfl
theorem fadd (w : CW) : Statement (.fadd w) := of_packWord 0b00#2 0x30#8 w.g _ rfl rfl rfl
theorem fmul (w : CW) : Statement (.fmul w) := of_packWord 0b00#2 0x31#8 w.g _ rfl rfl rfl
theorem ffma (w : CW) : Statement (.ffma w) := of_packWord 0b00#2 0x32#8 w.g _ rfl rfl rfl
theorem fmin (w : CW) : Statement (.fmin w) := of_packWord 0b00#2 0x33#8 w.g _ rfl rfl rfl
theorem fmax (w : CW) : Statement (.fmax w) := of_packWord 0b00#2 0x34#8 w.g _ rfl rfl rfl
theorem fset (w : CW) : Statement (.fset w) := of_packWord 0b00#2 0x35#8 w.g _ rfl rfl rfl
theorem fclass (w : CW) : Statement (.fclass w) := of_packWord 0b00#2 0x36#8 w.g _ rfl rfl rfl
theorem frnd (w : CW) : Statement (.frnd w) := of_packWord 0b00#2 0x37#8 w.g _ rfl rfl rfl
theorem frcp (w : CW) : Statement (.frcp w) := of_packWord 0b00#2 0x38#8 w.g _ rfl rfl rfl
theorem frsq (w : CW) : Statement (.frsq w) := of_packWord 0b00#2 0x39#8 w.g _ rfl rfl rfl
theorem fsqrt (w : CW) : Statement (.fsqrt w) := of_packWord 0b00#2 0x3A#8 w.g _ rfl rfl rfl
theorem fexp2 (w : CW) : Statement (.fexp2 w) := of_packWord 0b00#2 0x3B#8 w.g _ rfl rfl rfl
theorem flog2 (w : CW) : Statement (.flog2 w) := of_packWord 0b00#2 0x3C#8 w.g _ rfl rfl rfl
theorem fsin (w : CW) : Statement (.fsin w) := of_packWord 0b00#2 0x3D#8 w.g _ rfl rfl rfl
theorem fcos (w : CW) : Statement (.fcos w) := of_packWord 0b00#2 0x3E#8 w.g _ rfl rfl rfl
theorem ftanh (w : CW) : Statement (.ftanh w) := of_packWord 0b00#2 0x3F#8 w.g _ rfl rfl rfl
theorem fscale (w : CW) : Statement (.fscale w) := of_packWord 0b00#2 0x40#8 w.g _ rfl rfl rfl
theorem hadd2 (w : CW) : Statement (.hadd2 w) := of_packWord 0b00#2 0x48#8 w.g _ rfl rfl rfl
theorem hmul2 (w : CW) : Statement (.hmul2 w) := of_packWord 0b00#2 0x49#8 w.g _ rfl rfl rfl
theorem hfma2 (w : CW) : Statement (.hfma2 w) := of_packWord 0b00#2 0x4A#8 w.g _ rfl rfl rfl
theorem hmnmx2 (w : CW) : Statement (.hmnmx2 w) := of_packWord 0b00#2 0x4B#8 w.g _ rfl rfl rfl
theorem hset2 (w : CW) : Statement (.hset2 w) := of_packWord 0b00#2 0x4C#8 w.g _ rfl rfl rfl
theorem cvt (w : CvtW) : Statement (.cvt w) := of_packWord 0b00#2 0x50#8 w.g _ rfl rfl rfl
theorem cvtsr (w : CW) : Statement (.cvtsr w) := of_packWord 0b00#2 0x51#8 w.g _ rfl rfl rfl
theorem pack2 (w : CW) : Statement (.pack2 w) := of_packWord 0b00#2 0x52#8 w.g _ rfl rfl rfl
theorem quant (w : CW) : Statement (.quant w) := of_packWord 0b00#2 0x53#8 w.g _ rfl rfl rfl
theorem deq (w : CW) : Statement (.deq w) := of_packWord 0b00#2 0x54#8 w.g _ rfl rfl rfl
theorem plop (w : CW) : Statement (.plop w) := of_packWord 0b00#2 0x58#8 w.g _ rfl rfl rfl
theorem ppack (w : CW) : Statement (.ppack w) := of_packWord 0b00#2 0x59#8 w.g _ rfl rfl rfl
theorem punpack (w : CW) : Statement (.punpack w) := of_packWord 0b00#2 0x5A#8 w.g _ rfl rfl rfl
theorem shfl (w : CW) : Statement (.shfl w) := of_packWord 0b00#2 0x60#8 w.g _ rfl rfl rfl
theorem vote (w : CW) : Statement (.vote w) := of_packWord 0b00#2 0x61#8 w.g _ rfl rfl rfl
theorem ballot (w : CW) : Statement (.ballot w) := of_packWord 0b00#2 0x62#8 w.g _ rfl rfl rfl
theorem matchw (w : CW) : Statement (.matchw w) := of_packWord 0b00#2 0x63#8 w.g _ rfl rfl rfl
theorem redux (w : CW) : Statement (.redux w) := of_packWord 0b00#2 0x64#8 w.g _ rfl rfl rfl
theorem reduxi (w : CW) : Statement (.reduxi w) := of_packWord 0b00#2 0x65#8 w.g _ rfl rfl rfl
theorem scan (w : CW) : Statement (.scan w) := of_packWord 0b00#2 0x66#8 w.g _ rfl rfl rfl
theorem ld (w : MW) : Statement (.ld w) := of_packWord 0b01#2 0x01#8 w.g _ rfl rfl rfl
theorem st (w : MW) : Statement (.st w) := of_packWord 0b01#2 0x02#8 w.g _ rfl rfl rfl
theorem ldq (w : MW) : Statement (.ldq w) := of_packWord 0b01#2 0x03#8 w.g _ rfl rfl rfl
theorem stq (w : MW) : Statement (.stq w) := of_packWord 0b01#2 0x04#8 w.g _ rfl rfl rfl
theorem lda (w : MW) : Statement (.lda w) := of_packWord 0b01#2 0x05#8 w.g _ rfl rfl rfl
theorem stl (w : MW) : Statement (.stl w) := of_packWord 0b01#2 0x06#8 w.g _ rfl rfl rfl
theorem ldc (w : MW) : Statement (.ldc w) := of_packWord 0b01#2 0x07#8 w.g _ rfl rfl rfl
theorem atom (w : MW) : Statement (.atom w) := of_packWord 0b01#2 0x08#8 w.g _ rfl rfl rfl
theorem cas (w : MW) : Statement (.cas w) := of_packWord 0b01#2 0x09#8 w.g _ rfl rfl rfl
theorem atomf (w : MW) : Statement (.atomf w) := of_packWord 0b01#2 0x0A#8 w.g _ rfl rfl rfl
theorem red (w : MW) : Statement (.red w) := of_packWord 0b01#2 0x0B#8 w.g _ rfl rfl rfl
theorem fence (w : MW) : Statement (.fence w) := of_packWord 0b01#2 0x10#8 w.g _ rfl rfl rfl
theorem pref (w : MW) : Statement (.pref w) := of_packWord 0b01#2 0x11#8 w.g _ rfl rfl rfl
theorem cctlInv (w : MW) : Statement (.cctlInv w) := of_packWord 0b01#2 0x12#8 w.g _ rfl rfl rfl
theorem cctlUnpin (w : MW) : Statement (.cctlUnpin w) := of_packWord 0b01#2 0x12#8 w.g _ rfl rfl rfl
theorem cctlInvl1 (w : MW) : Statement (.cctlInvl1 w) := of_packWord 0b01#2 0x12#8 w.g _ rfl rfl rfl
theorem cctlInvdie (w : MW) : Statement (.cctlInvdie w) := of_packWord 0b01#2 0x12#8 w.g _ rfl rfl rfl
theorem cctlIinv (w : MW) : Statement (.cctlIinv w) := of_packWord 0b01#2 0x12#8 w.g _ rfl rfl rfl
theorem bar (w : MW) : Statement (.bar w) := of_packWord 0b01#2 0x18#8 w.g _ rfl rfl rfl
theorem cbar (w : MW) : Statement (.cbar w) := of_packWord 0b01#2 0x19#8 w.g _ rfl rfl rfl
theorem arv (w : MW) : Statement (.arv w) := of_packWord 0b01#2 0x1A#8 w.g _ rfl rfl rfl
theorem await (w : MW) : Statement (.await w) := of_packWord 0b01#2 0x1B#8 w.g _ rfl rfl rfl
theorem bra (g : Guard) (off : W32) : Statement (.bra g off) := of_packWord 0b10#2 0x01#8 g _ rfl rfl rfl
theorem brx (g : Guard) (a : Opd) : Statement (.brx g a) := of_packWord 0b10#2 0x02#8 g _ rfl rfl rfl
theorem call (g : Guard) (off : W32) : Statement (.call g off) := of_packWord 0b10#2 0x03#8 g _ rfl rfl rfl
theorem callx (g : Guard) (a : Opd) : Statement (.callx g a) := of_packWord 0b10#2 0x04#8 g _ rfl rfl rfl
theorem ret (g : Guard) : Statement (.ret g) := of_packWord 0b10#2 0x05#8 g _ rfl rfl rfl
theorem meet (g : Guard) (off : W32) : Statement (.meet g off) := of_packWord 0b10#2 0x06#8 g _ rfl rfl rfl
theorem meets (g : Guard) (off : W32) : Statement (.meets g off) := of_packWord 0b10#2 0x07#8 g _ rfl rfl rfl
theorem meetl (g : Guard) : Statement (.meetl g) := of_packWord 0b10#2 0x08#8 g _ rfl rfl rfl
theorem exit (g : Guard) : Statement (.exit g) := of_packWord 0b10#2 0x09#8 g _ rfl rfl rfl
theorem yield (g : Guard) : Statement (.yield g) := of_packWord 0b10#2 0x0A#8 g _ rfl rfl rfl
theorem nop (g : Guard) : Statement (.nop g) := of_packWord 0b10#2 0x0B#8 g _ rfl rfl rfl
theorem shape (w : AW) : Statement (.shape w) := of_packWord 0b10#2 0x10#8 w.g _ rfl rfl rfl
theorem shapeRel (w : AW) : Statement (.shapeRel w) := of_packWord 0b10#2 0x10#8 w.g _ rfl rfl rfl
theorem mzero (w : AW) : Statement (.mzero w) := of_packWord 0b10#2 0x11#8 w.g _ rfl rfl rfl
theorem mloop (w : AW) : Statement (.mloop w) := of_packWord 0b10#2 0x12#8 w.g _ rfl rfl rfl
theorem mepi (w : AW) : Statement (.mepi w) := of_packWord 0b10#2 0x13#8 w.g _ rfl rfl rfl
theorem mepiCol (w : AW) : Statement (.mepiCol w) := of_packWord 0b10#2 0x13#8 w.g _ rfl rfl rfl
theorem mlda (w : AW) : Statement (.mlda w) := of_packWord 0b10#2 0x14#8 w.g _ rfl rfl rfl
theorem msta (w : AW) : Statement (.msta w) := of_packWord 0b10#2 0x15#8 w.g _ rfl rfl rfl
theorem mcb (w : AW) : Statement (.mcb w) := of_packWord 0b10#2 0x16#8 w.g _ rfl rfl rfl
theorem xfer (w : AW) : Statement (.xfer w) := of_packWord 0b10#2 0x20#8 w.g _ rfl rfl rfl
theorem xring (w : AW) : Statement (.xring w) := of_packWord 0b10#2 0x21#8 w.g _ rfl rfl rfl
theorem xslotAcq (w : AW) : Statement (.xslotAcq w) := of_packWord 0b10#2 0x22#8 w.g _ rfl rfl rfl
theorem xslotRel (w : AW) : Statement (.xslotRel w) := of_packWord 0b10#2 0x22#8 w.g _ rfl rfl rfl
theorem xwait (w : AW) : Statement (.xwait w) := of_packWord 0b10#2 0x23#8 w.g _ rfl rfl rfl
theorem xcancel (w : AW) : Statement (.xcancel w) := of_packWord 0b10#2 0x24#8 w.g _ rfl rfl rfl
theorem spawn (w : AW) : Statement (.spawn w) := of_packWord 0b10#2 0x28#8 w.g _ rfl rfl rfl
theorem csig (w : AW) : Statement (.csig w) := of_packWord 0b10#2 0x29#8 w.g _ rfl rfl rfl
theorem cwait (w : AW) : Statement (.cwait w) := of_packWord 0b10#2 0x2A#8 w.g _ rfl rfl rfl
theorem tagpub (w : AW) : Statement (.tagpub w) := of_packWord 0b10#2 0x2C#8 w.g _ rfl rfl rfl
theorem tagwait (w : AW) : Statement (.tagwait w) := of_packWord 0b10#2 0x2D#8 w.g _ rfl rfl rfl
theorem colsend (w : AW) : Statement (.colsend w) := of_packWord 0b10#2 0x2E#8 w.g _ rfl rfl rfl
theorem phint (g : Guard) (off : W32) : Statement (.phint g off) := of_packWord 0b10#2 0x30#8 g _ rfl rfl rfl
theorem logmark (w : AW) : Statement (.logmark w) := of_packWord 0b10#2 0x31#8 w.g _ rfl rfl rfl
theorem trapf (w : AW) : Statement (.trapf w) := of_packWord 0b10#2 0x32#8 w.g _ rfl rfl rfl
theorem trap (w : AW) : Statement (.trap w) := of_packWord 0b10#2 0x33#8 w.g _ rfl rfl rfl
theorem csrr (w : AW) : Statement (.csrr w) := of_packWord 0b10#2 0x34#8 w.g _ rfl rfl rfl
theorem csrw (w : AW) : Statement (.csrw w) := of_packWord 0b10#2 0x35#8 w.g _ rfl rfl rfl
theorem clock (w : AW) : Statement (.clock w) := of_packWord 0b10#2 0x36#8 w.g _ rfl rfl rfl
theorem sleep (w : AW) : Statement (.sleep w) := of_packWord 0b10#2 0x37#8 w.g _ rfl rfl rfl
theorem bpt (w : AW) : Statement (.bpt w) := of_packWord 0b10#2 0x38#8 w.g _ rfl rfl rfl
theorem cmdqWrite (w : AW) : Statement (.cmdqWrite w) := of_packWord 0b10#2 0x35#8 w.g _ rfl rfl rfl
theorem rngattrWrite (w : AW) : Statement (.rngattrWrite w) := of_packWord 0b10#2 0x35#8 w.g _ rfl rfl rfl
theorem rangeBoundWrite (w : AW) : Statement (.rangeBoundWrite w) := of_packWord 0b10#2 0x35#8 w.g _ rfl rfl rfl
theorem tagwinWrite (w : AW) : Statement (.tagwinWrite w) := of_packWord 0b10#2 0x35#8 w.g _ rfl rfl rfl
theorem clauseIssue (c : CoreId) (quad : Nat) : Statement (.clauseIssue c quad) := of_none rfl
theorem flagCompletion (op : Nat) : Statement (.flagCompletion op) := of_none rfl
theorem waveEnd (w : WaveId) : Statement (.waveEnd w) := of_none rfl
theorem trapRecordPost (ctx : Nat) (r : TrapRec) : Statement (.trapRecordPost ctx r) := of_none rfl
theorem lockringAutoRestart (w : WaveId) : Statement (.lockringAutoRestart w) := of_none rfl
theorem trapResponseResume (ctx : Nat) (k : Nat) : Statement (.trapResponseResume ctx k) := of_none rfl
theorem trapResponseStklim (ctx : Nat) (k : Nat) (v : W64) : Statement (.trapResponseStklim ctx k v) := of_none rfl
theorem trapResponseEnd (ctx : Nat) (k : Nat) : Statement (.trapResponseEnd ctx k) := of_none rfl
theorem watchdogWaitExpiry (w : WaveId) : Statement (.watchdogWaitExpiry w) := of_none rfl
theorem watchdogHeldExpiry (w : WaveId) (lane : Nat) : Statement (.watchdogHeldExpiry w lane) := of_none rfl
theorem sleepExpiry (w : WaveId) : Statement (.sleepExpiry w) := of_none rfl
theorem breakpointResume (w : WaveId) : Statement (.breakpointResume w) := of_none rfl
theorem wcBufferDrain (c : CoreId) (line : Nat) : Statement (.wcBufferDrain c line) := of_none rfl
theorem storeLanded (op : Nat) : Statement (.storeLanded op) := of_none rfl
theorem weakStoreError (op : Nat) (e : HomeErr) (ia : Nat) : Statement (.weakStoreError op e ia) := of_none rfl
theorem homeAccess (r : Req) : Statement (.homeAccess r) := of_none rfl
theorem l2Request (r : Req) : Statement (.l2Request r) := of_none rfl
theorem leaseRequest (l : LeaseReq) : Statement (.leaseRequest l) := of_none rfl
theorem leaseGrantReceived (l : LeaseReq) : Statement (.leaseGrantReceived l) := of_none rfl
theorem leaseRefused (l : LeaseReq) : Statement (.leaseRefused l) := of_none rfl
theorem leaseRelease (l : LeaseReq) : Statement (.leaseRelease l) := of_none rfl
theorem homeCommandDoorbell (fn : Nat) (pi : Nat) : Statement (.homeCommandDoorbell fn pi) := of_none rfl
theorem map (c : HomeCmd) : Statement (.map c) := of_none rfl
theorem unmap (c : HomeCmd) : Statement (.unmap c) := of_none rfl
theorem fill (c : HomeCmd) : Statement (.fill c) := of_none rfl
theorem refuse (c : HomeCmd) : Statement (.refuse c) := of_none rfl
theorem evict (c : HomeCmd) : Statement (.evict c) := of_none rfl
theorem migrate (c : HomeCmd) : Statement (.migrate c) := of_none rfl
theorem heatread (c : HomeCmd) : Statement (.heatread c) := of_none rfl
theorem probe (c : HomeCmd) : Statement (.probe c) := of_none rfl
theorem resetacc (c : HomeCmd) : Statement (.resetacc c) := of_none rfl
theorem badcmdOpcode (c : HomeCmd) : Statement (.badcmdOpcode c) := of_none rfl
theorem migrationSlotStart (h : HomeId) : Statement (.migrationSlotStart h) := of_none rfl
theorem migrationSectorCopy (h : HomeId) (ia : Nat) : Statement (.migrationSectorCopy h ia) := of_none rfl
theorem fillCopyDone (h : HomeId) (ia : Nat) : Statement (.fillCopyDone h ia) := of_none rfl
theorem pageFlush (h : HomeId) (ia : Nat) (pkg : Nat) (die : Nat) : Statement (.pageFlush h ia pkg die) := of_none rfl
theorem shootDownAck (h : HomeId) (ia : Nat) (pkg : Nat) (die : Nat) : Statement (.shootDownAck h ia pkg die) := of_none rfl
theorem prqciWrite (fn : Nat) (ci : Nat) : Statement (.prqciWrite fn ci) := of_none rfl
theorem rowRetirementOrder (r : RowId) (bad : List Nat) : Statement (.rowRetirementOrder r bad) := of_none rfl
theorem rowRemapSwitch (r : RowId) : Statement (.rowRemapSwitch r) := of_none rfl
theorem retiredRowPersist (pkg : Nat) (r : RowId) : Statement (.retiredRowPersist pkg r) := of_none rfl
theorem functionLevelReset (fn : Nat) : Statement (.functionLevelReset fn) := of_none rfl
theorem hostBar2Write (fn : HostAt) (off : Nat) (bytes : List Byte) : Statement (.hostBar2Write fn off bytes) := of_none rfl
theorem hostBar2Read (fn : HostAt) (off : Nat) (size : Nat) (tag : Nat) : Statement (.hostBar2Read fn off size tag) := of_none rfl
theorem ctxcmdCreate (fn : Nat) (ctx : Nat) : Statement (.ctxcmdCreate fn ctx) := of_none rfl
theorem ctxcmdTeardown (fn : Nat) (ctx : Nat) : Statement (.ctxcmdTeardown fn ctx) := of_none rfl
theorem coreRevocation (ctx : Nat) (c : CoreId) : Statement (.coreRevocation ctx c) := of_none rfl
theorem contextRejection (ctx : Nat) (h : HomeId) : Statement (.contextRejection ctx h) := of_none rfl
theorem queueDoorbell (fn : Nat) (ctx : Nat) (q : Nat) (wi : Nat) : Statement (.queueDoorbell fn ctx q wi) := of_none rfl
theorem fpartWrite (fn : Nat) (mask : BitVec 576) : Statement (.fpartWrite fn mask) := of_none rfl
theorem functionRegisterWrite (fn : Nat) (off : Nat) (v : W64) : Statement (.functionRegisterWrite fn off v) := of_none rfl
theorem launch (p : Packet) : Statement (.launch p) := of_none rfl
theorem signal (p : Packet) : Statement (.signal p) := of_none rfl
theorem signalFire (p : Packet) : Statement (.signalFire p) := of_none rfl
theorem wait (p : Packet) : Statement (.wait p) := of_none rfl
theorem barrierAnd (p : Packet) : Statement (.barrierAnd p) := of_none rfl
theorem waitRecheck (ctx : Nat) (q : Nat) : Statement (.waitRecheck ctx q) := of_none rfl
theorem phase (p : Packet) : Statement (.phase p) := of_none rfl
theorem bind (p : Packet) : Statement (.bind p) := of_none rfl
theorem unbind (p : Packet) : Statement (.unbind p) := of_none rfl
theorem leaseHint (p : Packet) : Statement (.leaseHint p) := of_none rfl
theorem invalidPacket (p : Packet) : Statement (.invalidPacket p) := of_none rfl
theorem drrRound : Statement (.drrRound) := of_none rfl
theorem blockCostCharge (b : BlkId) (cost : Nat) : Statement (.blockCostCharge b cost) := of_none rfl
theorem chunkAppend (ctx : Nat) (launch : Nat) (pkg : Nat) (idxs : List Nat) : Statement (.chunkAppend ctx launch pkg idxs) := of_none rfl
theorem dieDistributorRound (pkg : Nat) (die : Nat) : Statement (.dieDistributorRound pkg die) := of_none rfl
theorem phaseClean (pkg : Nat) (die : Nat) (ctx : Nat) (q : Nat) (ph : Nat) : Statement (.phaseClean pkg die ctx q ph) := of_none rfl
theorem stealWithinPackage (pkg : Nat) (die : Nat) : Statement (.stealWithinPackage pkg die) := of_none rfl
theorem stealBetweenPackages (pkg : Nat) (die : Nat) (wide : Bool) : Statement (.stealBetweenPackages pkg die wide) := of_none rfl
theorem trayLengthCollect (tray : Nat) : Statement (.trayLengthCollect tray) := of_none rfl
theorem trayCostForward (tray : Nat) : Statement (.trayCostForward tray) := of_none rfl
theorem trayStandbyRefresh (tray : Nat) : Statement (.trayStandbyRefresh tray) := of_none rfl
theorem trayStandbyTakeover (tray : Nat) : Statement (.trayStandbyTakeover tray) := of_none rfl
theorem blockStart (b : BlkId) : Statement (.blockStart b) := of_none rfl
theorem tagPublicationApply (t : TagPub) : Statement (.tagPublicationApply t) := of_none rfl
theorem tagForward (pkg : Nat) (t : TagPub) : Statement (.tagForward pkg t) := of_none rfl
theorem triggeredWorkFire (ctx : Nat) (pkg : Nat) : Statement (.triggeredWorkFire ctx pkg) := of_none rfl
theorem counterSignalPerform (r : Req) : Statement (.counterSignalPerform r) := of_none rfl
theorem dequeRefill (c : CoreId) : Statement (.dequeRefill c) := of_none rfl
theorem taskStart (c : CoreId) : Statement (.taskStart c) := of_none rfl
theorem taskSteal (c : CoreId) : Statement (.taskSteal c) := of_none rfl
theorem barrierArrivalRegister (w : WaveId) (cb : Bool) (n : Nat) (cnt : Option Nat) (arr : Bool) : Statement (.barrierArrivalRegister w cb n cnt arr) := of_none rfl
theorem arvPerform (r : Req) : Statement (.arvPerform r) := of_none rfl
theorem commandTake (b : BlkId) : Statement (.commandTake b) := of_none rfl
theorem copySourceReleased (b : BlkId) (idx : Nat) : Statement (.copySourceReleased b idx) := of_none rfl
theorem copyArrival (b : BlkId) (idx : Nat) : Statement (.copyArrival b idx) := of_none rfl
theorem slotBoxLoaded (b : BlkId) (idx : Nat) : Statement (.slotBoxLoaded b idx) := of_none rfl
theorem slotBoxStored (b : BlkId) (idx : Nat) : Statement (.slotBoxStored b idx) := of_none rfl
theorem matrixOpComplete (b : BlkId) (handle : Nat) : Statement (.matrixOpComplete b handle) := of_none rfl
theorem rackPreemption (ctx : Nat) : Statement (.rackPreemption ctx) := of_none rfl
theorem preemptionBoundExpiry (ctx : Nat) : Statement (.preemptionBoundExpiry ctx) := of_none rfl
theorem blockSave (b : BlkId) : Statement (.blockSave b) := of_none rfl
theorem blockRestore (b : BlkId) (c : CoreId) : Statement (.blockRestore b c) := of_none rfl
theorem contextSwitchOff (ctx : Nat) (pkg : Nat) : Statement (.contextSwitchOff ctx pkg) := of_none rfl
theorem contextSwitchOn (ctx : Nat) (pkg : Nat) : Statement (.contextSwitchOn ctx pkg) := of_none rfl
theorem logRingDrain (ctx : Nat) (lpkg : Nat) (ci : Nat) : Statement (.logRingDrain ctx lpkg ci) := of_none rfl
theorem logEnd (ctx : Nat) (reason : Nat) : Statement (.logEnd ctx reason) := of_none rfl
theorem replayReaderTake (ctx : Nat) (lpkg : Nat) : Statement (.replayReaderTake ctx lpkg) := of_none rfl
theorem replayHoldTimeout (ctx : Nat) (held : Nat) : Statement (.replayHoldTimeout ctx held) := of_none rfl
theorem exitFiredContribution (b : BlkId) : Statement (.exitFiredContribution b) := of_none rfl
theorem contributionCount (c : Contrib) : Statement (.contributionCount c) := of_none rfl
theorem shadowCombine (p : Partial) : Statement (.shadowCombine p) := of_none rfl
theorem completionSignalUpdate (ctx : Nat) (buf : Nat) (j : Nat) : Statement (.completionSignalUpdate ctx buf j) := of_none rfl
theorem shardLand (x : Shard) : Statement (.shardLand x) := of_none rfl
theorem slotReservationRetry (ctx : Nat) (buf : Nat) (id : Nat) : Statement (.slotReservationRetry ctx buf id) := of_none rfl
theorem collectiveFailure (ctx : Nat) (buf : Nat) : Statement (.collectiveFailure ctx buf) := of_none rfl
theorem readCompletionReturns (r : Req) : Statement (.readCompletionReturns r) := of_none rfl
theorem heartbeatMiss (pkg : Nat) : Statement (.heartbeatMiss pkg) := of_none rfl
theorem packageBoot (pkg : Nat) (cfg : BootCfg) : Statement (.packageBoot pkg cfg) := of_none rfl
theorem signedListRestore (pkg : Nat) (l : RowList) : Statement (.signedListRestore pkg l) := of_none rfl
theorem attestationRequest (pkg : Nat) (nonce : List Byte) : Statement (.attestationRequest pkg nonce) := of_none rfl
theorem hotReset (pkg : Nat) : Statement (.hotReset pkg) := of_none rfl
theorem frequencyChange (pkg : Nat) (island : Nat) (mhz : Nat) : Statement (.frequencyChange pkg island mhz) := of_none rfl
theorem laneFailure (pkg : Nat) (lane : Nat) : Statement (.laneFailure pkg lane) := of_none rfl
theorem powerLoss (pkg : Nat) : Statement (.powerLoss pkg) := of_none rfl
theorem neighbourLinkFailure (pkg : Nat) (d1 : Nat) (d2 : Nat) : Statement (.neighbourLinkFailure pkg d1 d2) := of_none rfl

end Sys2Proof.Laws.Encoded
end

