-- ==== Sys2Proof/Laws/Wave.lean ====
section
/-! SUPPORT. Register files of a wave: reading after writing, and that each setter changes its own file alone. -/

namespace Sys2Proof.Machine

theorem lkey_inj {r q l k : Nat} (hl : l < 32) (hk : k < 32) : lkey r l = lkey q k ↔ r = q ∧ l = k := by
  unfold lkey
  constructor
  · intro h
    omega
  · rintro ⟨rfl, rfl⟩
    rfl

variable (w : Wave)

theorem Wave.getV_setV (r l q k : Nat) (d : W32) (hl : l < 32) (hk : k < 32) :
    (w.setV r l d).getV q k = if q = r ∧ k = l then d else w.getV q k := by
  simp [Wave.getV, Wave.setV, Tab.get_set, lkey_inj hk hl]

theorem Wave.getO_setO (r l q k : Nat) (d : W32) (hl : l < 32) (hk : k < 32) :
    (w.setO r l d).getO q k = if q = r ∧ k = l then d else w.getO q k := by
  simp [Wave.getO, Wave.setO, Tab.get_set, lkey_inj hk hl]

theorem Wave.getS_setS (r q : Nat) (d : W32) : (w.setS r d).getS q = if q = r then d else w.getS q := Tab.get_set ..
theorem Wave.getA_setA (r q : Nat) (d : W64) : (w.setA r d).getA q = if q = r then d else w.getA q := Tab.get_set ..
theorem Wave.getM_setM (r q : Nat) (d : W32) : (w.setM r d).getM q = if q = r then d else w.getM q := Tab.get_set ..

theorem Wave.getP_setP (r l q k : Nat) (b : Bool) (hl : l < 32) (hk : k < 32) :
    (w.setP r l b).getP q k = if q = r ∧ k = l ∧ q ≠ 7 then b else w.getP q k := by
  unfold Wave.getP Wave.setP
  by_cases h7 : r = 7
  · subst h7
    by_cases hq : q = 7 <;> simp [hq]
  · by_cases hq : q = r
    · subst hq
      simp only [if_neg h7, Tab.get_set, lkey_inj hk hl, beq_eq_false_iff_ne.2 h7]
      by_cases hk' : k = l <;> simp [hk', h7]
    · simp [h7, Tab.get_set, lkey_inj hk hl, hq]

/-- The last-result file after a push: x1 takes x0, x0 the result (R79). -/
theorem Wave.getX_pushX (l q k : Nat) (d : W64) (hl : l < 32) (hk : k < 32) :
    (w.pushX l d).getX q k = if k = l ∧ q = 0 then d else if k = l ∧ q = 1 then w.getX 0 l else w.getX q k := by
  simp only [Wave.getX, Wave.pushX, Tab.get_set, lkey_inj hk hl]
  by_cases h : k = l <;> by_cases hq : q = 0 <;> by_cases hq1 : q = 1 <;> simp [h, hq, hq1]

theorem Wave.setV_frame (r l : Nat) (d : W32) : w.setV r l d = { w with v := (w.setV r l d).v } := rfl
theorem Wave.setO_frame (r l : Nat) (d : W32) : w.setO r l d = { w with o := (w.setO r l d).o } := rfl
theorem Wave.pushX_frame (l : Nat) (d : W64) : w.pushX l d = { w with x := (w.pushX l d).x } := rfl
theorem Wave.setS_frame (r : Nat) (d : W32) : w.setS r d = { w with s := (w.setS r d).s } := rfl
theorem Wave.setA_frame (r : Nat) (d : W64) : w.setA r d = { w with a := (w.setA r d).a } := rfl
theorem Wave.setM_frame (r : Nat) (d : W32) : w.setM r d = { w with m := (w.setM r d).m } := rfl
theorem Wave.stick_frame (f : Nat) : w.stick f = { w with astk := (w.stick f).astk } := rfl
theorem Wave.flagUp_frame (f : Nat) : w.flagUp f = { w with flags := (w.flagUp f).flags } := rfl
theorem Wave.flagDown_frame (f : Nat) : w.flagDown f = { w with flags := (w.flagDown f).flags } := rfl
theorem Wave.setP_frame (r l : Nat) (b : Bool) : w.setP r l b = { w with p := (w.setP r l b).p } := by
  unfold Wave.setP
  split <;> rfl

theorem Wave.putP_frame (r : Nat) (ls : List Nat) (f : Nat → Bool) : w.putP r ls f = { w with p := (w.putP r ls f).p } := by
  unfold Wave.putP
  induction ls generalizing w with
  | nil => rfl
  | cons l t ih =>
    simp only [List.foldl_cons]
    rw [ih (w.setP r l (f l)), Wave.setP_frame w r l (f l)]

theorem Wave.putLane_frame (dw : Bool) (d : Opd) (l : Nat) (r : W64) :
    w.putLane dw d l r = { w with v := (w.putLane dw d l r).v, o := (w.putLane dw d l r).o, x := (w.putLane dw d l r).x } := by
  cases d <;> cases dw <;> rfl

/-- A result's write changes register files and nothing else of the wave. -/
theorem Wave.putD_frame (dw : Bool) (d : Opd) (ls : List Nat) (f : Nat → W64) :
    w.putD dw d ls f = { w with
      v := (w.putD dw d ls f).v, o := (w.putD dw d ls f).o, x := (w.putD dw d ls f).x, s := (w.putD dw d ls f).s,
      a := (w.putD dw d ls f).a, m := (w.putD dw d ls f).m } := by
  have h : ∀ (g : Nat → W64) (ls : List Nat) (w : Wave), ls.foldl (fun w l => w.putLane dw d l (g l)) w = { w with
      v := (ls.foldl (fun w l => w.putLane dw d l (g l)) w).v, o := (ls.foldl (fun w l => w.putLane dw d l (g l)) w).o,
      x := (ls.foldl (fun w l => w.putLane dw d l (g l)) w).x } := by
    intro g ls
    induction ls with
    | nil => intro w; rfl
    | cons l t ih =>
      intro w
      simp only [List.foldl_cons]
      rw [ih (w.putLane dw d l (g l)), Wave.putLane_frame w dw d l (g l)]
  cases d <;> simp only [Wave.putD]
  case v n => rw [h]
  case o n => rw [h]
  case x n => rw [h]
  all_goals (cases ls <;> cases dw <;> rfl)

/-- Flag counts after an issue and a completion (R206). -/
theorem Wave.flag_flagUp (f g : Nat) : (w.flagUp f).flag g = if g = f then w.flag f + 1 else w.flag g := by
  simp [Wave.flagUp, Wave.flag, Tab.get_set]
theorem Wave.flag_flagDown (f g : Nat) : (w.flagDown f).flag g = if g = f then w.flag f - 1 else w.flag g := by
  simp [Wave.flagDown, Wave.flag, Tab.get_set]

end Sys2Proof.Machine
end

