-- ==== Sys2Proof/Machine/Crc.lean ====
section
/-! DEFINITION. The check value of a sector (spec/04_hierarchy.md R98). -/

namespace Sys2Proof.Machine

/-- One bit of CRC-32C, the lowest first: generator 0x1EDC6F41 (R98), reflected. -/
def crcBit (c : W32) : W32 := if c.getLsbD 0 then (c >>> 1) ^^^ 0x82F63B78#32 else c >>> 1

def crcBits (n : Nat) (c : W32) : W32 := match n with | 0 => c | k + 1 => crcBits k (crcBit c)

/-- R98: CRC-32C over bytes in address order, from 0xFFFFFFFF and with final inversion. Log entry 86. -/
def crc32c (bs : List Byte) : W32 := ~~~(bs.foldl (fun c b => crcBits 8 (c ^^^ b.setWidth 32)) 0xFFFFFFFF#32)

/-- R98: the check value a sound sector carries, by the sector's number. Log entry 86. -/
def State.checkOf (s : State) (sector : Nat) : W32 := crc32c (s.memRead (64 * sector) 64)

end Sys2Proof.Machine
end

