-- ==== Sys2Proof/Tests/Slice0.lean ====
section
/-! SUPPORT. Tests: words written out from the spec's encoding tables, ill-formed terms the checks refuse, single steps on a small
state, and for each statement a state and operands that meet its hypotheses. -/

namespace Sys2Proof.Tests

open Sys2Proof Sys2Proof.Machine

-- One theorem at a time: the package as one text stays within the check's memory.
set_option Elab.async false

/-! ## Decoding -/

/-- Each word decodes to the instruction beside it, whose operands a wave of 256 registers has, and encodes back. -/
abbrev ReadsAll (l : List (W64 × Instr)) : Prop :=
  ∀ p ∈ l, decode p.1 = .ok p.2 ∧ operandsOk 256 p.2 = true ∧ encode p.2 = some p.1

/-- The integer and address words (R235, R241 to R251), each bit from the spec's encoding tables. -/
theorem test_decode_integer : ReadsAll [
    (0x00680A02C0C484E6#64, .iadd ⟨⟨true, 2⟩, .v 10, .v 11, .v 12, .p 1, none, .n32, 6⟩),
    (0x005C0401BFFFF680#64, .iadd ⟨⟨false, 7⟩, .v 4, .v 6, .v 0, .v 0, (some 1048573), .i64, 0⟩),
    (0x009C0150AFF00061#64, .isub ⟨⟨false, 7⟩, .v 1, .s 2, .c 255, .v 0, none, .i32, 1⟩),
    (0x00DD836100800100#64, .imul ⟨⟨false, 7⟩, .a 3, .a 4, .v 8, .v 0, none, .n64, 0⟩),
    (0x011D0501D0600060#64, .imulh ⟨⟨false, 7⟩, .o 5, .v 7, .o 6, .v 0, none, .i32, 0⟩),
    (0x015C09644146B4E0#64, .imad ⟨⟨false, 7⟩, .v 9, .m 1, .v 20, .sr 13, none, .n32, 0⟩),
    (0x019C0201406020E0#64, .imadw ⟨⟨false, 7⟩, .v 2, .v 5, .v 6, .v 8, none, .n32, 0⟩),
    (0x01DCFF3F9FFFFE60#64, .imin ⟨⟨false, 7⟩, .v 255, .v 254, .v 0, .v 0, (some 524287), .i32, 0⟩),
    (0x021C0300402000E0#64, .imax ⟨⟨false, 7⟩, .v 3, .v 1, .v 2, .v 0, none, .n32, 0⟩),
    (0x025C020100000081#64, .iabs ⟨⟨false, 7⟩, .v 2, .v 4, .v 0, .v 0, none, .i64, 1⟩),
    (0x029C030040201CE0#64, .isad ⟨⟨false, 7⟩, .v 3, .v 1, .v 2, .v 7, none, .n32, 0⟩),
    (0x02DC030040201C21#64, .idp4 ⟨⟨false, 7⟩, .v 3, .v 1, .v 2, .v 7, none, .i8, 1⟩),
    (0x031C0300402A5800#64, .lop3 ⟨⟨false, 7⟩, .v 3, .v 1, .v 2, .c 150, none, .b32, 0⟩),
    (0x035C030040007E00#64, .shl ⟨⟨false, 7⟩, .v 3, .v 1, .v 0, .v 0, (some 31), .b32, 0⟩),
    (0x039C040180800100#64, .shr ⟨⟨false, 7⟩, .v 4, .v 6, .v 8, .v 0, none, .n64, 0⟩),
    (0x03DD084240800060#64, .sar ⟨⟨false, 7⟩, .x 0, .x 1, .v 8, .v 0, none, .i32, 0⟩),
    (0x041C030040201401#64, .shf ⟨⟨false, 7⟩, .v 3, .v 1, .v 2, .v 5, none, .b32, 1⟩),
    (0x045C030040201660#64, .bfe ⟨⟨false, 7⟩, .v 3, .v 1, .v 0, .v 0, (some 2053), .i32, 0⟩),
    (0x049C030040201C00#64, .bfi ⟨⟨false, 7⟩, .v 3, .v 1, .v 2, .v 7, none, .b32, 0⟩),
    (0x04DC020200000100#64, .brev ⟨⟨false, 7⟩, .v 2, .v 8, .v 0, .v 0, none, .n64, 0⟩),
    (0x051C030200000100#64, .popc ⟨⟨false, 7⟩, .v 3, .v 8, .v 0, .v 0, none, .n64, 0⟩),
    (0x055C030240000000#64, .clz ⟨⟨false, 7⟩, .v 3, .v 9, .v 0, .v 0, none, .b32, 0⟩),
    (0x059C030040202400#64, .prmt ⟨⟨false, 7⟩, .v 3, .v 1, .v 2, .v 9, none, .b32, 0⟩),
    (0x05DD240040248CEA#64, .iset ⟨⟨false, 7⟩, .p 4, .v 1, .v 2, .p 3, none, .n32, 10⟩),
    (0x061C030040249520#64, .sel ⟨⟨false, 7⟩, .v 3, .v 1, .v 2, .p 5, none, .f32, 0⟩),
    (0x081D87003FFFFF00#64, .mov ⟨⟨false, 7⟩, .a 7, .v 0, .v 0, .v 0, (some 1048575), .n64, 0⟩),
    (0x085D820289ABCDEF#64, .movw ⟨⟨false, 7⟩, .a 2, 2, 0x89ABCDEF⟩),
    (0x089C030054200000#64, .rdlane ⟨⟨false, 7⟩, .v 3, .v 1, .s 2, .v 0, none, .b32, 0⟩),
    (0x091D8361002000E0#64, .aadd ⟨⟨false, 7⟩, .a 3, .a 4, .v 2, .v 0, none, .n32, 0⟩),
    (0x095C026100301460#64, .amad ⟨⟨false, 7⟩, .v 2, .a 4, .v 3, .v 5, none, .i32, 0⟩),
    (0x099D8300400000E2#64, .aset ⟨⟨false, 7⟩, .a 3, .v 1, .v 0, .v 0, none, .n32, 2⟩),
    (0x09DD830040200000#64, .ajoin ⟨⟨false, 7⟩, .a 3, .v 1, .v 2, .v 0, none, .b32, 0⟩),
    (0x0A1C036240000001#64, .asplit ⟨⟨false, 7⟩, .v 3, .a 9, .v 0, .v 0, none, .b32, 1⟩)] := by
  decide +kernel

/-- The floating-point and conversion words (R252 to R259), each bit from the spec's encoding tables. -/
theorem test_decode_float : ReadsAll [
    (0x0C1C03004020012E#64, .fadd ⟨⟨false, 7⟩, .v 3, .v 1, .v 2, .v 0, none, .f32, 14⟩),
    (0x0C5C030063800121#64, .fmul ⟨⟨false, 7⟩, .v 3, .v 1, .c 56, .v 0, none, .f32, 1⟩),
    (0x0C9C030040201133#64, .ffma ⟨⟨false, 7⟩, .v 3, .v 1, .v 2, .v 4, none, .f32, 19⟩),
    (0x0CDC030040200120#64, .fmin ⟨⟨false, 7⟩, .v 3, .v 1, .v 2, .v 0, none, .f32, 0⟩),
    (0x0D1C030040200120#64, .fmax ⟨⟨false, 7⟩, .v 3, .v 1, .v 2, .v 0, none, .f32, 0⟩),
    (0x0D5D220040249D3D#64, .fset ⟨⟨false, 7⟩, .p 2, .v 1, .v 2, .p 7, none, .f32, 29⟩),
    (0x0D9D220040200120#64, .fclass ⟨⟨false, 7⟩, .p 2, .v 1, .v 2, .v 0, none, .f32, 0⟩),
    (0x0DDC030040000123#64, .frnd ⟨⟨false, 7⟩, .v 3, .v 1, .v 0, .v 0, none, .f32, 3⟩),
    (0x0E1C030040000120#64, .frcp ⟨⟨false, 7⟩, .v 3, .v 1, .v 0, .v 0, none, .f32, 0⟩),
    (0x0E5C030040000120#64, .frsq ⟨⟨false, 7⟩, .v 3, .v 1, .v 0, .v 0, none, .f32, 0⟩),
    (0x0E9C030040000120#64, .fsqrt ⟨⟨false, 7⟩, .v 3, .v 1, .v 0, .v 0, none, .f32, 0⟩),
    (0x0EDC030040000120#64, .fexp2 ⟨⟨false, 7⟩, .v 3, .v 1, .v 0, .v 0, none, .f32, 0⟩),
    (0x0F1C030040000120#64, .flog2 ⟨⟨false, 7⟩, .v 3, .v 1, .v 0, .v 0, none, .f32, 0⟩),
    (0x0F5C030040000120#64, .fsin ⟨⟨false, 7⟩, .v 3, .v 1, .v 0, .v 0, none, .f32, 0⟩),
    (0x0F9C030040000120#64, .fcos ⟨⟨false, 7⟩, .v 3, .v 1, .v 0, .v 0, none, .f32, 0⟩),
    (0x0FDC030040000120#64, .ftanh ⟨⟨false, 7⟩, .v 3, .v 1, .v 0, .v 0, none, .f32, 0⟩),
    (0x101C030040200122#64, .fscale ⟨⟨false, 7⟩, .v 3, .v 1, .v 2, .v 0, none, .f32, 2⟩),
    (0x121C030040200144#64, .hadd2 ⟨⟨false, 7⟩, .v 3, .v 1, .v 2, .v 0, none, .f16, 4⟩),
    (0x125C030040200168#64, .hmul2 ⟨⟨false, 7⟩, .v 3, .v 1, .v 2, .v 0, none, .bf16, 8⟩),
    (0x129C030040201170#64, .hfma2 ⟨⟨false, 7⟩, .v 3, .v 1, .v 2, .v 4, none, .bf16, 16⟩),
    (0x12DC030040200141#64, .hmnmx2 ⟨⟨false, 7⟩, .v 3, .v 1, .v 2, .v 0, none, .f16, 1⟩),
    (0x131C030040200143#64, .hset2 ⟨⟨false, 7⟩, .v 3, .v 1, .v 2, .v 0, none, .f16, 3⟩),
    (0x141C030045C00143#64, .cvt ⟨⟨false, 7⟩, .v 3, .v 1, .f16, .e4m3, 1, true, 3⟩),
    (0x145C0300404001A1#64, .cvtsr ⟨⟨false, 7⟩, .v 3, .v 1, .v 4, .v 0, none, .e5m2, 1⟩),
    (0x149C03004020158D#64, .pack2 ⟨⟨false, 7⟩, .v 3, .v 1, .v 2, .v 5, none, .e4m3, 13⟩),
    (0x14DC0300548015C7#64, .quant ⟨⟨false, 7⟩, .v 3, .v 1, .s 8, .v 5, none, .cb4, 7⟩),
    (0x151C0300402001A3#64, .deq ⟨⟨false, 7⟩, .v 3, .v 1, .v 2, .v 0, none, .e5m2, 3⟩)] := by
  decide +kernel

/-- The predicate and cross-lane words (R260 to R263), each bit from the spec's encoding tables. -/
theorem test_decode_lanes : ReadsAll [
    (0x161D2248D27B9000#64, .plop ⟨⟨false, 7⟩, .p 2, .p 3, .p 7, .c 228, none, .b32, 0⟩),
    (0x165C030000000000#64, .ppack ⟨⟨false, 7⟩, .v 3, .v 0, .v 0, .v 0, none, .b32, 0⟩),
    (0x169C000100000000#64, .punpack ⟨⟨false, 7⟩, .v 0, .v 4, .v 0, .v 0, none, .b32, 0⟩),
    (0x181C030040200007#64, .shfl ⟨⟨false, 7⟩, .v 3, .v 1, .v 2, .v 0, none, .b32, 7⟩),
    (0x185D434880000002#64, .vote ⟨⟨false, 7⟩, .s 3, .p 2, .v 0, .v 0, none, .b32, 2⟩),
    (0x189D434880000000#64, .ballot ⟨⟨false, 7⟩, .s 3, .p 2, .v 0, .v 0, none, .b32, 0⟩),
    (0x18DC020100000101#64, .matchw ⟨⟨false, 7⟩, .v 2, .v 4, .v 0, .v 0, none, .n64, 1⟩),
    (0x191D430100000063#64, .redux ⟨⟨false, 7⟩, .s 3, .v 4, .v 0, .v 0, none, .i32, 3⟩),
    (0x195C020140600120#64, .reduxi ⟨⟨false, 7⟩, .v 2, .v 5, .v 6, .v 0, none, .f32, 0⟩),
    (0x199C0301000000E8#64, .scan ⟨⟨false, 7⟩, .v 3, .v 4, .v 0, .v 0, none, .n32, 8⟩)] := by
  decide +kernel

/-- The memory words (R271, R288), each bit from the spec's encoding tables. -/
theorem test_decode_memory : ReadsAll [
    (0x405C046080400002#64, .ld ⟨⟨false, 7⟩, .v 4, .a 2, 64, 0, 2, .glb, 0, false, false⟩),
    (0x405C0860FFF8D36C#64, .ld ⟨⟨false, 7⟩, .v 8, .a 3, 16376, 52, 4, .gen, 1, true, true⟩),
    (0x409E0701A00000DA#64, .st ⟨⟨false, 7⟩, .c 7, .v 6, 8192, 0, 2, .stk, 3, false, false⟩),
    (0x40DD46605FFF09A1#64, .ldq ⟨⟨false, 7⟩, .s 6, .a 1, 8191, 2, 1, .cst, 2, true, false⟩),
    (0x411D446040100014#64, .stq ⟨⟨false, 7⟩, .s 4, .a 1, 16, 0, 4, .cls, 0, false, false⟩),
    (0x415C020100088583#64, .lda ⟨⟨false, 7⟩, .v 2, .v 4, 8, 33, 3, .glb, 2, true, false⟩),
    (0x419C02617FFC280A#64, .stl ⟨⟨false, 7⟩, .v 2, .a 5, 16380, 10, 2, .scr, 0, false, false⟩),
    (0x41DC030200004102#64, .ldc ⟨⟨false, 7⟩, .v 3, .v 8, 0, 16, 2, .glb, 0, true, false⟩),
    (0x421C020117F84D83#64, .atom ⟨⟨false, 7⟩, .v 2, .v 4, 6136, 19, 3, .glb, 2, true, false⟩),
    (0x425C08010010600C#64, .cas ⟨⟨false, 7⟩, .v 8, .v 4, 16, 24, 4, .scr, 0, false, false⟩),
    (0x429C026120048402#64, .atomf ⟨⟨false, 7⟩, .v 2, .a 4, 8196, 33, 2, .glb, 0, false, false⟩),
    (0x42DC026134040802#64, .red ⟨⟨false, 7⟩, .v 2, .a 4, 13316, 2, 2, .glb, 0, false, false⟩),
    (0x441C000000009000#64, .fence ⟨⟨false, 7⟩, .v 0, .v 0, 0, 36, 0, .glb, 0, false, false⟩),
    (0x445C00608080B2E0#64, .pref ⟨⟨false, 7⟩, .v 0, .a 2, 128, 44, 0, .cst, 3, false, true⟩),
    (0x449C006080080028#64, .cctlInv ⟨⟨false, 7⟩, .v 0, .a 2, 8, 0, 0, .gen, 0, false, false⟩),
    (0x449C000087F00000#64, .cctlUnpin ⟨⟨false, 7⟩, .v 0, .v 2, 2032, 0, 0, .glb, 0, false, false⟩),
    (0x449C000008000000#64, .cctlInvl1 ⟨⟨false, 7⟩, .v 0, .v 0, 2048, 0, 0, .glb, 0, false, false⟩),
    (0x449C00000C000000#64, .cctlInvdie ⟨⟨false, 7⟩, .v 0, .v 0, 3072, 0, 0, .glb, 0, false, false⟩),
    (0x449C000010000000#64, .cctlIinv ⟨⟨false, 7⟩, .v 0, .v 0, 4096, 0, 0, .glb, 0, false, false⟩),
    (0x461D4300000FC000#64, .bar ⟨⟨false, 7⟩, .s 3, .v 0, 15, 48, 0, .glb, 0, false, false⟩),
    (0x465C000000030000#64, .cbar ⟨⟨false, 7⟩, .v 0, .v 0, 3, 0, 0, .glb, 0, false, false⟩),
    (0x469E0160FFF0480B#64, .arv ⟨⟨false, 7⟩, .c 1, .a 3, 16368, 18, 3, .scr, 0, false, false⟩),
    (0x46DC0260C0182553#64, .await ⟨⟨false, 7⟩, .v 2, .a 3, 24, 9, 3, .cls, 1, true, false⟩)] := by
  decide +kernel

/-- The control words (R264), each bit from the spec's encoding tables. -/
theorem test_decode_control : ReadsAll [
    (0x804C0000FFFFFFF4#64, .bra ⟨false, 3⟩ 4294967284),
    (0x80A4000100000000#64, .brx ⟨true, 1⟩ (.v 4)),
    (0x80DC000000000007#64, .call ⟨false, 7⟩ 7),
    (0x811C006180000000#64, .callx ⟨false, 7⟩ (.a 6)),
    (0x815C000000000000#64, .ret ⟨false, 7⟩),
    (0x819C0000FFFFFFFF#64, .meet ⟨false, 7⟩ 4294967295),
    (0x81DC00007FFFFFFF#64, .meets ⟨false, 7⟩ 2147483647),
    (0x823C000000000000#64, .meetl ⟨true, 7⟩),
    (0x825C000000000000#64, .exit ⟨false, 7⟩),
    (0x829C000000000000#64, .yield ⟨false, 7⟩),
    (0x82DC000000000000#64, .nop ⟨false, 7⟩)] := by
  decide +kernel

/-- The matrix, stream, task and tag words (R299), each bit from the spec's encoding tables. -/
theorem test_decode_async : ReadsAll [
    (0x841D4600000D0115#64, .shape ⟨⟨false, 7⟩, .s 6, .v 0, .v 0, .v 0, 1664, true, 21⟩),
    (0x841D460000008007#64, .shapeRel ⟨⟨false, 7⟩, .s 6, .v 0, .v 0, .v 0, 64, false, 7⟩),
    (0x845C000000000003#64, .mzero ⟨⟨false, 7⟩, .v 0, .v 0, .v 0, .v 0, 0, false, 3⟩),
    (0x849C0052000A5102#64, .mloop ⟨⟨false, 7⟩, .v 0, .s 8, .v 0, .v 0, 1320, true, 2⟩),
    (0x84DD4254145AAE46#64, .mepi ⟨⟨false, 7⟩, .s 2, .s 16, .s 5, .v 0, 1367, false, 70⟩),
    (0x84DC005600000181#64, .mepiCol ⟨⟨false, 7⟩, .v 0, .s 24, .v 0, .v 0, 0, true, 129⟩),
    (0x851C0060E0500406#64, .mlda ⟨⟨false, 7⟩, .v 0, .a 3, .c 5, .v 0, 2, false, 6⟩),
    (0x855C006100000001#64, .msta ⟨⟨false, 7⟩, .v 0, .a 4, .v 0, .v 0, 0, false, 1⟩),
    (0x859C006140000204#64, .mcb ⟨⟨false, 7⟩, .v 0, .a 5, .v 0, .v 0, 1, false, 4⟩),
    (0x881D455200000000#64, .xfer ⟨⟨false, 7⟩, .s 5, .s 8, .v 0, .v 0, 0, false, 0⟩),
    (0x885D445400000000#64, .xring ⟨⟨false, 7⟩, .s 4, .s 16, .v 0, .v 0, 0, false, 0⟩),
    (0x889D435140000000#64, .xslotAcq ⟨⟨false, 7⟩, .s 3, .s 5, .v 0, .v 0, 0, false, 0⟩),
    (0x889C005140000200#64, .xslotRel ⟨⟨false, 7⟩, .v 0, .s 5, .v 0, .v 0, 1, false, 0⟩),
    (0x88DD435140000300#64, .xwait ⟨⟨false, 7⟩, .s 3, .s 5, .v 0, .v 0, 1, true, 0⟩),
    (0x891C008240000000#64, .xcancel ⟨⟨false, 7⟩, .v 0, .c 9, .v 0, .v 0, 0, false, 0⟩),
    (0x8A1C030140000100#64, .spawn ⟨⟨false, 7⟩, .v 3, .v 5, .v 0, .v 0, 0, true, 0⟩),
    (0x8A5C0060E0180000#64, .csig ⟨⟨false, 7⟩, .v 0, .a 3, .c 1, .v 0, 1024, false, 0⟩),
    (0x8A9C020118670100#64, .cwait ⟨⟨false, 7⟩, .v 2, .v 4, .a 6, .v 0, 896, true, 0⟩),
    (0x8B1C005580000000#64, .tagpub ⟨⟨false, 7⟩, .v 0, .s 22, .v 0, .v 0, 0, false, 0⟩),
    (0x8B5D435580010000#64, .tagwait ⟨⟨false, 7⟩, .s 3, .s 22, .v 0, .v 0, 128, false, 0⟩),
    (0x8B9D436094481901#64, .colsend ⟨⟨false, 7⟩, .s 3, .a 2, .s 4, .c 6, 0, true, 1⟩)] := by
  decide +kernel

/-- The system words (R299, R329, R334), each bit from the spec's encoding tables. -/
theorem test_decode_system : ReadsAll [
    (0x8C1C0000FFFFFFC0#64, .phint ⟨false, 7⟩ 4294967232),
    (0x8C5C005180000001#64, .logmark ⟨⟨false, 7⟩, .v 0, .s 6, .v 0, .v 0, 0, false, 1⟩),
    (0x8C9C008200000000#64, .trapf ⟨⟨false, 7⟩, .v 0, .c 8, .v 0, .v 0, 0, false, 0⟩),
    (0x8CDC0050D8400200#64, .trap ⟨⟨false, 7⟩, .v 0, .s 3, .a 4, .v 0, 1, false, 0⟩),
    (0x8D1D830000005300#64, .csrr ⟨⟨false, 7⟩, .a 3, .v 0, .v 0, .v 0, 41, true, 0⟩),
    (0x8D5C005180000301#64, .csrw ⟨⟨false, 7⟩, .v 0, .s 6, .v 0, .v 0, 1, true, 1⟩),
    (0x8D5C005180000601#64, .cmdqWrite ⟨⟨false, 7⟩, .v 0, .s 6, .v 0, .v 0, 3, false, 1⟩),
    (0x8D5C005180005101#64, .rngattrWrite ⟨⟨false, 7⟩, .v 0, .s 6, .v 0, .v 0, 40, true, 1⟩),
    (0x8D5C005180003F01#64, .rangeBoundWrite ⟨⟨false, 7⟩, .v 0, .s 6, .v 0, .v 0, 31, true, 1⟩),
    (0x8D5C005180001401#64, .tagwinWrite ⟨⟨false, 7⟩, .v 0, .s 6, .v 0, .v 0, 10, false, 1⟩),
    (0x8D9D440000000000#64, .clock ⟨⟨false, 7⟩, .s 4, .v 0, .v 0, .v 0, 0, false, 0⟩),
    (0x8DDC009900000000#64, .sleep ⟨⟨false, 7⟩, .v 0, .c 100, .v 0, .v 0, 0, false, 0⟩),
    (0x8E1C0000000000AB#64, .bpt ⟨⟨false, 7⟩, .v 0, .v 0, .v 0, .v 0, 0, false, 171⟩)] := by
  decide +kernel

/-! ## Ill-formed terms, each refused -/

abbrev always : Guard := ⟨false, 7⟩

/-- Forms no word can hold (R214, R215, R240, R271, R299): a type the row does not list, a reserved SUB bit, I form where it is not
permitted, an unused field that is not zero, sizes, spaces, orders and post-increments the rows exclude, reserved X and Y codes. -/
theorem test_illFormed : ∀ i ∈ [
    Instr.iadd ⟨always, .v 1, .v 2, .v 3, .v 0, none, .f32, 0⟩, .iadd ⟨always, .v 1, .v 2, .v 3, .p 1, none, .i32, 3⟩,
    .imul ⟨always, .v 1, .v 2, .v 3, .v 0, none, .i32, 1⟩, .imad ⟨always, .v 1, .v 2, .v 0, .v 0, some 5, .i32, 0⟩,
    .imul ⟨always, .v 1, .v 2, .v 3, .v 4, none, .i32, 0⟩, .mov ⟨always, .v 1, .v 2, .v 0, .v 0, some 1, .i32, 0⟩,
    .cvt ⟨always, .v 1, .v 2, .f32, .f32, 0, false, 0⟩, .cvt ⟨always, .v 1, .v 2, .f32, .f16, 0, false, 2⟩,
    .ld ⟨always, .v 1, .a 2, 0, 0, 5, .glb, 0, false, false⟩, .ld ⟨always, .v 1, .v 2, 0, 0, 2, .glb, 0, false, true⟩,
    .st ⟨always, .v 1, .a 2, 0, 0, 2, .cst, 0, false, false⟩, .st ⟨always, .v 1, .a 2, 0, 2, 1, .glb, 0, false, false⟩,
    .lda ⟨always, .v 1, .a 2, 0, 2, 2, .glb, 0, false, false⟩, .atom ⟨always, .v 1, .a 2, 0, 0, 1, .glb, 0, false, false⟩,
    .fence ⟨always, .v 0, .v 0, 0, 0, 0, .glb, 0, false, false⟩, .cctlIinv ⟨always, .v 0, .v 0, 3072, 0, 0, .glb, 0, false, false⟩,
    .bar ⟨always, .s 3, .v 0, 0, 0, 0, .glb, 0, false, false⟩, .shape ⟨always, .s 2, .v 0, .v 0, .v 0, 64, false, 0⟩,
    .mepi ⟨always, .v 0, .s 8, .s 1, .v 0, 640, false, 128⟩, .csrr ⟨always, .a 2, .v 0, .v 0, .v 0, 0, false, 1⟩,
    .csrw ⟨always, .v 0, .s 2, .v 0, .v 0, 3, false, 0⟩, .bpt ⟨always, .v 1, .v 0, .v 0, .v 0, 0, false, 0⟩],
    formOk i = false := by decide +kernel

/-- Operands a wave of 64 registers may not name (R14, R80, R214, R218 to R222, R273): a register at the cap, an odd pair, a predicate
where none is read and another kind where one is, destinations that take none, %15, bases, data and descriptor blocks. -/
theorem test_illegalOperands : ∀ i ∈ [
    Instr.iadd ⟨always, .v 64, .v 2, .v 3, .v 0, none, .i32, 0⟩, .iadd ⟨always, .v 1, .v 2, .v 3, .v 0, none, .i64, 0⟩,
    .iadd ⟨always, .v 2, .v 63, .v 4, .v 0, none, .i64, 0⟩, .iadd ⟨always, .c 1, .v 2, .v 3, .v 0, none, .i32, 0⟩,
    .iadd ⟨always, .sr 1, .v 2, .v 3, .v 0, none, .i32, 0⟩, .iadd ⟨always, .x 1, .v 2, .v 3, .v 0, none, .i32, 0⟩,
    .iadd ⟨always, .v 1, .p 2, .v 3, .v 0, none, .i32, 0⟩, .iadd ⟨always, .v 1, .sr 15, .v 3, .v 0, none, .i32, 0⟩,
    .sel ⟨always, .v 1, .v 2, .v 3, .v 4, none, .b32, 0⟩, .iset ⟨always, .p 7, .v 2, .v 3, .v 0, none, .i32, 0⟩,
    .lop3 ⟨always, .v 1, .v 2, .v 3, .v 4, none, .b32, 0⟩, .movw ⟨always, .v 1, 1, 0⟩, .ajoin ⟨always, .m 1, .v 2, .v 3, .v 0, none, .b32, 0⟩,
    .ld ⟨always, .v 1, .v 3, 0, 0, 2, .glb, 0, false, false⟩, .ld ⟨always, .v 2, .a 2, 0, 0, 4, .glb, 0, false, false⟩,
    .ld ⟨always, .s 2, .a 2, 0, 0, 2, .glb, 0, false, false⟩, .ldq ⟨always, .v 2, .a 2, 0, 0, 2, .glb, 0, false, false⟩,
    .brx always (.v 3), .mloop ⟨always, .v 0, .s 4, .v 0, .v 0, 0, false, 0⟩, .clock ⟨always, .s 3, .v 0, .v 0, .v 0, 0, false, 0⟩],
    operandsOk 64 i = false := by decide +kernel

/-- Clauses that break R204: ECL 4, SETA 12, a reserved bit, a missing word, a word its class does not admit, a transfer before the last
word, a flag selected where its field is 15, a word of class 11. The first of R234's worked example is well formed. -/
theorem test_clauses :
    clauseWf 0xC88008F800000000 [0x005C0500E0100060, 0x405C046080400002] = true
    ∧ ∀ c ∈ [(0xE08008F800000000#64, [0x005C0500E0100060#64, 0x405C046080400002]), (0xC880067800000000, [0x005C0500E0100060, 0x405C046080400002]),
        (0xC88008F800000001, [0x005C0500E0100060, 0x405C046080400002]), (0xC88008F800000000, [0x005C0500E0100060]),
        (0xC08008F800000000, [0x005C0500E0100060, 0x405C046080400002]), (0xC88008F800000000, [0x825C000000000000, 0x405C046080400002]),
        (0xC88007F800000000, [0x005C0500E0100060, 0x405C046080400002]), (0xC88008F800000000, [0x005C0500E0100060, 0xC05C046080400002])],
      clauseWf c.1 c.2 = false := by decide +kernel

/-- Words that decode to nothing, each with its fault (R214, R218, R223): opcode 0, a type that is none, an unused field, a post-increment
on a v base; a reserved operand encoding; a header inside a clause. -/
theorem test_undecodable :
    decode 0x001C000000000000 = .error .instruction ∧ decode 0x005C0500E01001E0 = .error .instruction
    ∧ decode 0x00DC0300402010E0 = .error .instruction ∧ decode 0x405C040100400202 = .error .instruction
    ∧ decode 0x005C0A00E0100060 ≠ .error .instruction ∧ decode 0x005D0A00E0100060 = .error .operand
    ∧ decode 0xC88008F800000000 = .error .clause := by decide +kernel

/-! ## A small state: one package with a die, a home and two cores, one context with one range over one resident page, one block of one
wave with an open clause of two words -/

def key0 : Nat := 256 * 16 * 2 ^ 56

/-- VA 0 to 2^24 - 1 to IA 0 on, homed at stack 0 of package 0, every access permitted and resident. -/
def rng : Range := ⟨0, 0x1000000, 0, 0x361F, 7⟩

def ctx1 : Ctx :=
  { id := 1, life := .live, auto := false, desc := 0x8000, dies := [(0, 0, 0)], ranges := [rng], staged := none, tagwin := 0x0000000001000000, dbgctl := 0,
    pindrop := 0, ctl := 0, save := 0xA000, svsz := 1, trd := 0, wdlog := 0, logmode := 0, dstop := false, logst := 0, rings := [],
    queues := [], launches := [], nlaunch := 0, parked := [], trig := [], off := [], saved := [], preempts := 0, preempting := false,
    revoked := [], binds := [], trapq := [], recs := [], resp := [], moved := [] }

abbrev bid : BlkId := ⟨1, false, 0, 0⟩
abbrev wid : WaveId := ⟨bid, 0⟩
abbrev core0 : CoreId := ⟨0, 0, 0⟩
abbrev core1 : CoreId := ⟨0, 0, 1⟩
abbrev hm : HomeId := ⟨0, 0⟩

def blk0 : Blk := { Blk.fresh bid with state := .running, core := core0, cap := 64, size := 4096 }
def ent0 : Entry := ⟨hm, 0, 1, false, 0, 0, false, 0, 0, 1, 0, 0, 0⟩

/-- The clause of R234's worked example at VA 0x1000: IADD.i32 v5, v3, 1, then LD. -/
def cl0 : Clause := ⟨0x1000, ⟨1, 1, 1, 1, 15, false⟩, [0x005C0500E0100060, 0x405C046080400002], 0, 0xFFFFFFFF⟩

def wave0 : Wave :=
  { Wave.idle with
    id := wid, exited := 0, cap := 64, core := core0, dims := ⟨32, 32, 1, 0, 0, 0, 1, 1, 1⟩, clause := some cl0, run := .run,
    v := [(lkey 3 3, 9)] }

/-- The bytes of headers at IA 0xFA0, and at 0x1018, where the clause at 0x1000 falls through. -/
def hdrCells : List Host.Cell :=
  [(key0 + 0xFA4, 0xF8), (key0 + 0xFA5, 0x17), (key0 + 0xFA6, 0x80), (key0 + 0xFA7, 0xC0),
   (key0 + 0x101C, 0xF8), (key0 + 0x101D, 0x17), (key0 + 0x101E, 0x80), (key0 + 0x101F, 0xC0)]

def demo : State :=
  { State.reset with
    wave := wave0, blks := [blk0], cores := [Core.new core0 0, Core.new core1 0], dies := [Die.new 0 0], homes := [Home.new (2 ^ 24) (RowList.empty 0) hm],
    entries := [ent0], pkgs := [{ Pkg.atReset 0 with up := true }], ctxs := [ctx1], fns := [Fn.new 0], mem := hdrCells, seq := 1 }

/-- What a step or a meaning that goes on leaves. -/
abbrev Leaves (o : Out) (p : State → Bool) : Prop := (match o with | .next t => p t | _ => false) = true

/-! ## Single steps -/

abbrev word (d a b c : Opd) (ty : Ty) (sub : BitVec 5) : CW := ⟨always, d, a, b, c, none, ty, sub⟩

/-- `demo` with other lane-0 values of v1, v2 (and v3 = 9 in lane 3). -/
abbrev with12 (x y : W32) : State := { demo with wave := (wave0.setV 1 0 x).setV 2 0 y }

/-- R234's example: v3 = 9 in lane 3 gives v5 = 10, and x0 follows (R79); the ordinal advances. -/
theorem test_iadd : Leaves (step { demo with order := [0] }) fun t =>
    t.wave.getV 5 3 == 10#32 && t.wave.getX 0 3 == 10#64 && t.wave.getV 5 0 == 1#32 && t.wave.ordinal == 1 := by decide +kernel

/-- R241: 0xFFFFFFFF + 1 wraps with carry; 1 - 2 borrows; 0x7FFFFFFF + 1 saturates. -/
theorem test_addSub :
    Leaves (exec (.iadd (word (.v 4) (.v 1) (.v 2) (.p 1) .n32 4)) (with12 0xFFFFFFFF 1)) (fun t => t.wave.getV 4 0 == 0#32 && t.wave.getP 1 0)
    ∧ Leaves (exec (.isub (word (.v 4) (.v 1) (.v 2) (.p 1) .i32 4)) (with12 1 2)) (fun t => t.wave.getV 4 0 == 0xFFFFFFFF#32 && t.wave.getP 1 0)
    ∧ Leaves (exec (.iadd (word (.v 4) (.v 1) (.v 2) (.v 0) .i32 1)) (with12 0x7FFFFFFF 1)) (fun t => t.wave.getV 4 0 == 0x7FFFFFFF#32) := by
  decide +kernel

/-- R242, R243, R244, R245, R246: the high half of (-1)(-1); |INT_MIN| saturated; XOR by its table; SAR past the width; a signed field. -/
theorem test_integer :
    Leaves (exec (.imulh (word (.v 4) (.v 1) (.v 2) (.v 0) .i32 0)) (with12 0xFFFFFFFF 0xFFFFFFFF)) (fun t => t.wave.getV 4 0 == 0#32)
    ∧ Leaves (exec (.iabs (word (.v 4) (.v 1) (.v 0) (.v 0) .i32 1)) (with12 0x80000000 0)) (fun t => t.wave.getV 4 0 == 0x7FFFFFFF#32)
    ∧ Leaves (exec (.lop3 (word (.v 4) (.v 1) (.v 2) (.c 0x3C) .b32 0)) (with12 0xF0F0 0xFF00)) (fun t => t.wave.getV 4 0 == 0x0FF0#32)
    ∧ Leaves (exec (.sar (word (.v 4) (.v 1) (.v 2) (.v 0) .i32 0)) (with12 0x80000000 40)) (fun t => t.wave.getV 4 0 == 0xFFFFFFFF#32)
    ∧ Leaves (exec (.bfe (word (.v 4) (.v 1) (.v 2) (.v 0) .i32 0)) (with12 0xA0 0x0404)) (fun t => t.wave.getV 4 0 == 0xFFFFFFFA#32) := by
  decide +kernel

/-- R252, R254, R256, R220: 1.5 + 2.5 = 4; 2^24 + 1 ties to even with NX; 1 / 0 is infinity with DZ; the constant 0x38 is 1.0; -1.5 truncates
to -1. -/
theorem test_float :
    Leaves (exec (.fadd (word (.v 4) (.v 1) (.v 2) (.v 0) .f32 0)) (with12 0x3FC00000 0x40200000))
      (fun t => t.wave.getV 4 0 == 0x40800000#32 && t.wave.astk == 0)
    ∧ Leaves (exec (.fadd (word (.v 4) (.v 1) (.c 0x38) (.v 0) .f32 0)) (with12 0x4B800000 0))
      (fun t => t.wave.getV 4 0 == 0x4B800000#32 && t.wave.astk != 0)
    ∧ Leaves (exec (.frcp (word (.v 4) (.v 1) (.v 0) (.v 0) .f32 0)) (with12 0 0)) (fun t => t.wave.getV 4 0 == 0x7F800000#32)
    ∧ Leaves (exec (.cvt ⟨always, .v 4, .v 1, .i32, .f32, 1, false, 0⟩) (with12 0xBFC00000 0)) (fun t => t.wave.getV 4 0 == 0xFFFFFFFF#32) := by
  decide +kernel

/-- R261, R262, R263: lane 0 of .rot 3 reads lane 3; the ballot of v3 = 9; the sum over all lanes. -/
theorem test_lanes :
    Leaves (exec (.shfl (word (.v 4) (.v 3) (.c 3) (.v 0) .b32 1)) demo) (fun t => t.wave.getV 4 0 == 9#32)
    ∧ Leaves (exec (.iset (word (.p 2) (.v 3) (.c 9) (.v 0) .i32 0)) demo) (fun t =>
        Leaves (exec (.ballot (word (.s 5) (.p 2) (.v 0) (.v 0) .b32 0)) t) fun u => u.wave.getS 5 == 8#32)
    ∧ Leaves (exec (.redux (word (.s 5) (.v 3) (.v 0) (.v 0) .n32 0)) demo) (fun t => t.wave.getS 5 == 9#32) := by decide +kernel

/-- A request of an operation, at demo's home. -/
abbrev req0 (kind : ReqKind) (data : List Byte) : Req :=
  ⟨7, wid, 0, 0, kind, 1, core0, hm, 0x2000, 4, 0, data, [], false, .nc, 1, 1, false, 0, 0⟩

/-- Demo with the operation of that request in flight. -/
abbrev op7 (i : Instr) : Op := ⟨7, wid, 1, i, some 1, 0x1010, 0, [], [], 1, 1, [], [], 0, false, false, false, none, .nc⟩
abbrev asking : State := { demo with ops := [op7 .drrRound] }

/-- R102, R283: a store leaves its bytes in its frame; an add gives the old bytes plus the operand; incw wraps at it. -/
theorem test_memory :
    Leaves (exec (.homeAccess (req0 .store [1, 2, 3, 4])) asking) (fun t => t.memRead (key0 + 0x2000) 4 == [1, 2, 3, 4] && t.memByte (key0 + 0x2004) == 0)
    ∧ Leaves (exec (.homeAccess (req0 (.rmw .add false) [255, 0, 0, 0])) { asking with mem := [(key0 + 0x2000, 2)] })
        (fun t => t.memRead (key0 + 0x2000) 4 == [1, 1, 0, 0])
    ∧ Leaves (exec (.homeAccess (req0 (.rmw .incw false) [2, 0, 0, 0])) { asking with mem := [(key0 + 0x2000, 2)] })
        (fun t => t.mem == []) := by decide +kernel

/-- R217, R206, R274: a load counts on f1 and steps its base; a scratchpad address past S traps with code 0x07 and makes no access. -/
theorem test_access :
    Leaves (exec (.ld ⟨always, .v 4, .a 2, 64, 0, 2, .glb, 0, false, true⟩) demo) (fun t =>
        t.wave.flag 1 == 1 && t.wave.getA 2 == 64#64 && t.ops.length == 1)
    ∧ Leaves (exec (.ld ⟨always, .v 4, .a 2, 4096, 0, 2, .scr, 0, false, false⟩) demo) (fun t =>
        t.ops == [] && t.wave.flag 1 == 0 && t.wave.run == .halted
        && t.pending.any fun e => match e with | .trapRecordPost 1 r => r.code == 0x07 && r.sub == 5 && r.lane == 0 | _ => false) := by
  decide +kernel

/-- R264, R265: the spec's BRA with offset -12 moves lane 3 to H - 96; CALL leaves E in a12; MEETS then MEETL give the old MR back. -/
theorem test_control :
    Leaves (exec (.bra always 0xFFFFFFF4) demo) (fun t => t.wave.getPc 3 == 0xFA0#64 && t.wave.clause == none)
    ∧ Leaves (exec (.call always 3) demo) (fun t => t.wave.getA 12 == 0x1018#64)
    ∧ Leaves (exec (.meets always 2) demo) (fun t => t.wave.getMr 0 == 0x1010#64
        && Leaves (exec (.meetl always) t) fun u => u.wave.getMr 0 == mrNone && u.wave.getStack 0 == []) := by decide +kernel

/-- R298, R206: SHAPE is in flight on f1; R334, R335: a user's CSRW of STKLIM, and of FPCTL, which is read-only. -/
theorem test_async :
    Leaves (exec (.shape ⟨always, .s 6, .v 0, .v 0, .v 0, 0, false, 0⟩) demo) (fun t => t.wave.flag 1 == 1 && t.ops.length == 1)
    ∧ Leaves (exec (.csrw ⟨always, .v 0, .s 6, .v 0, .v 0, 1, true, 0⟩) { demo with wave := wave0.setS 6 0x40 }) (fun t => t.wave.stklim == 0x40#64)
    ∧ Leaves (exec (.csrw ⟨always, .v 0, .s 6, .v 0, .v 0, 0, true, 0⟩) demo) (fun t => t.wave.run == .halted) := by decide +kernel


/-- R301's worked example: three requests at a core with 49,152 accumulators free. -/
theorem test_grantShape : grantShape 8 256 256 49152 = (256, 128) ∧ grantShape 8 128 128 16384 = (128, 128) ∧ grantShape 8 64 64 0 = (0, 0) := by
  decide +kernel

/-- R98: CRC-32C's check value for the digits 1 to 9, and that of 32 zero bytes (RFC 3720, B.4). -/
theorem test_crc32c : crc32c ([0x31, 0x32, 0x33, 0x34, 0x35, 0x36, 0x37, 0x38, 0x39] : List Byte) = 0xE3069283
    ∧ crc32c (List.replicate 32 0) = 0x8A9136AA := by decide +kernel

/-- R193, R256: FTZ flushes no source of a conversion to E5M2: 2^-15 in FP16 is its subnormal 0x02. R251: AADD.n32 zero-extends an immediate. -/
theorem test_review :
    Leaves (exec (.cvt ⟨always, .v 4, .v 1, .e5m2, .f16, 0, false, 0⟩) { with12 0x0200 0 with wave := { (with12 0x0200 0).wave with fpctl := 1 } })
      (fun t => t.wave.getV 4 0 == 0x02#32)
    ∧ Leaves (exec (.aadd ⟨always, .a 3, .a 2, .v 0, .v 0, some 0xFFFFF, .n32, 0⟩) { demo with wave := wave0.setA 2 1 })
      (fun t => t.wave.getA 3 == 0x100000000#64) := by decide +kernel

/-! ## Witnesses: for each statement with hypotheses, concrete values that meet them, clause by clause -/

theorem wit_StepsKeepMemoryCanonical : demo.Inv ∧ Leaves (step demo) (fun _ => true)
    ∧ Leaves (step { asking with order := [1], pending := [.homeAccess (req0 .store [1, 2, 3, 4])] }) (fun t => t.mem != demo.mem) := by
  refine ⟨show Memory.wf demo.mem = true from ?_, ?_, ?_⟩ <;> decide +kernel

theorem wit_MemoryReadsWrites : demo.Inv := wit_StepsKeepMemoryCanonical.1

/-- R234's word, and one whose every operand field is at its last encoding. -/
theorem wit_DecodeEncode :
    formOk (.iadd ⟨always, .v 5, .v 3, .c 1, .v 0, none, .i32, 0⟩) = true
    ∧ encode (.iadd ⟨always, .v 5, .v 3, .c 1, .v 0, none, .i32, 0⟩) = some 0x005C0500E0100060
    ∧ formOk (.imad ⟨⟨true, 7⟩, .v 255, .c 255, .c 255, .c 255, none, .n64, 0⟩) = true
    ∧ (encode (.imad ⟨⟨true, 7⟩, .v 255, .c 255, .c 255, .c 255, none, .n64, 0⟩)).isSome = true := by decide +kernel

theorem wit_EncodeDecode : decode 0x405C046080400002 = .ok (.ld ⟨always, .v 4, .a 2, 64, 0, 2, .glb, 0, false, false⟩) := by decide +kernel

theorem wit_HeadersDecode : decodeHeader 0xC88008F800000000 = some ⟨1, 1, 1, 1, 15, false⟩
    ∧ decodeHeader 0xDFFFFFFFFFFFFFFF = none ∧ decodeHeader 0xDFFFFFFC00000000 = some ⟨3, 15, 0xFFF, 15, 15, true⟩ := by decide +kernel

/-- The state of demo at the last word of its clause, and one whose f1 is full at the load. -/
abbrev atLd : State := { demo with order := [0], wave := { wave0 with clause := some { cl0 with k := 1 } } }

theorem wit_StepRunsTheWord :
    let s : State := { demo with order := [0] }
    let i : Instr := .iadd ⟨always, .v 5, .v 3, .c 1, .v 0, none, .i32, 0⟩
    let ld : Instr := .ld ⟨always, .v 4, .a 2, 64, 0, 2, .glb, 0, false, false⟩
    let full : State := { atLd with wave := { atLd.wave with flags := [(1, 63)] } }
    (s.order = 0 :: [] ∧ s.wave.clause = some cl0 ∧ s.wave.run = .run ∧ decode cl0.word = .ok i ∧ operandsOk s.wave.cap i = true
      ∧ ({ s with order := [] } : State).issueHeld i = false
      ∧ Leaves (exec i { s with order := [] }) (fun t => t.wave.id == s.wave.id && t.wave.clause == some cl0 && t.wave.run == .run) ∧ cl0.k < cl0.hdr.cnt)
    ∧ full.order = 0 :: [] ∧ full.wave.clause = some { cl0 with k := 1 } ∧ full.wave.run = .run ∧ decode ({ cl0 with k := 1 } : Clause).word = .ok ld
      ∧ operandsOk full.wave.cap ld = true ∧ ({ full with order := [] } : State).issueHeld ld = true
    ∧ exec (.taskStart core0) { State.reset with order := [] } = .fault .noSuchUnit := by
  refine ⟨?_, ?_, ?_, ?_, ?_, ?_, ?_, rfl⟩ <;> decide +kernel

theorem wit_IllegalWordsTrap :
    let at_ := fun (w : W64) => ({ demo with order := [0], wave := { wave0 with clause := some { cl0 with words := [w] } } } : State)
    let cl := fun (w : W64) => ({ cl0 with words := [w] } : Clause)
    (∀ w, (at_ w).order = 0 :: [] ∧ (at_ w).wave.clause = some (cl w) ∧ (at_ w).wave.run = .run)
    ∧ decode (cl 0x001C000000000000).word = .error .instruction ∧ decode (cl 0x005D0A00E0100060).word = .error .operand
    ∧ decode (cl 0x005C4000E0100060).word = .ok (.iadd ⟨always, .v 64, .v 3, .c 1, .v 0, none, .i32, 0⟩)
    ∧ operandsOk 64 (.iadd ⟨always, .v 64, .v 3, .c 1, .v 0, none, .i32, 0⟩) = false := by
  refine ⟨fun _ => ⟨rfl, rfl, rfl⟩, ?_, ?_, ?_, ?_⟩ <;> decide +kernel

theorem wit_StepBringsAboutEvents :
    let s : State := { demo with order := [2], pending := [.drrRound, .rackPreemption 1] }
    s.order = (1 + 1) :: [] ∧ s.pending[1]? = some (.rackPreemption 1) := by decide +kernel

theorem wit_FetchWordRuns :
    let i : Instr := .iadd ⟨always, .v 5, .v 3, .c 1, .v 0, none, .i32, 0⟩
    decodeTableWord 64 0x005C0500E0100060 = some i ∧ operandsOk State.reset.wave.cap i = true
    ∧ (State.reset.opsOf State.reset.wave.id).all (fun o => !o.acq) = true
    ∧ Leaves (exec i { (State.reset.withFetchWord 64 0x005C0500E0100060) with order := State.reset.order }) (fun t => t.wave.getV 5 0 == 1#32) := by
  decide +kernel

/-- A word of each kind of operand type the clauses tell apart. -/
theorem wit_compute :
    -- IABS and ISAD of signed types; VOTE, FCLASS to a predicate and to a register; a CB4 conversion
    tySigned (word (.v 4) (.v 1) (.v 0) (.v 0) .i32 0).ty = true
    ∧ (word (.p 0) (.v 1) (.v 2) (.v 0) .f32 0).d = .p 0 ∧ (word (.p 6) (.p 7) (.v 0) (.v 0) .b32 3).d = .p 6
    ∧ (word (.v 4) (.v 1) (.v 2) (.v 3) .cb4 0).ty = .cb4 ∧ (word (.v 4) (.v 1) (.v 2) (.v 3) .e5m2 0).ty ≠ .cb4
    -- SHFL's last segment; an integer reduction's last operation; an FP32 one with participating lanes; flags of R194's ranges
    ∧ ((word (.v 4) (.v 1) (.v 2) (.v 0) .b32 16).sub.extractLsb' 2 3).toNat < 5
    ∧ (word (.v 4) (.v 1) (.v 0) (.v 0) .n32 7).ty ≠ .f32
    ∧ ((word (.v 4) (.v 1) (.v 0) (.v 0) .n32 7).sub.extractLsb' 0 3).toNat = (word (.v 4) (.v 1) (.v 0) (.v 0) .n32 7).sub.toNat
    ∧ (word (.v 4) (.v 1) (.v 0) (.v 0) .f32 1).ty = .f32 ∧ demo.wave.part always ≠ []
    ∧ fp32.decode false (0x7F800001#32).toNat = .nan ∧ 0x80800000 ≤ (0xFF800000#32).toNat ∧ (0xFF800000#32).toNat ≤ 0xFF800000 := by
  decide +kernel

theorem wit_registerResults : (∀ n, Opd.v 4 ≠ .p n) ∧ ∀ n, Opd.s 5 ≠ .p n := ⟨nofun, nofun⟩

/-- R192: the largest finite value and the smallest subnormal of each format are below its bound and finite. -/
theorem wit_ArithmeticIsExact :
    (∀ p ∈ [(fp32, 0x7F7FFFFF), (fp16, 0xFBFF), (bf16, 1), (e4m3, 0xFE), (e5m2, 0x7B)], p.2 < 2 ^ p.1.width ∧ (p.1.decode false p.2).isFin = true)
    ∧ (FV.fin true 0 0).isFin = true ∧ (FV.fin false 3 (-2)).isFin = true := by decide +kernel

/-- R192, R195: 464 is half a spacing above E4M3's largest value, 448: rne keeps 448, .rup and 465 overflow; 2^-150 is tiny under rne. -/
theorem wit_rounding : e4m3.Overflows 3 false (FV.fin false 449 0).val ∧ ¬ e4m3.Overflows 0 false (FV.fin false 464 0).val
    ∧ e4m3.Overflows 0 true (FV.fin true 465 0).val ∧ fp32.IsTiny 0 false (FV.fin false 1 (-150)).val
    ∧ ¬ fp32.IsTiny 0 false (FV.fin false 1 0).val ∧ awayFrom0 2 true ∧ ¬ awayFrom0 2 false := by
  have a : e4m3.maxBits = 0x7E := by decide
  have b : e4m3.decode false 0x7E = .fin false 14 5 := by decide
  have c : e4m3.decode false 0x7D = .fin false 13 5 := by decide
  refine ⟨.inl ⟨.inr ⟨rfl, rfl⟩, ?_⟩, ?_, ?_, ?_, ?_, .inl ⟨rfl, rfl⟩, ?_⟩
  · change (e4m3.decode false e4m3.maxBits).val < _
    rw [a, b]
    norm_num [FV.val]
  all_goals simp only [Fmt.Overflows, Fmt.IsTiny, awayFrom0, Fmt.num, a, b, c, Nat.reduceSub]
  all_goals simp [FV.val, e4m3, fp32]
  all_goals norm_num [zpow_neg, zpow_ofNat]

/-- Inputs with no special value: 3, a subnormal, and -0 for FEXP2 and FSQRT. R252: a NaN and a number for FMIN; R247: conditions 0 and 7. -/
theorem wit_specials : fp32.decode false (0x40400000#32).toNat = .fin false 0xC00000 (-22) ∧ fp32.decode false 1 = .fin false 1 (-149)
    ∧ fp32.decode true (0x80000001#32).toNat = .fin true 0 0 ∧ FV.fin true 0 0 ≠ .nan ∧ (FV.fin true 0 0).isZero = true
    ∧ FV.nan.isNan = true ∧ (FV.inf true).isNan = false := by decide +kernel

theorem of_eq {α : Type} {o : Option α} {P : α → Prop} {a : α} (h : o = some a) (p : P a) : ∀ x, o = some x → P x := by
  intro x hx; rw [h] at hx; cases hx; exact p

theorem of_none {α : Type} {o : Option α} {P : α → Prop} (h : o = none) : ∀ x, o = some x → P x := by
  intro x hx; rw [h] at hx; cases hx

/-- Every piece lies at an IA, as a test. -/
def allIa (ps : List (Nat × Piece)) : Bool := ps.all fun p => match p.2.spot with | .ia _ _ => true | .scr _ _ => false

/-- The requests of the pieces at IAs go to stacks, as a test. -/
def homesOk (s : State) (m : MemSpec) : Bool :=
  (okPieces (m.checks s)).all fun p => match p.2.spot with | .ia _ _ => decide ((s.pieceReq m 0 p.1 p.2).home.stack < 16) | .scr _ _ => true

theorem homesOk_of {s : State} {m : MemSpec} (h : homesOk s m = true) : HomesOk s m := by
  intro p hp a g hs
  have := List.all_eq_true.mp h p hp
  rw [hs] at this
  simpa using this

theorem atHomes {ps : List (Nat × Piece)} (h : allIa ps = true) : AllAtHomes ps := by
  intro p hp
  have := List.all_eq_true.mp h p hp
  revert this
  cases p.2.spot with
  | ia a g => exact fun _ => ⟨a, g, rfl⟩
  | scr b o => simp

theorem inPads {ps : List (Nat × Piece)} (h : (ps.all fun p => match p.2.spot with | .ia _ _ => false | .scr _ _ => true) = true) : AllInPads ps := by
  intro p hp
  have := List.all_eq_true.mp h p hp
  revert this
  cases p.2.spot with
  | scr b o => exact fun _ => ⟨b, o, rfl⟩
  | ia a g => simp

/-- A 16-byte load that ends at the page's last byte, one lane's; a scratchpad load that ends at its last byte. -/
abbrev only0 (s : State) : State := { s with wave := { s.wave with clause := some { cl0 with lanes := 1 } } }
abbrev glbW (sz : BitVec 3) (sp : Space) : MW := ⟨always, .v 4, .a 2, 0, 0, sz, sp, 0, false, false⟩
abbrev atA (a : W64) : State := only0 { demo with wave := wave0.setA 2 a }

theorem wit_WeakLoadsIssue :
    (atA 0xFFF0).wave.clause = some { cl0 with lanes := 1 } ∧ (glbW 4 .glb).sz.toNat ≤ 4
    ∧ (∃ m ∈ weakLoads (glbW 4 .glb) (atA 0xFFF0), m.faults (m.checks (atA 0xFFF0)) = [] ∧ okPieces (m.checks (atA 0xFFF0)) ≠ [])
    ∧ NoneOnWay (atA 4080) ∧ (∃ m ∈ weakLoads { glbW 4 .glb with g := ⟨true, 7⟩ } (atA 0), m.lanes (atA 0) = [])
    ∧ (∃ m ∈ weakLoads (glbW 4 .scr) (atA 4080), m.faults (m.checks (atA 4080)) = [] ∧ okPieces (m.checks (atA 4080)) ≠ []
        ∧ (atA 4080).wave.flagOf m.ins = some 1) ∧ (glbW 4 .scr).sp = .scr
    ∧ (∃ m ∈ weakLoads { glbW 2 .glb with mx := 0 } (atA 0xFFFC), m.ins = .ldc { glbW 2 .glb with mx := 0 }
        ∧ m.faults (m.checks (atA 0xFFFC)) = []) := by
  refine ⟨rfl, by decide, ⟨_, .head _, ?_⟩, ⟨nofun, of_eq (a := Core.new core0 0) ?_ nofun⟩, ⟨_, .head _, ?_⟩, ⟨_, .head _, ?_⟩, rfl,
    ⟨_, .tail _ (.tail _ (.head _)), rfl, ?_⟩⟩ <;> decide +kernel

theorem wit_WeakStoresIssue :
    let wc : State := { atA 0xFFF0 with ctxs := [{ ctx1 with ranges := [{ rng with attr := 0x371F }] }] }
    (atA 0xFFF0).wave.clause = some { cl0 with lanes := 1 } ∧ (glbW 4 .glb).sz.toNat ≤ 4
    ∧ (∃ m ∈ weakStores (glbW 4 .glb) (atA 0xFFF0), m.faults (m.checks (atA 0xFFF0)) = [] ∧ homesOk (atA 0xFFF0) m = true
        ∧ OffNotify (atA 0xFFF0) (okPieces (m.checks (atA 0xFFF0))) ∧ AllAtHomes (okPieces (m.checks (atA 0xFFF0))))
    ∧ (∃ m ∈ weakStores (glbW 4 .scr) (atA 4080), m.faults (m.checks (atA 4080)) = [] ∧ (atA 4080).blk? bid ≠ none
        ∧ OffNotify (atA 4080) (okPieces (m.checks (atA 4080))) ∧ AllInPads (okPieces (m.checks (atA 4080))))
    ∧ (∃ m ∈ weakStores (glbW 4 .glb) wc, m.faults (m.checks wc) = [] ∧ homesOk wc m = true ∧ AllAtHomes (okPieces (m.checks wc))
        ∧ okPieces (m.checks wc) ≠ [])
    ∧ effPolicy (glbW 4 .glb).cp ({ rng with attr := 0x371F } : Range).mt = .wc ∧ effPolicy (glbW 4 .glb).cp rng.mt ≠ .wc := by
  have off (s : State) (ps : List (Nat × Piece)) (h : s.blks = [blk0]) : OffNotify s ps := fun p _ b o _ x hx => by
    have := List.mem_of_find?_eq_some hx
    rw [h] at this
    exact .inl (by rw [List.mem_singleton.1 this]; decide)
  refine ⟨rfl, by decide, ⟨_, .head _, ?_, ?_, off _ _ rfl, atHomes ?_⟩, ⟨_, .head _, ?_, ?_, off _ _ rfl, inPads ?_⟩,
    ⟨_, .head _, ?_, ?_, atHomes ?_, ?_⟩, ?_, ?_⟩ <;> decide +kernel

theorem wit_StrongWordsIssue :
    let s := atA 0xFFF8
    s.wave.clause = some { cl0 with lanes := 1 } ∧ ∃ m ∈ strongWords ⟨always, .v 4, .a 2, 0, 0x21, 3, .glb, 0, false, false⟩ s, m.faults (m.checks s) = []
      ∧ m.misaligned s = [] ∧ HomesOk s m ∧ okPieces (m.checks s) ≠ [] ∧ AllAtHomes (okPieces (m.checks s))
      ∧ (∀ x, s.ctx? s.wave.id.blk.ctx = some x → x.rings = [])
      ∧ ∀ k ∈ [0, 1, 2, 3, 5, 6, 7], ∃ x, (strongWords ⟨always, .v 4, .a 2, 0, 0x21, 3, .glb, 0, false, false⟩ s)[k]? = some x
        ∧ x.faults (x.checks s) = [] ∧ x.misaligned s = [] ∧ allIa (okPieces (x.checks s)) = true := by
  refine ⟨rfl, _, .head _, ?_, ?_, homesOk_of ?_, ?_, atHomes ?_, of_eq (a := ctx1) ?_ rfl, ?_⟩
  · decide +kernel
  · decide +kernel
  · decide +kernel
  · decide +kernel
  · decide +kernel
  · decide +kernel
  · intro k hk
    fin_cases hk <;> exact ⟨_, rfl, by decide +kernel, by decide +kernel, by decide +kernel⟩

/-- The first 16 bytes of the scratchpad are a destination in the Lockring. -/
abbrev locked (a : W64) : State := { atA a with cores := [{ Core.new core0 0 with locks := [⟨.op 9, some bid, 0, 15, true⟩] }] }

/-- One byte past the scratchpad, and an LDA of 8 bytes at an address that is a multiple of 4 only. -/
theorem wit_MemoryWordsTrap :
    (atA 4081).wave.clause = some { cl0 with lanes := 1 }
    ∧ (∃ m ∈ weakLoads (glbW 4 .scr) (atA 4081) ++ weakStores (glbW 4 .scr) (atA 4081) ++ strongWords (glbW 4 .scr) (atA 4081),
        m.faults (m.checks (atA 4081)) = (0, .addr 5) :: [] ∧ ∀ d a lo hi, LaneErr.addr 5 ≠ .lock d a lo hi)
    ∧ (∃ m ∈ weakLoads (glbW 4 .scr) (locked 0), m.faults (m.checks (locked 0)) = (0, .lock true 0 0 15) :: []
        ∧ (ctx1.trd.getLsbD 5 = false ∧ ({ ctx1 with trd := 0x20 } : Ctx).trd.getLsbD 5 = true))
    ∧ ∃ m ∈ weakLoads (glbW 3 .glb) (atA 0x14) ++ weakStores (glbW 3 .glb) (atA 0x14) ++ strongWords (glbW 3 .glb) (atA 0x14),
        m.faults (m.checks (atA 0x14)) = [] ∧ m.misaligned (atA 0x14) = 0 :: [] := by
  refine ⟨rfl, ⟨_, .head _, ?_, nofun⟩, ⟨_, .head _, ?_, ?_⟩, strongSpec (.lda (glbW 3 .glb)) (glbW 3 .glb) .load .load ((glbW 3 .glb).addr14 (atA 0x14)) (atA 0x14),
    ?_, ?_, ?_⟩
  · decide +kernel
  · decide +kernel
  · decide +kernel
  · exact List.mem_append_right _ (.head _)
  · decide +kernel
  · decide +kernel

abbrev opSt : Op := ⟨5, wid, 1, .st (glbW 2 .glb), none, 0x1010, 0, [], [], 1, 1, [], [], 0, false, false, true, none, .keep⟩
abbrev storing : State := { demo with ops := [opSt] }

theorem wit_FencesAndCacheWords :
    let f : MW := ⟨always, .v 0, .v 0, 0, 0x24, 0, .glb, 0, false, false⟩
    (demo.wave.part ⟨true, 7⟩).isEmpty = true ∧ ¬(demo.wave.part always).isEmpty = true
    ∧ demo.settled demo.wave = true ∧ storing.settled storing.wave = false
    ∧ f.order ≠ .rel ∧ f.scope ≠ .core ∧ f.scope ≠ .die ∧ ({ f with mx := 2 } : MW).order = .rel ∧ ({ f with mx := 1 } : MW).scope = .core
    ∧ demo.core? demo.wave.core = some (Core.new core0 0) ∧ demo.die? 0 0 = some (Die.new 0 0) := by
  refine ⟨?_, ?_, ?_, ?_, ?_, ?_, ?_, ?_, ?_, ?_, ?_⟩ <;> decide +kernel

abbrev opLd (i : Instr) (ok : BitVec 32) : Op := ⟨5, wid, 1, i, some 1, 0x1010, 0, [], [], ok, 0, [(0, 7)], [], 1, false, false, false, none, .keep⟩

def isLdc (i : Instr) : Bool := match i with | .ldc _ => true | _ => false

theorem wit_CompletionWrites :
    let st := fun (o : Op) => ({ demo with ops := [o], wave := { wave0 with flags := [(1, 1)] } } : State)
    let ldc : Op := { opLd (.ldc { glbW 2 .glb with mx := 8 }) 1 with arg := [(1, 1)] }
    (∀ o ∈ [opLd (.ld (glbW 4 .glb)) 0xFFFFFFFF, opLd (.ldq { glbW 2 .glb with data := .s 6 }) 1, ldc, opLd (.mzero ⟨always, .v 0, .v 0, .v 0, .v 0, 0, false, 1⟩) 0],
      (st o).op? 5 = some o ∧ o.fault = none ∧ o.early = [] ∧ o.flag = some 1 ∧ o.wave = (st o).wave.id ∧ (st o).wave ≠ Wave.idle)
    ∧ (∀ w, (opLd (.ld (glbW 4 .glb)) 1).ins ≠ .ldc w) ∧ destOf (.ld (glbW 4 .glb)) = some (.v 4, 16, false)
    ∧ (∀ w, (opLd (.ldq { glbW 2 .glb with data := .s 6 }) 1).ins ≠ .ldc w) ∧ destOf (.ldq { glbW 2 .glb with data := .s 6 }) = some (.s 6, 4, false)
    ∧ ldc.ins = .ldc { glbW 2 .glb with mx := 8 } ∧ destOf (.mzero ⟨always, .v 0, .v 0, .v 0, .v 0, 0, false, 1⟩) = none := by
  refine ⟨?_, fun _ h => Bool.false_ne_true (congrArg isLdc h), ?_, fun _ h => Bool.false_ne_true (congrArg isLdc h), ?_, rfl, ?_⟩ <;> decide +kernel

def isLogmark (i : Instr) : Bool := match i with | .logmark _ => true | _ => false

theorem wit_AnswersToOperations : storing.op? 5 = some opSt ∧ opSt.fault = none ∧ isLogmark opSt.ins = false ∧ blk0.cluster = [] ∧ storing.blk? opSt.wave.blk = some blk0 ∧ blk0.failed = false
    ∧ ({ req0 .load [] with op := 5 } : Req).op = 5 := by
  refine ⟨?_, ?_, ?_, rfl, ?_, ?_, ?_⟩ <;> decide +kernel

abbrev die1 : Die := { Die.new 0 1 with l2 := [⟨0x2000, 1, 0, List.replicate 64 7, none, false, false⟩] }
abbrev off1 : Req := { req0 .load [] with src := ⟨0, 1, 0⟩, pol := .keep }

theorem wit_L2Slices :
    let s : State := { asking with dies := [Die.new 0 0, die1] }
    s.lapsed off1 = false ∧ s.overlapWait off1 = false ∧ s.progWait off1 = false ∧ s.die? off1.src.pkg off1.src.die = some die1 ∧ off1.kind = .load
    ∧ (off1.src.pkg, off1.src.die) ≠ homeDie off1.home ∧ off1.strong = false ∧ off1.pol.cached = true
    ∧ (∃ x ∈ die1.l2, x.valid off1.ctx (die1.g.get 0 off1.ctx) off1.ia = true)
    ∧ s.lapsed (req0 .store [1]) = false ∧ s.overlapWait (req0 .store [1]) = false ∧ s.progWait (req0 .store [1]) = false ∧ (req0 .store [1]).kind = .store
    ∧ s.die? (req0 .store [1]).src.pkg (req0 .store [1]).src.die = some (Die.new 0 0)
    ∧ (req0 .load []).kind = .load ∧ ((req0 .load []).src.pkg, (req0 .load []).src.die) = homeDie (req0 .load []).home
    ∧ (req0 (.rmw .swap false) [1]).kind = .rmw .swap false := by decide +kernel

/-- The request waits for nothing at its home and the entry serves it, as tests; the conjunct of AtHome on contexts beside. -/
abbrev atHomeB (s : State) (r : Req) (e : Entry) : Prop :=
  s.lapsed r = false ∧ s.dieWait r = false ∧ s.fifoWait r = false ∧ r.home.stack < 16 ∧ s.homeHolds r = none ∧ s.sameLoc r = []
  ∧ s.siblingErr r = none ∧ s.reqErr r = none ∧ s.entry? r.home r.ia = some e ∧ e.mst ≠ 1 ∧ r.il = false
  ∧ (r.kind.writes = true → r.data.length = r.size ∧ r.data2.length ≤ r.size)

theorem atHome_of {s : State} {r : Req} {e : Entry} {c : Ctx} (h : atHomeB s r e) (hc : s.ctx? r.wave.blk.ctx = some c) (hr : c.rings = []) :
    AtHome s r e := by
  obtain ⟨a, b, c1, d, f, g, i, j, k, l, m, n⟩ := h
  exact ⟨a, b, c1, d, f, g, i, j, k, l, m, of_eq hc hr, n⟩

/-- Requests to an HBM and to a host frame; one to the scratchpad of block 0. -/
abbrev host0 : Entry := { ent0 with loc := 3 }
abbrev scr0 (kind : ReqKind) (data : List Byte) : Req := { req0 kind data with home := scrHome core0, ia := 4080 }

theorem wit_HomesPerform : AtHome asking (req0 .load []) ent0 ∧ AtHome asking (req0 .store [1, 2, 3, 4]) ent0
    ∧ AtHome asking (req0 (.rmw .add false) [1, 0, 0, 0]) ent0 ∧ AtHome { asking with entries := [host0] } (req0 .load []) host0
    ∧ asking.waitRead (req0 .load []) (iaKey hm 0x2000) (asking.memRead (ent0.key 0x2000) 4) = none ∧ ent0.loc = 1 ∧ host0.loc = 3
    ∧ (req0 (.rmw .add false) [1, 0, 0, 0]).kind = .rmw .add false ∧ Rmw.add ≠ .arv ∧ Rmw.add ≠ .csig := by
  refine ⟨atHome_of (c := ctx1) ?_ ?_ rfl, atHome_of (c := ctx1) ?_ ?_ rfl, atHome_of (c := ctx1) ?_ ?_ rfl, atHome_of (c := ctx1) ?_ ?_ rfl, ?_, rfl,
    rfl, rfl, ?_, ?_⟩ <;> decide +kernel

theorem wit_ScratchpadsPerform :
    let r := scr0 .store [1, 2, 3, 4]
    16 ≤ r.home.stack ∧ asking.scrTarget r = some blk0 ∧ asking.blk? blk0.id = some blk0 ∧ blk0.logn = 0 ∧ asking.lapsed r = false
    ∧ asking.overlapWait r = false ∧ asking.progWait r = false ∧ asking.sameLoc r = [] ∧ asking.siblingErr r = none ∧ asking.ctx? r.wave.blk.ctx = some ctx1 ∧ ctx1.rings = []
    ∧ (r.kind.writes = true → r.data.length = r.size ∧ r.data2.length ≤ r.size) := by decide +kernel

theorem wit_ReadModifyWrites : ([255, 255, 255, 255] : List Byte).length ∈ [4, 8, 16] ∧ ([1, 0, 0, 0] : List Byte).length = ([255, 255, 255, 255] : List Byte).length
    ∧ (List.replicate 8 (0 : Byte)).length = 8 ∧ ([255, 255, 255, 255] : List Byte).length = 4 := by decide

/-- A fetch of the wave at va can return the one word x, a header or none. -/
theorem headerAt {s : State} {w : Wave} {va x : W64} {k : Nat} (h0 : va.extractLsb' 0 3 = 0#3) (h : s.fetchAt w va = .word x k)
    (hx : (s.codeWords w.core x k).all isHeader = true) : s.HeaderAt w va := by
  refine ⟨h0, fun y j hy => ?_⟩
  rw [h] at hy
  cases hy
  exact fun z hz => List.all_eq_true.1 hx z hz

theorem demoHeader : demo.HeaderAt demo.wave cl0.next :=
  headerAt (x := 0xC08017F800000000) (k := codeKey 0 hm 0x1018) (by decide +kernel) (by decide +kernel) (by decide +kernel)

/-- Transfers to a header, past E; a misaligned target, and one at a word that is no header; the always guard with every lane, and with
none left to go on. -/
theorem wit_ControlTransfers :
    demo.wave.clause = some cl0 ∧ (∀ l ∈ demo.wave.part always, demo.HeaderAt demo.wave (cl0.hva + 8 * (3 : W32).signExtend 64))
    ∧ GoesOn demo cl0 (demo.wave.part always) ∧ GoesOn demo cl0 []
    ∧ 0 ∈ demo.wave.part always ∧ demo.NoHeaderAt demo.wave 0xFA1 ∧ demo.NoHeaderAt demo.wave 0xFA8 ∧ ∀ k ∈ demo.wave.part always, ¬ k < 0 := by
  refine ⟨rfl, fun _ _ => (show cl0.hva + 8 * (3 : W32).signExtend 64 = cl0.next by decide) ▸ demoHeader, .inl demoHeader, .inl demoHeader, ?_,
    .inl ?_, .inr ⟨0, codeKey 0 hm 0xFA8, ?_, fun y hy => ?_⟩, fun k _ => Nat.not_lt_zero k⟩
  · decide +kernel
  · decide +kernel
  · decide +kernel
  · exact (List.all_eq_true.1 (show (demo.codeWords demo.wave.core 0 (codeKey 0 hm 0xFA8)).all (fun y => !isHeader y) = true by decide +kernel) y hy) |> fun h => by
      simpa using h

theorem wit_MeetingWords :
    let s : State := { demo with wave := wave0.setStack 0 (List.replicate 8 0) }
    demo.wave.clause = some cl0 ∧ (∀ l ∈ demo.wave.part always, (demo.wave.getStack l).length < 8)
    ∧ 0 ∈ s.wave.part always ∧ 8 ≤ (s.wave.getStack 0).length ∧ ∀ k ∈ s.wave.part always, k < 0 → (s.wave.getStack k).length < 8 := by
  refine ⟨rfl, ?_, ?_, ?_, ?_⟩ <;> decide +kernel

theorem wit_ExitYieldNop :
    demo.wave.clause = some cl0 ∧ storing.settled storing.wave = false ∧ demo.settled demo.wave = true ∧ GoesOn demo cl0 (demo.wave.part always)
    ∧ demo.wave.run = .run ∧ (∀ b, demo.blk? demo.wave.id.blk = some b → b.failed = false) ∧ (∀ f < 12, demo.wave.flag f = 0)
    ∧ Leaves (exec (.exit always) demo) (fun t => t.wave.exited == 0xFFFFFFFF#32) ∧ GoesOn demo cl0 [] := by
  refine ⟨rfl, ?_, ?_, .inl demoHeader, rfl, of_eq (a := blk0) ?_ rfl, ?_, ?_, .inl demoHeader⟩ <;> decide +kernel

abbrev idleW : Wave := { wave0 with clause := none, pc := (List.range 32).map fun l => (l, 0xFA0#64) }

/-- Demo with the wave at 0xFA0, whose clause holds two words: a legal clause, and one with a load in an ALU clause. -/
abbrev code (w : W64) : State := ({ demo with wave := Wave.idle, waves := [idleW] }).memWrite (key0 + 0xFA8) (bytesOf [0x005C0500E0100060, w])

theorem wit_ClausesIssue :
    ((code 0x825C000000000000).core? core0).isSome = true
    ∧ ((code 0x825C000000000000).waves ++ [(code 0x825C000000000000).wave]).find? (fun w => decide (w.core = core0) && w.quad == 0 && (code 0x825C000000000000).eligible w)
      = some idleW
    ∧ ((code 0x825C000000000000).waves ++ [(code 0x825C000000000000).wave]).find? (fun v => decide (v.id = idleW.id)) = some idleW
    ∧ (code 0x825C000000000000).hist = [] ∧ (code 0x825C000000000000).nextGroup idleW = some 0xFA0
    ∧ (0xFA0 : W64).extractLsb' 0 3 = 0#3
    ∧ (code 0x825C000000000000).fetchAt idleW 0xFA0 = .word 0xC08017F800000000 (codeKey 0 hm 0xFA0)
    ∧ decodeHeader 0xC08017F800000000 = some ⟨0, 1, 2, 15, 15, false⟩
    ∧ (code 0x825C000000000000).fetchAt idleW (0xFA0 + BitVec.ofNat 64 (8 * (0 + 1))) = .word 0x005C0500E0100060 (codeKey 0 hm 0xFA8)
    ∧ (code 0x825C000000000000).fetchAt idleW (0xFA0 + BitVec.ofNat 64 (8 * (1 + 1))) = .word 0x825C000000000000 (codeKey 0 hm 0xFB0)
    ∧ (code 0x405C046080400002).fetchAt idleW (0xFA0 + BitVec.ofNat 64 (8 * (1 + 1))) = .word 0x405C046080400002 (codeKey 0 hm 0xFB0)
    ∧ clauseOk ⟨0, 1, 2, 15, 15, false⟩ [0x005C0500E0100060, 0x825C000000000000] = true
    ∧ clauseOk ⟨0, 1, 2, 15, 15, false⟩ [0x005C0500E0100060, 0x405C046080400002] = false := by decide +kernel

abbrev barW (count : Opd) (mx : BitVec 6) : MW := ⟨always, count, .v 0, 0, mx, 0, .glb, 0, false, false⟩
abbrev barred : State := { demo with wave := { wave0 with run := .barrier false 0 } }

/-- Counts at their bounds, and one past; a block of one wave, whose arrival completes; a block of two, whose first does not. -/
theorem wit_Barriers :
    demo.wave.part ⟨true, 7⟩ = [] ∧ demo.wave.part always ≠ [] ∧ demo.settled demo.wave = true ∧ demo.wave.clause.isSome = true
    ∧ (lo32 (demo.rd false .n32 (barW (.c 32) 32).data 0)).toNat = 32
    ∧ ¬((lo32 (demo.rd false .n32 (barW (.c 33) 32).data 0)).toNat ≤ 32) ∧ ¬(1 ≤ (lo32 (demo.rd false .n32 (barW (.c 0) 32).data 0)).toNat)
    ∧ barred.blk? wid.blk = some blk0 ∧ barred.blk? (blk0.barHome false) = some blk0 ∧ wid.wid ≠ 99
    ∧ barred.wave? wid = some barred.wave ∧ barred.wave.run = .barrier false 0
    ∧ (∀ c, barred.ctx? wid.blk.ctx = some c → c.rings = []) ∧ barred.ctx? blk0.id.ctx = barred.ctx? wid.blk.ctx
    ∧ (blk0.bar false 0).open_ = false ∧ barred.liveWaves (blk0.barUsers false) ≤ 1
    ∧ 1 < ({ barred with blks := [{ blk0 with nwaves := 2 }] } : State).liveWaves (blk0.barUsers false) := by
  refine ⟨?_, ?_, ?_, ?_, ?_, ?_, ?_, ?_, ?_, ?_, ?_, ?_, of_eq (a := ctx1) ?_ rfl, ?_, ?_, ?_, ?_⟩ <;> decide +kernel

theorem wit_WavesEnd :
    let w : Wave := { wave0 with clause := none, run := .exiting, exited := 0xFFFFFFFF }
    let b : Blk := { blk0 with nwaves := 2 }
    let s : State := { demo with wave := w, blks := [b] }
    s.wave? wid = some w ∧ (s.allWaves.filter fun v => decide (v.id = wid)) = [w] ∧ (w.run = .halted ∨ (w.run = .exiting ∧ ∀ f < 12, w.flag f = 0))
    ∧ s.blk? wid.blk = some b ∧ b.ended + 1 < b.nwaves ∧ blk0.nwaves ≤ blk0.ended + 1 := by decide +kernel

abbrev ctxR : Ctx := { ctx1 with trd := 0xB000 }
abbrev recU : TrapRec := wave0.record 0x02 0 0x1008 0 0 0 0

theorem wit_TrapRecords :
    let s : State := { demo with ctxs := [ctxR] }
    let f : State := s.memWrite (key0 + 0x8208) [1]
    recU.cont = [] ∧ s.ctx? 1 = some ctxR ∧ recU.urg = true ∧ recU.rst = false ∧ s.devEntry? 0 0xB000 = some ent0 ∧ s.devEntry? 0 (0x8000 + 520) = some ent0
    ∧ (ent0.key 0xB000 + 64 ≤ ent0.key (0x8000 + 520) ∨ ent0.key (0x8000 + 520) + 8 ≤ ent0.key 0xB000) ∧ s.trapPi ctxR = 0
    ∧ s.trapPi ctxR - s.trapCi ctxR < 2 ^ ctxR.logn ∧ f.trapPi ctxR = 1 ∧ 2 ^ ctxR.logn ≤ f.trapPi ctxR - f.trapCi ctxR
    ∧ f.devEntry? 0 (0x8000 + 536) = some ent0 ∧ s.devHeld 0 0x8000 1024 = false ∧ ent0.mst ≠ 1 ∧ s.pageHeld ent0 0xB000 64 = false
    ∧ s.pageHeld ent0 (0x8000 + 520) 8 = false ∧ f.pageHeld ent0 (0x8000 + 536) 8 = false ∧ ctxR.id = 1 ∧ (1 : Nat) + 1 < 2 ^ 64
    ∧ ({ s with entries := [{ ent0 with mst := 5 }] } : State).devHeld 0 0x8000 1024 = true := by decide +kernel

/-- A ring of 64 slots: an ordinary record with 64 free, behind one that waits, and with none. -/
theorem wit_ordinary :
    let c : Ctx := { ctx1 with trd := 0xB006 }
    let r : TrapRec := { recU with urg := false }
    let o : TrapRec := { r with lane := 3 }
    let w : Wave := { wave0 with run := .posting }
    let s : State := { demo with ctxs := [{ c with trapq := [o] }], wave := w }
    let f : State := ({ demo with ctxs := [c] } : State).memWrite (key0 + 0x8208) [64]
    s.ctx? 1 = some { c with trapq := [o] } ∧ c.id = 1 ∧ r.urg = false ∧ r.rst = false ∧ s.devHeld (fnOf 1) c.desc 1024 = false
    ∧ f.ctx? 1 = some c ∧ 2 ^ c.logn - (f.trapPi c - f.trapCi c) ≤ 32 ∧ 32 < 2 ^ c.logn - (s.trapPi c - s.trapCi c)
    ∧ [o] ++ (if r ∈ [o] then [] else [r]) = [o, r] ∧ o.rst = false ∧ o.cont = [] ∧ f.devHeld (fnOf 1) c.desc 1024 = false
    ∧ f.devEntry? 0 (c.desc + 536) = some ent0 ∧ f.pageHeld ent0 (c.desc + 536) 8 = false
    ∧ s.devEntry? 0 0xB000 = some ent0 ∧ s.devEntry? 0 (c.desc + 520) = some ent0 ∧ ent0.mst ≠ 1 ∧ s.pageHeld ent0 0xB000 64 = false
    ∧ s.pageHeld ent0 (c.desc + 520) 8 = false ∧ (ent0.key 0xB000 + 64 ≤ ent0.key (c.desc + 520) ∨ ent0.key (c.desc + 520) + 8 ≤ ent0.key 0xB000)
    ∧ o.who = some wid ∧ s.wave? wid = some w ∧ w.run = .posting := by decide +kernel

theorem wit_TrapResponses :
    let at_ := fun (r : Run) (c : Ctx) => ({ demo with wave := { wave0 with clause := none, run := r, waitC := 1 }, ctxs := [c] } : State)
    let ct : Ctx := { ctx1 with recs := [(0, wid, 0x05)] }
    let cw : Ctx := { ctx1 with wdlog := 20 }
    let ca : Ctx := { ctx1 with trd := 0x20 }
    ((at_ (.trapped 0x05 (some 0)) ct).wave? wid = some (at_ (.trapped 0x05 (some 0)) ct).wave
      ∧ (at_ (.trapped 0x05 (some 0)) ct).wave.exited ≠ 0xFFFFFFFF#32 ∧ (at_ (.trapped 0x05 (some 0)) ct).ctx? 1 = some ct
      ∧ (at_ (.trapped 0x05 (some 0)) ct).respWave 1 0 = some (wid, 0x05) ∧ (at_ (.trapped 0x05 (some 0)) ct).blk? bid = some blk0 ∧ blk0.cluster = [])
    ∧ (ca.trd.getLsbD 5 = true ∧ (at_ (.trapped 0x06 none) ca).wave? wid = some (at_ (.trapped 0x06 none) ca).wave)
    ∧ (cw.wdlog ≠ 0 ∧ (at_ .run cw).counts (at_ .run cw).wave = true)
    ∧ ((at_ .run cw).wave.setMr 31 0).held 31 = true ∧ ((at_ .run cw).wave.setMr 31 0).freed.getLsbD 31 = false
    ∧ (at_ .sleep ctx1).wave? wid = some (at_ .sleep ctx1).wave ∧ (at_ .breakpoint ctx1).wave? wid = some (at_ .breakpoint ctx1).wave
    ∧ ctx1.trapq = [] ∧ (at_ .run cw).logHolds (at_ .run cw).wave = false := by
  decide +kernel

theorem ok_of {ε α : Type} {e : Except ε α} (h : e.toOption.isSome = true) : ∃ x, e = .ok x := by
  cases e with
  | ok x => exact ⟨x, rfl⟩
  | error _ => simp [Except.toOption] at h

abbrev aw (d s1 s2 : Opd) (x : BitVec 11) (fs : Bool) (y : BitVec 8) : AW := ⟨always, d, s1, s2, .v 0, x, fs, y⟩
abbrev csrW (n : BitVec 12) (d s1 : Opd) : AW := aw d s1 (.v 0) (n.extractLsb' 1 11) (n.getLsbD 0) 0

/-- Every CSR number a clause names lies at the ends of its range; firmware and user mode; a valid range and one not yet valid. -/
theorem wit_ControlRegisters :
    let f : State := { demo with wave := { wave0 with fw := true } }
    let off : Range := { rng with attr := 0 }
    let f2 : State := { f with ctxs := [{ ctx1 with ranges := [off] }] }
    demo.ctx? demo.wave.id.blk.ctx = some ctx1 ∧ demo.wave.clause = some cl0 ∧ demo.wave.part ⟨true, 7⟩ = [] ∧ demo.wave.part always ≠ []
    ∧ (csrW 0x000 (.s 4) (.v 0)).csr = 0x000 ∧ isS (csrW 0x000 (.s 4) (.v 0)).d = true ∧ isA (csrW 0x014 (.a 4) (.v 0)).d = true
    ∧ ctx1.ranges[0]? = some rng ∧ (csrW 0x050 (.a 4) (.v 0)).csr = 0x050 + 0 ∧ (csrW 0x03F (.v 0) (.a 4)).csr = 0x03F ∧ (csrW 0x05F (.v 0) (.a 4)).csr < 0x060
    ∧ demo.wave.fw = false ∧ (csrW 0x001 (.v 0) (.a 4)).csr ∈ [0x001, 0x011, 0x015] ∧ (csrW 0x060 (.v 0) (.a 4)).csr ∈ [0x007, 0x008, 0x010, 0x012, 0x013, 0x009, 0x060]
    ∧ (csrW 0x015 (.v 0) (.a 4)).csr = 0x015 ∧ f.wave.fw = true ∧ ctx1.id = f.wave.id.blk.ctx ∧ ctx1.ranges[0x020 % 16]? = some rng ∧ rng.valid = true
    ∧ f2.ctx? 1 = some { ctx1 with ranges := [off] } ∧ off.valid = false ∧ (f2.csrSrc (csrW 0x050 (.v 0) (.c 1))).getLsbD 0 = true
    ∧ ((262144 * 2 ^ 18 : W64).extractLsb' 0 18).toNat + ((262144 * 2 ^ 18 : W64).extractLsb' 18 19).toNat ≤ 262144 := by decide +kernel

theorem wit_TrapTimeAndHints :
    let dbg : Ctx := { ctx1 with dbgctl := 1 }
    let sav : State := { demo with blks := [{ blk0 with save := true }] }
    let tf := aw (.v 0) (.c 0xFF) (.v 0) 0 false 0
    demo.ctx? demo.wave.id.blk.ctx = some ctx1 ∧ ctx1.id = demo.wave.id.blk.ctx ∧ demo.wave.clause = some cl0 ∧ demo.blk? demo.wave.id.blk = some blk0
    ∧ blk0.id = demo.wave.id.blk ∧ demo.wave.part ⟨true, 7⟩ = [] ∧ demo.wave.part always ≠ [] ∧ (∀ k < 12, demo.wave.flag k = 0)
    ∧ demo.wave.astk &&& (demo.op32 tf.s1 &&& 0x1FF#32).setWidth 64 = 0 ∧ (0x100#64 : W64) &&& (demo.op32 tf.s1 &&& 0x1FF#32).setWidth 64 ≠ 0
    ∧ ({ wave0 with flags := [(11, 1)] } : Wave).flag 11 ≠ 0 ∧ demo.settled demo.wave = true
    ∧ (aw (.v 0) (.c 1) (.a 2) 1 false 0).xb 9 = true ∧ (aw (.v 0) (.c 1) (.a 2) 0 false 0).xb 9 = false
    ∧ dbg.dbgctl.getLsbD 0 = true ∧ ctx1.dbgctl.getLsbD 0 = false ∧ demo.core? demo.wave.core = some (Core.new core0 0)
    ∧ min (demo.op32 (.c 0)).toNat (2 ^ 24) = 0 ∧ min (demo.op32 (.c 0xFF)).toNat (2 ^ 24) ≠ 0
    ∧ (demo.liveAt (cl0.hva + (0x40#32 : W32).signExtend 64)).toOption.isSome = true ∧ blk0.save = false
    ∧ sav.blk? bid = some { blk0 with save := true } ∧ ctx1.logmode = 0 ∧ ctx1.rings = [] := by decide +kernel

theorem wit_MatrixWordsQueue :
    let tagged := aw (.s 2) (.s 8) (.c 0) 1 false 1
    demo.blk? demo.wave.id.blk = some blk0 ∧ (demo.locksAt blk0.core).length + 4 ≤ 32 ∧ demo.wave.part ⟨true, 7⟩ = []
    ∧ demo.wave.part always ≠ [] ∧ tagged.xb 9 = true ∧ demo.tagBad (demo.op64 tagged.d) = false
    ∧ ({ demo with wave := wave0.setS 2 64 } : State).tagBad (({ demo with wave := wave0.setS 2 64 } : State).op64 tagged.d) = true
    ∧ demo.wave.clause.isSome = true ∧ (blk0.tile 7).queue = [] := by decide +kernel

/-- A matrix operation at the head of handle 1, whose tile is granted 32 by 32 of class 3 or not at all. -/
abbrev mop (i : Instr) (desc : List W32) (addr : W64) (step : Nat) : MatOp := ⟨6, i, desc, addr, 0, 0, 0x10000, false, step, false⟩
abbrev mt (m : MatOp) (g : Option (Nat × Nat)) : Tile := { Tile.blank with grant := g, kc := 3, queue := [m] }
abbrev mblk (m : MatOp) (g : Option (Nat × Nat)) : Blk := { blk0 with size := 0x4000, tiles := [(1, mt m g)] }
abbrev mst (m : MatOp) (g : Option (Nat × Nat)) (c : Ctx) : State :=
  { demo with blks := [mblk m g], ops := [{ opSt with id := 6, ins := m.ins, store := false }], ctxs := [c] }

/-- A binding of buffer 0: CHB 12,288, one chunk, logical package 0 alone. -/
abbrev colB : Binding :=
  { buf := 0, words := [0, 0, 0, 0x0000000100003000, 0x10100, 0, 0, 0], failed := false, dst := none, sh := none, sg := none, av := none, rl := none,
    chunks := [], shadows := [], waiting := [], counts := [], shards := [], landed := [], tries := [] }

theorem wit_MatrixUnitRuns :
    let w := aw (.s 2) (.v 0) (.v 0) 0 false 1
    let big := aw (.s 2) (.v 0) (.v 0) 0x780 false 1
    let m1 := mop (.mloop w) [0, 0, 0, 0, 3, 0, 0, 0] 0 1
    let m2 := mop (.mloop w) [0, 0, 0, 0, 2, 0, 0, 0] 0 1
    let e : AW := aw (.v 0) (.s 8) (.c 0) 0x480 false 1
    let me := mop (.mepi e) [0, 0, 128, 0x3F800000, 0x3F800000, 0, 0, 0] 0 0
    let cx : Ctx := { ctx1 with binds := [colB] }
    (∀ m ∈ [mop (.shape w) [] 0 0, mop (.shapeRel w) [] 0 0, m1, me], (mst m none ctx1).blk? bid = some (mblk m none) ∧ (mblk m none).state = .running ∧ (mblk m none).failed = false
      ∧ ((mblk m none).tile 1).queue = m :: [] ∧ (mst m none ctx1).lockWaits (mblk m none).core (.op m.op) = false
      ∧ (mst m none ctx1).scrOwed m.op = false ∧ (mblk m none).size ≤ 2 ^ 20)
    -- SHAPE with room for its smallest shape; a core that another block's tiles fill
    ∧ 32 * 32 ≤ ((mst (mop (.shape w) [] 0 0) none ctx1).modTile bid 1 fun x => x.fresh none 0).accFree core0
    ∧ ({ mst (mop (.shape big) [] 0 0) none ctx1 with
          blks := [mblk (mop (.shape big) [] 0 0) none, { blk0 with id := ⟨1, false, 0, 1⟩, tiles := [(0, mt me (some (256, 256)))] }] }.modTile bid 1
        fun x => x.fresh none 0).accFree core0 < 1024
    -- no grant
    ∧ ((mblk m1 none).tile 1).grant = none ∧ (mst m1 none ctx1).op? 6 = some { opSt with id := 6, ins := m1.ins, store := false }
    ∧ (mst m1 none ctx1).wave? wid = some wave0 ∧ wave0.merr.getLsbD 15 = false
    -- MLOOP, a step with others to come and the last
    ∧ ((mblk m1 (some (32, 32))).tile 1).grant = some (32, 32) ∧ loopKindOk 3 w = true ∧ m1.layoutOk w = true ∧ m1.ksteps ≠ 0 ∧ m1.step ≠ 0 ∧ m1.step + 1 < m1.ksteps
    ∧ m2.layoutOk w = true ∧ m2.ksteps ≠ 0 ∧ m2.step ≠ 0 ∧ m2.ksteps ≤ m2.step + 1
    -- MLDA and MSTA that end at the last byte; MCB
    ∧ w.xb 10 = false ∧ (((0x1000 : W64).extractLsb' 0 20).toNat + 12 * 32 * 32 = (mblk m1 none).size) ∧ ((0x1000 : W64).extractLsb' 0 20).toNat % 4 = 0
    ∧ ((0x3FE0 : W64).extractLsb' 0 20).toNat % 32 = 0 ∧ ((0x3FE0 : W64).extractLsb' 0 20).toNat + 32 ≤ (mblk m1 none).size
    -- MEPI.col with its buffer bound
    ∧ (mop (.mepiCol w) [] 0 0).contrib = false ∧ (mop (.mepiCol w) [] 0 0).route.getLsbD 16 = true
    ∧ ((mst (mop (.mepiCol w) [] 0 0) (some (32, 32)) cx).boundFor 1 0 ((0x10000 : W64).extractLsb' 0 16).toNat ((mop (.mepiCol w) [] 0 0).d 0).toNat (32 * 32 * 12)).isSome = true
    -- MEPI of .f32
    ∧ e.xb 10 = false ∧ decodeTy e.mty = some .f32 ∧ me.f 0 0 20 % 4 = 0 ∧ (me.d 2).toNat % 4 = 0 ∧ 32 * 4 ≤ (me.d 2).toNat
    ∧ me.f 0 0 20 + 31 * (me.d 2).toNat + 32 * 4 ≤ (mblk me none).size ∧ e.y.getLsbD 6 = false ∧ me.step < 32 * 32 := by
  intro w big m1 m2 e me cx
  refine ⟨?_, ?_⟩
  · intro m hm
    fin_cases hm <;> decide +kernel
  · decide +kernel

/-- A tensor of 64 bytes of .i8 at VA 0x3000 and its box of 64, as a record at scratchpad offset 0x600 (R314). -/
abbrev tlrCells : Tab Byte := [(0x601, 0x30), (0x608, 1), (0x610, 64), (0x624, 63)]
abbrev ringB (cmds : List Cmd) (wi : Nat) : Blk := { blk0 with cmdq := 0x400100000, wi := wi, cmds := cmds, scratch := tlrCells }
abbrev rst (b : Blk) : State := { demo with blks := [b] }
abbrev cmdOf (ws : List W64) : Cmd := Cmd.at_ 0 ws (some wid) 0 false false
/-- LOAD of 64 bytes from 0x2000 to offset 0x800; STORE; peer copy to rank 0; REDUCE; tensor load of box 0, and of a box outside; tensor store;
slot rings of one box and two slots, load and store. -/
abbrev cLoad : Cmd := cmdOf [0x80000000000, 0x2000, 64, 0]
abbrev cStore : Cmd := cmdOf [0x80000000001, 0x2000, 64, 0]
abbrev cPeer (a : W64) : Cmd := cmdOf [0x80000000004, a, 64, 0]
abbrev cRed : Cmd := cmdOf [0x80000000005, 0x2000, 64, 0]
abbrev cTen (opc : W64) (box : W64) : Cmd := cmdOf [0x80000000000 ||| opc, 0x600, box, 0]
abbrev cRing (opc : W64) (bc : W64) : Cmd := { cmdOf [0x80000000000 ||| opc, 0x1000600 ||| bc <<< 32, 0, 0] with xring := true }
abbrev tl0 : Tlr := ⟨0x3000, 1, 0, 0, 0, [64, 1, 1, 1, 1], [64, 1, 1, 1, 1], [0, 0, 0, 0]⟩

/-- R311: a store of v to the notify word of an idle ring of two entries publishes one entry, or overruns with five. -/
abbrev notifying (v : W32) : State := { atA 1024 with blks := [ringB [] 0], wave := (atA 1024).wave.setV 4 0 v }
abbrev oneAt (m : MemSpec) (s : State) (bs : List Byte) : Bool :=
  match okPieces (m.checks s) with
  | [(0, p)] => decide (p.spot = .scr bid 1024 ∧ p.size = 4 ∧ ((m.d1 0).drop p.pos).take p.size = bs)
  | _ => false

theorem wit_notify :
    (∃ m ∈ weakStores (glbW 2 .scr) (notifying 1), m.faults (m.checks (notifying 1)) = [] ∧ oneAt m (notifying 1) (leBytes 4 1) = true)
    ∧ (∃ m ∈ weakStores (glbW 2 .scr) (notifying 5), m.faults (m.checks (notifying 5)) = [] ∧ oneAt m (notifying 5) (leBytes 4 5) = true)
    ∧ (notifying 1).blk? (notifying 1).wave.id.blk = some (ringB [] 0) ∧ (ringB [] 0).logn = 1 ∧ (ringB [] 0).noff = 1024
    ∧ leVal (readBytes (writeBytes (ringB [] 0).scratch 1024 (leBytes 4 1)) 1024 4) = 1
    ∧ leVal (readBytes (writeBytes (ringB [] 0).scratch 1024 (leBytes 4 5)) 1024 4) = 5 ∧ NoneOnWay (notifying 1) := by
  refine ⟨⟨_, .head _, ?_, ?_⟩, ⟨_, .head _, ?_, ?_⟩, ?_, ?_, ?_, ?_, ?_, ⟨nofun, of_eq (a := Core.new core0 0) ?_ nofun⟩⟩ <;> decide +kernel

theorem wit_StreamWords :
    let busy := rst (ringB [{ cLoad with taken := true }] 1)
    let done : Cmd := { cLoad with taken := true, srcd := true, done := true }
    let held : Cmd := { cRing 6 3 with taken := true, slots := [.held, .full], acq := 1 }
    let last : Cmd := { cRing 6 1 with taken := true, slots := [.held, .free], acq := 1 }
    let out : Cmd := { cRing 7 3 with taken := true, slots := [.held, .free], acq := 1 }
    let v : W64 := 0x400100000
    demo.blk? wid.blk = some blk0 ∧ demo.wave.part ⟨true, 7⟩ = [] ∧ demo.wave.part always ≠ [] ∧ blk0.logn = 0 ∧ demo.wave.clause.isSome = true
    -- a full ring; one with room, whose notify word lies apart
    ∧ (ringB [] 2).logn ≠ 0 ∧ 2 ^ (ringB [] 2).logn ≤ ((ringB [] 2).wi + 2 ^ 32 - (ringB [] 2).ri) % 2 ^ 32
    ∧ ((ringB [] 1).wi + 2 ^ 32 - (ringB [] 1).ri) % 2 ^ 32 < 2 ^ (ringB [] 1).logn ∧ (busy.locksAt core0).length + 3 ≤ 32 ∧ busy.settled busy.wave = true
    ∧ ((ringB [] 1).roff + 32 * ((ringB [] 1).wi % 2 ^ (ringB [] 1).logn) + 32 ≤ (ringB [] 1).noff)
    -- tickets
    ∧ (ringB [] 1).stale 1 = true ∧ (ringB [cLoad] 1).stale 0 = false ∧ (ringB [done] 1).cmd? 0 = some done ∧ done.status < 8 ∧ cLoad.done = false
    ∧ cLoad.srcd = false ∧ cLoad.taken = false ∧ ({ done with srcOk := true } : Cmd).srcOk = true ∧ (rst (ringB [] 1)).settled busy.wave = true
    ∧ ({ rst (ringB [] 1) with ops := [opSt] } : State).settled demo.wave = false
    -- slots
    ∧ held.isRing = true ∧ held.acq < held.bc ∧ held.slot held.acq = .full ∧ held.opc = 6 ∧ (rst (ringB [held] 1)).tlrOf (ringB [held] 1) held = some tl0
    ∧ out.slot out.acq = .free ∧ out.opc = 7 ∧ (cRing 6 1).acq ≤ (cRing 6 1).rel ∧ held.rel < held.acq ∧ held.rel + held.nslots < held.bc ∧ held.rel + 1 < held.bc
    ∧ last.rel + 1 = last.bc ∧ last.rel < last.acq
    ∧ ({ held with slots := [.held, .filling] } : Cmd).slot held.acq ≠ .full
    -- CMDQ
    ∧ cLoad ∈ (ringB [cLoad] 1).cmds ∧ (∀ c ∈ (ringB [done] 1).cmds, c.done = true) ∧ cmdqOk v 4096 = true ∧ v.extractLsb' 20 4 ≠ 0#4
    ∧ cmdqOk 0x000100000 4096 = false ∧ (0x000100000#64 : W64).extractLsb' 20 4 ≠ 0#4 ∧ (0 : W64).extractLsb' 20 4 = 0#4 := by decide +kernel

/-- Half of a command's pieces lie in memory: where they go and what serves them. -/
abbrev served (s : State) (b : Blk) (k : Kind) (a : W64) (n : Nat) (write : Bool) (det : Nat) : Bool :=
  match s.engXlate b k a n with
  | .ok x => !s.engWaits b x n && (s.engLook b x n write det).toOption.isSome
  | .error _ => false

theorem wit_StreamEngineMoves :
    let raw := fun (ws : List W64) => { ringB [cmdOf []] 1 with scratch := writeBytes tlrCells 0 (bytesOf ws) }
    let run := fun (c : Cmd) => ({ c with taken := true } : Cmd)
    let at_ := fun (c : Cmd) => rst (ringB [c] 1)
    let ring4 : List Cmd := (List.range 4).map fun i => { run (cRing 6 1) with idx := i + 1 }
    let red := { run cRed with wave := some wid }
    let cc : Cmd := { cLoad with words := [0x80000000080, 0x2000, 64, 0x2100], taken := true, srcd := true }
    -- taking: a bad entry, a copy, rings with and without four others
    (rst (raw cLoad.words)).blk? bid = some (raw cLoad.words) ∧ (raw cLoad.words).state = .running ∧ (raw cLoad.words).failed = false
    ∧ (raw cLoad.words).cmd? 0 = some (cmdOf []) ∧ (raw cLoad.words).toTake = some (cmdOf []) ∧ (cmdOf []).words = []
    ∧ ((rst (raw cLoad.words)).plan (raw cLoad.words) cLoad).status = 0 ∧ ((rst (raw [0x800])).plan (raw [0x800]) (cmdOf [0x800])).status ≠ 0
    ∧ ((rst (raw [])).plan (raw []) (cRing 6 1)).status = 0 ∧ ((rst (raw [])).plan (raw []) (cRing 7 1)).status = 0 ∧ (cRing 7 1).opc = 7
    ∧ 4 ≤ (ring4.filter fun x => x.taken && !x.done && x.isRing).length ∧ cLoad.isRing = false ∧ (cRing 6 1).isRing = true
    -- pieces of each opcode
    ∧ (at_ (run cLoad)).lockWaits core0 (.cmd bid 0) = false ∧ (run cLoad).srcd = false ∧ (run cLoad).taken = true ∧ (run cLoad).done = false ∧ (run cLoad).opc = 0
    ∧ served (at_ (run cLoad)) (ringB [run cLoad] 1) .load 0x2000 64 false 1 = true
    ∧ (run cStore).opc = 1 ∧ served (at_ (run cStore)) (ringB [run cStore] 1) .store 0x2000 64 true 2 = true ∧ (at_ (run cStore)).copyTarget ent0 = none
    ∧ (cPeer 0).opc = 4 ∧ (cRed).opc = 5 ∧ served (at_ red) (ringB [red] 1) .atomic 0x2000 4 true 2 = true
    ∧ (at_ red).cut core0.pkg hm.pkg = false ∧ (at_ red).poison.contains (ent0.key 0x2000 / 64) = false
    ∧ (cTen 2 1).opc = 2 ∧ (cTen 3 1).opc = 3 ∧ (at_ (run (cTen 2 1))).tlrOf (ringB [run (cTen 2 1)] 1) (run (cTen 2 1)) = some tl0
    ∧ tl0.va ((cTen 2 1).box_ 0) 0 = none ∧ tl0.pad = 0 ∧ tl0.va ((cTen 2 0).box_ 0) 0 = some 0x3000 ∧ tl0.half ((cTen 2 0).box_ 0) 0 = false
    ∧ served (at_ (run (cTen 2 0))) (ringB [run (cTen 2 0)] 1) .load 0x3000 tl0.ub false 1 = true
    -- the arrival, with a counter and without
    ∧ demo.ctx? bid.ctx = some ctx1 ∧ ctx1.rings = [] ∧ cLoad.cinc = false ∧ cc.cinc = true ∧ cc.arrives = true ∧ ({ run cLoad with srcd := true } : Cmd).arrives = true
    ∧ (demo.ctxAt 1 (vaOf cc.caddr) 8 .atomic).toOption = some (rng, 0x2100)
    ∧ (demo.homeFind 1 (demo.homeAt 1 rng 0x2100) 0x2100).toOption = some ent0 ∧ demo.engHeld 1 ⟨0x2100, rng⟩ 8 = false
    -- boxes of rings
    ∧ (cRing 6 1).box < (cRing 6 1).bc ∧ ({ run (cRing 6 1) with slots := [.filling, .free] } : Cmd).slot 0 = .filling
    ∧ ({ run (cRing 7 1) with slots := [.draining, .free] } : Cmd).slot 0 = .draining
    ∧ (match (at_ (run (cRing 6 1))).moveBox (ringB [run (cRing 6 1)] 1) tl0 ((cRing 6 1).box_ 0) 0x800 true with | .ok _ => true | _ => false) = true
    ∧ (match (at_ (run (cRing 7 1))).moveBox (ringB [run (cRing 7 1)] 1) tl0 ((cRing 7 1).box_ 0) 0x800 false with | .ok _ => true | _ => false) = true := by
  decide +kernel

/-- A peer's span lies in another block of the cluster. -/
theorem wit_StreamEnginePeer :
    let b := { ringB [{ cPeer 0x100800 with taken := true }] 1 with cluster := [bid, ⟨1, false, 0, 1⟩] }
    let s : State := { demo with blks := [b, { blk0 with id := ⟨1, false, 0, 1⟩, cluster := [bid, ⟨1, false, 0, 1⟩] }] }
    (match s.scrSpan b true ((cPeer 0x100800).bits 1 0 23) 64 with | .ok o => decide (o.1 ≠ bid) | .error _ => false) = true := by decide +kernel

abbrev launch0 : Launch :=
  { id := 0, q := 0, lser := 1, slot := 0, words := [0, 0xFA0, 0x0001000100000001, 0x0111000100010020] ++ List.replicate 28 0, phase := 0, prev := none,
    nblk := 1, next := 0, out := 0, tasks := 0, bad := false, fallback := false, fbcount := 0, ended := false, stats := [], ests := [] }
abbrev queue0 : Queue := ⟨0, 0x5000, 3, 0, 0, 0, 0, 0, 0, [], 0, false, []⟩
abbrev ctxL : Ctx := { ctx1 with launches := [launch0], queues := [queue0], nlaunch := 1 }
abbrev task0 : TaskRec := ⟨1, 0, 0, 0xFA0, 8, 0, [], [], 5, 1, 1, 0, 0⟩

/-- Launches with and without exit-fired contributions; a task; an open phase without a count that has, and has not, its arrivals. -/
theorem wit_lastWave :
    let l : Launch := { launch0 with words := [5 * 2 ^ 23 + 2 ^ 39, 0xFA0] }
    let s : State := { demo with ctxs := [{ ctxL with launches := [l] }] }
    let open_ : Blk := { blk0 with bars := [(0, ⟨1, none, true, 0, [wid]⟩)] }
    let t : State := { barred with blks := [open_] }
    let t2 : State := { barred with blks := [{ open_ with nwaves := 2 }] }
    (((s.ctx? bid.ctx).bind fun c => c.launch? bid.launch).any (·.colv)) = true ∧ blk0.failed = false ∧ bid.task = false
    ∧ (((demo.ctx? bid.ctx).bind fun c => c.launch? bid.launch).any (·.colv)) = false
    ∧ demo.treeAlive bid.ctx bid.launch bid.idx = false ∧ (open_.bar false 0).open_ = true ∧ (open_.bar false 0).count = none
    ∧ t.blk? bid = some open_ ∧ t.blk? (open_.barHome false) = some open_ ∧ t.ctx? 1 = some ctx1 ∧ ctx1.rings = [] ∧ t.wave? ⟨bid, 99⟩ = none
    ∧ t.liveWaves (open_.barUsers false) ≤ (open_.bar false 0).tally ∧ (open_.bar false 0).tally < t2.liveWaves (open_.barUsers false) := by
  decide +kernel

theorem wit_TasksCountersTags :
    let s := only0 demo
    let sp := aw (.v 5) (.v 6) (.v 0) 0 false 0
    let at_ := fun (o : W32) => ({ s with wave := s.wave.setV 6 0 o } : State)
    let ctr := aw (.v 4) (.a 2) (.c 1) 0x400 false 0
    let tw : W64 := 3 * 2 ^ 18 + 63
    let tg := aw (.s 5) (.s 2) (.v 0) 0 false 0
    let tag := fun (e : Nat × Nat) => ({ s with pkgs := [{ Pkg.atReset 0 with up := true, tags := [(63, e)] }] } : State)
    s.ctx? 1 = some ctx1 ∧ s.blk? bid = some blk0 ∧ s.wave.clause.isSome = true ∧ s.wave.part ⟨true, 7⟩ = [] ∧ s.wave.part always = [0]
    -- SPAWN: an offset that is no multiple of 16; one whose record passes S; one at the last place; statuses 4, 2 and 0
    ∧ (lo32 ((at_ 8).rd false .n32 sp.s1 0)).toNat % 16 ≠ 0 ∧ 4096 < (lo32 ((at_ 4080).rd false .n32 sp.s1 0)).toNat + 128
    ∧ (lo32 ((at_ 3968).rd false .n32 sp.s1 0)).toNat + 128 ≤ 4096 ∧ s.held = [] ∧ ctx1.rings = []
    ∧ taskRecOk (blk0.scrRead 3968 128) = true ∧ taskCtrs (blk0.scrRead 3968 128) = []
    ∧ taskRecOk (({ blk0 with scratch := [(3976, 0xFF)] } : Blk).scrRead 3968 128) = false
    ∧ wave0.depth < 15 ∧ 15 ≤ ({ wave0 with depth := 15 } : Wave).depth ∧ s.core? core0 = some (Core.new core0 0) ∧ (Core.new core0 0).deque.length < 64
    -- tags: met, newer, not yet published; an index past the window
    ∧ (tag (3, 0)).tagLook ctx1 0 (twIdx tw) (twGen tw) = .met ∧ (tag (4, 0)).tagLook ctx1 0 (twIdx tw) (twGen tw) = .stale 4
    ∧ (tag (2, 0)).tagLook ctx1 0 (twIdx tw) (twGen tw) = .later 0 ∧ s.tagBad tw = false ∧ s.tagBad 64 = true
    ∧ tg.try_ = false ∧ ({ tg with x := 0x80 } : AW).try_ = true ∧ opSt.awaited = true ∧ opSt.id ≠ 0
    ∧ (s.ctx? 1 = some ctx1 ∧ ctx1.life = .live ∧ ctx1.off = [] ∧ ctxL.launch? 0 = some launch0 ∧ launch0.fallback = false ∧ s.pkg? 0 = some { Pkg.atReset 0 with up := true })
    ∧ tagNewer 3 2 = true ∧ tagNewer 3 3 = false
    ∧ s.wcQuiet core0 = true ∧ 5 ∈ ({ s with ops := [{ opSt with pol := .wc }] } : State).coreWc core0
    -- counters
    ∧ ctr.sco = 4 := by decide +kernel

theorem wit_noneAwaited : NoneAwaited (only0 demo) ∧ ∃ o ∈ storing.opsOf wid, o.awaited = true ∧ o.id ≠ 0 := by
  refine ⟨?_, opSt, ?_, ?_, ?_⟩
  · intro o h
    simp [State.opsOf, demo, State.reset] at h
  all_goals decide +kernel

theorem wit_counters :
    let w := aw (.v 4) (.a 2) (.c 1) 0x400 false 0
    ∃ m ∈ counterWords w (atA 0xFFF8), m.faults (m.checks (atA 0xFFF8)) = [] ∧ m.misaligned (atA 0xFFF8) = [] ∧ HomesOk (atA 0xFFF8) m
      ∧ okPieces (m.checks (atA 0xFFF8)) ≠ [] ∧ AllAtHomes (okPieces (m.checks (atA 0xFFF8))) := by
  refine ⟨_, .head _, ?_, ?_, homesOk_of ?_, ?_, atHomes ?_⟩ <;> decide +kernel

theorem wit_StartsAndDrains :
    let k : Core := { Core.new core0 0 with deque := [task0] }
    let e : Core := Core.new core0 0
    let s : State := { demo with ctxs := [ctxL], cores := [k, Core.new core1 0] }
    let full : Core := { Core.new core0 0 with deque := List.replicate 32 task0 }
    let thief : State := { demo with ctxs := [ctxL], cores := [e, { Core.new core1 0 with deque := [task0] }] }
    let pl : Blk := { blk0 with state := .placed, image := [wave0] }
    let ps : State := { demo with ctxs := [ctxL], blks := [pl], wave := Wave.idle }
    let of_ : State := { demo with ctxs := [ctxL], pkgs := [{ Pkg.atReset 0 with up := true, ovfl := [task0] }] }
    let rdy : Parked := ⟨task0, core0, 0⟩
    let back : Ctx := { ctx1 with parked := [rdy], trig := [(0, .ready task0.serial)] }
    let ev : Ctx := { ctx1 with trig := [(0, .event .drrRound)] }
    let lg : Launch := { launch0 with words := (launch0.words.set 0 0x20000).set 13 0x20000 }
    let tg : State := { ps with ctxs := [{ ctxL with launches := [lg] }], pkgs := [{ Pkg.atReset 0 with up := true, tags := [(0, (3, 0))] }] }
    s.core? core0 = some k ∧ worker core0 = true ∧ (∀ x ∈ s.ctxs, x.parked = []) ∧ of_.pkg? 0 = some { Pkg.atReset 0 with up := true, ovfl := [task0] }
    ∧ ([task0].find? fun t => of_.hasWork e t.ctx) = some task0 ∧ e.deque.length < 32 ∧ 32 ≤ full.deque.length
    ∧ s.taskFor core0 k = some (task0, launch0, 1) ∧ s.ctx? 1 = some ctxL ∧ ctxL.rings = []
    ∧ e.deque = [] ∧ (thief.stealPick core0).map (fun x => x.1) = some task0 ∧ (∀ y ∈ thief.ctxs, y.replays = false)
    ∧ thief.core? ⟨0, 0, 1⟩ = some { Core.new core1 0 with deque := [task0] } ∧ 1 ∈ victims core0
    ∧ back.parked = [rdy] ∧ rdy.core = core0 ∧ rdy.task.ctx = back.id ∧ back.trig = [(core0.pkg, .ready rdy.task.serial)] ∧ (0, Trig.event .drrRound) ∈ ev.trig
    ∧ ctxL.gateFailed launch0 = false ∧ ({ ctxL with launches := [lg] } : Ctx).gateFailed lg = false ∧ tg.staleTile { ctxL with launches := [lg] } lg pl = some (0, 3, 0)
    ∧ ps.blk? bid = some pl ∧ ctxL.launch? 0 = some launch0 ∧ pl.wanted = [] ∧ launch0.bad = false ∧ ps.staleTile ctxL launch0 pl = none ∧ pl.group = [bid]
    ∧ ps.startReady ctxL launch0 pl = true ∧ ctxL.preempting = false ∧ pl.core.pkg ∉ ctxL.off ∧ demo.ctx? ctx1.id = some ctx1 ∧ 0 ∉ ctx1.off := by decide +kernel

/-- A buffer of one store's bytes, which waits for nothing. -/
theorem wit_drain :
    let wb : WcBuf := ⟨0x2000, 1, hm, [5], [(5, 0, [7])], 1, false⟩
    let k : Core := { Core.new core0 0 with wc := [wb] }
    let s : State := { storing with cores := [k] }
    s.core? core0 = some k ∧ s.cut core0.pkg hm.pkg = false ∧ (k.wc.find? fun f => f.ia == 0x2000) = some wb ∧ (s.homeFind 1 hm 0x2000).toOption = some ent0 ∧ ent0.mst ≠ 1
    ∧ s.pageHeld ent0 0x2000 64 = false ∧ s.drainWaits core0 wb = false ∧ s.poison.contains (ent0.key 0x2000 / 64) = false ∧ 0 ∉ wb.ops
    ∧ (wb.ops.all fun o => !s.bufLapsed wb o) = true ∧ wb.byte wb.ops 0 = some 7 := by decide +kernel

/-! ## Homes -/

abbrev lease (ia : Nat) : LeaseReq := ⟨bid, hm, ia, 64, 0, 0, 0, false, [ia]⟩
abbrev withEntry (e : Entry) : State := { demo with entries := [e] }

theorem wit_LeasesPinPages :
    let l := lease 0
    let hom := Home.new (2 ^ 24) (RowList.empty 0) hm
    let full : State := { demo with homes := [{ hom with pins := 49152 }] }
    let abs_ := withEntry { ent0 with loc := 0 }
    let wants : Blk := { blk0 with state := .placed, wanted := [l] }
    let op : PageOp := PageOp.fresh hm 0 (some ⟨0, 2, false, false, false, false, false, 1, 1, 0, 0, 0, 0, 0, 0, 0, 0⟩)
    demo.home? l.home = some hom ∧ (l.pages.map pageOf).Nodup ∧ l.blk.ctx ∉ hom.dead ∧ l.hint = false
    ∧ demo.leaseLook (lease 0x10000) 0x10000 = .refuse ∧ ((lease 0x10000).pages.map pageOf).Nodup
    ∧ (∀ p ∈ l.pages, demo.leaseLook l p = .grant) ∧ demo.blkPins l ≤ pinMax ∧ hom.pins + demo.newPins l ≤ pinMax
    ∧ full.home? l.home = some { hom with pins := 49152 } ∧ full.leaseLook l 0 = .grant ∧ pinMax < 49152 + full.newPins l
    ∧ abs_.leaseLook l 0 = .absent ∧ abs_.entry? l.home 0 = some { ent0 with loc := 0 } ∧ abs_.blkPins l ≤ pinMax ∧ abs_.pageop? l.home 0 = none
    ∧ l ∈ wants.wanted ∧ l ∉ blk0.wanted ∧ wants.wanted.length = 1 ∧ wants.state = .placed ∧ wants.id.task = false
    ∧ ({ demo with ctxs := [ctxL] } : State).ctx? 1 = some ctxL ∧ ctxL.launch? 0 = some launch0
    ∧ demo.entry? l.home 0 = some ent0 ∧ ent0.lcnt = 0 ∧ (withEntry { ent0 with lcnt := 65534 }).entry? l.home 0 = some { ent0 with lcnt := 65534 }
    ∧ (withEntry { ent0 with lcnt := 1 }).entry? l.home 0 = some { ent0 with lcnt := 1 } ∧ ent0.mst = 0
    ∧ (withEntry { ent0 with lcnt := 1, mst := 3 }).entry? l.home 0 = some { ent0 with lcnt := 1, mst := 3 }
    ∧ ({ demo with pageops := [op] } : State).pageop? l.home 0 = some op ∧ op.cmd.isSome = true := by decide +kernel

/-- A home command of function 0 for context 1 at its one stack. -/
abbrev cmd0 (op ia : Nat) (fra : W64) : HomeCmd := ⟨0, op, false, false, false, false, false, 1, 1, 0, 0, ia, fra, 0, 0, 9, 1⟩
/-- Function 0 with die 0 of package 0, and a completion ring of one record that is full. -/
abbrev fn0 : Fn := { Fn.new 0 with fpart := 1, hccpi := 1 }
abbrev homed (e : Entry) (ops : List PageOp) : State := { demo with fns := [fn0], entries := [e], pageops := ops }

abbrev fr0 : W64 := 0x10001
abbrev waits0 : PageOp := PageOp.fresh hm 0 none
abbrev fills0 : State := homed { ent0 with mst := 2, loc := 0 } [waits0]

theorem wit_HomeCommands :
    let s := homed ent0 []
    let behind : State := { s with pending := [.map { cmd0 1 0 fr0 with seq := 0 }] }
    let ringed : Fn := { fn0 with hcq := 0x6004, hcc := 0x7010, hccpi := 1, hccci := 1 }
    let shot := homed { ent0 with mst := 5 } []
    (ringOn ringed.hcq = true ∧ ringOn ringed.hcc = true ∧ ringOn fn0.hcc = false ∧ ringed.hccWait = [] ∧ s.devHeld 0 (ringIa ringed.hcq) 1024 = false
      ∧ shot.devHeld 0 (ringIa ringed.hcq) 1024 = true ∧ (s.devRead 0 (ringIa ringed.hcq) 64).isSome = true
      ∧ ringed.hccpi.toNat - ringed.hccci.toNat < 2 ^ ringLog ringed.hcc)
    -- buffers in a page that a shoot-down holds
    ∧ shot.bufOk 0 0 32 = true ∧ shot.devHeld 0 0 32 = true ∧ shot.bufOk 0 0 4 = true ∧ shot.devHeld 0 0 4 = true ∧ s.devHeld 0 0 32 = false ∧ s.devHeld 0 0 4 = false
    ∧ s.fn? 0 = some fn0 ∧ 2 ^ ringLog fn0.hcc ≤ fn0.hccpi.toNat - fn0.hccci.toNat ∧ (s.devRead 0 (ringIa fn0.hcq + 64 * (0 % 2 ^ ringLog fn0.hcq)) 64).isSome = true
    ∧ s.cmdBehind (cmd0 1 0 fr0) = false ∧ behind.cmdBehind (cmd0 1 0 fr0) = true
    ∧ s.cmdBad { cmd0 1 0 fr0 with rsvd := true } = some 11 ∧ s.cmdBad { cmd0 1 0 fr0 with ctx := 1024 } = some 10
    -- MAP of a page without an entry; with a bad frame
    ∧ (s.cmdBehind (cmd0 1 0x10000 fr0) = false ∧ s.cmdBad (cmd0 1 0x10000 fr0) = none ∧ s.pageop? hm 0x10000 = none)
    ∧ s.cmdHome (cmd0 1 0 fr0) = hm ∧ s.entry? hm 0x10000 = none ∧ s.frameOk hm fr0 0x10000 = true ∧ s.home? hm = some (Home.new (2 ^ 24) (RowList.empty 0) hm)
    ∧ (s.entries.filter fun e => decide (e.home = hm)).length < 2 ^ 24 ∧ (Home.new 1 (RowList.empty 0) hm).cap ≤ (s.entries.filter fun e => decide (e.home = hm)).length ∧ s.entry? hm 0 = some ent0
    ∧ s.frameOk hm 0x1000000001 0x10000 = false ∧ s.devHeld 0 (ringIa fn0.hcq) 64 = false ∧ s.cmdEntry (cmd0 1 0x10000 fr0) hm = none := by decide +kernel

theorem wit_HomeCommandsRun :
    let s := homed ent0 []
    (∀ n ∈ [1, 2, 5, 6, 7, 8, 9], Runs s (cmd0 n 0 fr0)) ∧ s.cmdEntry (cmd0 2 0 fr0) hm = some ent0 ∧ ent0.mst = 0 ∧ ent0.lcnt = 0 ∧ ent0.loc = 1
    ∧ frLoc fr0 = 1 ∧ s.frameOk hm fr0 0 = true ∧ s.copies hm < 64
    ∧ (homed { ent0 with lcnt := 2 } []).cmdEntry (cmd0 2 0 fr0) hm = some { ent0 with lcnt := 2 } ∧ Runs (homed { ent0 with lcnt := 2 } []) (cmd0 2 0 fr0)
    ∧ (homed { ent0 with loc := 0 } []).cmdEntry (cmd0 5 0 fr0) hm = some { ent0 with loc := 0 } ∧ Runs (homed { ent0 with loc := 0 } []) (cmd0 5 0 fr0)
    ∧ s.bufOk 0 0 32 = true ∧ s.devEntry? 0 0 = some ent0 ∧ (0 : Nat) % 64 ≤ 32 ∧ s.pageHeld ent0 0 32 = false ∧ s.bufOk 0 0x10000 32 = false
    ∧ (cmd0 7 0 fr0).cnt = 1 ∧ s.fnEntry 0 0 = some ent0 ∧ s.bufOk 0 0 4 = true
    -- an operation under way; a page that waits for FILL
    ∧ fills0.cmdBehind (cmd0 3 0 fr0) = false ∧ fills0.cmdBad (cmd0 3 0 fr0) = none ∧ fills0.cmdEntry (cmd0 3 0 fr0) hm = some { ent0 with mst := 2, loc := 0 }
    ∧ fills0.pageop? hm 0 = some waits0 ∧ waits0.wait = false ∧ waits0.cmd = none ∧ frLoc fr0 ≠ 0
    ∧ ({ cmd0 3 0 fr0 with zero := true } : HomeCmd).zero = true := by
  unfold Runs
  decide +kernel

/-- Page operations of the page at IA 0 for a command to a frame at 0x10000 of stack 0. -/
abbrev cop : PageOp := { PageOp.fresh hm 0 (some (cmd0 6 0 fr0)) with copy := some 0 }
abbrev row0 : RowId := ⟨hm, 0, 0, 5⟩
abbrev home0 : Home := Home.new (2 ^ 24) (RowList.empty 0) hm
abbrev taken : List (RowId × Nat) := (List.range 4096).map fun i => (row0, i)

theorem wit_PagesMove :
    let waiting := homed ent0 [{ cop with wait := true, copy := none }]
    let moving := homed { ent0 with mst := 1 } [{ cop with copy := some 1023 }]
    let flip := homed { ent0 with mst := 1 } [{ cop with copy := some 1024 }]
    let filling := homed { ent0 with mst := 2 } [{ cop with cmd := some { cmd0 3 0 fr0 with frb := 1 } }]
    let sh : PageOp := { PageOp.fresh hm 0 (some (cmd0 2 0 0)) with acks := [(0, 0), (0, 1)], shoot := some .unmap }
    let row : Home := { home0 with rows := [⟨row0, [1], []⟩] }
    let sw : State := { demo with homes := [row] }
    let kept : Home := { home0 with remap := [(row0, 0)] }
    demo.home? hm = some home0
    ∧ moving.copyHeld ent0 (ent0.inFrame fr0) (64 * 1023) 64 = false ∧ filling.copyHeld (ent0.inFrame 1) (ent0.inFrame fr0) 0 (pageSize 0) = false
    ∧ cop.held = [] ∧ cop.copy = some 0 ∧ ({ ent0 with mst := 2 } : Entry).serves 1 = true ∧ frLoc fr0 ≠ 0 ∧ filling.blkPins (lease 0) ≤ pinMax ∧ home0.pins < pinMax
    ∧ 1 ∉ home0.dead ∧ ((lease 0).home = hm ∧ (lease 0).pages = [pageOf 0] ∧ (lease 0).hint = false) ∧ ({ sh with held := [lease 0] } : PageOp).held = [lease 0]
    ∧ (waiting.pageops.find? fun p => decide (p.home = hm) && p.wait).isSome = true ∧ waiting.copies hm < 64 ∧ (0 : Nat) = pageOf 0 ∧ waiting.entry? hm 0 = some ent0
    ∧ (moving.pageop? hm 0).isSome = true ∧ moving.entry? hm 0 = some { ent0 with mst := 1 } ∧ 64 * 1023 < pageSize 0 ∧ pageSize 0 ≤ 64 * 1024
    ∧ moving.poison = [] ∧ flip.entry? hm 0 = some { ent0 with mst := 1 } ∧ filling.entry? hm 0 = some { ent0 with mst := 2 } ∧ (filling.pageop? hm 0).isSome = true
    ∧ filling.poison = []
    ∧ ({ demo with pageops := [sh] } : State).pageop? hm 0 = some sh ∧ demo.die? 0 0 = some (Die.new 0 0) ∧ (0, 0) ∈ sh.acks
    ∧ (sh.acks.filter fun y => y != (0, 0)) ≠ [] ∧ ([(0, 0)].filter fun y => y != (0, 0)) = [] ∧ (homed ent0 [sh]).entry? hm 0 = some ent0
    ∧ (Fn.new 0).prqWait = []
    ∧ row0.home = hm ∧ home0.bankSpares row0 < 8 ∧ home0.freeSpare = some 0 ∧ home0.remap.length + home0.rows.length < 4096
    ∧ 8 ≤ ({ home0 with remap := (List.range 8).map fun i => (row0, i) } : Home).bankSpares row0
    ∧ (row.rows.find? fun y => decide (y.row = row0)) = some ⟨row0, [1], []⟩ ∧ row.freeSpare = some 0 ∧ sw.home? hm = some row
    ∧ demo.pkg? hm.pkg = some { Pkg.atReset 0 with up := true } ∧ (kept.remap.find? fun z => decide (z.1 = row0)) = some (row0, 0)
    ∧ ({ demo with homes := [kept] } : State).home? hm = some kept := by decide +kernel

/-- A sector of a row that is being retired holds a copy to it back. -/
theorem wit_copyHeld (h : Config.inRow row0 0 = true) :
    ({ demo with homes := [{ home0 with rows := [⟨row0, [1], []⟩] }] } : State).copyHeld ent0 (ent0.inFrame fr0) 0 64 = true := by
  have g : ({ demo with homes := [{ home0 with rows := [⟨row0, [1], []⟩] }] } : State).home? ent0.home
      = some { home0 with rows := [⟨row0, [1], []⟩] } := by decide +kernel
  have k : secsOf 0 64 = [(0, 64)] := by decide +kernel
  have n : (ent0.loc != 1) = false := by decide
  simp [State.copyHeld, State.rowAt, g, k, n]
  exact .inl h

theorem wit_noSpare : ({ home0 with remap := taken } : Home).freeSpare = none ∧ 4096 ≤ taken.length ∧ ({ demo with homes := [{ home0 with remap := taken }] } : State).home? hm
    = some { home0 with remap := taken } := by
  refine ⟨List.find?_eq_none.2 fun i h => ?_, by simp [taken], rfl⟩
  have h := List.mem_range.1 h
  simp [taken, h]

/-! ## Packages, functions, contexts -/

abbrev pkg0 : Pkg := { Pkg.atReset 0 with up := true }
abbrev enabled0 : List (Nat × Nat) := (List.range 25).map (fun i => (0, i)) ++ (List.range 24).map fun i => (1, i)
abbrev boot0 : BootCfg :=
  { badImage := none, digests := [], hbmOk := true, joinOk := true, portOk := true, joined := false, hsalt := 0, cxlmode := 0, fwCore := [(0, 3), (0, 7), (0, 1), (0, 2)],
    enabled := List.replicate 4 enabled0, cxl := 0, ports := (0, 0), xstcap := 2 ^ 24, rcAtomics := false }

theorem wit_PackagesComeAndGo :
    let torn : Pkg := { pkg0 with listA := { RowList.empty 0 with sig := none }, listB := { RowList.empty 0 with sig := none } }
    demo.pkg? 0 = some pkg0 ∧ (143 : Nat) < 144 ∧ boot0.badImage = none ∧ pkg0.rowList = some (RowList.empty 0) ∧ BootCfgOk boot0 = true
    ∧ State.reset.fns = [] ∧ ({ boot0 with badImage := some 1 } : BootCfg).badImage ≠ none ∧ torn.rowList = none
    ∧ ({ demo with pkgs := [torn] } : State).pkg? 0 = some torn ∧ ({ torn with boot := some boot0, fault := some 2 } : Pkg).boot = some boot0
    ∧ ({ boot0 with badImage := some 0 } : BootCfg).badImage = some 0 ∧ ({ boot0 with hbmOk := false } : BootCfg).hbmOk = false
    ∧ BootCfgOk { boot0 with cxlmode := 4 } = false ∧ boot0.joinOk = true ∧ boot0.portOk = true
    ∧ listValid 0 (RowList.empty 0) = true ∧ pkg0.up = true ∧ neighbours 3 0 = true ∧ 71 ∉ pkg0.lanes
    ∧ ({ pkg0 with lanes := List.range 71 } : Pkg).lanes.length = 71 ∧ 71 ∉ ({ pkg0 with lanes := List.range 71 } : Pkg).lanes
    ∧ State.reset.jobsOf 0 = [] ∧ 0 ∉ State.reset.rack.lost ∧ State.reset.pkg? 0 = some (Pkg.atReset 0) := by decide +kernel

theorem wit_FunctionsAnswerTheHost :
    let at1 : State := { demo with fns := [Fn.new 0, Fn.new 1], ctxs := [{ ctx1 with id := 1025 }], entries := [{ ent0 with owner := 1025 }] }
    let f : Fn := { Fn.new 1 with barwin := 1 }
    let s : State := { at1 with fns := [f], blks := [], wave := Wave.idle }
    demo.fn? 0 = some (Fn.new 0) ∧ (0x800#64 : W64).extractLsb' 10 2 = 2#2 ∧ (0x400#64 : W64).extractLsb' 10 2 = 1#2 ∧ (Fn.new 0).hccWait = []
    ∧ demo.liveCtxs [1] = [] ∧ demo.liveCtxs [0] ≠ [] ∧ ({ demo with fns := [Fn.new 1] } : State).fn? 1 = some (Fn.new 1)
    ∧ at1.liveCtxs [1] ≠ [] ∧ (at1.ctxs.map (·.id)).Nodup ∧ at1.fn? 1 = some (Fn.new 1) ∧ demo.pkg? 0 = some pkg0
    ∧ s.hostWrites 7 = [] ∧ ({ s with fns := [{ f with writes := [⟨7, 0, 1025, 0, [1]⟩] }] } : State).hostWrites 7 ≠ [] ∧ (0x100 : Nat) + 4 ≤ 2 ^ 36
    ∧ at1.fn? 0 = some (Fn.new 0) ∧ at1.liveCtxs [0] = [] ∧ (Fn.new 0).prqWait = [] ∧ s.fn? 1 = some f ∧ s.hostLook (f.window 0x100).1 (f.window 0x100).2 4 = .ok [((f.window 0x100).2, 4, { ent0 with owner := 1025 })] ∧ ent0.mst ≠ 1
    ∧ s.hostLook (f.window 0x10000).1 (f.window 0x10000).2 4 = .refused := by decide +kernel

theorem wit_ContextsLiveAndDie :
    let s : State := { demo with fns := [fn0], ctxs := [], blks := [], wave := Wave.idle }
    let st : Ctx := { ctx1 with life := .stopping, revoked := [core0] }
    s.fn? 0 = some fn0 ∧ s.ctx? (0 * 1024 + 1) = none ∧ (s.blks = [] ∧ s.allWaves = []) ∧ fn0.dies = [(0, 0, 0)] ∧ s.pkg? 0 = some pkg0 ∧ pkg0.up = true
    ∧ pkg0.failed = false ∧ (s.devRead 0 0x2000 8192).isSome = true ∧ ({ fn0 with tabWr := true } : Fn).tabWr = true ∧ fn0.tabWr = false
    ∧ s.devHeld 0 0x2000 8192 = false ∧ ({ s with entries := [{ ent0 with mst := 5 }] } : State).devHeld 0 0x2000 8192 = true ∧ ({ s with entries := [] } : State).devRead 0 0x2000 8192 = none
    ∧ ctx1.life = .live ∧ demo.coresOf ctx1 ≠ [] ∧ ({ demo with ctxs := [st] } : State).ctx? 1 = some st ∧ core1 ∈ demo.coresOf st ∧ core1 ∉ st.revoked
    ∧ (demo.allWaves.map (·.id)).Nodup ∧ demo.core? core1 = some (Core.new core1 0)
    ∧ (∀ q ∈ demo.coresOf st, q = core1 ∨ q ∈ st.revoked) ∧ (∃ q ∈ demo.coresOf st, q ≠ core0 ∧ q ∉ { st with revoked := [] }.revoked)
    ∧ demo.home? hm = some home0 ∧ 1 ∉ home0.dead ∧ demo.homesOf ctx1 = [hm] := by decide +kernel

/-- A descriptor at IA 0x2000 that R385 accepts where the device needs no more save area than 64 KiB: one range over an always-resident page,
a trap ring of 64 records at 0x4000, 16 pages of save area at 0, an unused log ring. -/
abbrev descWords : List (Nat × W64) := [(0, 0), (1, 0x1000000), (2, 0), (3, 0x361F), (64, 0x4006), (75, 16), (388, 12)]
abbrev descState : State :=
  { demo with fns := [fn0], ctxs := [], blks := [], wave := Wave.idle,
              mem := descWords.foldl (fun m p => writeBytes m (key0 + 0x2000 + 8 * p.1) (leBytes 8 p.2.toNat)) [] }

/-- Queue words of zeros are an unused queue, whatever the queue. -/
theorem test_descTail (bs : List Byte) (h : descZero bs 640 2688 = true) (n : Nat) (hn : n < 64) : queueOk bs n = true := by
  have hv : ∀ l : List Byte, (∀ b ∈ l, b = 0#8) → leVal l = 0 := by
    intro l
    induction l with
    | nil => simp [leVal]
    | cons x xs ih => intro hl; simp_all [leVal]
  have hw : ∀ i, 80 ≤ i → i < 336 → descW bs i = 0 := by
    intro i hi hj
    have hd : ∀ b ∈ (bs.drop (8 * i)).take 8, b = 0#8 := fun b hb => by
      have hb' : b ∈ (bs.drop 640).take (2688 - 640) := by
        rw [show 8 * i = 640 + (8 * i - 640) by omega, ← List.drop_drop] at hb
        have := List.mem_of_mem_drop ((List.drop_take ▸ List.take_subset_take_left _ (show 8 ≤ 2048 - (8 * i - 640) by omega) hb :
          b ∈ ((bs.drop 640).take 2048).drop (8 * i - 640)))
        exact this
      simpa using List.all_eq_true.1 h b hb'
    simp [descW, hv _ hd]
  simp [queueOk, descF, hw (80 + 4 * n) (by omega) (by omega), hw (80 + 4 * n + 1) (by omega) (by omega), hw (80 + 4 * n + 3) (by omega) (by omega)]

theorem wit_ContextCreated (h : Config.svreq ≤ 16 * 4096) :
    let bs := (descState.devRead 0 0x2000 8192).getD []
    descState.descOk 0 (newCtx 1 0x2000 [(0, 0, 0)] bs) bs = true ∧ descState.ctx? 1 = none ∧ fn0.dies = [(0, 0, 0)] := by
  refine ⟨?_, by decide +kernel, by decide +kernel⟩
  have hz : descZero ((descState.devRead 0 0x2000 8192).getD []) 640 2688 = true := by decide +kernel
  have hs : (newCtx 1 0x2000 [(0, 0, 0)] ((descState.devRead 0 0x2000 8192).getD [])).svsz = 16 := by decide +kernel
  have hq : (List.range 64).all (queueOk ((descState.devRead 0 0x2000 8192).getD [])) = true :=
    List.all_eq_true.2 fun n hn => test_descTail _ hz n (List.mem_range.1 hn)
  unfold State.descOk
  rw [hs, decide_eq_true h, hq]
  decide +kernel

/-! ## Queues and distributors -/

/-- A packet of queue 0 of context 1 in slot 0. -/
abbrev pk (ws : List W64) : Packet := ⟨1, 0, 0, ws⟩
abbrev inQueue (c : Ctx) : State := { demo with ctxs := [c] }
/-- A launch of one block of 32 threads in one cluster, and one that depends on the launch before it. -/
abbrev pLaunch : Packet := pk ([1, 0xFA0, 0x0001000100000001, 0x0111000100010020] ++ List.replicate 28 0)
abbrev pAfter : Packet := pk ([0x10001, 0xFA0, 0x0001000100000001, 0x0111000100010020] ++ List.replicate 28 0)
/-- An all-reduce of 16 fp32 elements over one package: shadow at 0x3000, result at 0x2000. -/
abbrev pBind : Packet := pk [0x99000050005, 0x2000, 0x3000, 0x100000040, 0x10100, 0, 0, 0]
abbrev bind0 : Binding := demo.bindingOf pBind
abbrev rng2 : Range := { rng with attr := 0x341F }

theorem wit_QueuePackets :
    let s := inQueue ctxL
    let c2 : Ctx := { ctxL with ranges := [rng2] }
    let done : Ctx := { ctxL with launches := [{ launch0 with ended := true }] }
    let ready : Ctx := { ctxL with queues := [{ queue0 with wi := 4 }] }
    let bad : Ctx := { ready with launches := [{ launch0 with bad := true, ended := true }] }
    let iv : Interval := ⟨1, 0x2000, 64, false⟩
    s.ops = [] ∧ s.ctx? 1 = some ctxL ∧ ctxL.queue? 0 = some queue0 ∧ s.fn? 0 = some (Fn.new 0) ∧ ctxL.life = .live
    ∧ (8 % 2 ^ 32 + 2 ^ 32 - queue0.ri) % 2 ^ 32 ≤ 2 ^ queue0.logs ∧ 2 ^ queue0.logs < (9 % 2 ^ 32 + 2 ^ 32 - queue0.ri) % 2 ^ 32
    ∧ queue0.ri = (pk []).slot ∧ queue0.hold = []
    ∧ ((inQueue c2).leaseReqs c2 ⟨1, false, 0, 0⟩ 0 0 iv).toOption.isSome = true ∧ (s.leaseReqs ctxL ⟨1, false, 0, 0⟩ 0 0 iv).toOption = none
    ∧ (done.launches.filter fun l => l.q == 0 && !l.ended) = [] ∧ (ctxL.launches.filter fun l => l.q == 0 && !l.ended) ≠ []
    ∧ ctxL.queuePkg ∉ ctxL.off
    ∧ (let home := s.devPut 0 (ctxL.desc + 640 + 16) 1
       home.condition 1 (0x2000, 0) = some true ∧ home.condition 1 (0x2000, 1) = some false ∧ home.condition 1 (0x2000000, 0) = none) ∧ (pk [0x30007]).f 0 16 2 = 3
    ∧ s.bindIdle 1 bind0 = true ∧ s.bindIdle 1 { bind0 with chunks := [⟨0, 0, 0, 1, [], []⟩] } = false ∧ bind0.failed = false
    ∧ (pk [0x10000000050005]).f 0 8 8 = 0 ∧ (pk [0x10000000050005]).f 0 32 20 = 0 ∧ (pk [0x10000000050005]).f 0 53 11 = 0 ∧ (pk [0x10000000050005]).zeros 1 8 = true
    ∧ ({ ctxL with binds := [bind0] } : Ctx).bind? 5 = some bind0 ∧ ctxL.bind? 5 = none
    ∧ 4 ≤ ({ queue0 with wi := 4 } : Queue).unread ∧ ready.queue? 0 = some { queue0 with wi := 4 } ∧ (Launch.ofPacket ready queue0 pLaunch).valid ready = true
    ∧ (Launch.ofPacket ready queue0 pLaunch).dep = 0 ∧ ready.preempting = false ∧ (Launch.ofPacket ready queue0 (pk [1])).valid ready = false
    ∧ (Launch.ofPacket bad queue0 pAfter).valid bad = true ∧ (Launch.ofPacket bad queue0 pAfter).dep ≠ 0
    ∧ (Launch.ofPacket bad queue0 pAfter).prev.bind bad.launch? = some { launch0 with bad := true, ended := true } := by decide +kernel

theorem wit_Signals :
    let s := inQueue ctxL
    let held : Queue := { queue0 with hold := [(0x2000, 0)] }
    let x := s.ctxAt 1 0x2000 8 .store
    let y := s.ctxAt 1 0x2000 8 .atomic
    s.vaHeld 1 0x2000 8 .store = false ∧ s.vaHeld 1 0x2000 8 .load = false ∧ ({ s with entries := [{ ent0 with mst := 5 }] } : State).vaHeld 1 0x2000 8 .store = true ∧
    (pk [2, 0x2000]).f 0 16 1 = 0 ∧ (pk [0x10002, 0x2000]).f 0 16 1 = 1 ∧ x.toOption = some (rng, 0x2000) ∧ y.toOption = some (rng, 0x2000)
    ∧ (s.engFind 1 ⟨0x2000, rng⟩ 8 true 2).toOption = some [(0x2000, 8, ent0)] ∧ (s.homeFind 1 (s.homeAt 1 rng 0x2000) 0x2000).toOption = some ent0
    ∧ ent0.mst ≠ 1 ∧ s.poison.contains (ent0.key 0x2000 / 64) = false ∧ ({ held with met := true } : Queue).met = true ∧ held.met = false
    ∧ ({ Fn.new 0 with msix := [(3, (0, 0))] } : Fn).masked 3 = false ∧ ({ Fn.new 0 with msix := [(3, (0, 0x100000000))] } : Fn).masked 3 = true
    ∧ (pk [0x10000002, 0x2000]).f 0 28 1 = 1 ∧ s.condition 1 (0x2000000, 0) = none
    ∧ held.hold = [(0x2000, 0)] ∧ s.condition 1 (0x2000, 0) = some true ∧ s.condition 1 (0x2000, 1) = some false := by decide +kernel

abbrev bids : List BlkId := (List.range 5).map fun i => ⟨1, false, 0, i⟩
abbrev waitBlk (i : BlkId) : Blk := { Blk.fresh i with cap := 64, size := 4096, nwaves := 1 }
/-- Dies 0 and 1 of package 0 and die 0 of package 1, a list of five blocks at one of them. -/
abbrev rackOf (at0 at1 atP : List BlkId) : State :=
  { demo with blks := bids.map waitBlk, wave := Wave.idle, pkgs := [pkg0, { pkg0 with id := 1 }],
              dies := [{ Die.new 0 0 with list := at0 }, { Die.new 0 1 with list := at1 }, { Die.new 1 0 with list := atP }],
              cores := [Core.new core0 0, Core.new core1 0, Core.new ⟨1, 0, 0⟩ 0, Core.new ⟨0, 1, 0⟩ 0],
              ctxs := [{ ctx1 with dies := [(0, 0, 0), (0, 0, 1), (1, 1, 0)] }] }

theorem wit_Distribution :
    let q1 : Queue := { queue0 with wq := 1 }
    let c : Ctx := { ctxL with queues := [q1] }
    let s := inQueue c
    let idle := inQueue { ctx1 with queues := [q1] }
    let late : Queue := { q1 with def_ := -131072 }
    let one : State := { demo with ctxs := [ctxL], blks := [waitBlk bid], wave := Wave.idle, dies := [{ Die.new 0 0 with list := [bid] }] }
    let two : State := { one with dies := [{ Die.new 0 0 with list := [bid], phase := [(phaseKey 1 0, 1)] }] }
    let l1 : Launch := { launch0 with phase := 1 }
    s.ctx? c.id = some c ∧ c.life = .live ∧ c.queue? q1.num = some q1 ∧ c.preempting = false ∧ (s.ctxs.map (·.id)).Nodup ∧ (c.queues.map (·.num)).Nodup
    ∧ (c.launches.map (·.id)).Nodup ∧ ({ ctx1 with queues := [q1] } : Ctx).backlog 0 = 0 ∧ c.backlog 0 ≠ 0 ∧ idle.ctx? 1 = some { ctx1 with queues := [q1] }
    ∧ min (late.def_ + Int.ofNat (s.quantum c late)) (Int.ofNat (8 * s.quantum c late)) ≤ 0
    ∧ 0 < min (q1.def_ + Int.ofNat (s.quantum c q1)) (Int.ofNat (8 * s.quantum c q1))
    ∧ (c.launches.find? fun l => l.q == 0 && decide (l.next < l.nblk) && !l.bad) = some launch0 ∧ (s.placeKey c launch0 0).1 ∈ c.dies.map (·.1)
    ∧ launch0.neverFits = false ∧ ({ launch0 with words := [0, 0xFA0, 0x0001000100000001, 0x0112000100010020, 0x3FE0] } : Launch).neverFits = true
    ∧ c.launch? 0 = some launch0 ∧ launch0.bad = false ∧ s.die? 0 (s.placeKey c launch0 0).2 = some (Die.new 0 0)
    -- the head of a list, in a phase the die has to be cleaned for, and after it
    ∧ one.die? 0 0 = some { Die.new 0 0 with list := [bid] } ∧ one.blk? bid = some (waitBlk bid) ∧ (waitBlk bid).cluster = [] ∧ ctxL.places 0 = true
    ∧ ctxL.phaseOpen launch0 = true ∧ one.cleaning 0 0 1 = false ∧ (∀ y ∈ one.ctxs, y.replays = false)
    ∧ (Die.new 0 0).phase.get 0 (phaseKey 1 0) = launch0.phase ∧ (Die.new 0 0).phase.get 0 (phaseKey 1 0) ≠ l1.phase
    ∧ launch0.tileOut ctxL 0 = none ∧ one.bestCore (waitBlk bid) (one.dieCores 0 0) = some (core0, [0]) ∧ ctxL.gateFailed launch0 = false
    ∧ one.bestCore { waitBlk bid with size := 2 ^ 21 } (one.dieCores 0 0) = none
    ∧ ({ launch0 with words := (launch0.words.set 0 0x20000).set 12 0xFFFF } : Launch).tileOut ctxL 1 = none
    ∧ (∀ y ∈ s.ctxs, ∀ l ∈ y.launches, l.complete = false)
    ∧ (one.leaseReqsAll ctxL bid 0 0 []).toOption = some []
    ∧ (one.leaseReqsAll { ctxL with ranges := [rng2] } bid 0 0 [⟨1, 0x2000, 64, false⟩]).toOption.isSome = true
    ∧ (∀ k ∈ one.cores, ∀ b ∈ k.wc, b.ctx ≠ 1) ∧ one.ops = [] ∧ one.onWay = [] ∧ two.dies.length = 1 := by decide +kernel

theorem wit_Stealing :
    let w := rackOf [] bids []
    let b := { rackOf [] [] bids with rack := { Rack.atReset with lens := [(1, 1, 0, 5)], costs := [(0, bid, 7), (1, bid, 8)] } }
    let c : Ctx := { ctx1 with dies := [(0, 0, 0), (0, 0, 1), (1, 1, 0)] }
    let gone : State := { demo with pkgs := [{ pkg0 with failed := true }] }
    w.ctx? c.id = some c ∧ c.rings = [] ∧ c.replays = false ∧ w.die? 0 0 = some (Die.new 0 0) ∧ c.places 0 = true ∧ c ∈ w.ctxs ∧ (0, 0, 0) ∈ c.dies
    ∧ w.longest c 0 (some 0) = some { Die.new 0 1 with list := bids } ∧ w.stealTail c { Die.new 0 1 with list := bids } = bids.drop 1
    ∧ w.stealRoom 0 0 (bids.drop 1) = true
    ∧ (∀ y ∈ b.dies, y.pkg = 0 → y.list = []) ∧ b.trayUp (0 / 4) = true ∧ b.namedVictim c 0 true = some 1
    ∧ b.longest c 1 none = some { Die.new 1 0 with list := bids } ∧ b.stealTail c { Die.new 1 0 with list := bids } = bids.drop 1
    ∧ (∀ e ∈ b.dies, e.pkg = 0 → b.stealRoom 0 e.die (bids.drop 1) = true)
    ∧ b.trayPkgs 0 ≠ [] ∧ gone.trayPkgs 0 ≠ [] ∧ gone.trayUp 0 = false ∧ 0 ∉ gone.rack.slot1 := by decide +kernel

/-! ## Pre-emption and logs -/

/-- A log ring of four records at IA 0x6000, its entry in the descriptor at 0x7000. -/
abbrev logRing : LogRing := ⟨0, 2, 0x6000, 0x7000, 0, 0, false, false, false, [], false, [], []⟩
abbrev ctxLog (mode : Nat) (r : LogRing) : Ctx := { ctx1 with logmode := mode, rings := [r] }
abbrev quietWave : Wave := { wave0 with clause := none }

theorem wit_Preemption :
    let b : Blk := { blk0 with save := true }
    let s : State := { demo with blks := [b], wave := Wave.idle, waves := [{ quietWave with run := .stopped }] }
    let sv : Blk := { blk0 with state := .saved, image := [{ quietWave with run := .stopped }], nwaves := 1 }
    let ask : Blk := { sv with intervals := [⟨1, 0x2000, 64, false⟩] }
    let c2 : Ctx := { ctx1 with ranges := [rng, { rng2 with base := 0x1000000, lim := 0x2000000 }] }
    let r : State := { demo with blks := [sv], wave := Wave.idle }
    let r2 : State := { demo with blks := [ask], wave := Wave.idle, ctxs := [{ ctx1 with ranges := [rng2] }] }
    demo.ctx? 1 = some ctx1 ∧ ctx1.preempting = false ∧ ctx1.logmode ≠ 1 ∧ blk0.state = .running
    ∧ s.blk? bid = some b ∧ b.group = [bid] ∧ b.failed = false ∧ s.saveReady b = true ∧ s.saveAreaOk ctx1 core0.pkg = true
    ∧ r.blk? bid = some sv ∧ sv.id.task = false ∧ ctx1.off = [] ∧ (r.core? core1).isSome = true
    ∧ (r2.restoreReqs { ctx1 with ranges := [rng2] } { ask with core := core1 } core1).toOption.isSome = true
    ∧ ((r2.restoreReqs { ctx1 with ranges := [rng2] } { ask with core := core1 } core1).toOption.getD []) ≠ []
    ∧ (r.restoreReqs ctx1 { sv with core := core1 } core1).toOption = some [] ∧ sv.wanted = [] ∧ sv.group = [bid]
    ∧ (r.modBlk bid fun b => { b with core := core1 }).savedFits { sv with core := core1 } core1 = some [0] ∧ sv.waits = [] ∧ sv.images = [] ∧ sv.cmds = []
    ∧ ctx1.resp = [] ∧ c2.ranges.length = 2
    -- a package's switch-off and on
    ∧ demo.pkg? 0 = some pkg0 ∧ 0 ∈ ctx1.pkgs ∧ ctx1.saved = [] ∧ (∀ b ∈ ({ demo with blks := [] } : State).blks, b.id.ctx = 1 → b.core.pkg ≠ 0)
    ∧ (demo.blks.map (·.id)).Nodup ∧ blk0.id.ctx = 1 ∧ blk0.core.pkg = 0
    ∧ (({ ctx1 with saved := [(0, [(63, (3, 0))])], off := [0] } : Ctx).saved.find? fun x => x.1 == 0) = some (0, [(63, (3, 0))])
    ∧ ([((63 : Nat), ((3 : Nat), (0 : Nat)))].map (·.1)).Nodup := by decide +kernel

/-- Trays that have reported, and one that is mute. -/
theorem wit_trayReports :
    let wide : Ctx := { ctx1 with dies := [(0, 0, 0), (1, 4, 0)] }
    let tr : State := { demo with ctxs := [wide], pkgs := [{ pkg0 with joined := true }, { pkg0 with id := 4, joined := true, failed := true }] }
    let asked : State := { tr with ctxs := [{ wide with preempting := true }], rack := { Rack.atReset with stops := [(1, 1)] } }
    demo.mute ctx1 ((ctx1.pkgs.map fun p => p / 4).dedup) = [] ∧ tr.mute wide ((wide.pkgs.map fun p => p / 4).dedup) = [1]
    ∧ (asked.rack.stops.filter fun x => x.1 == 1).map (·.2) = [1] ∧ asked.mute wide [1] = [1] ∧ asked.mute wide [0] = [] ∧ worker core1 = true ∧ demo.drains core1 = false := by decide +kernel

/-- A wave between clauses of a block whose save is pending, and which the bound stops. -/
theorem wit_boundStops :
    let b : Blk := { blk0 with save := true }
    let s : State := { demo with blks := [b], wave := Wave.idle, waves := [quietWave] }
    s.stops quietWave = false ∧ quietWave.run = .run ∧ quietWave.clause = none ∧ b.id = quietWave.id.blk := by decide +kernel

theorem wit_Logs :
    let full : LogRing := { logRing with pi := 4, ci := 1, hiw := true }
    let c := ctxLog 1 logRing
    let rec_ : List W64 := [0x08, 0x1000, 0, 0]
    let s : State := { demo with ctxs := [ctxLog 2 logRing], mem := writeBytes (writeBytes [] (key0 + 0x6000) (bytesOf rec_)) (key0 + 0x7008) (leBytes 8 1) }
    let h : Held := ⟨3, 1, 0, 0, .taskStart core0, 0, false⟩
    c.ring? 0 = some logRing ∧ logRing.ring = [] ∧ full.ci ≤ 4 ∧ (4 : Nat) ≤ full.pi ∧ (0 : Nat) < full.ci ∧ full.pi < 5
    ∧ c.rings = [logRing] ∧ logRing.claimed = [] ∧ 65 < ({ logRing with lrsz := 12 } : LogRing).room ∧ full.hiw = true ∧ h.again = false
    ∧ s.devHeld 0 logRing.desc 32 = false ∧ s.devHeld 0 logRing.base (32 * 2 ^ logRing.lrsz) = false ∧ s.copyTarget ent0 = none ∧ c.logmode = 1 ∧ c.quiet = true ∧ logRing.lost = false ∧ logRing.room ≠ 0
    ∧ (({ demo with ctxs := [c] } : State).devWrite 0 0x6000 (bytesOf (endRec 0 0))).isSome = true
    ∧ (ctxLog 2 logRing).replays = true ∧ logRing.ended = false ∧ logRing.window = [] ∧ logRing.desc % 32 = 0
    ∧ (s.devWord 0 (logRing.desc + 8)).toNat = logRing.ci + 1 ∧ wordsOf ((s.devRead 0 (logRing.base + 32 * (logRing.ci % 2 ^ logRing.lrsz)) 32).getD []) 4 = rec_
    ∧ recBad rec_ = false ∧ passedOver (recTyp rec_) = false ∧ recSeq rec_ = s.nextSeq 1 (recOpt rec_)
    ∧ ctx1.logmode = 0
    ∧ (({ s with held := [h] } : State).held.find? fun x => x.id == 3 && x.ctx == 1) = some h
    ∧ logRing.ci < (s.devWord 0 (logRing.desc + 8)).toNat ∧ ¬ logRing.ci < (demo.devWord 0 (logRing.desc + 8)).toNat ∧ (0x1F : Nat) < 32 := by decide +kernel

/-! ## Collectives -/

/-- bind0 of package 0 alone, and of packages 0 to 2; a gathering of one chunk of 64 bytes by one participant, with a count at 0x4000. -/
abbrev bind2 : Binding := demo.bindingOf (pk [0x99000050005, 0x2000, 0x3000, 0x100000040, 0x10200, 0x4000, 0, 0])
abbrev gath : Binding := demo.bindingOf (pk [0x99800050005, 0x2000, 0, 0x100000040, 0x100010100, 0x4000, 0, 0])
abbrev ctxB (b : Binding) : Ctx := { ctx1 with binds := [b] }
abbrev colW : AW := ⟨always, .v 0, .s 2, .s 4, .s 5, 0, false, 0⟩

theorem wit_CollectiveSources :
    let wv (r : W64) : Wave := { wave0 with colroute := r, s := [(4, 64)] }
    let s (r : W64) : State := { demo with ctxs := [ctxB bind0], wave := wv r }
    let ex : Blk := { blk0 with state := .exitRead, intervals := [⟨1, 0x2000, 64, true⟩] }
    let x (b : Binding) : State := { demo with ctxs := [{ ctxL with binds := [b], launches := [{ launch0 with words := [5 * 2 ^ 23, 0xFA0] }] }], blks := [ex] }
    demo.bindOk ctx1 bind0 = true ∧ demo.bindOk ctx1 gath = true
    ∧ (s 5).blk? bid = some blk0 ∧ (s 5).wave.part ⟨true, 7⟩ = [] ∧ (s 5).wave.part always ≠ [] ∧ (s 5).wave.colroute.getLsbD 16 = false
    ∧ (s 0x10005).wave.colroute.getLsbD 16 = true ∧ ((s 0x10005).op32 colW.s2).toNat = 64 ∧ (s 0x10005).boundFor 1 0 5 0 64 = some bind0
    ∧ colW.y.getLsbD 0 = false ∧ (s 0x10005).locksAt core0 = [] ∧ ((s 0x10005).op64 colW.s1 &&& 0xFFFFF#64).toNat + 64 ≤ blk0.size
    -- a block's exit
    ∧ (x bind0).blk? bid = some ex ∧ ((x bind0).ctx? 1).isSome = true ∧ ({ launch0 with words := [5 * 2 ^ 23, 0xFA0] } : Launch).colbuf = 5
    ∧ (x bind0).boundFor 1 0 5 0 64 = some bind0 ∧ bind0.failed = false
    ∧ (match (x bind0).readSpan ex (true, vaOf 0x2000, 64) with | .bytes _ => true | _ => false) = true ∧ demo.boundFor 1 0 5 0 64 = none := by
  decide +kernel

theorem wit_CollectiveCounts :
    let w := aw (.s 2) (.v 0) (.v 0) 0 false 1
    let m : MatOp := { mop (.mepiCol w) [] 0 0 with contrib := true }
    let s := mst m none (ctxB bind0)
    let k : Contrib := ⟨1, 5, 0, 0, .mepi bid 1, List.replicate 64 0⟩
    let fb : Binding := { bind0 with failed := true }
    s.ctx? 1 = some (ctxB bind0) ∧ (ctxB bind0).bind? 5 = some bind0 ∧ (ctxB bind0).rings = [] ∧ s.contribBlk k.src = some (mblk m none)
    ∧ s.boundFor 1 0 4 0 64 = none ∧ s.boundFor 1 k.pkg 5 k.chunk k.bytes.length = some bind0 ∧ bind0.room 0 0 = true
    ∧ (mst m none (ctxB fb)).boundFor 1 k.pkg 5 k.chunk k.bytes.length = some fb ∧ fb.failed = true
    ∧ 0 + 1 = bind0.expc ∧ bind0.gather = false ∧ gath.gather = true ∧ 0 + 1 ≠ ({ bind0 with words := [0x99000050005, 0x2000, 0x3000, 0x100000040, 0x20100] } : Binding).expc
    ∧ s.shadowHome 1 bind0 0 = some hm ∧ s.home? hm = some home0 ∧ home0.landing < 256 := by decide +kernel

theorem wit_CollectivePartials :
    let s (b : Binding) := ({ demo with ctxs := [ctxB b] } : State)
    let x : Range × Nat := (rng, 0x3000)
    let y : Range × Nat := (rng, 0x2000)
    let more : Binding := { bind2 with shadows := [⟨0, 0, 1, []⟩] }
    bind2.sh = some x ∧ bind2.dst = some y ∧ (s bind2).hubHeld 1 x 0 (12 * 16) = false ∧ (s bind2).hubHeld 1 y 0 64 = false ∧ bind2.ne = 16
    ∧ 0 + 1 < bind2.np ∧ more.np ≤ 1 + 1 ∧ ((s more).hubRead 1 x 0 192 7).toOption.isSome = true
    ∧ (match (s more).hubWrite 1 x 0 (List.replicate 192 1) with
       | .ok s1 => (s1.hubWrite 1 y 0 (List.replicate 64 1)).toOption.isSome | .error _ => false) = true := by decide +kernel

theorem wit_CollectiveShards :
    let sh : Shard := ⟨1, 5, 0, 0, 0, 0, List.replicate 64 7⟩
    let two : Binding := { gath with words := [0x99800050005, 0x2000, 0, 0x100000040, 0x100010200, 0x4000, 0, 0x5000] }
    let waits : Binding := { gath with shards := [sh] }
    let tired : Binding := { waits with tries := [(shardId sh, 1024)] }
    let s (b : Binding) : State := { demo with ctxs := [ctxB b] }
    let x : Range × Nat := (rng, 0x2000)
    let full : State := { s waits with pkgs := [{ pkg0 with landing := 256 }] }
    (s gath).landSpan gath sh = some x ∧ gath.failed = false ∧ gath.np ≤ gath.nslot ∧ (s gath).hubHeld 1 x 0 64 = false ∧ ((s gath).hubWrite 1 x 0 sh.bytes).toOption.isSome = true ∧ gath.rl = none
    ∧ gath.landed.get 0 (landKey 0 0 0) + 1 = gath.nch ∧ 0 + 1 < two.np ∧ 0 < two.nslot ∧ (s two).pkg? ((ctxB two).participant two 0) = some pkg0 ∧ pkg0.landing < 256
    ∧ (waits.shards.find? fun y => shardId y == shardId sh) = some sh ∧ full.pkg? ((ctxB waits).participant waits 0) = some { pkg0 with landing := 256 }
    ∧ waits.tries.get 0 (shardId sh) < 1024 ∧ 1024 ≤ tired.tries.get 0 (shardId sh)
    -- signals and objects
    ∧ bind2.sg = some (rng, 0x4000) ∧ bind2.av = none ∧ (s bind2).hubHeld 1 (rng, 0x4000) 0 8 = false
    ∧ ({ bind2 with sg := none, av := some (rng, 0x4000) } : Binding).av = some (rng, 0x4000) ∧ bind0.sg = none ∧ bind0.av = none
    ∧ ({ bind0 with failed := true } : Binding).failed = true ∧ bind2.gather = false
    ∧ ((s bind2).homeFind 1 ((s bind2).homeAt 1 rng 0x4000) 0x4000).toOption = some ent0 ∧ (s bind2).poison.contains (ent0.key 0x4000 / 64) = false
    ∧ (s bind2).copyTarget ent0 = none := by decide +kernel

end Sys2Proof.Tests
end

/-! ## Reading what was written (O3) -/

namespace Sys2Proof.Machine

/-- Little-endian bytes hold the value modulo their range (R4). -/
theorem leVal_leBytes (n v : Nat) : leVal (leBytes n v) = v % 256 ^ n := by
  induction n generalizing v with
  | zero => simp [leBytes, leVal, Nat.mod_one]
  | succ k ih =>
    rw [leBytes, leVal, ih, BitVec.toNat_ofNat, pow_succ' 256 k]
    exact Nat.mod_mul.symm

/-- Reading back all that was written gives the bytes written. -/
theorem memRead_memWrite (s : State) (k : Nat) (bs : List Byte) : (s.memWrite k bs).memRead k bs.length = bs := by
  apply List.ext_getElem (by simp [State.memRead, readBytes])
  intro i _ hi
  have hb := memByte_memWrite s k (k + i) bs
  rw [if_pos (by omega), Nat.add_sub_cancel_left, List.getD_eq_getElem _ _ hi] at hb
  simpa [State.memRead, readBytes, State.memByte, memDefault] using hb

/-- Settles O3: a byte after a write, the bytes read back, the canonical form, and little-endian values. -/
theorem memoryReadsWrites : Obligations.MemoryReadsWrites := by
  unfold Obligations.MemoryReadsWrites
  intro s k a bs
  exact ⟨memByte_memWrite s k a bs, memRead_memWrite s k bs, wf_memWrite s k bs, leVal_leBytes⟩

end Sys2Proof.Machine

/-! ## The canonical form of memory (O1)

For each function of the model that answers a state: `_mem` where it leaves memory as it was, `_wf` where it keeps the canonical
form, `_keeps` where its answer is an outcome; then the step keeps the invariant. -/

namespace Sys2Proof.Machine

/-! ### Branches, folds and outcomes -/

@[simp] theorem ite_mem (c : Prop) [Decidable c] (s t : State) : (if c then s else t).mem = if c then s.mem else t.mem := apply_ite ..

@[simp] theorem Memory.wf_ite (c : Prop) [Decidable c] (m n : List Host.Cell) (h : Memory.wf m = true) (k : Memory.wf n = true) :
    Memory.wf (if c then m else n) = true := by split <;> assumption

theorem ite_wf {c : Prop} [Decidable c] {s t : State} (h : Memory.wf s.mem = true) (k : Memory.wf t.mem = true) :
    Memory.wf (if c then s else t).mem = true := by split <;> assumption

/-- `ite_wf` through the invariant's name: the kernel then compares the states before it looks at their memory. -/
theorem ite_inv {c : Prop} [Decidable c] {s t : State} (h : s.Inv) (k : t.Inv) : (if c then s else t).Inv := by split <;> assumption

theorem getD_wf {s : State} {o : Option State} (ho : ∀ t, o = some t → Memory.wf t.mem = true) (hm : Memory.wf s.mem = true) :
    Memory.wf (o.getD s).mem = true := by
  cases o with
  | none => exact hm
  | some t => exact ho t rfl

@[simp] theorem foldl_mem {α : Type} {f : State → α → State} (hf : ∀ s a, (f s a).mem = s.mem) (l : List α) (s : State) :
    (l.foldl f s).mem = s.mem := by
  induction l generalizing s with
  | nil => rfl
  | cons a r ih => exact (ih _).trans (hf s a)

theorem foldl_wf {α : Type} {f : State → α → State} (hf : ∀ s a, Memory.wf s.mem = true → Memory.wf (f s a).mem = true)
    (l : List α) (s : State) (h : Memory.wf s.mem = true) : Memory.wf (l.foldl f s).mem = true := by
  induction l generalizing s with
  | nil => exact h
  | cons a r ih => exact ih _ (hf s a h)

@[simp] theorem Memory.wf_writeBytes (m : Tab Byte) (k : Nat) (bs : List Byte) (h : Memory.wf m = true) :
    Memory.wf (writeBytes m k bs) = true := Machine.wf_writeBytes bs m k h

/-- The state that follows, where one does, has its memory in the canonical form. -/
def Out.Keeps (o : Out) : Prop := ∀ t, o = .next t → Memory.wf t.mem = true

@[simp] theorem Out.keeps_next (t : State) : Out.Keeps (.next t) ↔ Memory.wf t.mem = true := by simp [Out.Keeps]

@[simp] theorem Out.keeps_fault (t : Fault) : Out.Keeps (.fault t) := nofun

@[simp] theorem Out.keeps_refused (t : Refusal) : Out.Keeps (.refused t) := nofun

@[simp] theorem Out.keeps_ite (c : Prop) [Decidable c] (o p : Out) (h : o.Keeps) (k : p.Keeps) : Out.Keeps (if c then o else p) := by
  split <;> assumption

/-! ### Machine/Operands -/

@[simp] theorem State.alu_mem (s : State) (w : CW) (dw : Bool) (f : Nat → W64) : (s.alu w dw f).mem = s.mem := (rfl)

/-! ### Machine/Flags -/

@[simp] theorem State.aluF_mem (s : State) (g : Guard) (d : Opd) (f : Nat → Nat × Nat) : (s.aluF g d f).mem = s.mem := (rfl)

/-! ### Machine/Ops -/

@[simp] theorem State.modWave_mem (s : State) (id : WaveId) (f : Wave → Wave) : (s.modWave id f).mem = s.mem := (modWave_atWaves s id f).mem

@[simp] theorem State.choose_mem (s : State) (n : Nat) : (s.choose n).2.mem = s.mem := (rfl)

@[simp] theorem State.anyWord_mem (s : State) : s.anyWord.2.mem = s.mem := (rfl)

@[simp] theorem State.noteReuse_mem (s : State) (e : Entry) (k n : Nat) : (s.noteReuse e k n).mem = s.mem := (rfl)

@[simp] theorem State.freshSectors_mem (s : State) (k n : Nat) : (s.freshSectors k n).mem = s.mem := (rfl)

@[simp] theorem State.frameSet_wf (s : State) (e : Entry) (ia : Nat) (bs : List Byte) (hm : Memory.wf s.mem = true) :
    Memory.wf (s.frameSet e ia bs).mem = true := by
  unfold State.frameSet
  dsimp only
  (repeat' split) <;> simp [hm]

@[simp] theorem State.egress_mem (s : State) (e : Entry) (ia n : Nat) (write : Option (List Byte)) : (s.egress e ia n write).mem = s.mem := by
  unfold State.egress
  split <;> simp

@[simp] theorem State.framePut_wf (s : State) (e : Entry) (ia : Nat) (bs : List Byte) (hm : Memory.wf s.mem = true) :
    Memory.wf (s.framePut e ia bs).mem = true := by
  unfold State.framePut
  split <;> simp [hm]

@[simp] theorem State.holdReq_mem (s : State) (e : Entry) (r : Req) : (s.holdReq e r).mem = s.mem := by simp [State.holdReq]

theorem State.devWrite_wf {s : State} (hm : Memory.wf s.mem = true) (fn ia : Nat) (bs : List Byte) :
    ∀ t, s.devWrite fn ia bs = some t → Memory.wf t.mem = true := by
  intro t ht
  obtain ⟨e, -, rfl⟩ := Option.map_eq_some_iff.1 ht
  split <;> simp [hm]

@[simp] theorem State.devPut_wf (s : State) (fn ia : Nat) (w : W64) (hm : Memory.wf s.mem = true) :
    Memory.wf (s.devPut fn ia w).mem = true :=
  getD_wf (State.devWrite_wf hm fn ia _) hm

@[simp] theorem State.unfocus_mem (s : State) : s.unfocus.mem = s.mem := (unfocus_atWaves s).mem

@[simp] theorem State.focus_mem (s : State) (id : WaveId) : (s.focus id).mem = s.mem := (focus_atWaves s id).mem

@[simp] theorem State.dueEnd_mem (s : State) (id : WaveId) : (s.dueEnd id).mem = s.mem := (dueEnd_atWaves s id).mem

@[simp] theorem State.haltFocus_mem (s : State) : s.haltFocus.mem = s.mem := (haltFocus_atWaves s).mem

@[simp] theorem State.stall_mem (s : State) : s.stall.mem = s.mem := (stall_atWaves s).mem

@[simp] theorem State.raise_mem (s : State) (fn vec : Nat) : (s.raise fn vec).mem = s.mem := by
  unfold State.raise
  split <;> simp

@[simp] theorem State.addWork_mem (s : State) (id : BlkId) (bytes ops : Nat) : (s.addWork id bytes ops).mem = s.mem := (rfl)

@[simp] theorem State.fatal_mem (s : State) (id : WaveId) : (s.fatal id).mem = s.mem := (fatal_atWaves s id).mem

@[simp] theorem State.takeTrap_mem (s : State) (id : WaveId) (r : TrapRec) : (s.takeTrap id r).mem = s.mem := (takeTrap_atWaves s id r).mem

@[simp] theorem State.trapHere_mem (s : State) (code sub : Nat) (addr aux0 aux1 : W64) (lane : Nat) :
    (s.trapHere code sub addr aux0 aux1 lane).mem = s.mem := (trapHere_atWaves s code sub addr aux0 aux1 lane).mem

@[simp] theorem State.resume_mem (s : State) (id : WaveId) : (s.resume id).mem = s.mem := (resume_atWaves s id).mem

@[simp] theorem State.ctxDead_mem (s : State) (id : WaveId) : (s.ctxDead id).mem = s.mem := (ctxDead_atWaves s id).mem

/-! ### Machine/Issue -/

@[simp] theorem State.fetchWord_mem (s : State) (w : Wave) (va : W64) : (s.fetchWord w va).2.mem = s.mem := by
  unfold State.fetchWord
  dsimp only
  (repeat' split) <;> simp

@[simp] theorem State.fetchWords_mem (s : State) (w : Wave) (va : W64) (n : Nat) : (s.fetchWords w va n).2.mem = s.mem := by
  induction n generalizing s va with
  | zero => rfl
  | succ k ih =>
    have h1 := State.fetchWord_mem s w va
    unfold State.fetchWords
    split
    · next x _ t ht =>
      rw [ht] at h1
      have h2 := ih t (va + 8)
      split <;> next h3 => rw [h3] at h2; exact h2.trans h1
    · simp_all

@[simp] theorem State.notHeader_mem (s : State) (w : Wave) (va : W64) : (s.notHeader w va).2.mem = s.mem := (notHeader_atWaves s w va).mem

@[simp] theorem State.badTarget_mem (s : State) (w : Wave) (ls : List Nat) (tgt : Nat → W64) : (s.badTarget w ls tgt).2.mem = s.mem :=
  (badTarget_atWaves s w ls tgt).mem

@[simp] theorem State.fetchTrap_mem (s : State) (w : Wave) (hva : W64) (lanes : List Nat) (f : Fetched) :
    (s.fetchTrap w hva lanes f).mem = s.mem := (fetchTrap_atWaves s w hva lanes f).mem

@[simp] theorem State.boundary_mem (s : State) (w : Wave) : (s.boundary w).mem = s.mem := (boundary_atWaves s w).mem

@[simp] theorem State.fellTrap_mem (s : State) (w : Wave) (va : W64) (lane ord : Nat) :
    (s.fellTrap w va lane ord).mem = s.mem := (fellTrap_atWaves s w va lane ord).mem

@[simp] theorem State.leave_mem (s : State) (c : Clause) (f : Wave → Wave) (fall : List Nat) :
    (s.leave c f fall).mem = s.mem := (leave_atWaves s c f fall).mem

@[simp] theorem State.retire_mem (s : State) : s.retire.mem = s.mem := (retire_atWaves s).mem

@[simp] theorem State.tally_mem (s t : State) : (s.tally t).mem = t.mem := (tally_atWaves s t).mem

@[simp] theorem State.after_mem (s t : State) : (s.after t).mem = t.mem := (after_atWaves s t).mem

@[simp] theorem State.await_mem (s : State) : s.await_.mem = s.mem := by simp [State.await_]

@[simp] theorem State.checkEnd_mem (s : State) (id : WaveId) : (s.checkEnd id).mem = s.mem := (checkEnd_atWaves s id).mem

/-! ### Machine/Log -/

@[simp] theorem State.bumpSeq_mem (s : State) (ctx opt : Nat) : (s.bumpSeq ctx opt).mem = s.mem := (rfl)

@[simp] theorem State.logLost_mem (s : State) (c : Ctx) (lpkg : Nat) (ia : Nat) : (s.logLost c lpkg ia).mem = s.mem := (rfl)

@[simp] theorem State.logPut_wf (s : State) (ctx lpkg : Nat) (ws : List W64) (hm : Memory.wf s.mem = true) :
    Memory.wf (s.logPut ctx lpkg ws).mem = true := by
  unfold State.logPut
  split
  · exact hm
  split
  · exact hm
  split
  · exact hm
  dsimp only
  split
  · simp [hm]
  · next t ht =>
    rw [Option.ite_none_left_eq_some] at ht
    simp [State.devWrite_wf hm _ _ _ t ht.2]

@[simp] theorem State.logWrite_wf (s : State) (ctx lpkg : Nat) (ws : List W64) (hm : Memory.wf s.mem = true) :
    Memory.wf (s.logWrite ctx lpkg ws).mem = true := by
  unfold State.logWrite
  (repeat' split) <;> simp [hm]

@[simp] theorem State.logClaim_mem (s : State) (ctx lpkg req : Nat) (ws : List W64) : (s.logClaim ctx lpkg req ws).mem = s.mem := (rfl)

@[simp] theorem State.logFill_wf (s : State) (ctx req : Nat) (pay : W64) (hm : Memory.wf s.mem = true) :
    Memory.wf (s.logFill ctx req pay).mem = true := by
  unfold State.logFill
  split
  · exact hm
  split
  · exact hm
  · exact foldl_wf (fun t ws ht => by simp [ht]) _ _ (by simp [hm])

@[simp] theorem State.logExtra_wf (s : State) (ctx lpkg : Nat) (ws : List W64) (hm : Memory.wf s.mem = true) :
    Memory.wf (s.logExtra ctx lpkg ws).mem = true := by
  unfold State.logExtra
  (repeat' split) <;> simp [hm]

@[simp] theorem State.logHiwater_wf (s : State) (ctx lpkg : Nat) (hm : Memory.wf s.mem = true) :
    Memory.wf (s.logHiwater ctx lpkg).mem = true := by
  unfold State.logHiwater
  (repeat' split) <;> simp [hm]

@[simp] theorem State.logSpecial_wf (s : State) (ctx lpkg : Nat) (ws : List W64) (hm : Memory.wf s.mem = true) :
    Memory.wf (s.logSpecial ctx lpkg ws).mem = true := by simp [hm, State.logSpecial]

@[simp] theorem State.logRecord_wf (s : State) (e : LogEv) (late : Option Nat) (pay : W64) (hm : Memory.wf s.mem = true) :
    Memory.wf (s.logRecord e late pay).mem = true := by
  unfold State.logRecord
  split <;> simp [hm]

@[simp] theorem State.unhold_mem (s : State) (ctx : Nat) : (s.unhold ctx).mem = s.mem := (rfl)

@[simp] theorem State.diverge_mem (s : State) (ctx cause : Nat) (r : TrapRec) (obs exp : List W64) :
    (s.diverge ctx cause r obs exp).mem = s.mem := by
  unfold State.diverge
  dsimp only
  (repeat' split) <;> simp

@[simp] theorem State.wantRecs_mem (s : State) (ctx lpkg : Nat) : (s.wantRecs ctx lpkg).mem = s.mem := by
  unfold State.wantRecs
  split <;> simp

@[simp] theorem State.holdAt_mem (s : State) (e : LogEv) (ev : Instr) : (s.holdAt e ev).mem = s.mem := by simp [State.holdAt]

@[simp] theorem State.logConsume_mem (s : State) (e : LogEv) (rec : List W64) : (s.logConsume e rec).mem = s.mem := by simp [State.logConsume]

@[simp] theorem State.comparePay_mem (s : State) (e : LogEv) (seq : Nat) (pay : W64) (rec : List W64) :
    (s.comparePay e seq pay rec).mem = s.mem := by simp [State.comparePay]

@[simp] theorem State.atPointLate_wf (s : State) (e : LogEv) (ev : Instr) (late : Option Nat) (perform : State → State × W64)
    (hp : ∀ t, Memory.wf t.mem = true → Memory.wf (perform t).1.mem = true) (hm : Memory.wf s.mem = true) :
    Memory.wf (s.atPointLate e ev late perform).mem = true := by
  have hp' : Memory.wf (perform { s with held := s.held.filter fun h => h.ev != ev }).1.mem = true := hp _ hm
  unfold State.atPointLate
  dsimp only
  split
  case h_5 rec => cases late <;> simp [hp']
  all_goals simp [hm, hp']

@[simp] theorem State.atPoint_wf (s : State) (e : LogEv) (ev : Instr) (perform : State → State × W64)
    (hp : ∀ t, Memory.wf t.mem = true → Memory.wf (perform t).1.mem = true) (hm : Memory.wf s.mem = true) :
    Memory.wf (s.atPoint e ev perform).mem = true :=
  State.atPointLate_wf s e ev none perform hp hm

@[simp] theorem State.payReturns_wf (s : State) (ctx req : Nat) (pay : W64) (hm : Memory.wf s.mem = true) :
    Memory.wf (s.payReturns ctx req pay).mem = true := by
  unfold State.payReturns
  dsimp only
  (repeat' split) <;> simp [hm]

/-! ### Machine/IntAlu -/

@[simp] theorem State.aluI_mem (s : State) (w : CW) (f : Nat → Int) : (s.aluI w f).mem = s.mem := (rfl)

@[simp] theorem State.addSub_mem (s : State) (w : CW) (sub : Bool) : (s.addSub w sub).mem = s.mem := (rfl)

theorem execIadd_keeps (w : CW) (s : State) (hm : Memory.wf s.mem = true) : Out.Keeps (execIadd w s) := by simp [hm, execIadd]

theorem execIsub_keeps (w : CW) (s : State) (hm : Memory.wf s.mem = true) : Out.Keeps (execIsub w s) := by simp [hm, execIsub]

theorem execImul_keeps (w : CW) (s : State) (hm : Memory.wf s.mem = true) : Out.Keeps (execImul w s) := by simp [hm, execImul]

theorem execImulh_keeps (w : CW) (s : State) (hm : Memory.wf s.mem = true) : Out.Keeps (execImulh w s) := by simp [hm, execImulh]

theorem execImad_keeps (w : CW) (s : State) (hm : Memory.wf s.mem = true) : Out.Keeps (execImad w s) := by simp [hm, execImad]

theorem execImadw_keeps (w : CW) (s : State) (hm : Memory.wf s.mem = true) : Out.Keeps (execImadw w s) := by simp [hm, execImadw]

theorem execImin_keeps (w : CW) (s : State) (hm : Memory.wf s.mem = true) : Out.Keeps (execImin w s) := by simp [hm, execImin]

theorem execImax_keeps (w : CW) (s : State) (hm : Memory.wf s.mem = true) : Out.Keeps (execImax w s) := by simp [hm, execImax]

theorem execIabs_keeps (w : CW) (s : State) (hm : Memory.wf s.mem = true) : Out.Keeps (execIabs w s) := by simp [hm, execIabs]

theorem execIsad_keeps (w : CW) (s : State) (hm : Memory.wf s.mem = true) : Out.Keeps (execIsad w s) := by simp [hm, execIsad]

theorem execIdp4_keeps (w : CW) (s : State) (hm : Memory.wf s.mem = true) : Out.Keeps (execIdp4 w s) := by simp [hm, execIdp4]

theorem execLop3_keeps (w : CW) (s : State) (hm : Memory.wf s.mem = true) : Out.Keeps (execLop3 w s) := by simp [hm, execLop3]

theorem execShl_keeps (w : CW) (s : State) (hm : Memory.wf s.mem = true) : Out.Keeps (execShl w s) := by simp [hm, execShl]

theorem execShr_keeps (w : CW) (s : State) (hm : Memory.wf s.mem = true) : Out.Keeps (execShr w s) := by simp [hm, execShr]

theorem execSar_keeps (w : CW) (s : State) (hm : Memory.wf s.mem = true) : Out.Keeps (execSar w s) := by simp [hm, execSar]

theorem execShf_keeps (w : CW) (s : State) (hm : Memory.wf s.mem = true) : Out.Keeps (execShf w s) := by simp [hm, execShf]

theorem execBfe_keeps (w : CW) (s : State) (hm : Memory.wf s.mem = true) : Out.Keeps (execBfe w s) := by simp [hm, execBfe]

theorem execBfi_keeps (w : CW) (s : State) (hm : Memory.wf s.mem = true) : Out.Keeps (execBfi w s) := by simp [hm, execBfi]

theorem execBrev_keeps (w : CW) (s : State) (hm : Memory.wf s.mem = true) : Out.Keeps (execBrev w s) := by simp [hm, execBrev]

theorem execPopc_keeps (w : CW) (s : State) (hm : Memory.wf s.mem = true) : Out.Keeps (execPopc w s) := by simp [hm, execPopc]

theorem execClz_keeps (w : CW) (s : State) (hm : Memory.wf s.mem = true) : Out.Keeps (execClz w s) := by simp [hm, execClz]

theorem execPrmt_keeps (w : CW) (s : State) (hm : Memory.wf s.mem = true) : Out.Keeps (execPrmt w s) := by simp [hm, execPrmt]

theorem execIset_keeps (w : CW) (s : State) (hm : Memory.wf s.mem = true) : Out.Keeps (execIset w s) := by simp [hm, execIset]

theorem execSel_keeps (w : CW) (s : State) (hm : Memory.wf s.mem = true) : Out.Keeps (execSel w s) := by simp [hm, execSel]

theorem execMov_keeps (w : CW) (s : State) (hm : Memory.wf s.mem = true) : Out.Keeps (execMov w s) := by simp [hm, execMov]

theorem execMovw_keeps (w : MovW) (s : State) (hm : Memory.wf s.mem = true) : Out.Keeps (execMovw w s) := by simp [hm, execMovw]

theorem execRdlane_keeps (w : CW) (s : State) (hm : Memory.wf s.mem = true) : Out.Keeps (execRdlane w s) := by
  unfold execRdlane
  split <;> simp [hm]

theorem execAadd_keeps (w : CW) (s : State) (hm : Memory.wf s.mem = true) : Out.Keeps (execAadd w s) := by simp [hm, execAadd]

theorem execAmad_keeps (w : CW) (s : State) (hm : Memory.wf s.mem = true) : Out.Keeps (execAmad w s) := by simp [hm, execAmad]

theorem execAset_keeps (w : CW) (s : State) (hm : Memory.wf s.mem = true) : Out.Keeps (execAset w s) := by simp [hm, execAset]

theorem execAjoin_keeps (w : CW) (s : State) (hm : Memory.wf s.mem = true) : Out.Keeps (execAjoin w s) := by simp [hm, execAjoin]

theorem execAsplit_keeps (w : CW) (s : State) (hm : Memory.wf s.mem = true) : Out.Keeps (execAsplit w s) := by simp [hm, execAsplit]

/-! ### Machine/FpAlu -/

theorem execFadd_keeps (w : CW) (s : State) (hm : Memory.wf s.mem = true) : Out.Keeps (execFadd w s) := by simp [hm, execFadd]

theorem execFmul_keeps (w : CW) (s : State) (hm : Memory.wf s.mem = true) : Out.Keeps (execFmul w s) := by simp [hm, execFmul]

theorem execFfma_keeps (w : CW) (s : State) (hm : Memory.wf s.mem = true) : Out.Keeps (execFfma w s) := by simp [hm, execFfma]

theorem execFmin_keeps (w : CW) (s : State) (hm : Memory.wf s.mem = true) : Out.Keeps (execFmin w s) := by simp [hm, execFmin]

theorem execFmax_keeps (w : CW) (s : State) (hm : Memory.wf s.mem = true) : Out.Keeps (execFmax w s) := by simp [hm, execFmax]

theorem execFset_keeps (w : CW) (s : State) (hm : Memory.wf s.mem = true) : Out.Keeps (execFset w s) := by simp [hm, execFset]

theorem execFclass_keeps (w : CW) (s : State) (hm : Memory.wf s.mem = true) : Out.Keeps (execFclass w s) := by simp [hm, execFclass]

theorem execFrnd_keeps (w : CW) (s : State) (hm : Memory.wf s.mem = true) : Out.Keeps (execFrnd w s) := by simp [hm, execFrnd]

theorem execFscale_keeps (w : CW) (s : State) (hm : Memory.wf s.mem = true) : Out.Keeps (execFscale w s) := by simp [hm, execFscale]

@[simp] theorem State.specialW_mem (s : State) (w : CW) (f : SpFn) : (s.specialW w f).mem = s.mem := (rfl)

theorem execFrcp_keeps (w : CW) (s : State) (hm : Memory.wf s.mem = true) : Out.Keeps (execFrcp w s) := by simp [hm, execFrcp]

theorem execFrsq_keeps (w : CW) (s : State) (hm : Memory.wf s.mem = true) : Out.Keeps (execFrsq w s) := by simp [hm, execFrsq]

theorem execFsqrt_keeps (w : CW) (s : State) (hm : Memory.wf s.mem = true) : Out.Keeps (execFsqrt w s) := by simp [hm, execFsqrt]

theorem execFexp2_keeps (w : CW) (s : State) (hm : Memory.wf s.mem = true) : Out.Keeps (execFexp2 w s) := by simp [hm, execFexp2]

theorem execFlog2_keeps (w : CW) (s : State) (hm : Memory.wf s.mem = true) : Out.Keeps (execFlog2 w s) := by simp [hm, execFlog2]

theorem execFsin_keeps (w : CW) (s : State) (hm : Memory.wf s.mem = true) : Out.Keeps (execFsin w s) := by simp [hm, execFsin]

theorem execFcos_keeps (w : CW) (s : State) (hm : Memory.wf s.mem = true) : Out.Keeps (execFcos w s) := by simp [hm, execFcos]

theorem execFtanh_keeps (w : CW) (s : State) (hm : Memory.wf s.mem = true) : Out.Keeps (execFtanh w s) := by simp [hm, execFtanh]

theorem execHadd2_keeps (w : CW) (s : State) (hm : Memory.wf s.mem = true) : Out.Keeps (execHadd2 w s) := by simp [hm, execHadd2]

theorem execHmul2_keeps (w : CW) (s : State) (hm : Memory.wf s.mem = true) : Out.Keeps (execHmul2 w s) := by simp [hm, execHmul2]

theorem execHfma2_keeps (w : CW) (s : State) (hm : Memory.wf s.mem = true) : Out.Keeps (execHfma2 w s) := by simp [hm, execHfma2]

theorem execHmnmx2_keeps (w : CW) (s : State) (hm : Memory.wf s.mem = true) : Out.Keeps (execHmnmx2 w s) := by simp [hm, execHmnmx2]

theorem execHset2_keeps (w : CW) (s : State) (hm : Memory.wf s.mem = true) : Out.Keeps (execHset2 w s) := by simp [hm, execHset2]

theorem execCvt_keeps (w : CvtW) (s : State) (hm : Memory.wf s.mem = true) : Out.Keeps (execCvt w s) := by simp [hm, execCvt]

theorem execCvtsr_keeps (w : CW) (s : State) (hm : Memory.wf s.mem = true) : Out.Keeps (execCvtsr w s) := by simp [hm, execCvtsr]

theorem execPack2_keeps (w : CW) (s : State) (hm : Memory.wf s.mem = true) : Out.Keeps (execPack2 w s) := by simp [hm, execPack2]

theorem execQuant_keeps (w : CW) (s : State) (hm : Memory.wf s.mem = true) : Out.Keeps (execQuant w s) := by simp [hm, execQuant]

theorem execDeq_keeps (w : CW) (s : State) (hm : Memory.wf s.mem = true) : Out.Keeps (execDeq w s) := by simp [hm, execDeq]

/-! ### Machine/Access -/

@[simp] theorem State.postInc_mem (s : State) (w : MW) (weak : Bool) : (s.postInc w weak).mem = s.mem := by
  unfold State.postInc
  split <;> simp

@[simp] theorem State.laneTrap_mem (s : State) (e : LaneErr) (l : Nat) (a m : W64) : (s.laneTrap e l a m).mem = s.mem := by
  unfold State.laneTrap
  split <;> simp

@[simp] theorem State.acquireBump_mem (s : State) (ctx : Nat) (c : CoreId) (sc : Scope) :
    (s.acquireBump ctx c sc).mem = s.mem := (acquireBump_atOps s ctx c sc).mem

@[simp] theorem State.makeRoom_mem (s : State) (pkg die slice : Nat) (keep : List Nat) : (s.makeRoom pkg die slice keep).mem = s.mem := by
  unfold State.makeRoom
  dsimp only
  (repeat' split) <;> simp

@[simp] theorem State.moveLine_mem (s : State) (pkg die ia region : Nat) : (s.moveLine pkg die ia region).mem = s.mem := by
  unfold State.moveLine
  dsimp only
  (repeat' split) <;> simp

@[simp] theorem State.routeLine_mem (s : State) (c : CoreId) (ia : Nat) : (s.routeLine c ia).mem = s.mem := by
  unfold State.routeLine
  split <;> simp

@[simp] theorem State.pinDrop_mem (s : State) (ctx : Nat) : (s.pinDrop ctx).mem = s.mem := (rfl)

@[simp] theorem State.pinHome_mem (s : State) (ctx : Nat) (h : HomeId) (ia : Nat) : (s.pinHome ctx h ia).mem = s.mem := by
  unfold State.pinHome
  split <;> simp

@[simp] theorem State.pinCopy_mem (s : State) (ctx pkg die ia : Nat) : (s.pinCopy ctx pkg die ia).mem = s.mem := by
  unfold State.pinCopy
  split <;> simp

@[simp] theorem State.victim_mem (s : State) (room : Nat) (ls : List Line) : (s.victim room ls).2.mem = s.mem := by
  unfold State.victim
  dsimp only
  (repeat' split) <;> simp

@[simp] theorem State.allocL1_mem (s : State) (c : CoreId) (ia ctx gen : Nat) (d : List Byte) : (s.allocL1 c ia ctx gen d).mem = s.mem := by
  unfold State.allocL1
  dsimp only
  (repeat' split) <;> simp

@[simp] theorem State.allocL2_mem (s : State) (pkg die ia ctx gen : Nat) (d : List Byte) (strm : Bool) :
    (s.allocL2 pkg die ia ctx gen d strm).mem = s.mem := by
  unfold State.allocL2
  split <;> simp

@[simp] theorem State.sendBufs_mem (s : State) (c : CoreId) (p : WcBuf → Bool) : (s.sendBufs c p).mem = s.mem := by
  unfold State.sendBufs
  split <;> simp

@[simp] theorem State.wcStore_mem (s : State) (c : CoreId) (ctx : Nat) (h : HomeId) (ia : Nat) (op : Nat) (bs : List Byte) :
    (s.wcStore c ctx h ia op bs).mem = s.mem := by
  unfold State.wcStore
  dsimp only
  (repeat' split) <;> simp

@[simp] theorem State.wcMeet_mem (s : State) (c : CoreId) (ias : List Nat) : (s.wcMeet c ias).mem = s.mem := by simp [State.wcMeet]

@[simp] theorem State.unwait_mem (s : State) (id : Nat) : (s.unwait id).mem = s.mem := (unwait_atOps s id).mem

@[simp] theorem State.defer_mem (s : State) (id : WaveId) (waits : List Nat) (evs : List Instr) :
    (s.defer id waits evs).mem = s.mem := by simp [State.defer]

@[simp] theorem State.sendAll_mem (s : State) (id : WaveId) : (s.sendAll id).mem = s.mem := by
  unfold State.sendAll
  split <;> simp

@[simp] theorem State.release_mem (s : State) (id : WaveId) (except_ : Nat) (evs : List Instr) :
    (s.release id except_ evs).mem = s.mem := by simp [State.release]

/-! ### Machine/Inputs -/

@[simp] theorem State.wordError_mem (s : State) (id : WaveId) : (s.wordError id).mem = s.mem := by
  unfold State.wordError
  split <;> simp

@[simp] theorem State.ownerRecord_mem (s : State) (e : Entry) (det ia : Nat) : (s.ownerRecord e det ia).mem = s.mem := (rfl)

@[simp] theorem State.poisonAt_mem (s : State) (sector : Nat) : (s.poisonAt sector).mem = s.mem := by simp [State.poisonAt]

@[simp] theorem State.lineError_mem (s : State) (h : HomeId) (ia : Nat) : (s.lineError h ia).mem = s.mem := by
  unfold State.lineError
  (repeat' split) <;> simp

@[simp] theorem State.copyError_mem (s : State) (pkg die : Nat) (core : Option Nat) (ia : Nat) : (s.copyError pkg die core ia).mem = s.mem := by
  unfold State.copyError
  split <;> simp

@[simp] theorem State.bar0Read_mem (s : State) (fn off tag : Nat) : (s.bar0Read fn off tag).mem = s.mem := by
  unfold State.bar0Read
  split <;> simp

@[simp] theorem State.bar4Write_mem (s : State) (fn off : Nat) (v : W32) : (s.bar4Write fn off v).mem = s.mem := by
  unfold State.bar4Write
  split <;> simp

@[simp] theorem State.bar4Read_mem (s : State) (fn off tag : Nat) : (s.bar4Read fn off tag).mem = s.mem := by
  unfold State.bar4Read
  split <;> simp

@[simp] theorem State.input_mem (s : State) (i : Input) : (s.input i).mem = s.mem := by
  unfold State.input
  split <;> simp

/-! ### Machine/Control -/

@[simp] theorem State.branch_mem (s : State) (g : Guard) (link : Bool) (tgt : Clause → Nat → W64) : (s.branch g link tgt).mem = s.mem := by
  unfold State.branch
  split
  · rfl
  · next c hc =>
    have h := State.badTarget_mem s s.wave (s.wave.part g) (tgt c)
    dsimp only
    split <;> simp_all

theorem execBra_keeps (g : Guard) (off : W32) (s : State) (hm : Memory.wf s.mem = true) : Out.Keeps (execBra g off s) := by simp [hm, execBra]

theorem execBrx_keeps (g : Guard) (a : Opd) (s : State) (hm : Memory.wf s.mem = true) : Out.Keeps (execBrx g a s) := by simp [hm, execBrx]

theorem execCall_keeps (g : Guard) (off : W32) (s : State) (hm : Memory.wf s.mem = true) : Out.Keeps (execCall g off s) := by simp [hm, execCall]

theorem execCallx_keeps (g : Guard) (a : Opd) (s : State) (hm : Memory.wf s.mem = true) : Out.Keeps (execCallx g a s) := by simp [hm, execCallx]

theorem execRet_keeps (g : Guard) (s : State) (hm : Memory.wf s.mem = true) : Out.Keeps (execRet g s) := by simp [hm, execRet]

@[simp] theorem State.meetLanes_mem (s : State) (g : Guard) (f : Wave → Nat → Wave) : (s.meetLanes g f).mem = s.mem := (rfl)

theorem execMeet_keeps (g : Guard) (off : W32) (s : State) (hm : Memory.wf s.mem = true) : Out.Keeps (execMeet g off s) := by simp [hm, execMeet]

theorem execMeets_keeps (g : Guard) (off : W32) (s : State) (hm : Memory.wf s.mem = true) : Out.Keeps (execMeets g off s) := by
  unfold execMeets
  dsimp only
  (repeat' split) <;> simp [hm]

theorem execMeetl_keeps (g : Guard) (s : State) (hm : Memory.wf s.mem = true) : Out.Keeps (execMeetl g s) := by simp [hm, execMeetl]

theorem execExit_keeps (g : Guard) (s : State) (hm : Memory.wf s.mem = true) : Out.Keeps (execExit g s) := by
  unfold execExit
  split <;> simp [hm]

theorem execYield_keeps (_g : Guard) (s : State) (hm : Memory.wf s.mem = true) : Out.Keeps (execYield _g s) := by
  unfold execYield
  split <;> simp [hm]

theorem execNop_keeps (_g : Guard) (s : State) (hm : Memory.wf s.mem = true) : Out.Keeps (execNop _g s) := by simp [hm, execNop]

/-! ### Machine/Complete -/

@[simp] theorem State.pick_mem (s : State) (ks : List Nat) : (s.pick ks).2.mem = s.mem := (rfl)

@[simp] theorem State.writeEarly_mem (s : State) (id : Nat) : (s.writeEarly id).mem = s.mem := (writeEarly_atOps s id).mem

@[simp] theorem State.finishOp_mem (s : State) (id : Nat) : (s.finishOp id).mem = s.mem := (finishOp_atOps s id).mem

@[simp] theorem State.answer_mem (s : State) (id l pos : Nat) (bs : List Byte) :
    (s.answer id l pos bs).mem = s.mem := (answer_atOps s id l pos bs).mem

@[simp] theorem State.endWatches_mem (s : State) (id : Nat) : (s.endWatches id).mem = s.mem := (endWatches_atOps s id).mem

@[simp] theorem State.refusePiece_mem (s : State) (id l ia : Nat) (e : HomeErr) :
    (s.refusePiece id l ia e).mem = s.mem := (refusePiece_atOps s id l ia e).mem

@[simp] theorem State.dropOp_mem (s : State) (id : Nat) : (s.dropOp id).mem = s.mem := (dropOp_atOps s id).mem

@[simp] theorem State.dropDeferred_mem (s : State) (w : WaveId) : (s.dropDeferred w).mem = s.mem := (dropDeferred_atOps s w).mem

@[simp] theorem State.opFault_mem (s : State) (o : Op) (r : TrapRec) : (s.opFault o r).mem = s.mem := (opFault_atOps s o r).mem

@[simp] theorem State.complete_mem (s : State) (o : Op) : (s.complete o).mem = s.mem := (complete_atOps s o).mem

@[simp] theorem State.flagDone_mem (s : State) (id : Nat) : (s.flagDone id).mem = s.mem := (flagDone_atOps s id).mem

@[simp] theorem State.storeDone_mem (s : State) (id : Nat) : (s.storeDone id).mem = s.mem := (storeDone_atOps s id).mem

theorem execWeakStoreError_keeps (id : Nat) (e : HomeErr) (ia : Nat) (s : State) (hm : Memory.wf s.mem = true) :
    Out.Keeps (execWeakStoreError id e ia s) := by
  unfold execWeakStoreError
  split <;> simp [hm]

/-! ### Machine/HomePath -/

@[simp] theorem State.answerWatch_mem (s : State) (x : Watch) (w : W64) : (s.answerWatch x w).mem = s.mem := by
  unfold State.answerWatch
  split <;> simp

@[simp] theorem State.wake_mem (s : State) (kind : Watcher → Bool) (key : Nat) (w : W64) : (s.wake kind key w).mem = s.mem := by simp [State.wake]

@[simp] theorem State.wakeAwaits_mem (s : State) (key : Nat) (w : W64) : (s.wakeAwaits key w).mem = s.mem := by simp [State.wakeAwaits]

@[simp] theorem State.wakeCwaits_mem (s : State) (key : Nat) (v : W64) : (s.wakeCwaits key v).mem = s.mem := by simp [State.wakeCwaits]

@[simp] theorem State.kickRefill_mem (s : State) (c : CoreId) : (s.kickRefill c).mem = s.mem := by
  unfold State.kickRefill
  split <;> simp

@[simp] theorem State.kickRefills_mem (s : State) (pkg : Nat) : (s.kickRefills pkg).mem = s.mem := by
  unfold State.kickRefills
  split <;> simp

@[simp] theorem State.askThief_mem (s : State) (pkg die : Nat) (may : CoreId → Bool) : (s.askThief pkg die may).mem = s.mem := by
  unfold State.askThief
  (repeat' split) <;> simp

@[simp] theorem State.kickTask_mem (s : State) (c : CoreId) : (s.kickTask c).mem = s.mem := by
  unfold State.kickTask
  split <;> simp

@[simp] theorem State.kickReplay_mem (s : State) (ctx : Nat) : (s.kickReplay ctx).mem = s.mem := by
  unfold State.kickReplay
  split <;> simp

theorem State.pushTask_mem (s : State) (c : CoreId) (t : TaskRec) : ∀ x, s.pushTask c t = some x → x.2.mem = s.mem := by
  unfold State.pushTask
  (repeat' split) <;> simp

@[simp] theorem State.setCtr_mem (s : State) (p : Parked) (k : Nat) : (s.setCtr p k).mem = s.mem := (rfl)

@[simp] theorem State.readyTask_mem (s : State) (p : Parked) : (s.readyTask p).mem = s.mem := by
  unfold State.readyTask
  dsimp only
  split
  · simp
  split
  · split <;> simp
  split
  · next t ht => simpa using State.pushTask_mem _ _ _ _ ht
  · simp

@[simp] theorem State.watchTask_mem (s : State) (p : Parked) (n k : Nat) : (s.watchTask p n k).mem = s.mem := by
  induction n generalizing k with
  | zero => simp [State.watchTask]
  | succ m ih =>
    unfold State.watchTask
    dsimp only
    split
    · exact ih _
    split
    · simp
    split
    · exact ih _
    · simp

@[simp] theorem State.retryParked_mem (s : State) (mine : Parked → Bool) : (s.retryParked mine).mem = s.mem := by simp [State.retryParked]

@[simp] theorem State.retryReady_mem (s : State) (pkg : Nat) : (s.retryReady pkg).mem = s.mem := by simp [State.retryReady]

@[simp] theorem State.retryHeld_mem (s : State) : s.retryHeld.mem = s.mem := by simp [State.retryHeld]

@[simp] theorem State.wakeTasks_mem (s : State) (key : Nat) : (s.wakeTasks key).mem = s.mem := by
  refine (foldl_mem (fun t x => ?_) _ _).trans rfl
  (repeat' split) <;> simp

@[simp] theorem State.noteCode_mem (s : State) (e : Entry) (ia n : Nat) : (s.noteCode e ia n).mem = s.mem := by simp [State.noteCode]

@[simp] theorem State.frameWrite_wf (s : State) (e : Entry) (ia : Nat) (bs : List Byte) (hm : Memory.wf s.mem = true) :
    Memory.wf (s.frameWrite e ia bs).mem = true := by simp [hm, State.frameWrite]

@[simp] theorem State.portRead_mem (s : State) (e : Entry) (ia n : Nat) : (s.portRead e ia n).mem = s.mem := by simp [State.portRead]

@[simp] theorem State.sendAtomic_wf (s : State) (e : Entry) (ia k : Nat) (d d2 bs : List Byte) (changes : Bool) (hm : Memory.wf s.mem = true) :
    Memory.wf (s.sendAtomic e ia k d d2 bs changes).mem = true := by
  unfold State.sendAtomic
  split <;> simp [hm]

@[simp] theorem State.reqWrite_wf (s : State) (e : Entry) (r : Req) (bs : List Byte) (changes : Bool) (hm : Memory.wf s.mem = true) :
    Memory.wf (s.reqWrite e r bs changes).mem = true := by
  unfold State.reqWrite
  split
  · simp [hm]
  · dsimp only
    split
    · exact foldl_wf (fun t p ht => by simp [ht]) _ _ (by simp [hm])
    · simp [hm]

@[simp] theorem State.reqEffect_mem (s : State) (r : Req) (key : Nat) (old new : List Byte) (fl : Nat) :
    (s.reqEffect r key old new fl).mem = s.mem := by
  unfold State.reqEffect
  (repeat' split) <;> simp

@[simp] theorem State.reqDone_mem (s : State) (r : Req) (key : Nat) (old new : List Byte) (fl : Nat) :
    (s.reqDone r key old new fl).mem = s.mem := by simp [State.reqDone]

theorem State.waitRead_mem (s : State) (r : Req) (key : Nat) (old : List Byte) : ∀ t, s.waitRead r key old = some t → t.mem = s.mem := by
  unfold State.waitRead
  dsimp only
  (repeat' split) <;> simp

@[simp] theorem State.scrWrite_mem (s : State) (b : BlkId) (off : Nat) (bs : List Byte) : (s.scrWrite b off bs).mem = s.mem := (rfl)

@[simp] theorem State.publish_mem (s : State) (b : BlkId) (v : Nat) (w : WaveId) (ord : Nat) : (s.publish b v w ord).mem = s.mem := by
  unfold State.publish
  split <;> simp

theorem State.scrStore_mem (s : State) (b : BlkId) (off : Nat) (bs : List Byte) (w : WaveId) (ord : Nat) :
    ∀ t, s.scrStore b off bs w ord = .ok t → t.mem = s.mem := by
  unfold State.scrStore
  dsimp only
  (repeat' split) <;> simp

@[simp] theorem State.dropCopies_mem (s : State) (r : Req) : (s.dropCopies r).mem = s.mem := (rfl)

@[simp] theorem State.unshow_mem (s : State) (r : Req) : (s.unshow r).mem = s.mem := by simp [State.unshow]

@[simp] theorem State.lapse_mem (s : State) (r : Req) : (s.lapse r).mem = s.mem := by simp [State.lapse]

@[simp] theorem State.scrAccess_wf (s : State) (ev : Instr) (r : Req) (hm : Memory.wf s.mem = true) : Memory.wf (s.scrAccess ev r).mem = true := by
  unfold State.scrAccess
  split
  · simp [hm]
  next b hb =>
  extract_lets lp old x perform
  have hp : ∀ t, Memory.wf t.mem = true → Memory.wf (perform t).1.mem = true := by
    intro t ht
    have hu : ∀ n d (u : State), (if r.kind.writes then t.scrStore b.id n d r.wave r.ord else .ok t) = .ok u → u.mem = t.mem := by
      intro n d u hu
      split at hu
      · exact State.scrStore_mem _ _ _ _ _ _ _ hu
      · cases hu
        rfl
    dsimp only [perform]
    split
    · next h => simp [hu _ _ _ h, ht]
    · simp [ht]
  split
  · simp [hm]
  · next t ht => simp [State.waitRead_mem _ _ _ _ _ ht, hm]
  · split
    · exact State.atPoint_wf _ _ _ _ hp hm
    · exact hp s hm

@[simp] theorem State.fillL1_mem (s : State) (r : Req) (d : List Byte) : (s.fillL1 r d).mem = s.mem := by simp [State.fillL1]

@[simp] theorem State.putCopies_mem (s : State) (c : CoreId) (ia : Nat) (bs : List Byte) : (s.putCopies c ia bs).mem = s.mem := (rfl)

@[simp] theorem State.updCopies_mem (s : State) (r : Req) (bs : List Byte) : (s.updCopies r bs).mem = s.mem := (rfl)

@[simp] theorem State.seenL1_mem (s : State) (r : Req) (bs : List Byte) : (s.seenL1 r bs).mem = s.mem := (rfl)

@[simp] theorem State.seen_mem (s : State) (r : Req) (bs : List Byte) : (s.seen r bs).mem = s.mem := (rfl)

@[simp] theorem State.pinFor_mem (s : State) (r : Req) : (s.pinFor r).mem = s.mem := by simp [State.pinFor]

@[simp] theorem State.receive_mem (s : State) (r : Req) : (s.receive r).2.mem = s.mem := by simp [State.receive]

@[simp] theorem State.atL2_mem (s : State) (r : Req) : (s.atL2 r).mem = s.mem := by
  unfold State.atL2
  dsimp only
  (repeat' split) <;> simp

theorem execL2Request_keeps (r : Req) (s : State) (hm : Memory.wf s.mem = true) : Out.Keeps (execL2Request r s) := by
  unfold execL2Request
  split <;> simp [hm]

@[simp] theorem State.fillCopies_mem (s : State) (r : Req) (e : Entry) : (s.fillCopies r e).mem = s.mem := by simp [State.fillCopies]

@[simp] theorem State.copiesAfter_mem (s : State) (r : Req) (old : List Byte) : (s.copiesAfter r old).mem = s.mem := by
  unfold State.copiesAfter
  split <;> simp

theorem State.homeServe_wf (s : State) (r : Req) (e : Entry) (hm : Memory.wf s.mem = true) : Memory.wf (s.homeServe r e).1.mem = true := by
  unfold State.homeServe
  dsimp only
  split <;> simp [hm]

@[simp] theorem State.homeRefuse_mem (s : State) (r q : Req) (e : HomeErr) : (s.homeRefuse r q e).mem = s.mem := by simp [State.homeRefuse]

@[simp] theorem State.homeOne_wf (s : State) (ev : Instr) (r : Req) (hm : Memory.wf s.mem = true) : Memory.wf (s.homeOne ev r).mem = true := by
  unfold State.homeOne
  split
  · simp [hm]
  split
  · exact hm
  next e he =>
  split
  · next t ht => simp [State.waitRead_mem _ _ _ _ _ ht, hm]
  · split
    · exact State.atPointLate_wf _ _ _ _ _ (fun t => State.homeServe_wf t r e) hm
    · exact State.homeServe_wf s r e hm

@[simp] theorem State.takeReqs_mem (s : State) (qs : List Req) : (s.takeReqs qs).mem = s.mem := (rfl)

@[simp] theorem State.reqArrive_wf (s : State) (r : Req) (hm : Memory.wf s.mem = true) : Memory.wf (s.reqArrive r).mem = true := by
  unfold State.reqArrive
  dsimp only
  split
  · simp [hm]
  split
  · split
    · simp [hm]
    · exact foldl_wf (fun t q ht => by simp [ht]) _ _ (by simp [hm])
  split
  · simp [hm]
  split
  · simp [hm]
  · exact foldl_wf (fun t q ht => by simp [ht]) _ _ (by simp [hm])

theorem execHomeAccess_keeps (r : Req) (s : State) (hm : Memory.wf s.mem = true) : Out.Keeps (execHomeAccess r s) := by simp [hm, execHomeAccess]

theorem execArvPerform_keeps (r : Req) (s : State) (hm : Memory.wf s.mem = true) : Out.Keeps (execArvPerform r s) := by simp [hm, execArvPerform]

theorem execCounterSignalPerform_keeps (r : Req) (s : State) (hm : Memory.wf s.mem = true) :
    Out.Keeps (execCounterSignalPerform r s) := by simp [hm, execCounterSignalPerform]

theorem execReadCompletionReturns_keeps (r : Req) (s : State) (hm : Memory.wf s.mem = true) : Out.Keeps (execReadCompletionReturns r s) := by
  unfold execReadCompletionReturns
  (repeat' split) <;> simp [hm]

@[simp] theorem State.drainPut_wf (s : State) (c : CoreId) (b : WcBuf) (e : Entry) (hm : Memory.wf s.mem = true) :
    Memory.wf (s.drainPut c b e).mem = true := by
  unfold State.drainPut
  dsimp only
  refine foldl_wf (fun t o ht => ?_) _ _ ?_
  · split <;> simp [ht]
  rw [foldl_mem (fun _ _ => by simp)]
  simp only [ite_mem, State.modCore_mem, State.modDie_mem, State.modEntry_mem, ite_self]
  rw [foldl_mem (fun _ _ => by split <;> simp)]
  exact foldl_wf (fun t o ht => by simp [ht]) _ _ hm

@[simp] theorem State.drainRefuse_mem (s : State) (c : CoreId) (b : WcBuf) (e : HomeErr) :
    (s.drainRefuse c b e).mem = s.mem := by simp [State.drainRefuse]

@[simp] theorem State.drainBuf_wf (s : State) (c : CoreId) (line : Nat) (hm : Memory.wf s.mem = true) :
    Memory.wf (s.drainBuf c line).mem = true := by
  unfold State.drainBuf
  (repeat' split) <;> simp [hm]

theorem execWcBufferDrain_keeps (c : CoreId) (line : Nat) (s : State) (hm : Memory.wf s.mem = true) :
    Out.Keeps (execWcBufferDrain c line s) := by simp [hm, execWcBufferDrain]

/-! ### Machine/LaneAlu -/

theorem execPlop_keeps (w : CW) (s : State) (hm : Memory.wf s.mem = true) : Out.Keeps (execPlop w s) := by simp [hm, execPlop]

theorem execPpack_keeps (w : CW) (s : State) (hm : Memory.wf s.mem = true) : Out.Keeps (execPpack w s) := by simp [hm, execPpack]

theorem execPunpack_keeps (w : CW) (s : State) (hm : Memory.wf s.mem = true) : Out.Keeps (execPunpack w s) := by simp [hm, execPunpack]

theorem execShfl_keeps (w : CW) (s : State) (hm : Memory.wf s.mem = true) : Out.Keeps (execShfl w s) := by simp [hm, execShfl]

theorem execVote_keeps (w : CW) (s : State) (hm : Memory.wf s.mem = true) : Out.Keeps (execVote w s) := by simp [hm, execVote]

theorem execBallot_keeps (w : CW) (s : State) (hm : Memory.wf s.mem = true) : Out.Keeps (execBallot w s) := by simp [hm, execBallot]

theorem execMatchw_keeps (w : CW) (s : State) (hm : Memory.wf s.mem = true) : Out.Keeps (execMatchw w s) := by simp [hm, execMatchw]

theorem execRedux_keeps (w : CW) (s : State) (hm : Memory.wf s.mem = true) : Out.Keeps (execRedux w s) := by
  unfold execRedux
  dsimp only
  (repeat' split) <;> simp [hm]

theorem execScan_keeps (w : CW) (s : State) (hm : Memory.wf s.mem = true) : Out.Keeps (execScan w s) := by simp [hm, execScan]

theorem execReduxi_keeps (w : CW) (s : State) (hm : Memory.wf s.mem = true) : Out.Keeps (execReduxi w s) := by
  unfold execReduxi
  split <;> simp [hm]

/-! ### Machine/MemInstr -/

@[simp] theorem State.memTrap_mem (s : State) (m : MemSpec) (errs : List (Nat × LaneErr)) : (s.memTrap m errs).mem = s.mem := by
  unfold State.memTrap
  split <;> simp

@[simp] theorem State.newOp_mem (s : State) (m : MemSpec) (ok : List Nat) (bad : List Nat) (left : Nat) (pol : Policy) :
    (s.newOp m ok bad left pol).2.mem = s.mem := (rfl)

@[simp] theorem State.send_mem (s : State) (r : Req) (e : Req → Instr) : (s.send r e).mem = s.mem := (rfl)

@[simp] theorem State.fill_mem (s : State) (id l pos : Nat) (bs : List Byte) : (s.fill id l pos bs).mem = s.mem := (rfl)

@[simp] theorem State.loadPiece_mem (s : State) (m : MemSpec) (id l : Nat) (p : Piece) : (s.loadPiece m id l p).mem = s.mem := by
  unfold State.loadPiece
  dsimp only
  (repeat' split) <;> simp

theorem State.storePiece_mem (s : State) (m : MemSpec) (id l : Nat) (p : Piece) : ∀ t, s.storePiece m id l p = .ok t → t.mem = s.mem := by
  unfold State.storePiece
  dsimp only
  split
  · split
    · simp
    split
    · simp
    · intro t ht
      cases hu : s.scrStore _ _ (s.pieceReq m id l p).data s.wave.id s.wave.ordinal with
      | error v =>
        rw [hu] at ht
        cases ht
      | ok u =>
        rw [hu] at ht
        cases ht
        simpa using State.scrStore_mem _ _ _ _ _ _ _ hu
  · split <;> simp

@[simp] theorem State.sendStrong_wf (s : State) (r : Req) (hm : Memory.wf s.mem = true) : Memory.wf (s.sendStrong r).mem = true := by
  unfold State.sendStrong
  (repeat' split) <;> simp [hm]

@[simp] theorem State.issued_mem (s : State) (m : MemSpec) : (s.issued m).mem = s.mem := by
  unfold State.issued
  split <;> simp

@[simp] theorem State.settleOp_mem (s : State) (id : Nat) : (s.settleOp id).mem = s.mem := by
  unfold State.settleOp
  (repeat' split) <;> simp

theorem storePieces_mem (m : MemSpec) (id : Nat) (ps : List (Nat × Piece)) (x : Except W64 State) :
    ∀ t, ps.foldl (fun (acc : Except W64 State) p => acc.bind fun s => s.storePiece m id p.1 p.2) x = .ok t→
      ∃ s, x = .ok s ∧ t.mem = s.mem := by
  induction ps generalizing x with
  | nil => exact fun t ht => ⟨t, ht, rfl⟩
  | cons p r ih =>
    intro t ht
    obtain ⟨u, hu, he⟩ := ih _ t ht
    cases x with
    | error v => cases hu
    | ok s => exact ⟨s, rfl, he.trans (State.storePiece_mem _ _ _ _ _ _ hu)⟩

@[simp] theorem State.weakStore_mem (s : State) (m : MemSpec) (ok bad : List Nat) (ps : List (Nat × Piece)) :
    (s.weakStore m ok bad ps).mem = s.mem := by
  unfold State.weakStore
  extract_lets pol
  split
  next id t hn =>
  have h1 : t.mem = s.mem := by simpa [hn] using State.newOp_mem s m ok bad ps.length pol
  split
  · simp
  · next u hu =>
    obtain ⟨v, hv, he⟩ := storePieces_mem _ _ _ _ _ hu
    cases hv
    simp [he, h1]

@[simp] theorem State.weakLoad_mem (s : State) (m : MemSpec) (ok bad : List Nat) (ps : List (Nat × Piece)) :
    (s.weakLoad m ok bad ps).mem = s.mem := by simp [State.weakLoad]

@[simp] theorem State.strongAccess_wf (s : State) (m : MemSpec) (ok bad : List Nat) (ps : List (Nat × Piece)) (hm : Memory.wf s.mem = true) :
    Memory.wf (s.strongAccess m ok bad ps).mem = true := by
  unfold State.strongAccess
  split
  next id t hn =>
  have h1 : t.mem = s.mem := by simpa [hn] using State.newOp_mem s m ok bad ps.length .nc
  simp only [State.settleOp_mem, ite_mem, State.defer_mem]
  split
  · exact foldl_wf (fun t q ht => by simp [ht]) _ _ (by simp [h1, hm])
  · simp [h1, hm]

@[simp] theorem State.memWord_wf (s : State) (m : MemSpec) (hm : Memory.wf s.mem = true) : Memory.wf (s.memWord m).mem = true := by
  unfold State.memWord
  dsimp only
  (repeat' split) <;> simp [hm]

theorem execLd_keeps (w : MW) (s : State) (hm : Memory.wf s.mem = true) : Out.Keeps (execLd w s) := by simp [hm, execLd]

theorem execSt_keeps (w : MW) (s : State) (hm : Memory.wf s.mem = true) : Out.Keeps (execSt w s) := by simp [hm, execSt]

theorem execLdq_keeps (w : MW) (s : State) (hm : Memory.wf s.mem = true) : Out.Keeps (execLdq w s) := by simp [hm, execLdq]

theorem execStq_keeps (w : MW) (s : State) (hm : Memory.wf s.mem = true) : Out.Keeps (execStq w s) := by simp [hm, execStq]

theorem execLdc_keeps (w : MW) (s : State) (hm : Memory.wf s.mem = true) : Out.Keeps (execLdc w s) := by simp [hm, execLdc]

theorem execLda_keeps (w : MW) (s : State) (hm : Memory.wf s.mem = true) : Out.Keeps (execLda w s) := by simp [hm, execLda]

theorem execStl_keeps (w : MW) (s : State) (hm : Memory.wf s.mem = true) : Out.Keeps (execStl w s) := by simp [hm, execStl]

theorem execAtom_keeps (w : MW) (s : State) (hm : Memory.wf s.mem = true) : Out.Keeps (execAtom w s) := by simp [hm, execAtom]

theorem execCas_keeps (w : MW) (s : State) (hm : Memory.wf s.mem = true) : Out.Keeps (execCas w s) := by simp [hm, execCas]

theorem execAtomf_keeps (w : MW) (s : State) (hm : Memory.wf s.mem = true) : Out.Keeps (execAtomf w s) := by simp [hm, execAtomf]

theorem execRed_keeps (w : MW) (s : State) (hm : Memory.wf s.mem = true) : Out.Keeps (execRed w s) := by simp [hm, execRed]

theorem execArv_keeps (w : MW) (s : State) (hm : Memory.wf s.mem = true) : Out.Keeps (execArv w s) := by simp [hm, execArv]

theorem execAwait_keeps (w : MW) (s : State) (hm : Memory.wf s.mem = true) : Out.Keeps (execAwait w s) := by simp [hm, execAwait]

theorem execFence_keeps (w : MW) (s : State) (hm : Memory.wf s.mem = true) : Out.Keeps (execFence w s) := by simp [hm, execFence]

theorem execPref_keeps (w : MW) (s : State) (hm : Memory.wf s.mem = true) : Out.Keeps (execPref w s) := by simp [hm, execPref]

theorem execCctlInv_keeps (w : MW) (s : State) (hm : Memory.wf s.mem = true) : Out.Keeps (execCctlInv w s) :=
  (Out.keeps_next _).2 (foldl_wf (fun _ _ ht => by exact ht) _ _ hm)

theorem execCctlUnpin_keeps (w : MW) (s : State) (hm : Memory.wf s.mem = true) : Out.Keeps (execCctlUnpin w s) :=
  (Out.keeps_next _).2 (foldl_wf (fun _ _ ht => by exact ht) _ _ hm)

theorem State.cctlWave_wf {s : State} (hm : Memory.wf s.mem = true) (w : MW) (f : State → State) (hf : ∀ t, (f t).mem = t.mem) :
    Memory.wf (s.cctlWave w f).mem = true := by
  unfold State.cctlWave
  split
  · exact hm
  · rwa [hf]

theorem execCctlInvl1_keeps (w : MW) (s : State) (hm : Memory.wf s.mem = true) : Out.Keeps (execCctlInvl1 w s) :=
  (Out.keeps_next _).2 (State.cctlWave_wf hm _ _ fun _ => rfl)

theorem execCctlInvdie_keeps (w : MW) (s : State) (hm : Memory.wf s.mem = true) : Out.Keeps (execCctlInvdie w s) :=
  (Out.keeps_next _).2 (State.cctlWave_wf hm _ _ fun _ => rfl)

theorem execCctlIinv_keeps (w : MW) (s : State) (hm : Memory.wf s.mem = true) : Out.Keeps (execCctlIinv w s) :=
  (Out.keeps_next _).2 (State.cctlWave_wf hm _ _ fun _ => rfl)

@[simp] theorem State.arrive_mem (s : State) (w : MW) (cb : Bool) : (s.arrive w cb).mem = s.mem := by simp [State.arrive]

theorem execBar_keeps (w : MW) (s : State) (hm : Memory.wf s.mem = true) : Out.Keeps (execBar w s) := by simp [hm, execBar]

theorem execCbar_keeps (w : MW) (s : State) (hm : Memory.wf s.mem = true) : Out.Keeps (execCbar w s) := by simp [hm, execCbar]

/-! ### Machine/Engine -/

@[simp] theorem State.addLocks_mem (s : State) (c : CoreId) (ks : List Lock) : (s.addLocks c ks).mem = s.mem := (rfl)

@[simp] theorem State.freeLocks_mem (s : State) (c : CoreId) (p : Lock → Bool) : (s.freeLocks c p).mem = s.mem := by simp [State.freeLocks]

theorem State.engRead_mem (s : State) (b : Blk) (x : Xl) (n det : Nat) : ∀ r, s.engRead b x n det = .ok r → r.2.mem = s.mem := by
  unfold State.engRead
  split <;> simp

theorem State.engWrite_wf {s : State} (hm : Memory.wf s.mem = true) (b : Blk) (x : Xl) (bs : List Byte) :
    ∀ t, s.engWrite b x bs = .ok t → Memory.wf t.mem = true := by
  unfold State.engWrite
  split
  · simp
  · rintro t ⟨⟩
    exact foldl_wf (fun t p ht => by simp [ht]) _ _ (by simp [hm])

@[simp] theorem State.integRecord_mem (s : State) (b : Blk) (det ia : Nat) : (s.integRecord b det ia).mem = s.mem := (rfl)

@[simp] theorem State.noteErr_mem (s : State) (b : Blk) (e : EngErr) : (s.noteErr b e).mem = s.mem := by
  have touch : ∀ l : List (HomeId × Nat), (l.foldl (fun s p => s.modEntry p.1 p.2 fun e => e.touch b.core false) s).mem = s.mem :=
    fun l => foldl_mem (fun _ _ => by rfl) l s
  cases e <;> simp [State.noteErr, touch]

@[simp] theorem State.putS32_mem (s : State) (o : Opd) (x : W32) : (s.putS32 o x).mem = s.mem := by
  unfold State.putS32
  split <;> simp

@[simp] theorem State.engOp_mem (s : State) (i : Instr) (pieces : Nat) : (s.engOp i pieces).2.mem = s.mem := (rfl)

@[simp] theorem State.engDone_mem (s : State) (id : Nat) (bs : List Byte) (fl : Nat) : (s.engDone id bs fl).mem = s.mem := by simp [State.engDone]

/-! ### Machine/Matrix -/

@[simp] theorem State.modTile_mem (s : State) (b : BlkId) (h : Nat) (f : Tile → Tile) : (s.modTile b h f).mem = s.mem := (rfl)

@[simp] theorem State.countStat_mem (s : State) (b : BlkId) (tensor : Nat) (c : Bool × Bool × Bool) :
    (s.countStat b tensor c).mem = s.mem := (rfl)

@[simp] theorem State.shapeReady_mem (s : State) (b : Blk) (h : Nat) : (s.shapeReady b h).mem = s.mem := by
  unfold State.shapeReady
  (repeat' split) <;> simp

@[simp] theorem State.matDone_mem (s : State) (b : Blk) (h : Nat) (m : MatOp) (bs : List Byte) (fl : Nat) :
    (s.matDone b h m bs fl).mem = s.mem := by
  unfold State.matDone
  dsimp only
  (repeat' split) <;> simp

@[simp] theorem State.matFail_mem (s : State) (b : Blk) (h : Nat) (m : MatOp) (code fcode : Nat) :
    (s.matFail b h m code fcode).mem = s.mem := by simp [State.matFail]

@[simp] theorem State.matErr_mem (s : State) (b : Blk) (h : Nat) (m : MatOp) (write : Bool) (e : EngErr) :
    (s.matErr b h m write e).mem = s.mem := by
  unfold State.matErr
  split <;> simp

@[simp] theorem State.matNext_mem (s : State) (b : Blk) (h : Nat) : (s.matNext b h).mem = s.mem := (rfl)

@[simp] theorem State.matSticky_mem (s : State) (m : MatOp) (fl : Nat) : (s.matSticky m fl).mem = s.mem := (rfl)

@[simp] theorem State.runShape_mem (s : State) (b : Blk) (h : Nat) (m : MatOp) : (s.runShape b h m).mem = s.mem := by simp [State.runShape]

@[simp] theorem State.runShapeRel_mem (s : State) (b : Blk) (h : Nat) (m : MatOp) :
    (s.runShapeRel b h m).mem = s.mem := by simp [State.runShapeRel]

@[simp] theorem State.runMzero_mem (s : State) (b : Blk) (h : Nat) (m : MatOp) : (s.runMzero b h m).mem = s.mem := by simp [State.runMzero]

@[simp] theorem State.runMcb_mem (s : State) (b : Blk) (h : Nat) (m : MatOp) (opb : Bool) : (s.runMcb b h m opb).mem = s.mem := by
  unfold State.runMcb
  dsimp only
  (repeat' split) <;> simp

@[simp] theorem State.runMloop_mem (s : State) (b : Blk) (h : Nat) (m : MatOp) (w : AW) : (s.runMloop b h m w).mem = s.mem := by
  unfold State.runMloop
  dsimp only
  (repeat' split) <;> simp

theorem State.elemWrite_wf {s : State} (hm : Memory.wf s.mem = true) (b : Blk) (glb : Bool) (a : W64) (bs : List Byte) :
    ∀ t, s.elemWrite b glb a bs = some (.ok t) → Memory.wf t.mem = true := by
  unfold State.elemWrite
  split
  · split
    · simp
    split
    · simp
    · exact fun t ht => State.engWrite_wf hm _ _ _ t (Option.some.inj ht)
  · split
    · simp
    · simp [hm]

theorem State.matWrite_wf (s : State) (b : Blk) (hd : Nat) (m : MatOp) (glb : Bool) (a : W64) (bs : List Byte) (fl total : Nat)
    (count fin : State → State) (hc : ∀ t, (count t).mem = t.mem) (hf : ∀ t, (fin t).mem = t.mem) (hm : Memory.wf s.mem = true) :
    Memory.wf (s.matWrite b hd m glb a bs fl total count fin).mem = true := by
  unfold State.matWrite
  split
  · simp [hm]
  · simp [hm]
  · next t ht =>
    have h := State.elemWrite_wf hm _ _ _ _ t ht
    split <;> simp [hc, hf, h]

@[simp] theorem State.runMepi_wf (s : State) (b : Blk) (hd : Nat) (m : MatOp) (w : AW) (hm : Memory.wf s.mem = true) :
    Memory.wf (s.runMepi b hd m w).mem = true := by
  unfold State.runMepi
  dsimp only
  split
  · simp [hm]
  split
  · simp [hm]
  split
  · simp [hm]
  · refine State.matWrite_wf _ _ _ _ _ _ _ _ _ _ _ (fun t => ?_) (fun t => ?_) hm
    · simp
    · split <;> simp

@[simp] theorem State.runMsta_wf (s : State) (b : Blk) (hd : Nat) (m : MatOp) (glb : Bool) (hm : Memory.wf s.mem = true) :
    Memory.wf (s.runMsta b hd m glb).mem = true := by
  unfold State.runMsta
  extract_lets t a
  split
  · simp [hm]
  split
  · simp [hm]
  split
  · simp [hm]
  · exact State.matWrite_wf _ _ _ _ _ _ _ _ _ _ _ (fun _ => rfl) (fun _ => rfl) hm

@[simp] theorem State.runMlda_mem (s : State) (b : Blk) (hd : Nat) (m : MatOp) (glb : Bool) : (s.runMlda b hd m glb).mem = s.mem := by
  unfold State.runMlda
  extract_lets t a
  dsimp only
  split
  · simp
  split
  · simp
  split
  · split
    · simp
    split
    · simp
    split
    · simp
    · next h => simpa using State.engRead_mem _ _ _ _ _ _ h
  · split <;> simp

@[simp] theorem State.runMepiCol_mem (s : State) (b : Blk) (h : Nat) (m : MatOp) : (s.runMepiCol b h m).mem = s.mem := by
  unfold State.runMepiCol
  dsimp only
  (repeat' split) <;> simp

theorem execMatrixOpComplete_keeps (id : BlkId) (h : Nat) (s : State) (hm : Memory.wf s.mem = true) :
    Out.Keeps (execMatrixOpComplete id h s) := by
  unfold execMatrixOpComplete
  (repeat' split) <;> simp [hm]

@[simp] theorem State.matWord_mem (s : State) (w : AW) (m : MatOp) (spans : Blk → Tile → List Span) (f : Tile → Tile) :
    (s.matWord w m spans f).mem = s.mem := by
  unfold State.matWord
  (repeat' split) <;> simp

theorem execShape_keeps (w : AW) (s : State) (hm : Memory.wf s.mem = true) : Out.Keeps (execShape w s) := by simp [hm, execShape]

theorem execShapeRel_keeps (w : AW) (s : State) (hm : Memory.wf s.mem = true) : Out.Keeps (execShapeRel w s) := by simp [hm, execShapeRel]

theorem execMzero_keeps (w : AW) (s : State) (hm : Memory.wf s.mem = true) : Out.Keeps (execMzero w s) := by simp [hm, execMzero]

theorem execMloop_keeps (w : AW) (s : State) (hm : Memory.wf s.mem = true) : Out.Keeps (execMloop w s) := by simp [hm, execMloop]

theorem execMepi_keeps (w : AW) (s : State) (hm : Memory.wf s.mem = true) : Out.Keeps (execMepi w s) := by simp [hm, execMepi]

theorem execMepiCol_keeps (w : AW) (s : State) (hm : Memory.wf s.mem = true) : Out.Keeps (execMepiCol w s) := by simp [hm, execMepiCol]

theorem execMlda_keeps (w : AW) (s : State) (hm : Memory.wf s.mem = true) : Out.Keeps (execMlda w s) := by simp [hm, execMlda]

theorem execMsta_keeps (w : AW) (s : State) (hm : Memory.wf s.mem = true) : Out.Keeps (execMsta w s) := by simp [hm, execMsta]

theorem execMcb_keeps (w : AW) (s : State) (hm : Memory.wf s.mem = true) : Out.Keeps (execMcb w s) := by simp [hm, execMcb]

/-! ### Machine/Stream -/

@[simp] theorem State.modCmd_mem (s : State) (b : BlkId) (idx : Nat) (f : Cmd → Cmd) : (s.modCmd b idx f).mem = s.mem := (rfl)

@[simp] theorem State.padOf_mem (s : State) (t : Tlr) : (s.padOf t).2.mem = s.mem := by
  unfold State.padOf
  dsimp only
  (repeat' split) <;> simp

@[simp] theorem State.wakeXwaits_mem (s : State) (b : BlkId) (c : Cmd) : (s.wakeXwaits b c).mem = s.mem := by simp [State.wakeXwaits]

@[simp] theorem State.putEntry_mem (s : State) (b : BlkId) (idx : Nat) : (s.putEntry b idx).mem = s.mem := by
  unfold State.putEntry
  (repeat' split) <;> simp

@[simp] theorem State.putNotify_mem (s : State) (b : BlkId) : (s.putNotify b).mem = s.mem := by
  unfold State.putNotify
  split <;> simp

@[simp] theorem State.cmdDone_mem (s : State) (b : Blk) (idx status fcode : Nat) : (s.cmdDone b idx status fcode).mem = s.mem := by
  unfold State.cmdDone
  dsimp only
  (repeat' split) <;> simp

@[simp] theorem State.cmdErr_mem (s : State) (b : Blk) (idx : Nat) (write : Bool) (e : EngErr) : (s.cmdErr b idx write e).mem = s.mem := by
  unfold State.cmdErr
  split <;> simp

@[simp] theorem State.cmdRead_mem (s : State) (b : Blk) (idx : Nat) : (s.cmdRead b idx).mem = s.mem := by
  unfold State.cmdRead
  dsimp only
  (repeat' split) <;> simp

theorem State.engRmw_wf {s : State} (hm : Memory.wf s.mem = true) (ctx : Nat) (core : CoreId) (r : Range) (ia : Nat) (op : Rmw) (ftz : Bool)
    (d : List Byte) : ∀ x, s.engRmw ctx core r ia op ftz d = .ok x → Memory.wf x.1.mem = true := by
  unfold State.engRmw
  dsimp only
  split
  · simp
  split
  · simp
  · simp
  split
  · simp
  · rintro x ⟨⟩
    dsimp only [State.modDie_mem, State.modCore_mem, State.modEntry_mem]
    split <;> simp [hm]

theorem execCommandTake_keeps (id : BlkId) (s : State) (hm : Memory.wf s.mem = true) : Out.Keeps (execCommandTake id s) := by
  unfold execCommandTake
  (repeat' split) <;> simp [hm]

/-- The state a moved box leaves, where the move is answered ok, has its memory in the canonical form. -/
def Moved.Keeps (x : Moved) : Prop := ∀ t, x = .ok t → Memory.wf t.mem = true

@[simp] theorem Moved.keeps_ok (t : State) : Moved.Keeps (.ok t) ↔ Memory.wf t.mem = true := by simp [Moved.Keeps]

@[simp] theorem Moved.keeps_held : Moved.Keeps .held := by simp [Moved.Keeps]

@[simp] theorem Moved.keeps_err (w : Bool) (e : EngErr) : Moved.Keeps (.err w e) := by simp [Moved.Keeps]

theorem State.glbGet_keeps {s : State} (hm : Memory.wf s.mem = true) (b : Blk) (a : W64) (n : Nat) (k : List Byte → State → Moved)
    (hk : ∀ bs t, Memory.wf t.mem = true → Moved.Keeps (k bs t)) : Moved.Keeps (s.glbGet b a n k) := by
  unfold State.glbGet
  split
  · simp
  split
  · simp
  split
  · simp
  · next h => exact hk _ _ (by rw [State.engRead_mem _ _ _ _ _ _ h]; exact hm)

theorem State.glbPut_keeps {s : State} (hm : Memory.wf s.mem = true) (b : Blk) (a : W64) (bs : List Byte) : Moved.Keeps (s.glbPut b a bs) := by
  unfold State.glbPut
  split
  · simp
  split
  · simp
  split
  · simp
  · next h => simpa using State.engWrite_wf hm _ _ _ _ h

theorem State.moveUnit_keeps {s : State} (hm : Memory.wf s.mem = true) (b : Blk) (t : Tlr) (d : List Nat) (base p : Nat) (load : Bool) :
    Moved.Keeps (s.moveUnit b t d base p load) := by
  unfold State.moveUnit
  dsimp only
  split
  · split <;> simp [hm]
  split
  · refine State.glbGet_keeps hm _ _ _ _ fun bs u hu => ?_
    split <;> simp [hu]
  split
  · split
    · split <;> exact State.glbPut_keeps hm _ _ _
    · exact State.glbPut_keeps hm _ _ _
  · exact State.glbPut_keeps hm _ _ _

theorem State.movePiece_keeps {s : State} (hm : Memory.wf s.mem = true) (b : Blk) (c : Cmd) (t : Option Tlr) :
    Moved.Keeps (s.movePiece b c t).1 := by
  unfold State.movePiece
  dsimp only
  split
  · exact State.glbGet_keeps hm _ _ _ _ fun bs u hu => by simp [hu]
  · exact State.glbPut_keeps hm _ _ _
  · dsimp only
    split <;> simp [hm]
  · dsimp only
    split
    · simp
    split
    · simp
    split
    · simp
    · next h => simpa using State.engRmw_wf hm _ _ _ _ _ _ _ _ h
  · exact State.moveUnit_keeps hm _ _ _ _ _ _
  · simp

theorem State.moveBox_keeps {s : State} (hm : Memory.wf s.mem = true) (b : Blk) (t : Tlr) (d : List Nat) (base : Nat) (load : Bool) :
    Moved.Keeps (s.moveBox b t d base load) := by
  unfold State.moveBox
  generalize List.range t.units = l
  have h : ∀ x : Moved, Moved.Keeps x → Moved.Keeps (l.foldl (fun acc p => match acc with
    | .ok s => s.moveUnit b t d base p load
    | x => x) x) := by
    induction l with
    | nil => exact fun x hx => hx
    | cons p r ih =>
      intro x hx
      refine ih _ ?_
      cases x with
      | ok u => exact State.moveUnit_keeps ((Moved.keeps_ok u).1 hx) _ _ _ _ _ _
      | held => exact hx
      | err w e => exact hx
  exact h _ (by simpa using hm)

theorem execCopySourceReleased_keeps (id : BlkId) (idx : Nat) (s : State) (hm : Memory.wf s.mem = true) :
    Out.Keeps (execCopySourceReleased id idx s) := by
  unfold execCopySourceReleased
  rw [Out.keeps_next]
  split
  · exact hm
  split
  · exact hm
  split
  · simp [hm]
  next b c _ _ _ =>
  dsimp only
  have h := State.movePiece_keeps hm b c (s.tlrOf b c)
  split
  · simp [hm]
  · simp [hm]
  · next hx =>
    rw [hx, Moved.keeps_ok] at h
    split <;> simp [h]

theorem State.counterAdd_wf {s : State} (hm : Memory.wf s.mem = true) (ctx : Nat) (core : CoreId) (x : Range × Nat) (v : W64) :
    ∀ t, s.counterAdd ctx core x v = .ok t → Memory.wf t.mem = true := by
  unfold State.counterAdd
  split
  · simp
  · next h =>
    rintro t ⟨⟩
    simpa using State.engRmw_wf hm _ _ _ _ _ _ _ _ h

theorem State.ctxAdd_wf {s : State} (hm : Memory.wf s.mem = true) (ctx : Nat) (core : CoreId) (va v : W64) :
    ∀ t, s.ctxAdd ctx core va v = .ok t → Memory.wf t.mem = true := by
  unfold State.ctxAdd
  split
  · simp
  · exact State.counterAdd_wf hm _ _ _ _

@[simp] theorem State.noteCopy_mem (s : State) (ctx : Nat) (va : W64) (sco : Nat) : (s.noteCopy ctx va sco).mem = s.mem := by
  unfold State.noteCopy
  split <;> simp

theorem execCopyArrival_keeps (id : BlkId) (idx : Nat) (s : State) (hm : Memory.wf s.mem = true) :
    Out.Keeps (execCopyArrival id idx s) := by
  unfold execCopyArrival
  rw [Out.keeps_next]
  split
  · exact hm
  extract_lets lp held perform ev
  have hp : ∀ t, Memory.wf t.mem = true → Memory.wf (perform t).1.mem = true := by
    intro t ht
    dsimp only [perform]
    rw [State.cmdDone_mem]
    split
    · split
      · next h => simpa using State.ctxAdd_wf ht _ _ _ _ _ h
      · simp [ht]
    · exact ht
  split
  · exact hm
  split
  · simp [hm]
  · exact State.atPoint_wf _ _ _ _ hp hm

theorem execSlotBoxLoaded_keeps (id : BlkId) (idx : Nat) (s : State) (hm : Memory.wf s.mem = true) : Out.Keeps (execSlotBoxLoaded id idx s) := by
  unfold execSlotBoxLoaded
  rw [Out.keeps_next]
  split
  · exact hm
  split
  · exact hm
  split
  · simp [hm]
  split
  · simp [hm]
  split
  · simp [hm]
  · simp [hm]
  · next h =>
    have ht := State.moveBox_keeps hm _ _ _ _ _ _ h
    simp [ht]

theorem execSlotBoxStored_keeps (id : BlkId) (idx : Nat) (s : State) (hm : Memory.wf s.mem = true) : Out.Keeps (execSlotBoxStored id idx s) := by
  unfold execSlotBoxStored
  rw [Out.keeps_next]
  split
  · exact hm
  split
  · exact hm
  split
  · simp [hm]
  split
  · simp [hm]
  split
  · simp [hm]
  · simp [hm]
  · next h =>
    have ht := State.moveBox_keeps hm _ _ _ _ _ _ h
    simp [ht]

@[simp] theorem State.xfer_mem (s : State) (w : AW) (xring : Bool) : (s.xfer w xring).mem = s.mem := by
  unfold State.xfer
  (repeat' split) <;> simp

theorem execXfer_keeps (w : AW) (s : State) (hm : Memory.wf s.mem = true) : Out.Keeps (execXfer w s) := by simp [hm, execXfer]

theorem execXring_keeps (w : AW) (s : State) (hm : Memory.wf s.mem = true) : Out.Keeps (execXring w s) := by simp [hm, execXring]

theorem execXwait_keeps (w : AW) (s : State) (hm : Memory.wf s.mem = true) : Out.Keeps (execXwait w s) := by
  unfold execXwait
  (repeat' split) <;> simp [hm]

theorem execXcancel_keeps (w : AW) (s : State) (hm : Memory.wf s.mem = true) : Out.Keeps (execXcancel w s) := by
  unfold execXcancel
  (repeat' split) <;> simp [hm]

theorem execXslotAcq_keeps (w : AW) (s : State) (hm : Memory.wf s.mem = true) : Out.Keeps (execXslotAcq w s) := by
  unfold execXslotAcq
  (repeat' split) <;> simp [hm]

theorem execXslotRel_keeps (w : AW) (s : State) (hm : Memory.wf s.mem = true) : Out.Keeps (execXslotRel w s) := by
  unfold execXslotRel
  (repeat' split) <;> simp [hm]

theorem execCmdqWrite_keeps (w : AW) (s : State) (hm : Memory.wf s.mem = true) : Out.Keeps (execCmdqWrite w s) := by
  unfold execCmdqWrite
  (repeat' split) <;> simp [hm]

/-! ### Machine/Blocks -/

@[simp] theorem State.schedule_mem (s : State) (ctx : Nat) : (s.schedule ctx).mem = s.mem := by simp [State.schedule]

@[simp] theorem State.kickDie_mem (s : State) (p d : Nat) : (s.kickDie p d).mem = s.mem := by
  unfold State.kickDie
  split <;> simp

@[simp] theorem State.kickDies_mem (s : State) : s.kickDies.mem = s.mem := by simp [State.kickDies]

@[simp] theorem State.kickStarts_mem (s : State) (ctx : Nat) : (s.kickStarts ctx).mem = s.mem := (rfl)

theorem State.hubWrite_wf {s : State} (hm : Memory.wf s.mem = true) (ctx : Nat) (x : Range × Nat) (off : Nat) (bs : List Byte) :
    ∀ t, s.hubWrite ctx x off bs = .ok t → Memory.wf t.mem = true := by
  unfold State.hubWrite
  split
  · simp
  · rintro t ⟨⟩
    exact foldl_wf (fun t p ht => by dsimp only; split <;> simp [ht]) _ _ hm

theorem State.ctxStore_wf {s : State} (hm : Memory.wf s.mem = true) (ctx : Nat) (va : W64) (bs : List Byte) :
    ∀ t, s.ctxStore ctx va bs = .ok t → Memory.wf t.mem = true := by
  unfold State.ctxStore
  split
  · simp
  · exact State.hubWrite_wf hm _ _ _ _

@[simp] theorem State.ctxErr_mem (s : State) (ctx : Nat) (e : EngErr) : (s.ctxErr ctx e).mem = s.mem := by
  unfold State.ctxErr
  split <;> simp

@[simp] theorem State.purge_mem (s : State) (ctx lid : Nat) : (s.purge ctx lid).mem = s.mem := (rfl)

@[simp] theorem State.writeStats_wf (s : State) (ctx : Nat) (l : Launch) (hm : Memory.wf s.mem = true) :
    Memory.wf (s.writeStats ctx l).mem = true := by
  unfold State.writeStats
  split
  · exact hm
  split
  · next h => exact State.ctxStore_wf hm _ _ _ _ h
  · simp [hm]

@[simp] theorem State.launchBadRecord_mem (s : State) (ctx : Nat) (l : Launch) (sub : Nat) : (s.launchBadRecord ctx l sub).mem = s.mem := (rfl)

@[simp] theorem State.fireSignals_mem (s : State) (ctx lid : Nat) : (s.fireSignals ctx lid).mem = s.mem := by
  unfold State.fireSignals
  dsimp only
  (repeat' split) <;> simp

@[simp] theorem State.tagMet_mem (s : State) (id : Nat) (tw : W64) : (s.tagMet id tw).mem = s.mem := by simp [State.tagMet]

@[simp] theorem State.wakeFallback_mem (s : State) (ctx lid : Nat) : (s.wakeFallback ctx lid).mem = s.mem := by simp [State.wakeFallback]

@[simp] theorem State.endLaunch_wf (s : State) (ctx lid : Nat) (hm : Memory.wf s.mem = true) : Memory.wf (s.endLaunch ctx lid).mem = true := by
  unfold State.endLaunch
  dsimp only
  (repeat' split) <;> simp [hm]

@[simp] theorem State.failNext_mem (s : State) (ctx lid : Nat) : (s.failNext ctx lid).mem = s.mem := by
  unfold State.failNext
  (repeat' split) <;> simp

@[simp] theorem State.settleLaunch_wf (s : State) (n ctx lid : Nat) (hm : Memory.wf s.mem = true) :
    Memory.wf (s.settleLaunch n ctx lid).mem = true := by
  induction n generalizing s lid with
  | zero => exact hm
  | succ k ih =>
    unfold State.settleLaunch
    split
    · exact hm
    extract_lets s1 s2
    have h : Memory.wf s2.mem = true := by simp [s2, s1, hm]
    split
    · split
      · exact ih _ _ h
      · exact h
    · exact h

@[simp] theorem State.failLaunch_wf (s : State) (ctx lid : Nat) (hm : Memory.wf s.mem = true) :
    Memory.wf (s.failLaunch ctx lid).mem = true := by simp [hm, State.failLaunch]

@[simp] theorem State.measure_mem (s : State) (b : Blk) : (s.measure b).mem = s.mem := by simp [State.measure]

@[simp] theorem State.dropOps_mem (s : State) (b : Blk) : (s.dropOps b).mem = s.mem := by simp [State.dropOps]

@[simp] theorem State.reap_mem (s : State) (id : BlkId) : (s.reap id).mem = s.mem := by
  unfold State.reap
  split <;> simp

@[simp] theorem State.reapAll_mem (s : State) (ctx : Nat) : (s.reapAll ctx).mem = s.mem := by simp [State.reapAll]

@[simp] theorem State.charge_mem (s : State) (id : BlkId) (pkg cost : Nat) : (s.charge id pkg cost).mem = s.mem := by simp [State.charge]

@[simp] theorem State.closeBlk_wf (s : State) (id : BlkId) (hm : Memory.wf s.mem = true) : Memory.wf (s.closeBlk id).mem = true := by
  unfold State.closeBlk
  split <;> simp [hm]

@[simp] theorem State.endBlk_wf (s : State) (id : BlkId) (hm : Memory.wf s.mem = true) : Memory.wf (s.endBlk id).mem = true := by
  unfold State.endBlk
  dsimp only
  (repeat' split) <;> simp [hm]

/-! ### Machine/Waves -/

@[simp] theorem State.entryTrap_mem (s : State) (w : Wave) (pc : W64) (lane : Nat) : (s.entryTrap w pc lane).mem = s.mem := by
  unfold State.entryTrap
  split <;> simp

@[simp] theorem State.openClause_mem (s : State) (pc : W64) : (s.openClause pc).mem = s.mem := by
  unfold State.openClause
  extract_lets w ls lane
  split
  · simp
  have h1 := State.fetchWord_mem s w pc
  split
  · next t ht =>
    rw [ht] at h1
    split
    · simpa using h1
    split
    · exact h1
    split
    · simpa using h1
    next hd _ =>
    have h2 := State.fetchWords_mem t w (pc + 8) (hd.cnt + 1)
    split
    · next h3 =>
      rw [h3] at h2
      exact (State.fetchTrap_mem ..).trans (h2.trans h1)
    · next h3 =>
      rw [h3] at h2
      split
      · exact (State.takeTrap_mem ..).trans (h2.trans h1)
      · exact h2.trans h1
  · next ht =>
    rw [ht] at h1
    exact (State.fetchTrap_mem ..).trans h1

theorem execClauseIssue_keeps (c : CoreId) (quad : Nat) (s : State) (hm : Memory.wf s.mem = true) : Out.Keeps (execClauseIssue c quad s) := by
  unfold execClauseIssue
  (repeat' split) <;> simp [hm]

@[simp] theorem State.depart_mem (s : State) (cb : Bool) (ws : List WaveId) : (s.depart cb ws).mem = s.mem := by
  refine foldl_mem (fun t w => ?_) _ _
  dsimp only
  rw [State.modWave_mem]
  split <;> simp

theorem execBarrierArrivalRegister_keeps (w : WaveId) (cb : Bool) (n : Nat) (cnt : Option Nat) (arr : Bool) (s : State)
    (hm : Memory.wf s.mem = true) : Out.Keeps (execBarrierArrivalRegister w cb n cnt arr s) := by
  unfold execBarrierArrivalRegister
  rw [Out.keeps_next]
  split
  · exact hm
  split
  · exact hm
  extract_lets mark waits old bar
  refine ite_wf hm (ite_wf ?_ ?_)
  · refine State.atPoint_wf _ _ _ _ (fun t ht => ?_) hm
    show Memory.wf (ite _ _ _ : State).mem = true
    simp [ht]
  · exact ite_wf ((State.modWave_mem ..).symm ▸ hm) hm

@[simp] theorem State.dropWave_mem (s : State) (id : WaveId) : (s.dropWave id).mem = s.mem := by simp [State.dropWave]

theorem execWaveEnd_keeps (id : WaveId) (s : State) (hm : Memory.wf s.mem = true) : Out.Keeps (execWaveEnd id s) := by
  unfold execWaveEnd
  dsimp only
  (repeat' split) <;> simp [hm]

@[simp] theorem State.trapNote_wf (s : State) (c : Ctx) (dropped : Bool) (hm : Memory.wf s.mem = true) :
    Memory.wf (s.trapNote c dropped).mem = true := by simp [hm, State.trapNote]

@[simp] theorem State.modWaveAny_mem (s : State) (id : WaveId) (f : Wave → Wave) : (s.modWaveAny id f).mem = s.mem := by simp [State.modWaveAny]

@[simp] theorem State.trapWrite_wf (s : State) (c : Ctx) (r : TrapRec) (hm : Memory.wf s.mem = true) : Memory.wf (s.trapWrite c r).mem = true := by
  unfold State.trapWrite
  extract_lets k n sl put s1 s2
  have h1 : Memory.wf s1.mem = true :=
    State.devPut_wf _ _ _ _ (foldl_wf (fun t p ht => getD_wf (State.devWrite_wf ht _ _ _) ht) _ _ hm)
  have h2 : Memory.wf s2.mem = true := by
    dsimp only [s2]
    split <;> simp [h1]
  split
  · exact h2
  split <;> simp [h2]

theorem execTrapRecordPost_keeps (ctx : Nat) (r : TrapRec) (s : State) (hm : Memory.wf s.mem = true) :
    Out.Keeps (execTrapRecordPost ctx r s) := by
  unfold execTrapRecordPost
  dsimp only
  (repeat' split) <;> simp [hm]

theorem State.respond_mem (s : State) (ctx k act : Nat) (v : W64) (f : State → WaveId → State) (hf : ∀ t w, (f t w).mem = t.mem) :
    (s.respond ctx k act v f).mem = s.mem := by
  unfold State.respond
  split
  · rfl
  split
  · rfl
  · simp [hf]

@[simp] theorem State.resumeStk_mem (s : State) (w : WaveId) (v : W64) : (s.resumeStk w v).mem = s.mem := by simp [State.resumeStk]

theorem execTrapResponseResume_keeps (ctx k : Nat) (s : State) (hm : Memory.wf s.mem = true) : Out.Keeps (execTrapResponseResume ctx k s) := by
  rwa [execTrapResponseResume, Out.keeps_next, State.respond_mem _ _ _ _ _ _ State.resume_mem]

theorem execTrapResponseStklim_keeps (ctx k : Nat) (v : W64) (s : State) (hm : Memory.wf s.mem = true) :
    Out.Keeps (execTrapResponseStklim ctx k v s) := by
  rwa [execTrapResponseStklim, Out.keeps_next, State.respond_mem _ _ _ _ _ _ fun t w => State.resumeStk_mem t w v]

theorem execTrapResponseEnd_keeps (ctx k : Nat) (s : State) (hm : Memory.wf s.mem = true) : Out.Keeps (execTrapResponseEnd ctx k s) := by
  rwa [execTrapResponseEnd, Out.keeps_next, State.respond_mem _ _ _ _ _ _ State.fatal_mem]

theorem execLockringAutoRestart_keeps (id : WaveId) (s : State) (hm : Memory.wf s.mem = true) : Out.Keeps (execLockringAutoRestart id s) := by
  unfold execLockringAutoRestart
  (repeat' split) <;> simp [hm]

@[simp] theorem State.watchdog_mem (s : State) (id : WaveId) (sub lane : Nat) (ok : Wave → Bool) : (s.watchdog id sub lane ok).mem = s.mem := by
  unfold State.watchdog
  split <;> simp

theorem execWatchdogWaitExpiry_keeps (id : WaveId) (s : State) (hm : Memory.wf s.mem = true) :
    Out.Keeps (execWatchdogWaitExpiry id s) := by simp [hm, execWatchdogWaitExpiry]

theorem execWatchdogHeldExpiry_keeps (id : WaveId) (lane : Nat) (s : State) (hm : Memory.wf s.mem = true) :
    Out.Keeps (execWatchdogHeldExpiry id lane s) := by simp [hm, execWatchdogHeldExpiry]

theorem execSleepExpiry_keeps (id : WaveId) (s : State) (hm : Memory.wf s.mem = true) :
    Out.Keeps (execSleepExpiry id s) := by simp [hm, execSleepExpiry]

theorem execBreakpointResume_keeps (id : WaveId) (s : State) (hm : Memory.wf s.mem = true) :
    Out.Keeps (execBreakpointResume id s) := by simp [hm, execBreakpointResume]

/-! ### Machine/System -/

@[simp] theorem State.drainStall_mem (s : State) : s.drainStall.mem = s.mem := by simp [State.drainStall]

@[simp] theorem State.put64_mem (s : State) (o : Opd) (pair : Bool) (x : W64) : (s.put64 o pair x).mem = s.mem := by
  unfold State.put64
  split <;> simp

theorem State.csrWrite_mem (s : State) (w : AW) (f : State → W64 → State) (hf : ∀ t v, (f t v).mem = t.mem) : (s.csrWrite w f).mem = s.mem := by
  unfold State.csrWrite
  split
  · rfl
  split
  · simp
  · exact hf _ _

theorem execCsrr_keeps (w : AW) (s : State) (hm : Memory.wf s.mem = true) : Out.Keeps (execCsrr w s) := by
  unfold execCsrr
  (repeat' split) <;> simp [hm]

@[simp] theorem State.csrPut_mem (s : State) (n : Nat) (v : W64) : (s.csrPut n v).mem = s.mem := by
  unfold State.csrPut
  split <;> simp

theorem execCsrw_keeps (w : AW) (s : State) (hm : Memory.wf s.mem = true) : Out.Keeps (execCsrw w s) := by
  rwa [execCsrw, Out.keeps_next, State.csrWrite_mem _ _ _ fun t v => State.csrPut_mem t w.csr v]

@[simp] theorem State.putRanges_mem (s : State) (f : Ctx → List Range → List Range) : (s.putRanges f).mem = s.mem := (rfl)

theorem execRngattrWrite_keeps (w : AW) (s : State) (hm : Memory.wf s.mem = true) : Out.Keeps (execRngattrWrite w s) := by
  rwa [execRngattrWrite, Out.keeps_next, State.csrWrite_mem _ _ _ fun t v => State.putRanges_mem t _]

theorem execRangeBoundWrite_keeps (w : AW) (s : State) (hm : Memory.wf s.mem = true) : Out.Keeps (execRangeBoundWrite w s) := by
  rwa [execRangeBoundWrite, Out.keeps_next, State.csrWrite_mem _ _ _ fun t v => State.putRanges_mem t _]

@[simp] theorem State.tagPut_mem (s : State) (c : Ctx) (pkg e : Nat) (v : Nat × Nat) : (s.tagPut c pkg e v).mem = s.mem := by simp [State.tagPut]

theorem execTagwinWrite_keeps (w : AW) (s : State) (hm : Memory.wf s.mem = true) : Out.Keeps (execTagwinWrite w s) := by
  rw [execTagwinWrite, Out.keeps_next, State.csrWrite_mem _ _ _ fun t v => ?_]
  · exact hm
  dsimp only
  split
  · rfl
  split
  · rfl
  · rw [State.modCtx_mem]
    exact foldl_mem (fun t p => foldl_mem (fun u e => State.tagPut_mem ..) _ _) _ _

theorem execTrapf_keeps (w : AW) (s : State) (hm : Memory.wf s.mem = true) : Out.Keeps (execTrapf w s) := by simp [hm, execTrapf]

theorem execTrap_keeps (w : AW) (s : State) (hm : Memory.wf s.mem = true) : Out.Keeps (execTrap w s) := by simp [hm, execTrap]

theorem execBpt_keeps (w : AW) (s : State) (hm : Memory.wf s.mem = true) : Out.Keeps (execBpt w s) := by
  unfold execBpt
  (repeat' split) <;> simp [hm]

@[simp] theorem State.pass_mem (s : State) (c : CoreId) (n : Nat) : (s.pass c n).mem = s.mem := (rfl)

theorem execClock_keeps (w : AW) (s : State) (hm : Memory.wf s.mem = true) : Out.Keeps (execClock w s) := by simp [hm, execClock]

theorem execSleep_keeps (w : AW) (s : State) (hm : Memory.wf s.mem = true) : Out.Keeps (execSleep w s) := by simp [hm, execSleep]

@[simp] theorem State.phintTrap_mem (s : State) (va : W64) (lane : Nat) (f : Fetched) : (s.phintTrap va lane f).mem = s.mem := by
  unfold State.phintTrap
  split <;> simp

@[simp] theorem State.kickSave_mem (s : State) (id : BlkId) : (s.kickSave id).mem = s.mem := by
  unfold State.kickSave
  split <;> simp

theorem execPhint_keeps (g : Guard) (off : W32) (s : State) (hm : Memory.wf s.mem = true) : Out.Keeps (execPhint g off s) := by
  unfold execPhint
  dsimp only
  (repeat' split) <;> simp [hm]

@[simp] theorem State.markStep_wf (s : State) (id : Nat) (hm : Memory.wf s.mem = true) : Memory.wf (s.markStep id).mem = true := by
  unfold State.markStep
  split
  · exact hm
  split
  · exact State.atPoint_wf _ _ _ _ (fun t ht => by simp [ht]) hm
  · simp [hm]

theorem execLogmark_keeps (w : AW) (s : State) (hm : Memory.wf s.mem = true) : Out.Keeps (execLogmark w s) := by
  unfold execLogmark
  (repeat' split) <;> simp [hm]

theorem execStoreLanded_keeps (id : Nat) (s : State) (hm : Memory.wf s.mem = true) : Out.Keeps (execStoreLanded id s) := by
  unfold execStoreLanded
  (repeat' split) <;> simp [hm]

/-! ### Machine/Tasks -/

@[simp] theorem State.placeWait_wf (s : State) (e : LogEv) (ev : Instr) (hm : Memory.wf s.mem = true) : Memory.wf (s.placeWait e ev).mem = true := by
  unfold State.placeWait
  split
  · split
    · split <;> simp [hm]
    · exact State.atPoint_wf _ _ _ _ (fun t ht => ht) hm
  · exact State.atPoint_wf _ _ _ _ (fun t ht => ht) hm

@[simp] theorem State.countTask_mem (s : State) (pkg ctx launch : Nat) : (s.countTask pkg ctx launch).mem = s.mem := (rfl)

theorem State.accept_mem (s : State) (w : Wave) (c : Ctx) (serial : Nat) (bs : List Byte) : (s.accept w c serial bs).2.2.mem = s.mem := by
  unfold State.accept
  extract_lets t ivs bad met
  split
  · rfl
  split
  · rfl
  split
  · split
    · next h => simpa using State.pushTask_mem _ _ _ _ h
    · rfl
  · rw [State.watchTask_mem, State.modCtx_mem, State.countTask_mem]

@[simp] theorem State.spawnLane_wf (s : State) (id : Nat) (hm : Memory.wf s.mem = true) : Memory.wf (s.spawnLane id).mem = true := by
  unfold State.spawnLane
  split
  · exact hm
  split
  · dsimp only
    split
    · simp [hm]
    · refine State.atPoint_wf _ _ _ _ (fun t ht => ?_) hm
      split <;> simp [State.accept_mem, ht]
  · exact hm

@[simp] theorem State.spawnRun_wf (s : State) (n id : Nat) (hm : Memory.wf s.mem = true) : Memory.wf (s.spawnRun n id).mem = true := by
  induction n generalizing s with
  | zero => exact hm
  | succ k ih =>
    unfold State.spawnRun
    split
    · exact hm
    split
    · exact hm
    · exact ih _ (State.spawnLane_wf s id hm)

theorem execSpawn_keeps (w : AW) (s : State) (hm : Memory.wf s.mem = true) : Out.Keeps (execSpawn w s) := by
  unfold execSpawn
  dsimp only
  (repeat' split) <;> simp [hm]

theorem execCsig_keeps (w : AW) (s : State) (hm : Memory.wf s.mem = true) : Out.Keeps (execCsig w s) := by simp [hm, execCsig]

theorem execCwait_keeps (w : AW) (s : State) (hm : Memory.wf s.mem = true) : Out.Keeps (execCwait w s) := by simp [hm, execCwait]

theorem execTagpub_keeps (w : AW) (s : State) (hm : Memory.wf s.mem = true) : Out.Keeps (execTagpub w s) := by simp [hm, execTagpub]

@[simp] theorem State.tagStep_mem (s : State) (id : Nat) : (s.tagStep id).mem = s.mem := by
  unfold State.tagStep
  dsimp only
  (repeat' split) <;> simp

@[simp] theorem State.tagTry_wf (s : State) (id : Nat) (hm : Memory.wf s.mem = true) : Memory.wf (s.tagTry id).mem = true := by
  unfold State.tagTry
  split
  · exact hm
  split
  · refine State.atPoint_wf _ _ _ _ (fun t ht => ?_) hm
    split <;> simp [ht]
  · exact hm

theorem execTagwait_keeps (w : AW) (s : State) (hm : Memory.wf s.mem = true) : Out.Keeps (execTagwait w s) := by
  unfold execTagwait
  dsimp only
  (repeat' split) <;> simp [hm]

theorem execFlagCompletion_keeps (id : Nat) (s : State) (hm : Memory.wf s.mem = true) : Out.Keeps (execFlagCompletion id s) := by
  unfold execFlagCompletion
  (repeat' split) <;> simp [hm]

@[simp] theorem State.tagRelook_mem (s : State) (ctx lo n : Nat) : (s.tagRelook ctx lo n).mem = s.mem := by simp [State.tagRelook]

@[simp] theorem State.tagWake_mem (s : State) (ctx pkg idx : Nat) : (s.tagWake ctx pkg idx).mem = s.mem := by simp [State.tagWake]

@[simp] theorem State.tagApply_mem (s : State) (c : Ctx) (pkg : Nat) (t : TagPub) : (s.tagApply c pkg t).mem = s.mem := by simp [State.tagApply]

theorem execTagPublicationApply_keeps (t : TagPub) (s : State) (hm : Memory.wf s.mem = true) : Out.Keeps (execTagPublicationApply t s) := by
  unfold execTagPublicationApply
  rw [Out.keeps_next]
  split
  · exact hm
  split
  · exact hm
  · refine State.atPoint_wf _ _ _ _ (fun u hu => ite_wf hu ?_) hm
    rw [State.due_mem, State.tagApply_mem]
    exact hu

theorem execTagForward_keeps (pkg : Nat) (t : TagPub) (s : State) (hm : Memory.wf s.mem = true) : Out.Keeps (execTagForward pkg t s) := by
  unfold execTagForward
  (repeat' split) <;> simp [hm]

theorem execDequeRefill_keeps (c : CoreId) (s : State) (hm : Memory.wf s.mem = true) : Out.Keeps (execDequeRefill c s) := by
  unfold execDequeRefill
  (repeat' split) <;> simp [hm]

@[simp] theorem State.readyBump_mem (s : State) (c : CoreId) (t : TaskRec) : (s.readyBump c t).mem = s.mem := by
  refine foldl_mem (fun u k => ?_) _ _
  have h : ∀ (u : State) (x : Option Scope), (match x with | some sc => u.acquireBump t.ctx c sc | none => u).mem = u.mem := by
    intro u x
    cases x <;> simp
  dsimp only
  split
  · split
    · exact h _ _
    · exact (h _ _).trans (h _ _)
  · exact h _ _

@[simp] theorem State.takeTask_mem (s : State) (pkg : Nat) (t : TaskRec) : (s.takeTask pkg t).mem = s.mem := (rfl)

@[simp] theorem State.startTask_mem (s : State) (c : CoreId) (t : TaskRec) (l : Launch) (quad : Nat) :
    (s.startTask c t l quad).mem = s.mem := by simp [State.startTask]

@[simp] theorem State.kickThief_mem (s : State) (pkg die : Nat) : (s.kickThief pkg die).mem = s.mem := by simp [State.kickThief]

theorem execTaskStart_keeps (c : CoreId) (s : State) (hm : Memory.wf s.mem = true) : Out.Keeps (execTaskStart c s) := by
  unfold execTaskStart
  split
  · simp
  rw [Out.keeps_next]
  split
  · rw [State.kickThief_mem, State.kickRefill_mem]
    split <;> simp [hm]
  · exact State.atPoint_wf _ _ _ _ (fun u hu => by simp [hu]) hm

theorem execTaskSteal_keeps (c : CoreId) (s : State) (hm : Memory.wf s.mem = true) : Out.Keeps (execTaskSteal c s) := by
  unfold execTaskSteal
  split
  · simp
  rw [Out.keeps_next]
  split
  · simp [hm]
  · exact State.atPoint_wf _ _ _ _ (fun u hu => by simp [hu]) hm

@[simp] theorem State.fireTrig_mem (s : State) (ctx : Nat) (t : Trig) : (s.fireTrig ctx t).mem = s.mem := by
  unfold State.fireTrig
  (repeat' split) <;> simp

theorem execTriggeredWorkFire_keeps (ctx pkg : Nat) (s : State) (hm : Memory.wf s.mem = true) : Out.Keeps (execTriggeredWorkFire ctx pkg s) := by
  unfold execTriggeredWorkFire
  split <;> simp [hm]

/-! ### Machine/Homes -/

theorem State.ringPut_wf {s : State} (hm : Memory.wf s.mem = true) (fn : Nat) (reg pi ci : W64) (ws : List W64) :
    ∀ t, s.ringPut fn reg pi ci ws = some t → Memory.wf t.mem = true := by
  unfold State.ringPut
  dsimp only
  split
  · rintro t ⟨⟩
    exact getD_wf (State.devWrite_wf hm _ _ _) hm
  · simp

@[simp] theorem State.prqFlush_wf (s : State) (n fn : Nat) (hm : Memory.wf s.mem = true) : Memory.wf (s.prqFlush n fn).mem = true := by
  induction n generalizing s with
  | zero => exact hm
  | succ k ih =>
    unfold State.prqFlush
    split
    · exact hm
    split
    · exact hm
    split
    · next h => exact ih _ (by simpa using State.ringPut_wf hm _ _ _ _ _ _ h)
    · exact hm

@[simp] theorem State.prqPost_wf (s : State) (fn : Nat) (ws : List W64) (hm : Memory.wf s.mem = true) :
    Memory.wf (s.prqPost fn ws).mem = true := by simp [hm, State.prqPost]

@[simp] theorem State.hccFlush_wf (s : State) (n fn : Nat) (hm : Memory.wf s.mem = true) : Memory.wf (s.hccFlush n fn).mem = true := by
  induction n generalizing s with
  | zero => exact hm
  | succ k ih =>
    unfold State.hccFlush
    split
    · exact hm
    split
    · exact hm
    split
    · next h => exact ih _ (by simpa using State.ringPut_wf hm _ _ _ _ _ _ h)
    · exact hm

@[simp] theorem State.cmdEnd_wf (s : State) (c : HomeCmd) (status count : Nat) (frame : W64) (hm : Memory.wf s.mem = true) :
    Memory.wf (s.cmdEnd c status count frame).mem = true := by simp [hm, State.cmdEnd]

@[simp] theorem State.modPageop_mem (s : State) (h : HomeId) (ia : Nat) (f : PageOp → PageOp) : (s.modPageop h ia f).mem = s.mem := (rfl)

@[simp] theorem State.dropPageop_mem (s : State) (h : HomeId) (ia : Nat) : (s.dropPageop h ia).mem = s.mem := (rfl)

theorem State.runCmd_wf {s : State} (hm : Memory.wf s.mem = true) (ev : Instr) (c : HomeCmd) (f : State → HomeId → State)
    (hf : ∀ h, Memory.wf (f s h).mem = true) : Memory.wf (s.runCmd ev c f).mem = true := by
  unfold State.runCmd
  dsimp only
  split
  · simp [hm]
  split
  · simp [hm]
  · exact hf _

@[simp] theorem State.pageRequest_wf (s : State) (e : Entry) (hm : Memory.wf s.mem = true) :
    Memory.wf (s.pageRequest e).mem = true := by simp [hm, State.pageRequest]

@[simp] theorem State.startFill_wf (s : State) (e : Entry) (held : List LeaseReq) (hm : Memory.wf s.mem = true) :
    Memory.wf (s.startFill e held).mem = true := by simp [hm, State.startFill]

@[simp] theorem State.leaseGrant_mem (s : State) (l : LeaseReq) : (s.leaseGrant l).mem = s.mem := by
  unfold State.leaseGrant
  rw [State.due_mem, State.modHome_mem]
  exact foldl_mem (fun _ _ => by rfl) _ _

@[simp] theorem State.leaseHintAt_wf (s : State) (l : LeaseReq) (hm : Memory.wf s.mem = true) : Memory.wf (s.leaseHintAt l).mem = true := by
  refine foldl_wf (fun t p ht => ?_) _ _ hm
  split
  · split <;> simp [ht]
  · exact ht

@[simp] theorem State.leaseWait_wf (s : State) (l : LeaseReq) (p : Nat) (hm : Memory.wf s.mem = true) :
    Memory.wf (s.leaseWait l p).mem = true := by
  unfold State.leaseWait
  (repeat' split) <;> simp [hm]

@[simp] theorem State.leaseAsk_wf (s : State) (l : LeaseReq) (hm : Memory.wf s.mem = true) : Memory.wf (s.leaseAsk l).mem = true := by
  unfold State.leaseAsk
  dsimp only
  (repeat' split) <;> simp [hm]

theorem execLeaseRequest_keeps (l : LeaseReq) (s : State) (hm : Memory.wf s.mem = true) :
    Out.Keeps (execLeaseRequest l s) := by simp [hm, execLeaseRequest]

theorem execLeaseGrantReceived_keeps (l : LeaseReq) (s : State) (hm : Memory.wf s.mem = true) : Out.Keeps (execLeaseGrantReceived l s) := by
  unfold execLeaseGrantReceived
  split <;> simp [hm]

theorem execLeaseRefused_keeps (l : LeaseReq) (s : State) (hm : Memory.wf s.mem = true) : Out.Keeps (execLeaseRefused l s) := by
  unfold execLeaseRefused
  rw [Out.keeps_next]
  split
  · exact hm
  dsimp only
  split
  · refine foldl_wf (fun t i ht => State.endBlk_wf _ _ ht) _ _ ?_
    rw [ite_mem, State.modCtx_mem, ite_self, foldl_mem fun _ _ => by rfl]
    exact hm
  · simp [hm]

@[simp] theorem State.shoot_mem (s : State) (e : Entry) (cmd : Option HomeCmd) (for_ : ShootFor) : (s.shoot e cmd for_).mem = s.mem := by
  unfold State.shoot
  dsimp only
  (repeat' split) <;> simp

@[simp] theorem State.unmapOrEvict_mem (s : State) (e : Entry) (c : HomeCmd) (for_ : ShootFor) : (s.unmapOrEvict e c for_).mem = s.mem := by
  unfold State.unmapOrEvict
  dsimp only
  (repeat' split) <;> simp

@[simp] theorem State.resumePage_wf (s : State) (p : PageOp) (hm : Memory.wf s.mem = true) : Memory.wf (s.resumePage p).mem = true := by
  unfold State.resumePage
  rw [State.retryHeld_mem, State.due_mem]
  exact foldl_wf (fun t l ht => State.leaseAsk_wf _ _ ht) _ _ hm

@[simp] theorem State.landBack_wf (s : State) (l : List (Nat × List Byte)) (hm : Memory.wf s.mem = true) : Memory.wf (s.landBack l).mem = true := by
  refine foldl_wf (fun t b ht => ?_) _ _ (by simp [hm])
  split <;> simp [ht]

@[simp] theorem State.ringMoved_mem (s : State) (e : Entry) : (s.ringMoved e).mem = s.mem := by simp [State.ringMoved]

@[simp] theorem State.saveMoved_mem (s : State) (e : Entry) : (s.saveMoved e).mem = s.mem := (rfl)

@[simp] theorem State.shootEnd_wf (s : State) (p : PageOp) (e : Entry) (hm : Memory.wf s.mem = true) : Memory.wf (s.shootEnd p e).mem = true := by
  unfold State.shootEnd
  extract_lets clean done s1 s2 s3
  have hd : ∀ (t : State) w, Memory.wf t.mem = true → Memory.wf (done t w).mem = true := by
    intro t w ht
    dsimp only [done]
    split <;> simp [ht]
  have h3 : Memory.wf s3.mem = true := by simp [s3, s2, s1, hm]
  refine State.resumePage_wf _ _ ?_
  show Memory.wf (match p.shoot with | some .unmap => _ | some .evict => _ | _ => _ : State).mem = true
  split <;> exact hd _ _ h3

theorem execPageFlush_keeps (h : HomeId) (ia pkg die : Nat) (s : State) (hm : Memory.wf s.mem = true) :
    Out.Keeps (execPageFlush h ia pkg die s) := by
  unfold execPageFlush
  (repeat' split) <;> simp [hm]

theorem execShootDownAck_keeps (h : HomeId) (ia pkg die : Nat) (s : State) (hm : Memory.wf s.mem = true) :
    Out.Keeps (execShootDownAck h ia pkg die s) := by
  unfold execShootDownAck
  dsimp only
  (repeat' split) <;> simp [hm]

@[simp] theorem State.releasePage_mem (s : State) (h : HomeId) (ia : Nat) : (s.releasePage h ia).mem = s.mem := by
  unfold State.releasePage
  dsimp only
  (repeat' split) <;> simp

theorem execLeaseRelease_keeps (l : LeaseReq) (s : State) (hm : Memory.wf s.mem = true) :
    Out.Keeps (execLeaseRelease l s) := by simp [hm, execLeaseRelease]

theorem execHomeCommandDoorbell_keeps (fn pi : Nat) (s : State) (hm : Memory.wf s.mem = true) : Out.Keeps (execHomeCommandDoorbell fn pi s) := by
  unfold execHomeCommandDoorbell
  split <;> simp [hm]

theorem execMap_keeps (c : HomeCmd) (s : State) (hm : Memory.wf s.mem = true) : Out.Keeps (execMap c s) := by
  refine (Out.keeps_next _).2 (State.runCmd_wf hm _ _ _ fun h => ?_)
  dsimp only
  (repeat' split) <;> simp [hm]

@[simp] theorem State.abortCopy_wf (s : State) (h : HomeId) (ia status : Nat) (hm : Memory.wf s.mem = true) :
    Memory.wf (s.abortCopy h ia status).mem = true := by
  unfold State.abortCopy
  (repeat' split) <;> simp [hm]

@[simp] theorem State.refuseHeld_mem (s : State) (h : HomeId) (ia : Nat) : (s.refuseHeld h ia).mem = s.mem := by
  unfold State.refuseHeld
  split <;> simp

theorem execUnmap_keeps (c : HomeCmd) (s : State) (hm : Memory.wf s.mem = true) : Out.Keeps (execUnmap c s) := by
  refine (Out.keeps_next _).2 (State.runCmd_wf hm _ _ _ fun h => ?_)
  dsimp only
  split
  · simp [hm]
  split
  · simp [hm]
  · simp [hm]
  · rw [State.unmapOrEvict_mem]
    split <;> simp [hm]
  · rw [State.modEntry_mem, State.modPageop_mem]
    split <;> simp [hm]
  · simp [hm]

theorem execEvict_keeps (c : HomeCmd) (s : State) (hm : Memory.wf s.mem = true) : Out.Keeps (execEvict c s) := by
  refine (Out.keeps_next _).2 (State.runCmd_wf hm _ _ _ fun h => ?_)
  (repeat' split) <;> simp [hm]

theorem execFill_keeps (c : HomeCmd) (s : State) (hm : Memory.wf s.mem = true) : Out.Keeps (execFill c s) := by
  refine (Out.keeps_next _).2 (State.runCmd_wf hm _ _ _ fun h => ?_)
  (repeat' split) <;> simp [hm]

theorem execRefuse_keeps (c : HomeCmd) (s : State) (hm : Memory.wf s.mem = true) : Out.Keeps (execRefuse c s) := by
  refine (Out.keeps_next _).2 (State.runCmd_wf hm _ _ _ fun h => ?_)
  split <;> simp [hm]

@[simp] theorem State.copyFrame_wf (s : State) (src : Option Entry) (dst : Entry) (ia n : Nat) (hm : Memory.wf s.mem = true) :
    Memory.wf (s.copyFrame src dst ia n).mem = true := by
  have h : ((s.noteReuse dst (dst.key ia) n).freshSectors (dst.key ia) n).mem = s.mem := by simp
  unfold State.copyFrame
  rw [State.egress_mem]
  cases src with
  | none => exact wf_zeroBytes _ _ _ (h ▸ hm)
  | some e =>
    dsimp only
    rw [State.egress_mem]
    exact wf_copyBytes _ _ _ _ (h ▸ hm)

@[simp] theorem State.fillFails_wf (s : State) (p : PageOp) (c : HomeCmd) (e : Entry) (k : Nat) (hm : Memory.wf s.mem = true) :
    Memory.wf (s.fillFails p c e k).mem = true := by simp [hm, State.fillFails]

theorem execFillCopyDone_keeps (hd : HomeId) (ia : Nat) (s : State) (hm : Memory.wf s.mem = true) : Out.Keeps (execFillCopyDone hd ia s) := by
  unfold execFillCopyDone
  split
  · simp
  rw [Out.keeps_next]
  split
  · split
    · split
      · exact hm
      refine ite_wf (by simp [hm]) ?_
      split
      · simp [hm]
      · exact State.resumePage_wf _ _ (State.cmdEnd_wf _ _ _ _ _ (State.copyFrame_wf _ _ _ _ _ hm))
    · exact hm
  · exact hm

@[simp] theorem State.startCopy_mem (s : State) (h : HomeId) (ia : Nat) : (s.startCopy h ia).mem = s.mem := (rfl)

theorem execMigrate_keeps (c : HomeCmd) (s : State) (hm : Memory.wf s.mem = true) : Out.Keeps (execMigrate c s) := by
  refine (Out.keeps_next _).2 (State.runCmd_wf hm _ _ _ fun h => ?_)
  dsimp only
  (repeat' split) <;> simp [hm]

theorem execMigrationSlotStart_keeps (h : HomeId) (s : State) (hm : Memory.wf s.mem = true) : Out.Keeps (execMigrationSlotStart h s) := by
  unfold execMigrationSlotStart
  (repeat' split) <;> simp [hm]

theorem execMigrationSectorCopy_keeps (h : HomeId) (ia : Nat) (s : State) (hm : Memory.wf s.mem = true) :
    Out.Keeps (execMigrationSectorCopy h ia s) := by
  unfold execMigrationSectorCopy
  dsimp only
  (repeat' split) <;> simp [hm]

@[simp] theorem State.bufWrite_wf (s : State) (fn ia : Nat) (bs : List Byte) (hm : Memory.wf s.mem = true) :
    Memory.wf (s.bufWrite fn ia bs).mem = true :=
  foldl_wf (fun _ _ ht => getD_wf (State.devWrite_wf ht _ _ _) ht) _ _ hm

theorem execHeatread_keeps (c : HomeCmd) (s : State) (hm : Memory.wf s.mem = true) : Out.Keeps (execHeatread c s) := by
  refine (Out.keeps_next _).2 (State.runCmd_wf hm _ _ _ fun h => ?_)
  dsimp only
  split
  · simp [hm]
  split
  · simp [hm]
  split
  · simp [hm]
  · refine State.cmdEnd_wf _ _ _ _ _ (State.bufWrite_wf _ _ _ _ ?_)
    refine foldl_wf (fun t ia ht => ?_) _ _ hm
    split <;> simp [ht]

theorem execProbe_keeps (c : HomeCmd) (s : State) (hm : Memory.wf s.mem = true) : Out.Keeps (execProbe c s) := by
  refine (Out.keeps_next _).2 (State.runCmd_wf hm _ _ _ fun h => ?_)
  dsimp only
  (repeat' split) <;> simp [hm]

theorem execResetacc_keeps (c : HomeCmd) (s : State) (hm : Memory.wf s.mem = true) : Out.Keeps (execResetacc c s) := by
  refine (Out.keeps_next _).2 (State.runCmd_wf hm _ _ _ fun h => ?_)
  (repeat' split) <;> simp [hm]

theorem execBadcmdOpcode_keeps (c : HomeCmd) (s : State) (hm : Memory.wf s.mem = true) : Out.Keeps (execBadcmdOpcode c s) := by
  unfold execBadcmdOpcode
  split <;> simp [hm]

@[simp] theorem State.prqciSet_wf (s : State) (fn : Nat) (ci : W64) (hm : Memory.wf s.mem = true) :
    Memory.wf (s.prqciSet fn ci).mem = true := by simp [hm, State.prqciSet]

theorem execPrqciWrite_keeps (fn ci : Nat) (s : State) (hm : Memory.wf s.mem = true) :
    Out.Keeps (execPrqciWrite fn ci s) := by simp [hm, execPrqciWrite]

@[simp] theorem State.frameRetire_wf (s : State) (e : Entry) (hm : Memory.wf s.mem = true) :
    Memory.wf (s.frameRetire e).mem = true := by simp [hm, State.frameRetire]

theorem execRowRetirementOrder_keeps (r : RowId) (bad : List Nat) (s : State) (hm : Memory.wf s.mem = true) :
    Out.Keeps (execRowRetirementOrder r bad s) := by
  unfold execRowRetirementOrder
  split
  · simp
  rw [Out.keeps_next]
  split
  · exact hm
  split
  · simp [hm]
  · exact foldl_wf (fun t e ht => State.frameRetire_wf _ _ ht) _ _ hm

theorem execRowRemapSwitch_keeps (r : RowId) (s : State) (hm : Memory.wf s.mem = true) : Out.Keeps (execRowRemapSwitch r s) := by
  unfold execRowRemapSwitch
  (repeat' split) <;> simp [hm]

theorem execRetiredRowPersist_keeps (pkg : Nat) (r : RowId) (s : State) (hm : Memory.wf s.mem = true) :
    Out.Keeps (execRetiredRowPersist pkg r s) := by
  unfold execRetiredRowPersist
  dsimp only
  (repeat' split) <;> simp [hm]

/-! ### Machine/Queues -/

@[simp] theorem State.modQueue_mem (s : State) (ctx q : Nat) (f : Queue → Queue) : (s.modQueue ctx q f).mem = s.mem := (rfl)

@[simp] theorem State.badPacket_mem (s : State) (ctx q slot typ : Nat) : (s.badPacket ctx q slot typ).mem = s.mem := (rfl)

@[simp] theorem State.readQueue_mem (s : State) (ctx q : Nat) : (s.readQueue ctx q).mem = s.mem := by
  unfold State.readQueue
  (repeat' split) <;> simp

@[simp] theorem State.advanceQueue_wf (s : State) (ctx q n : Nat) (hm : Memory.wf s.mem = true) :
    Memory.wf (s.advanceQueue ctx q n).mem = true := by
  unfold State.advanceQueue
  (repeat' split) <;> simp [hm]

theorem execQueueDoorbell_keeps (fn ctx q wi : Nat) (s : State) (hm : Memory.wf s.mem = true) : Out.Keeps (execQueueDoorbell fn ctx q wi s) := by
  unfold execQueueDoorbell
  dsimp only
  (repeat' split) <;> simp [hm]

theorem State.atPacket_wf {s : State} (hm : Memory.wf s.mem = true) (p : Packet) (f : State → Ctx → Queue → State)
    (hf : ∀ c x, (f s c x).Inv) : Memory.wf (s.atPacket p f).mem = true := by
  unfold State.atPacket
  split
  · exact hm
  split
  · exact hm
  split
  · exact hm
  · exact hf _ _

theorem execInvalidPacket_keeps (p : Packet) (s : State) (hm : Memory.wf s.mem = true) : Out.Keeps (execInvalidPacket p s) :=
  (Out.keeps_next _).2 (State.atPacket_wf hm _ _ fun _ _ => State.advanceQueue_wf _ _ _ _ ((State.badPacket_mem ..).symm ▸ hm))

theorem execPhase_keeps (p : Packet) (s : State) (hm : Memory.wf s.mem = true) : Out.Keeps (execPhase p s) :=
  (Out.keeps_next _).2 (State.atPacket_wf hm _ _ fun _ _ => State.advanceQueue_wf _ _ _ _ hm)

theorem execLeaseHint_keeps (p : Packet) (s : State) (hm : Memory.wf s.mem = true) : Out.Keeps (execLeaseHint p s) := by
  refine (Out.keeps_next _).2 (State.atPacket_wf hm _ _ fun c x => State.advanceQueue_wf _ _ _ _ ?_)
  split <;> simp [hm]

theorem execSignal_keeps (p : Packet) (s : State) (hm : Memory.wf s.mem = true) : Out.Keeps (execSignal p s) :=
  (Out.keeps_next _).2 (State.atPacket_wf hm _ _ fun _ _ => State.advanceQueue_wf _ _ _ _ (ite_wf hm hm))

theorem execSignalFire_keeps (p : Packet) (s : State) (hm : Memory.wf s.mem = true) : Out.Keeps (execSignalFire p s) := by
  unfold execSignalFire
  rw [Out.keeps_next]
  split
  · exact hm
  extract_lets core add r s1
  have ha : ∀ t, add = .ok t → Memory.wf t.mem = true := by
    intro t ht
    dsimp only [add] at ht
    split at ht
    · next x ia _ =>
      cases h : s.engRmw p.ctx core x ia .csig false (leBytes 8 (p.w 2).toNat) with
      | error e =>
        rw [h] at ht
        cases ht
      | ok y =>
        rw [h] at ht
        cases ht
        exact State.engRmw_wf hm _ _ _ _ _ _ _ _ h
    · cases ht
  have hr : ∀ t, r = .ok t → Memory.wf t.mem = true := by
    intro t ht
    dsimp only [r] at ht
    split at ht
    · exact ha t ht
    · exact State.ctxStore_wf hm _ _ _ _ ht
  have h1 : Memory.wf s1.mem = true := by
    dsimp only [s1]
    clear_value r
    split
    · exact hr _ rfl
    · rwa [State.badPacket_mem, State.ctxErr_mem]
  exact ite_wf hm (ite_wf hm (ite_wf hm (ite_wf ((State.raise_mem ..).symm ▸ h1) h1)))

@[simp] theorem State.unholdQueue_mem (s : State) (ctx q : Nat) : (s.unholdQueue ctx q).mem = s.mem := by simp [State.unholdQueue]

@[simp] theorem State.tryHold_mem (s : State) (ctx q : Nat) : (s.tryHold ctx q).mem = s.mem := by
  unfold State.tryHold
  (repeat' split) <;> simp -implicitDefEqProofs

@[simp] theorem State.holdQueue_wf (s : State) (p : Packet) (conds : List (W64 × W64)) (hm : Memory.wf s.mem = true) :
    Memory.wf (s.holdQueue p conds).mem = true := by simp [hm, State.holdQueue]

theorem execWait_keeps (p : Packet) (s : State) (hm : Memory.wf s.mem = true) : Out.Keeps (execWait p s) :=
  (Out.keeps_next _).2 (State.atPacket_wf hm _ _ fun _ _ => State.holdQueue_wf _ _ _ hm)

theorem execBarrierAnd_keeps (p : Packet) (s : State) (hm : Memory.wf s.mem = true) : Out.Keeps (execBarrierAnd p s) :=
  (Out.keeps_next _).2 (State.atPacket_wf hm _ _ fun _ _ => State.holdQueue_wf _ _ _ hm)

theorem execWaitRecheck_keeps (ctx q : Nat) (s : State) (hm : Memory.wf s.mem = true) : Out.Keeps (execWaitRecheck ctx q s) := by
  unfold execWaitRecheck
  split <;> simp [hm]

@[simp] theorem State.handDown_mem (s : State) (c : Ctx) (l : Launch) : (s.handDown c l).mem = s.mem := (rfl)

@[simp] theorem State.voidLaunch_wf (s : State) (ctx : Nat) (l : Launch) (hm : Memory.wf s.mem = true) :
    Memory.wf (s.voidLaunch ctx l).mem = true := by simp [hm, State.voidLaunch]

@[simp] theorem State.spend_wf (s : State) (n ctx q : Nat) (dry : Option Nat) (hm : Memory.wf s.mem = true) :
    Memory.wf (s.spend n ctx q dry).mem = true := by
  induction n generalizing s with
  | zero => exact hm
  | succ k ih =>
    unfold State.spend
    split
    · exact hm
    split
    · refine ite_wf hm (ite_wf (State.voidLaunch_wf _ _ _ hm) (ih _ ?_))
      rwa [State.handDown_mem]
    · exact hm

@[simp] theorem State.clamp_mem (s : State) : s.clamp.mem = s.mem := (rfl)

@[simp] theorem State.drrQueue_wf (s : State) (ctx q : Nat) (hm : Memory.wf s.mem = true) : Memory.wf (s.drrQueue ctx q).mem = true := by
  unfold State.drrQueue
  (repeat' split) <;> simp [hm]

@[simp] theorem State.kickRack_mem (s : State) : s.kickRack.mem = s.mem := by simp [State.kickRack]

@[simp] theorem State.settleComplete_wf (s : State) (hm : Memory.wf s.mem = true) : Memory.wf s.settleComplete.mem = true :=
  foldl_wf (fun _ _ ht => State.settleLaunch_wf _ _ _ _ ht) _ _ hm

theorem execDrrRound_keeps (s : State) (hm : Memory.wf s.mem = true) : Out.Keeps (execDrrRound s) := by
  unfold execDrrRound
  rw [Out.keeps_next, State.kickRack_mem]
  exact foldl_wf (fun _ _ ht => State.drrQueue_wf _ _ _ ht) _ _ (State.settleComplete_wf s hm)

@[simp] theorem State.costCharge_mem (s : State) (b : BlkId) (cost : Nat) : (s.costCharge b cost).mem = s.mem := by
  unfold State.costCharge
  (repeat' split) <;> simp

theorem execBlockCostCharge_keeps (b : BlkId) (cost : Nat) (s : State) (hm : Memory.wf s.mem = true) :
    Out.Keeps (execBlockCostCharge b cost s) := by simp [hm, execBlockCostCharge]

@[simp] theorem State.reserve_mem (s : State) (c : Ctx) (l : Launch) : (s.reserve c l).mem = s.mem := by simp [State.reserve]

theorem execLaunch_keeps (p : Packet) (s : State) (hm : Memory.wf s.mem = true) : Out.Keeps (execLaunch p s) := by
  refine (Out.keeps_next _).2 (State.atPacket_wf hm _ _ fun c x => ?_)
  refine ite_inv hm ?_
  extract_lets l enter failed s1 s2
  have h1 : s1.Inv := by
    dsimp only [s1]
    rwa [State.Inv, State.reserve_mem]
  have h2 : s2.Inv := by
    refine ite_inv ?_ (ite_inv (State.settleLaunch_wf _ _ _ _ ?_) ?_)
    · rwa [State.Inv, State.launchBadRecord_mem]
    · rwa [State.launchBadRecord_mem]
    · rw [State.Inv, State.tagRelook_mem, State.kickRack_mem]
      exact ite_inv (State.spend_wf _ _ _ _ _ h1) h1
  exact State.advanceQueue_wf _ _ _ _ h2

theorem execChunkAppend_keeps (ctx launch pkg : Nat) (idxs : List Nat) (s : State) (hm : Memory.wf s.mem = true) :
    Out.Keeps (execChunkAppend ctx launch pkg idxs s) := by
  unfold execChunkAppend
  (repeat' split) <;> simp -implicitDefEqProofs [hm]

/-! ### Machine/Distrib -/

@[simp] theorem State.useClass_mem (s : State) (pkg ctx : Nat) (entry : W64) : (s.useClass pkg ctx entry).mem = s.mem := (rfl)

@[simp] theorem State.placeBlk_wf (s : State) (l : Launch) (x : BlkId × CoreId × List Nat) (hm : Memory.wf s.mem = true) :
    Memory.wf (s.placeBlk l x).mem = true := by
  unfold State.placeBlk
  dsimp only
  (repeat' split) <;> simp [hm]

theorem execPhaseClean_keeps (pkg die ctx q ph : Nat) (s : State) (hm : Memory.wf s.mem = true) :
    Out.Keeps (execPhaseClean pkg die ctx q ph s) := by
  unfold execPhaseClean
  split <;> simp [hm]

@[simp] theorem State.endDrain_mem (s : State) (pkg die : Nat) : (s.endDrain pkg die).mem = s.mem := by
  unfold State.endDrain
  split <;> simp

@[simp] theorem State.tryEntry_wf (s : State) (pkg die : Nat) (head : Option BlkId) (id : BlkId) (hm : Memory.wf s.mem = true) :
    Memory.wf (s.tryEntry pkg die head id).mem = true := by
  unfold State.tryEntry
  split
  · split
    · refine ite_wf hm (ite_wf hm ?_)
      extract_lets isHead
      clear_value isHead
      split
      · exact hm
      · exact State.failLaunch_wf _ _ _ hm
      · exact foldl_wf (fun _ _ ht => State.placeBlk_wf _ _ _ ht) _ _ (ite_wf ((State.endDrain_mem ..).symm ▸ hm) hm)
    · exact hm
  · exact hm

@[simp] theorem State.placeOut_mem (s : State) (pkg die : Nat) : (s.placeOut pkg die).mem = s.mem := by
  refine foldl_mem (fun t c => ?_) _ _
  split
  · dsimp only
    split
    · split <;> simp
    · rfl
  · rfl

@[simp] theorem State.ageHead_mem (s : State) (pkg die : Nat) (was : Option BlkId) : (s.ageHead pkg die was).mem = s.mem := by
  unfold State.ageHead
  split <;> simp

@[simp] theorem State.roundWaits_wf (s : State) (pkg die : Nat) (hm : Memory.wf s.mem = true) : Memory.wf (s.roundWaits pkg die).mem = true := by
  unfold State.roundWaits
  dsimp only
  (repeat' split) <;> simp [hm]

theorem execDieDistributorRound_keeps (pkg die : Nat) (s : State) (hm : Memory.wf s.mem = true) : Out.Keeps (execDieDistributorRound pkg die s) := by
  unfold execDieDistributorRound
  split
  · simp
  · rw [Out.keeps_next, State.ageHead_mem]
    refine State.roundWaits_wf _ _ _ (foldl_wf (fun _ _ ht => State.tryEntry_wf _ _ _ _ _ ht) _ _ ?_)
    rwa [State.placeOut_mem]

@[simp] theorem State.moveBlks_mem (s : State) (pkg die : Nat) (ids : List BlkId) :
    (s.moveBlks pkg die ids).mem = s.mem := by simp -implicitDefEqProofs [State.moveBlks]

@[simp] theorem State.stealAt_wf (s : State) (c : Ctx) (opt pkg die : Nat) (ev : Instr) (ids : List BlkId) (victim : Nat)
    (hm : Memory.wf s.mem = true) : Memory.wf (s.stealAt c opt pkg die ev ids victim).mem = true := by
  cases ids with
  | nil => exact hm
  | cons i r => exact State.atPoint_wf _ _ _ _ (fun t ht => (State.moveBlks_mem ..).symm ▸ ht) hm

theorem execStealWithinPackage_keeps (pkg die : Nat) (s : State) (hm : Memory.wf s.mem = true) :
    Out.Keeps (execStealWithinPackage pkg die s) := by
  unfold execStealWithinPackage
  dsimp only
  (repeat' split) <;> simp [hm]

theorem execStealBetweenPackages_keeps (pkg die : Nat) (wide : Bool) (s : State) (hm : Memory.wf s.mem = true) :
    Out.Keeps (execStealBetweenPackages pkg die wide s) := by
  unfold execStealBetweenPackages
  dsimp only
  (repeat' split) <;> simp [hm]

theorem execTrayLengthCollect_keeps (tray : Nat) (s : State) (hm : Memory.wf s.mem = true) :
    Out.Keeps (execTrayLengthCollect tray s) := by simp [hm, execTrayLengthCollect]

theorem execTrayCostForward_keeps (tray : Nat) (s : State) (hm : Memory.wf s.mem = true) :
    Out.Keeps (execTrayCostForward tray s) := by simp [hm, execTrayCostForward]

theorem execTrayStandbyRefresh_keeps (tray : Nat) (s : State) (hm : Memory.wf s.mem = true) :
    Out.Keeps (execTrayStandbyRefresh tray s) := by simp [hm, execTrayStandbyRefresh]

theorem execTrayStandbyTakeover_keeps (tray : Nat) (s : State) (hm : Memory.wf s.mem = true) :
    Out.Keeps (execTrayStandbyTakeover tray s) := by simp [hm, execTrayStandbyTakeover]

@[simp] theorem State.dropReads_mem (s : State) (b : Blk) : (s.dropReads b).mem = s.mem := (rfl)

@[simp] theorem State.startBlk_mem (s : State) (c : Ctx) (l : Launch) (b : Blk) : (s.startBlk c l b).mem = s.mem := by simp [State.startBlk]

@[simp] theorem State.startOne_wf (s : State) (i : BlkId) (hm : Memory.wf s.mem = true) : Memory.wf (s.startOne i).mem = true := by
  unfold State.startOne
  split
  · split
    · exact hm
    · exact ite_wf hm (State.atPoint_wf _ _ _ _ (fun t ht => (State.startBlk_mem ..).symm ▸ ht) hm)
  · exact hm

theorem execBlockStart_keeps (i : BlkId) (s : State) (hm : Memory.wf s.mem = true) : Out.Keeps (execBlockStart i s) := by
  unfold execBlockStart
  rw [Out.keeps_next]
  split
  · split
    · exact hm
    refine ite_wf hm ?_
    split
    · exact State.failLaunch_wf _ _ _ hm
    · exact ite_wf hm (ite_wf hm (ite_wf (ite_wf hm hm) (foldl_wf (fun _ _ ht => State.startOne_wf _ _ ht) _ _ hm)))
  · exact hm

/-! ### Machine/Preempt -/

@[simp] theorem State.logPreempt_wf (s : State) (c : Ctx) (hm : Memory.wf s.mem = true) : Memory.wf (s.logPreempt c).mem = true := by
  unfold State.logPreempt
  refine ite_wf hm ?_
  rw [State.bumpSeq_mem]
  exact foldl_wf (fun _ _ ht => State.logSpecial_wf _ _ _ _ ht) _ _ hm

@[simp] theorem State.kickSaves_mem (s : State) (ctx : Nat) : (s.kickSaves ctx).mem = s.mem := (rfl)

@[simp] theorem State.unplace_mem (s : State) (b : Blk) : (s.unplace b).mem = s.mem := (rfl)

@[simp] theorem State.markSaves_mem (s : State) (ctx : Nat) : (s.markSaves ctx).mem = s.mem := by
  unfold State.markSaves
  rw [State.kickSaves_mem]
  exact foldl_mem State.unplace_mem _ _

@[simp] theorem State.gatherStops_mem (s : State) (c : Ctx) (trays : List Nat) :
    (s.gatherStops c trays).mem = s.mem := by simp [State.gatherStops]

theorem execRackPreemption_keeps (ctx : Nat) (s : State) (hm : Memory.wf s.mem = true) : Out.Keeps (execRackPreemption ctx s) := by
  unfold execRackPreemption
  (repeat' split) <;> simp [hm]

theorem execPreemptionBoundExpiry_keeps (ctx : Nat) (s : State) (hm : Memory.wf s.mem = true) :
    Out.Keeps (execPreemptionBoundExpiry ctx s) := by simp [hm, execPreemptionBoundExpiry]

@[simp] theorem State.saveFails_mem (s : State) (c : Ctx) (pkg : Nat) : (s.saveFails c pkg).mem = s.mem := (rfl)

@[simp] theorem State.modHeldOut_mem (s : State) (b : BlkId) : (s.modHeldOut b).mem = s.mem := (rfl)

@[simp] theorem State.saveBlk_wf (s : State) (b : Blk) (hm : Memory.wf s.mem = true) : Memory.wf (s.saveBlk b).mem = true := by
  unfold State.saveBlk
  dsimp only
  (repeat' split) <;> simp -implicitDefEqProofs [hm]

theorem execBlockSave_keeps (i : BlkId) (s : State) (hm : Memory.wf s.mem = true) : Out.Keeps (execBlockSave i s) := by
  unfold execBlockSave
  rw [Out.keeps_next]
  split
  · exact hm
  refine ite_wf hm (ite_wf ?_ hm)
  split
  · refine ite_wf ?_ ?_
    · rw [State.kickDies_mem]
      exact foldl_wf (fun _ _ ht => State.saveBlk_wf _ _ ht) _ _ hm
    · rwa [State.saveFails_mem]
  · exact hm

@[simp] theorem State.remake_mem (s : State) (b : Blk) : (s.remake b).mem = s.mem := by
  unfold State.remake
  dsimp only
  rw [foldl_mem fun t c => State.wakeXwaits_mem t b.id c, foldl_mem fun t o => ?_, foldl_mem fun t x => ?_]
  · split <;> simp
  · split
    · split <;> simp
    · rfl

@[simp] theorem State.moveHeld_mem (s : State) (grp : List Blk) (b : Blk) : (s.moveHeld grp b).mem = s.mem := (rfl)

@[simp] theorem State.lateResponse_mem (s : State) (r : WaveId × Nat × W64) : (s.lateResponse r).mem = s.mem := by
  unfold State.lateResponse
  split <;> simp

@[simp] theorem State.restoreBlk_mem (s : State) (grp : List Blk) (b : Blk) (quads : List Nat) : (s.restoreBlk grp b quads).mem = s.mem := by
  unfold State.restoreBlk
  dsimp only
  (repeat' split) <;> simp

@[simp] theorem State.endPreempt_mem (s : State) (ctx : Nat) : (s.endPreempt ctx).mem = s.mem := by
  unfold State.endPreempt
  split <;> simp

theorem execBlockRestore_keeps (i : BlkId) (k : CoreId) (s : State) (hm : Memory.wf s.mem = true) : Out.Keeps (execBlockRestore i k s) := by
  unfold execBlockRestore
  dsimp only
  (repeat' split) <;> simp [hm]

@[simp] theorem State.bumpPkg_mem (s : State) (ctx pkg : Nat) : (s.bumpPkg ctx pkg).mem = s.mem := (rfl)

@[simp] theorem State.switchOut_mem (s : State) (c : Ctx) (pkg : Nat) : (s.switchOut c pkg).mem = s.mem := by simp [State.switchOut]

theorem execContextSwitchOff_keeps (ctx pkg : Nat) (s : State) (hm : Memory.wf s.mem = true) : Out.Keeps (execContextSwitchOff ctx pkg s) := by
  unfold execContextSwitchOff
  split
  · simp
  rw [Out.keeps_next]
  split
  · exact hm
  refine ite_wf hm ?_
  extract_lets s1 mine s2 mark s3
  have h3 : Memory.wf s3.mem = true := by
    have h2 : s2.mem = s1.mem := foldl_mem State.unplace_mem _ _
    have h1 : s1.mem = s.mem := by
      dsimp only [s1]
      split <;> rfl
    exact (h2.trans h1).symm ▸ hm
  refine ite_wf ?_ ?_
  · rwa [State.due_mem, State.kickSaves_mem]
  · split
    · refine ite_wf ?_ ?_
      · rwa [State.switchOut_mem]
      · rwa [State.saveFails_mem]
    · exact h3

@[simp] theorem State.refillAll_mem (s : State) (c : Ctx) (pkg : Nat) : (s.refillAll c pkg).mem = s.mem := by
  unfold State.refillAll
  refine foldl_mem (fun t x => ?_) _ _
  split
  · rfl
  · rw [State.kickTask_mem, State.modCore_mem, State.modPkg_mem]

theorem execContextSwitchOn_keeps (ctx pkg : Nat) (s : State) (hm : Memory.wf s.mem = true) : Out.Keeps (execContextSwitchOn ctx pkg s) := by
  unfold execContextSwitchOn
  (repeat' split) <;> simp [hm]

@[simp] theorem State.flushRing_wf (s : State) (n ctx lpkg : Nat) (hm : Memory.wf s.mem = true) : Memory.wf (s.flushRing n ctx lpkg).mem = true := by
  induction n generalizing s with
  | zero => exact hm
  | succ k ih =>
    unfold State.flushRing
    split
    · exact hm
    split
    · exact hm
    · exact ite_wf hm (ih _ (State.logWrite_wf _ _ _ _ hm))

theorem execLogRingDrain_keeps (ctx lpkg ci : Nat) (s : State) (hm : Memory.wf s.mem = true) : Out.Keeps (execLogRingDrain ctx lpkg ci s) := by
  unfold execLogRingDrain
  rw [Out.keeps_next]
  split
  · exact hm
  refine ite_wf hm ?_
  rw [State.unhold_mem]
  exact State.logHiwater_wf _ _ _ (State.flushRing_wf _ _ _ _ (State.devPut_wf _ _ _ _ hm))

@[simp] theorem State.takeRecs_wf (s : State) (n ctx lpkg : Nat) (hm : Memory.wf s.mem = true) : Memory.wf (s.takeRecs n ctx lpkg).1.mem = true := by
  induction n generalizing s with
  | zero => exact hm
  | succ k ih =>
    unfold State.takeRecs
    split
    · exact hm
    extract_lets pi
    split
    · exact hm
    split
    · rwa [State.diverge_mem]
    · exact ih _ (State.devPut_wf _ _ _ _ hm)

theorem execReplayReaderTake_keeps (ctx lpkg : Nat) (s : State) (hm : Memory.wf s.mem = true) : Out.Keeps (execReplayReaderTake ctx lpkg s) := by
  unfold execReplayReaderTake
  rw [Out.keeps_next]
  split
  · exact hm
  extract_lets busy pass
  refine ite_wf hm (ite_wf hm ?_)
  have h := State.takeRecs_wf (s.modCtx ctx fun c => c.modRing lpkg pass) 4096 ctx lpkg hm
  split
  next t took ht =>
  rw [ht] at h
  exact ite_wf ((State.unhold_mem ..).symm ▸ h) h

theorem execReplayHoldTimeout_keeps (ctx held : Nat) (s : State) (hm : Memory.wf s.mem = true) :
    Out.Keeps (execReplayHoldTimeout ctx held s) := by
  unfold execReplayHoldTimeout
  split <;> simp [hm]

theorem execLogEnd_keeps (ctx reason : Nat) (s : State) (hm : Memory.wf s.mem = true) : Out.Keeps (execLogEnd ctx reason s) := by
  unfold execLogEnd
  rw [Out.keeps_next]
  split
  · exact hm
  refine ite_wf hm (ite_wf ?_ (ite_wf ?_ hm))
  · exact foldl_wf (fun _ _ ht => State.logSpecial_wf _ _ _ _ ht) _ _ hm
  · dsimp only
    split
    · rwa [State.diverge_mem]
    · exact ite_wf hm hm

/-! ### Machine/Collectives -/

theorem State.hubAdd_wf {s : State} (hm : Memory.wf s.mem = true) (ctx : Nat) (x : Range × Nat) (v : W64) :
    ∀ t, s.hubAdd ctx x v = .ok t → Memory.wf t.mem = true :=
  State.counterAdd_wf hm _ _ _ _

theorem State.hubArrive_wf {s : State} (hm : Memory.wf s.mem = true) (ctx : Nat) (x : Range × Nat) (k : Nat) :
    ∀ t, s.hubArrive ctx x k = .ok t → Memory.wf t.mem = true := by
  unfold State.hubArrive
  split
  · simp
  · next h =>
    rintro t ⟨⟩
    simpa using State.engRmw_wf hm _ _ _ _ _ _ _ _ h

@[simp] theorem State.colRecord_mem (s : State) (ctx : Nat) (at_ : Nat × Nat) (e : EngErr) : (s.colRecord ctx at_ e).mem = s.mem := by
  unfold State.colRecord
  split <;> simp

@[simp] theorem State.colFail_mem (s : State) (ctx buf : Nat) (at_ : Nat × Nat) (e : EngErr) :
    (s.colFail ctx buf at_ e).mem = s.mem := by simp [State.colFail]

@[simp] theorem State.modBind_mem (s : State) (ctx buf : Nat) (f : Binding → Binding) : (s.modBind ctx buf f).mem = s.mem := (rfl)

@[simp] theorem State.freeLanding_mem (s : State) (e : Instr) : (s.freeLanding e).mem = s.mem := by
  unfold State.freeLanding
  (repeat' split) <;> simp

@[simp] theorem State.refuseSlot_mem (s : State) (ctx : Nat) (b : Binding) (id : Nat) :
    (s.refuseSlot ctx b id).mem = s.mem := by simp [State.refuseSlot]

@[simp] theorem State.sendPartial_mem (s : State) (ctx : Nat) (b : Binding) (k : Chunk) : (s.sendPartial ctx b k).mem = s.mem := by
  unfold State.sendPartial
  split <;> simp

@[simp] theorem State.forwardShard_mem (s : State) (ctx : Nat) (b : Binding) (x : Shard) : (s.forwardShard ctx b x).mem = s.mem := by
  unfold State.forwardShard
  split <;> simp

theorem execSlotReservationRetry_keeps (ctx buf id : Nat) (s : State) (hm : Memory.wf s.mem = true) :
    Out.Keeps (execSlotReservationRetry ctx buf id s) := by
  unfold execSlotReservationRetry
  (repeat' split) <;> simp [hm]

@[simp] theorem State.contribDone_wf (s : State) (src : ContribSrc) (status : Nat) (hm : Memory.wf s.mem = true) :
    Memory.wf (s.contribDone src status).mem = true := by
  unfold State.contribDone
  (repeat' split) <;> simp [hm]

@[simp] theorem State.mixBytes_mem (s : State) (size : Nat) (old new : List Byte) : (s.mixBytes size old new).2.mem = s.mem := by
  unfold State.mixBytes
  split
  · rfl
  have h : ∀ (l : List Nat) (f : List Byte × State → Nat → List Byte × State) (acc : List Byte × State),
      (∀ a i, (f a i).2.mem = a.2.mem) → (l.foldl f acc).2.mem = acc.2.mem := by
    intro l f acc hf
    induction l generalizing acc with
    | nil => rfl
    | cons i r ih => exact (ih _).trans (hf acc i)
  refine h _ _ _ fun a i => ?_
  dsimp only
  split <;> rfl

@[simp] theorem State.takeContrib_wf (s : State) (c : Contrib) (lpkg : Nat) (bs : List Byte) (hm : Memory.wf s.mem = true) :
    Memory.wf (s.takeContrib c lpkg bs).mem = true := by
  unfold State.takeContrib
  split <;> simp [hm]

theorem execContributionCount_keeps (c : Contrib) (s : State) (hm : Memory.wf s.mem = true) : Out.Keeps (execContributionCount c s) := by
  unfold execContributionCount
  rw [Out.keeps_next]
  split
  · split
    · exact State.contribDone_wf _ _ _ hm
    refine ite_wf (State.contribDone_wf _ _ _ hm) (ite_wf hm ?_)
    split
    · exact hm
    · exact State.contribDone_wf _ _ _ ((State.noteErr_mem ..).symm ▸ hm)
    · refine ite_wf hm (State.atPoint_wf _ _ _ _ (fun t ht => State.takeContrib_wf _ _ _ _ ?_) hm)
      rwa [State.mixBytes_mem]
  · exact hm

theorem execExitFiredContribution_keeps (id : BlkId) (s : State) (hm : Memory.wf s.mem = true) : Out.Keeps (execExitFiredContribution id s) := by
  unfold execExitFiredContribution
  dsimp only
  (repeat' split) <;> simp [hm]

theorem execColsend_keeps (w : AW) (s : State) (hm : Memory.wf s.mem = true) : Out.Keeps (execColsend w s) := by
  unfold execColsend
  dsimp only
  (repeat' split) <;> simp [hm]

theorem execShadowCombine_keeps (p : Partial) (s : State) (hm : Memory.wf s.mem = true) : Out.Keeps (execShadowCombine p s) := by
  unfold execShadowCombine
  rw [Out.keeps_next]
  split
  · exact hm
  split
  · extract_lets off n size doff x free fail nans words put
    have hfree : ∀ t, Memory.wf t.mem = true → Memory.wf (free t).mem = true := fun t ht => (State.freeLanding_mem ..).symm ▸ ht
    have hfail : ∀ t e, Memory.wf t.mem = true → Memory.wf (fail t e).mem = true := fun t e ht => by
      dsimp only [fail]
      rw [State.colFail_mem]
      exact hfree t ht
    refine ite_wf (hfree s hm) (ite_wf hm ?_)
    clear_value words
    split
    · exact hfail _ _ hm
    split
    · exact hfail _ _ hm
    next t h =>
    have ht := State.hubWrite_wf hm _ _ _ _ t h
    refine ite_wf (hfree t ht) ?_
    split
    · exact hfail _ _ ht
    · next u h2 => exact hfree u (State.hubWrite_wf ht _ _ _ _ u h2)
  · exact hm

theorem execShardLand_keeps (x : Shard) (s : State) (hm : Memory.wf s.mem = true) : Out.Keeps (execShardLand x s) := by
  unfold execShardLand
  rw [Out.keeps_next]
  split
  · exact hm
  extract_lets free fail
  have hfree : ∀ t, Memory.wf t.mem = true → Memory.wf (free t).mem = true := fun t ht => (State.freeLanding_mem ..).symm ▸ ht
  have hfail : ∀ t e, Memory.wf t.mem = true → Memory.wf (fail t e).mem = true := fun t e ht => by
    dsimp only [fail]
    rw [State.colFail_mem]
    exact hfree t ht
  refine ite_wf (hfree s hm) ?_
  split
  · exact hfail _ _ hm
  split
  · exact hfail _ _ hm
  · exact hm
  refine ite_wf hm ?_
  split
  · exact hfail _ _ hm
  next t h =>
  extract_lets s1 s2
  have h2 : Memory.wf s2.mem = true := ite_wf (hfree t (State.hubWrite_wf hm _ _ _ _ t h)) (hfree t (State.hubWrite_wf hm _ _ _ _ t h))
  refine ite_wf ?_ h2
  split
  · rwa [State.forwardShard_mem]
  · exact h2

theorem execCompletionSignalUpdate_keeps (ctx buf j : Nat) (s : State) (hm : Memory.wf s.mem = true) :
    Out.Keeps (execCompletionSignalUpdate ctx buf j s) := by
  unfold execCompletionSignalUpdate
  rw [Out.keeps_next]
  split
  · exact hm
  extract_lets held at_ s1
  refine ite_wf hm ?_
  have h1 : Memory.wf s1.mem = true := by
    dsimp only [s1]
    split
    · split
      · next h => exact State.hubAdd_wf hm _ _ _ _ h
      · rwa [State.colFail_mem]
    · exact hm
  split
  · split
    · next h => exact State.hubArrive_wf h1 _ _ _ _ h
    · rwa [State.colFail_mem]
  · exact h1

@[simp] theorem State.failSignal_wf (s : State) (ctx : Nat) (b : Binding) (j : Nat) (hm : Memory.wf s.mem = true) :
    Memory.wf (s.failSignal ctx b j).mem = true := by
  unfold State.failSignal
  extract_lets at_ s1
  have h1 : Memory.wf s1.mem = true := by
    dsimp only [s1]
    split
    · split
      · next h => exact State.hubAdd_wf hm _ _ _ _ h
      · rwa [State.colRecord_mem]
    · exact hm
  split
  · split
    · next h => exact State.hubArrive_wf h1 _ _ _ _ h
    · rwa [State.colRecord_mem]
  · exact h1

@[simp] theorem State.dropTransfers_mem (s : State) (ctx buf : Nat) : (s.dropTransfers ctx buf).mem = s.mem := by simp [State.dropTransfers]

@[simp] theorem State.dropContribs_mem (s : State) (ctx buf : Nat) : (s.dropContribs ctx buf).mem = s.mem := (rfl)

@[simp] theorem State.failBuf_wf (s : State) (ctx buf : Nat) (hm : Memory.wf s.mem = true) : Memory.wf (s.failBuf ctx buf).mem = true := by
  unfold State.failBuf
  split
  · exact hm
  refine ite_wf hm ?_
  extract_lets s1 mark s2 s3
  have h3 : Memory.wf s3.mem = true := by
    refine foldl_wf (fun _ _ ht => State.failSignal_wf _ _ _ _ ht) _ _ ?_
    rw [State.modBind_mem, State.dropTransfers_mem]
    exact hm
  refine foldl_wf (fun _ _ ht => State.contribDone_wf _ _ _ ht) _ _ ?_
  rwa [State.dropContribs_mem]

theorem execCollectiveFailure_keeps (ctx buf : Nat) (s : State) (hm : Memory.wf s.mem = true) : Out.Keeps (execCollectiveFailure ctx buf s) := by
  unfold execCollectiveFailure
  dsimp only
  (repeat' split) <;> simp [hm]

theorem execBind_keeps (p : Packet) (s : State) (hm : Memory.wf s.mem = true) : Out.Keeps (execBind p s) := by
  refine (Out.keeps_next _).2 (State.atPacket_wf hm _ _ fun _ _ => State.advanceQueue_wf _ _ _ _ (ite_wf hm ?_))
  rwa [State.badPacket_mem]

theorem execUnbind_keeps (p : Packet) (s : State) (hm : Memory.wf s.mem = true) : Out.Keeps (execUnbind p s) := by
  have hb : ∀ t : State, Memory.wf t.mem = true → Memory.wf ((t.badPacket p.ctx p.q p.slot 5).advanceQueue p.ctx p.q 1).mem = true :=
    fun t ht => State.advanceQueue_wf _ _ _ _ ((State.badPacket_mem ..).symm ▸ ht)
  refine (Out.keeps_next _).2 (State.atPacket_wf hm _ _ fun c x => ?_)
  dsimp only
  split
  · exact ite_wf (hb s hm) (ite_wf (State.advanceQueue_wf _ _ _ _ hm) hm)
  · exact hb s hm

/-! ### Machine/Contexts -/

@[simp] theorem State.ctxStatus_mem (s : State) (fn ctx st : Nat) : (s.ctxStatus fn ctx st).mem = s.mem := (rfl)

@[simp] theorem State.buryCtx_mem (s : State) (ctx : Nat) : (s.buryCtx ctx).mem = s.mem := by
  unfold State.buryCtx
  split <;> simp

@[simp] theorem State.sendRejections_mem (s : State) (c : Ctx) : (s.sendRejections c).mem = s.mem := by simp [State.sendRejections]

@[simp] theorem State.stopContext_mem (s : State) (c : Ctx) : (s.stopContext c).mem = s.mem := by
  unfold State.stopContext
  dsimp only
  (repeat' split) <;> simp

theorem execCtxcmdTeardown_keeps (fn ctx : Nat) (s : State) (hm : Memory.wf s.mem = true) : Out.Keeps (execCtxcmdTeardown fn ctx s) := by
  unfold execCtxcmdTeardown
  (repeat' split) <;> simp [hm]

@[simp] theorem State.revokeAt_wf (s : State) (ctx : Nat) (k : CoreId) (hm : Memory.wf s.mem = true) : Memory.wf (s.revokeAt ctx k).mem = true := by
  unfold State.revokeAt
  extract_lets ids here exits kill ops mine core die s1 s2 s3
  have h2 : s2.mem = s1.mem := foldl_mem (fun t w => State.ctxDead_mem t w) _ _
  refine foldl_wf (fun _ _ ht => State.closeBlk_wf _ _ ht) _ _ ?_
  rw [State.kickTask_mem, State.kickRefills_mem, State.modPkg_mem, State.modDie_mem, State.modCore_mem, State.freeLocks_mem, h2]
  exact hm

theorem execCoreRevocation_keeps (ctx : Nat) (k : CoreId) (s : State) (hm : Memory.wf s.mem = true) : Out.Keeps (execCoreRevocation ctx k s) := by
  unfold execCoreRevocation
  (repeat' split) <;> simp [hm]

@[simp] theorem State.cancelCmds_wf (s : State) (ctx : Nat) (h : HomeId) (hm : Memory.wf s.mem = true) :
    Memory.wf (s.cancelCmds ctx h).mem = true := by
  refine foldl_wf (fun t e ht => ?_) _ _ hm
  split
  · exact State.cmdEnd_wf _ _ _ _ _ ht
  · exact ht

@[simp] theorem State.rejectPage_wf (s : State) (e : Entry) (hm : Memory.wf s.mem = true) : Memory.wf (s.rejectPage e).mem = true := by
  unfold State.rejectPage
  (repeat' split) <;> simp [hm]

@[simp] theorem State.dropLeases_mem (s : State) (ctx : Nat) (h : HomeId) : (s.dropLeases ctx h).mem = s.mem := by simp [State.dropLeases]

theorem execContextRejection_keeps (ctx : Nat) (h : HomeId) (s : State) (hm : Memory.wf s.mem = true) : Out.Keeps (execContextRejection ctx h s) := by
  unfold execContextRejection
  split
  · simp
  rw [Out.keeps_next]
  split
  · exact hm
  refine ite_wf hm ?_
  extract_lets s1 s2 s3
  have h2 : Memory.wf s2.mem = true := foldl_wf (fun _ _ ht => State.rejectPage_wf _ _ ht) _ _ hm
  have h3 : Memory.wf s3.mem = true := (State.dropLeases_mem ..).symm ▸ State.cancelCmds_wf _ _ _ h2
  exact ite_wf ((State.buryCtx_mem ..).symm ▸ h3) h3

@[simp] theorem State.enterCtx_mem (s : State) (c : Ctx) : (s.enterCtx c).mem = s.mem := (rfl)

theorem execCtxcmdCreate_keeps (fn ctx : Nat) (s : State) (hm : Memory.wf s.mem = true) : Out.Keeps (execCtxcmdCreate fn ctx s) := by
  unfold execCtxcmdCreate
  dsimp only
  (repeat' split) <;> simp [hm]

@[simp] theorem State.endContext_mem (s : State) (c : Ctx) : (s.endContext c).mem = s.mem := by simp [State.endContext]

@[simp] theorem State.resetFns_mem (s : State) (ev : Instr) (fns : List Nat) : (s.resetFns ev fns).mem = s.mem := by
  unfold State.resetFns
  split <;> simp

theorem execFunctionLevelReset_keeps (fn : Nat) (s : State) (hm : Memory.wf s.mem = true) :
    Out.Keeps (execFunctionLevelReset fn s) := by simp [hm, execFunctionLevelReset]

theorem execHotReset_keeps (pkg : Nat) (s : State) (hm : Memory.wf s.mem = true) : Out.Keeps (execHotReset pkg s) := by simp [hm, execHotReset]

@[simp] theorem State.fpartSet_mem (s : State) (fn : Nat) (mask : BitVec 576) : (s.fpartSet fn mask).mem = s.mem := by simp [State.fpartSet]

theorem execFpartWrite_keeps (fn : Nat) (mask : BitVec 576) (s : State) (hm : Memory.wf s.mem = true) :
    Out.Keeps (execFpartWrite fn mask s) := by simp [hm, execFpartWrite]

theorem execFunctionRegisterWrite_keeps (fn off : Nat) (v : W64) (s : State) (hm : Memory.wf s.mem = true) :
    Out.Keeps (execFunctionRegisterWrite fn off v s) := by
  unfold execFunctionRegisterWrite
  dsimp only
  (repeat' split) <;> simp [hm]

/-! ### Machine/HostPort -/

@[simp] theorem State.resetPkg_wf (s : State) (pkg : Nat) (hm : Memory.wf s.mem = true) : Memory.wf (s.resetPkg pkg).mem = true :=
  wf_filterMem _ _ hm

theorem execPowerLoss_keeps (pkg : Nat) (s : State) (hm : Memory.wf s.mem = true) : Out.Keeps (execPowerLoss pkg s) := by simp [hm, execPowerLoss]

@[simp] theorem State.report_mem (s : State) (pkg code : Nat) : (s.report pkg code).mem = s.mem := (rfl)

@[simp] theorem State.bootStop_mem (s : State) (pkg step : Nat) : (s.bootStop pkg step).mem = s.mem := (rfl)

@[simp] theorem State.bringUp_mem (s : State) (pkg : Nat) (cfg : BootCfg) (l : RowList) :
    (s.bringUp pkg cfg l).mem = s.mem := by simp [State.bringUp]

@[simp] theorem State.bringImages_mem (s : State) (pkg : Nat) (cfg : BootCfg) : (s.bringImages pkg cfg).mem = s.mem := by
  unfold State.bringImages
  dsimp only
  (repeat' split) <;> simp

theorem execPackageBoot_keeps (pkg : Nat) (cfg : BootCfg) (s : State) (hm : Memory.wf s.mem = true) :
    Out.Keeps (execPackageBoot pkg cfg s) := by simp [hm, execPackageBoot]

theorem execSignedListRestore_keeps (pkg : Nat) (l : RowList) (s : State) (hm : Memory.wf s.mem = true) :
    Out.Keeps (execSignedListRestore pkg l s) := by
  unfold execSignedListRestore
  (repeat' split) <;> simp [hm]

theorem execAttestationRequest_keeps (pkg : Nat) (nonce : List Byte) (s : State) (hm : Memory.wf s.mem = true) :
    Out.Keeps (execAttestationRequest pkg nonce s) := by
  unfold execAttestationRequest
  split <;> simp [hm]

theorem execFrequencyChange_keeps (pkg island mhz : Nat) (s : State) (hm : Memory.wf s.mem = true) :
    Out.Keeps (execFrequencyChange pkg island mhz s) := by simp [hm, execFrequencyChange]

theorem execNeighbourLinkFailure_keeps (pkg d1 d2 : Nat) (s : State) (hm : Memory.wf s.mem = true) :
    Out.Keeps (execNeighbourLinkFailure pkg d1 d2 s) := by simp [hm, execNeighbourLinkFailure]

theorem execLaneFailure_keeps (pkg lane : Nat) (s : State) (hm : Memory.wf s.mem = true) : Out.Keeps (execLaneFailure pkg lane s) := by
  unfold execLaneFailure
  split <;> simp [hm]

@[simp] theorem State.fence_mem (s : State) (pkg : Nat) : (s.fence pkg).mem = s.mem := by
  unfold State.fence
  extract_lets r s1 live fails close s2 s3
  have h1 : s2.mem = s.mem := by
    refine (foldl_mem (fun t c => ?_) _ _).trans rfl
    dsimp only [close]
    split
    · rfl
    split
    · rw [State.unhold_mem, State.modCtx_mem]
    · rfl
  have h3 : s3.mem = s2.mem := by
    dsimp only [s3]
    split <;> rfl
  refine (foldl_mem (fun t c => ?_) _ _).trans (h3.trans h1)
  split
  · rw [State.endContext_mem]
  · rfl

@[simp] theorem State.rewriteMap_mem (s : State) (pkg fn : Nat) : (s.rewriteMap pkg fn).mem = s.mem := by
  unfold State.rewriteMap
  (repeat' split) <;> simp

theorem execHeartbeatMiss_keeps (pkg : Nat) (s : State) (hm : Memory.wf s.mem = true) :
    Out.Keeps (execHeartbeatMiss pkg s) := by simp [hm, execHeartbeatMiss]

@[simp] theorem State.hostFlush_wf (s : State) (n req : Nat) (hm : Memory.wf s.mem = true) : Memory.wf (s.hostFlush n req).mem = true := by
  induction n generalizing s with
  | zero => exact hm
  | succ k ih =>
    unfold State.hostFlush
    split
    · exact hm
    extract_lets out put
    split
    · exact hm
    · exact ih _ hm
    · refine ih _ (foldl_wf (fun t p ht => ?_) _ _ hm : Memory.wf (List.foldl put s _).mem = true)
      have h : ∀ bs, Memory.wf (t.frameWrite p.2.2 p.1 bs).mem = true := fun bs => State.frameWrite_wf _ _ _ _ ht
      exact ite_wf ((State.ownerRecord_mem ..).symm ▸ h _) (h _)

theorem execHostBar2Write_keeps (at_ : HostAt) (off : Nat) (bytes : List Byte) (s : State) (hm : Memory.wf s.mem = true) :
    Out.Keeps (execHostBar2Write at_ off bytes s) := by
  unfold execHostBar2Write
  (repeat' split) <;> simp [hm]

theorem execHostBar2Read_keeps (at_ : HostAt) (off size tag : Nat) (s : State) (hm : Memory.wf s.mem = true) :
    Out.Keeps (execHostBar2Read at_ off size tag s) := by
  unfold execHostBar2Read
  dsimp only
  (repeat' split) <;> simp [hm]

/-! ### The step -/

/-- Every row of the opcode table keeps the canonical form. -/
theorem exec_keeps (i : Instr) (s : State) (hm : Memory.wf s.mem = true) : Out.Keeps (exec i s) := by
  cases i with
  | iadd w => exact execIadd_keeps w s hm
  | isub w => exact execIsub_keeps w s hm
  | imul w => exact execImul_keeps w s hm
  | imulh w => exact execImulh_keeps w s hm
  | imad w => exact execImad_keeps w s hm
  | imadw w => exact execImadw_keeps w s hm
  | imin w => exact execImin_keeps w s hm
  | imax w => exact execImax_keeps w s hm
  | iabs w => exact execIabs_keeps w s hm
  | isad w => exact execIsad_keeps w s hm
  | idp4 w => exact execIdp4_keeps w s hm
  | lop3 w => exact execLop3_keeps w s hm
  | shl w => exact execShl_keeps w s hm
  | shr w => exact execShr_keeps w s hm
  | sar w => exact execSar_keeps w s hm
  | shf w => exact execShf_keeps w s hm
  | bfe w => exact execBfe_keeps w s hm
  | bfi w => exact execBfi_keeps w s hm
  | brev w => exact execBrev_keeps w s hm
  | popc w => exact execPopc_keeps w s hm
  | clz w => exact execClz_keeps w s hm
  | prmt w => exact execPrmt_keeps w s hm
  | iset w => exact execIset_keeps w s hm
  | sel w => exact execSel_keeps w s hm
  | mov w => exact execMov_keeps w s hm
  | movw w => exact execMovw_keeps w s hm
  | rdlane w => exact execRdlane_keeps w s hm
  | aadd w => exact execAadd_keeps w s hm
  | amad w => exact execAmad_keeps w s hm
  | aset w => exact execAset_keeps w s hm
  | ajoin w => exact execAjoin_keeps w s hm
  | asplit w => exact execAsplit_keeps w s hm
  | fadd w => exact execFadd_keeps w s hm
  | fmul w => exact execFmul_keeps w s hm
  | ffma w => exact execFfma_keeps w s hm
  | fmin w => exact execFmin_keeps w s hm
  | fmax w => exact execFmax_keeps w s hm
  | fset w => exact execFset_keeps w s hm
  | fclass w => exact execFclass_keeps w s hm
  | frnd w => exact execFrnd_keeps w s hm
  | frcp w => exact execFrcp_keeps w s hm
  | frsq w => exact execFrsq_keeps w s hm
  | fsqrt w => exact execFsqrt_keeps w s hm
  | fexp2 w => exact execFexp2_keeps w s hm
  | flog2 w => exact execFlog2_keeps w s hm
  | fsin w => exact execFsin_keeps w s hm
  | fcos w => exact execFcos_keeps w s hm
  | ftanh w => exact execFtanh_keeps w s hm
  | fscale w => exact execFscale_keeps w s hm
  | hadd2 w => exact execHadd2_keeps w s hm
  | hmul2 w => exact execHmul2_keeps w s hm
  | hfma2 w => exact execHfma2_keeps w s hm
  | hmnmx2 w => exact execHmnmx2_keeps w s hm
  | hset2 w => exact execHset2_keeps w s hm
  | cvt w => exact execCvt_keeps w s hm
  | cvtsr w => exact execCvtsr_keeps w s hm
  | pack2 w => exact execPack2_keeps w s hm
  | quant w => exact execQuant_keeps w s hm
  | deq w => exact execDeq_keeps w s hm
  | plop w => exact execPlop_keeps w s hm
  | ppack w => exact execPpack_keeps w s hm
  | punpack w => exact execPunpack_keeps w s hm
  | shfl w => exact execShfl_keeps w s hm
  | vote w => exact execVote_keeps w s hm
  | ballot w => exact execBallot_keeps w s hm
  | matchw w => exact execMatchw_keeps w s hm
  | redux w => exact execRedux_keeps w s hm
  | reduxi w => exact execReduxi_keeps w s hm
  | scan w => exact execScan_keeps w s hm
  | ld w => exact execLd_keeps w s hm
  | st w => exact execSt_keeps w s hm
  | ldq w => exact execLdq_keeps w s hm
  | stq w => exact execStq_keeps w s hm
  | lda w => exact execLda_keeps w s hm
  | stl w => exact execStl_keeps w s hm
  | ldc w => exact execLdc_keeps w s hm
  | atom w => exact execAtom_keeps w s hm
  | cas w => exact execCas_keeps w s hm
  | atomf w => exact execAtomf_keeps w s hm
  | red w => exact execRed_keeps w s hm
  | fence w => exact execFence_keeps w s hm
  | pref w => exact execPref_keeps w s hm
  | cctlInv w => exact execCctlInv_keeps w s hm
  | cctlUnpin w => exact execCctlUnpin_keeps w s hm
  | cctlInvl1 w => exact execCctlInvl1_keeps w s hm
  | cctlInvdie w => exact execCctlInvdie_keeps w s hm
  | cctlIinv w => exact execCctlIinv_keeps w s hm
  | bar w => exact execBar_keeps w s hm
  | cbar w => exact execCbar_keeps w s hm
  | arv w => exact execArv_keeps w s hm
  | await w => exact execAwait_keeps w s hm
  | bra g off => exact execBra_keeps g off s hm
  | brx g a => exact execBrx_keeps g a s hm
  | call g off => exact execCall_keeps g off s hm
  | callx g a => exact execCallx_keeps g a s hm
  | ret g => exact execRet_keeps g s hm
  | meet g off => exact execMeet_keeps g off s hm
  | meets g off => exact execMeets_keeps g off s hm
  | meetl g => exact execMeetl_keeps g s hm
  | exit g => exact execExit_keeps g s hm
  | yield g => exact execYield_keeps g s hm
  | nop g => exact execNop_keeps g s hm
  | shape w => exact execShape_keeps w s hm
  | shapeRel w => exact execShapeRel_keeps w s hm
  | mzero w => exact execMzero_keeps w s hm
  | mloop w => exact execMloop_keeps w s hm
  | mepi w => exact execMepi_keeps w s hm
  | mepiCol w => exact execMepiCol_keeps w s hm
  | mlda w => exact execMlda_keeps w s hm
  | msta w => exact execMsta_keeps w s hm
  | mcb w => exact execMcb_keeps w s hm
  | xfer w => exact execXfer_keeps w s hm
  | xring w => exact execXring_keeps w s hm
  | xslotAcq w => exact execXslotAcq_keeps w s hm
  | xslotRel w => exact execXslotRel_keeps w s hm
  | xwait w => exact execXwait_keeps w s hm
  | xcancel w => exact execXcancel_keeps w s hm
  | spawn w => exact execSpawn_keeps w s hm
  | csig w => exact execCsig_keeps w s hm
  | cwait w => exact execCwait_keeps w s hm
  | tagpub w => exact execTagpub_keeps w s hm
  | tagwait w => exact execTagwait_keeps w s hm
  | colsend w => exact execColsend_keeps w s hm
  | phint g off => exact execPhint_keeps g off s hm
  | logmark w => exact execLogmark_keeps w s hm
  | trapf w => exact execTrapf_keeps w s hm
  | trap w => exact execTrap_keeps w s hm
  | csrr w => exact execCsrr_keeps w s hm
  | csrw w => exact execCsrw_keeps w s hm
  | clock w => exact execClock_keeps w s hm
  | sleep w => exact execSleep_keeps w s hm
  | bpt w => exact execBpt_keeps w s hm
  | cmdqWrite w => exact execCmdqWrite_keeps w s hm
  | rngattrWrite w => exact execRngattrWrite_keeps w s hm
  | rangeBoundWrite w => exact execRangeBoundWrite_keeps w s hm
  | tagwinWrite w => exact execTagwinWrite_keeps w s hm
  | clauseIssue c quad => exact execClauseIssue_keeps c quad s hm
  | flagCompletion op => exact execFlagCompletion_keeps op s hm
  | waveEnd w => exact execWaveEnd_keeps w s hm
  | trapRecordPost ctx r => exact execTrapRecordPost_keeps ctx r s hm
  | lockringAutoRestart w => exact execLockringAutoRestart_keeps w s hm
  | trapResponseResume ctx k => exact execTrapResponseResume_keeps ctx k s hm
  | trapResponseStklim ctx k v => exact execTrapResponseStklim_keeps ctx k v s hm
  | trapResponseEnd ctx k => exact execTrapResponseEnd_keeps ctx k s hm
  | watchdogWaitExpiry w => exact execWatchdogWaitExpiry_keeps w s hm
  | watchdogHeldExpiry w lane => exact execWatchdogHeldExpiry_keeps w lane s hm
  | sleepExpiry w => exact execSleepExpiry_keeps w s hm
  | breakpointResume w => exact execBreakpointResume_keeps w s hm
  | wcBufferDrain c line => exact execWcBufferDrain_keeps c line s hm
  | storeLanded op => exact execStoreLanded_keeps op s hm
  | weakStoreError op e ia => exact execWeakStoreError_keeps op e ia s hm
  | homeAccess r => exact execHomeAccess_keeps r s hm
  | l2Request r => exact execL2Request_keeps r s hm
  | leaseRequest l => exact execLeaseRequest_keeps l s hm
  | leaseGrantReceived l => exact execLeaseGrantReceived_keeps l s hm
  | leaseRefused l => exact execLeaseRefused_keeps l s hm
  | leaseRelease l => exact execLeaseRelease_keeps l s hm
  | homeCommandDoorbell fn pi => exact execHomeCommandDoorbell_keeps fn pi s hm
  | map c => exact execMap_keeps c s hm
  | unmap c => exact execUnmap_keeps c s hm
  | fill c => exact execFill_keeps c s hm
  | refuse c => exact execRefuse_keeps c s hm
  | evict c => exact execEvict_keeps c s hm
  | migrate c => exact execMigrate_keeps c s hm
  | heatread c => exact execHeatread_keeps c s hm
  | probe c => exact execProbe_keeps c s hm
  | resetacc c => exact execResetacc_keeps c s hm
  | badcmdOpcode c => exact execBadcmdOpcode_keeps c s hm
  | migrationSlotStart h => exact execMigrationSlotStart_keeps h s hm
  | migrationSectorCopy h ia => exact execMigrationSectorCopy_keeps h ia s hm
  | fillCopyDone h ia => exact execFillCopyDone_keeps h ia s hm
  | pageFlush h ia pkg die => exact execPageFlush_keeps h ia pkg die s hm
  | shootDownAck h ia pkg die => exact execShootDownAck_keeps h ia pkg die s hm
  | prqciWrite fn ci => exact execPrqciWrite_keeps fn ci s hm
  | rowRetirementOrder r bad => exact execRowRetirementOrder_keeps r bad s hm
  | rowRemapSwitch r => exact execRowRemapSwitch_keeps r s hm
  | retiredRowPersist pkg r => exact execRetiredRowPersist_keeps pkg r s hm
  | packageBoot pkg cfg => exact execPackageBoot_keeps pkg cfg s hm
  | signedListRestore pkg l => exact execSignedListRestore_keeps pkg l s hm
  | attestationRequest pkg nonce => exact execAttestationRequest_keeps pkg nonce s hm
  | functionLevelReset fn => exact execFunctionLevelReset_keeps fn s hm
  | hotReset pkg => exact execHotReset_keeps pkg s hm
  | frequencyChange pkg island mhz => exact execFrequencyChange_keeps pkg island mhz s hm
  | laneFailure pkg lane => exact execLaneFailure_keeps pkg lane s hm
  | heartbeatMiss pkg => exact execHeartbeatMiss_keeps pkg s hm
  | hostBar2Write fn off bytes => exact execHostBar2Write_keeps fn off bytes s hm
  | hostBar2Read fn off size tag => exact execHostBar2Read_keeps fn off size tag s hm
  | ctxcmdCreate fn ctx => exact execCtxcmdCreate_keeps fn ctx s hm
  | ctxcmdTeardown fn ctx => exact execCtxcmdTeardown_keeps fn ctx s hm
  | coreRevocation ctx c => exact execCoreRevocation_keeps ctx c s hm
  | contextRejection ctx h => exact execContextRejection_keeps ctx h s hm
  | queueDoorbell fn ctx q wi => exact execQueueDoorbell_keeps fn ctx q wi s hm
  | fpartWrite fn mask => exact execFpartWrite_keeps fn mask s hm
  | functionRegisterWrite fn off v => exact execFunctionRegisterWrite_keeps fn off v s hm
  | launch p => exact execLaunch_keeps p s hm
  | signal p => exact execSignal_keeps p s hm
  | signalFire p => exact execSignalFire_keeps p s hm
  | wait p => exact execWait_keeps p s hm
  | barrierAnd p => exact execBarrierAnd_keeps p s hm
  | waitRecheck ctx q => exact execWaitRecheck_keeps ctx q s hm
  | phase p => exact execPhase_keeps p s hm
  | bind p => exact execBind_keeps p s hm
  | unbind p => exact execUnbind_keeps p s hm
  | leaseHint p => exact execLeaseHint_keeps p s hm
  | invalidPacket p => exact execInvalidPacket_keeps p s hm
  | drrRound => exact execDrrRound_keeps s hm
  | blockCostCharge b cost => exact execBlockCostCharge_keeps b cost s hm
  | chunkAppend ctx launch pkg idxs => exact execChunkAppend_keeps ctx launch pkg idxs s hm
  | dieDistributorRound pkg die => exact execDieDistributorRound_keeps pkg die s hm
  | phaseClean pkg die ctx q ph => exact execPhaseClean_keeps pkg die ctx q ph s hm
  | stealWithinPackage pkg die => exact execStealWithinPackage_keeps pkg die s hm
  | stealBetweenPackages pkg die wide => exact execStealBetweenPackages_keeps pkg die wide s hm
  | trayLengthCollect tray => exact execTrayLengthCollect_keeps tray s hm
  | trayCostForward tray => exact execTrayCostForward_keeps tray s hm
  | trayStandbyRefresh tray => exact execTrayStandbyRefresh_keeps tray s hm
  | trayStandbyTakeover tray => exact execTrayStandbyTakeover_keeps tray s hm
  | blockStart b => exact execBlockStart_keeps b s hm
  | tagPublicationApply t => exact execTagPublicationApply_keeps t s hm
  | tagForward pkg t => exact execTagForward_keeps pkg t s hm
  | triggeredWorkFire ctx pkg => exact execTriggeredWorkFire_keeps ctx pkg s hm
  | counterSignalPerform r => exact execCounterSignalPerform_keeps r s hm
  | dequeRefill c => exact execDequeRefill_keeps c s hm
  | taskStart c => exact execTaskStart_keeps c s hm
  | taskSteal c => exact execTaskSteal_keeps c s hm
  | barrierArrivalRegister w cb n cnt arr => exact execBarrierArrivalRegister_keeps w cb n cnt arr s hm
  | arvPerform r => exact execArvPerform_keeps r s hm
  | commandTake b => exact execCommandTake_keeps b s hm
  | copySourceReleased b idx => exact execCopySourceReleased_keeps b idx s hm
  | copyArrival b idx => exact execCopyArrival_keeps b idx s hm
  | slotBoxLoaded b idx => exact execSlotBoxLoaded_keeps b idx s hm
  | slotBoxStored b idx => exact execSlotBoxStored_keeps b idx s hm
  | matrixOpComplete b handle => exact execMatrixOpComplete_keeps b handle s hm
  | rackPreemption ctx => exact execRackPreemption_keeps ctx s hm
  | preemptionBoundExpiry ctx => exact execPreemptionBoundExpiry_keeps ctx s hm
  | blockSave b => exact execBlockSave_keeps b s hm
  | blockRestore b c => exact execBlockRestore_keeps b c s hm
  | contextSwitchOff ctx pkg => exact execContextSwitchOff_keeps ctx pkg s hm
  | contextSwitchOn ctx pkg => exact execContextSwitchOn_keeps ctx pkg s hm
  | logRingDrain ctx lpkg ci => exact execLogRingDrain_keeps ctx lpkg ci s hm
  | logEnd ctx reason => exact execLogEnd_keeps ctx reason s hm
  | replayReaderTake ctx lpkg => exact execReplayReaderTake_keeps ctx lpkg s hm
  | replayHoldTimeout ctx held => exact execReplayHoldTimeout_keeps ctx held s hm
  | exitFiredContribution b => exact execExitFiredContribution_keeps b s hm
  | contributionCount c => exact execContributionCount_keeps c s hm
  | shadowCombine p => exact execShadowCombine_keeps p s hm
  | completionSignalUpdate ctx buf j => exact execCompletionSignalUpdate_keeps ctx buf j s hm
  | shardLand x => exact execShardLand_keeps x s hm
  | slotReservationRetry ctx buf id => exact execSlotReservationRetry_keeps ctx buf id s hm
  | collectiveFailure ctx buf => exact execCollectiveFailure_keeps ctx buf s hm
  | powerLoss pkg => exact execPowerLoss_keeps pkg s hm
  | neighbourLinkFailure pkg d1 d2 => exact execNeighbourLinkFailure_keeps pkg d1 d2 s hm
  | readCompletionReturns r => exact execReadCompletionReturns_keeps r s hm

/-- The state a move starts from. -/
def Move.start : Move → State
  | .word _ t | .event _ t | .quiet t => t

@[simp] theorem State.nextWord_mem (s : State) (c : Clause) : (s.nextWord c).start.mem = s.mem := by
  unfold State.nextWord
  split
  · exact State.trapHere_mem ..
  · exact State.trapHere_mem ..
  · split
    · exact State.trapHere_mem ..
    · split
      · exact State.stall_mem s
      · rfl

@[simp] theorem State.turnOf_mem (s : State) (w : Wave) : (s.turnOf w).start.mem = s.mem := by
  unfold State.turnOf
  split
  · exact State.focus_mem s w.id
  · rfl

@[simp] theorem State.issue_mem (s : State) : s.issue.start.mem = s.mem := by
  unfold State.issue
  split
  · exact State.nextWord_mem ..
  · split
    · exact State.turnOf_mem ..
    · rfl

@[simp] theorem State.fire_mem (s : State) (n : Nat) : (s.fire n).start.mem = s.mem := by
  unfold State.fire
  split
  · rfl
  · exact State.issue_mem s

@[simp] theorem State.nextMove_mem (s : State) : s.nextMove.start.mem = s.mem := by
  unfold State.nextMove
  split
  · split
    · exact State.input_mem ..
    · split
      · exact State.issue_mem _
      · exact State.fire_mem _ 0
  · extract_lets t
    split
    · exact State.issue_mem t
    · split
      · exact State.fire_mem t _
      · split
        · split
          · exact State.turnOf_mem ..
          · exact State.issue_mem t
        · split
          · exact State.input_mem ..
          · exact State.issue_mem t

theorem step_keeps (s : State) (hm : Memory.wf s.mem = true) : Out.Keeps (step s) := by
  have hn := State.nextMove_mem s
  unfold step
  split
  · next i t h =>
    rw [h] at hn
    have he := exec_keeps i t (hn ▸ hm)
    split
    · next u hu =>
      rw [Out.keeps_next, State.after_mem]
      exact he u hu
    · exact he
  · next i t h =>
    rw [h] at hn
    exact exec_keeps i t (hn ▸ hm)
  · next t h =>
    rw [h] at hn
    exact (Out.keeps_next t).2 (hn ▸ hm)

/-- Settles O1: whatever moves, a word, a due event or neither, keeps the canonical form. -/
theorem stepsKeepMemoryCanonical : Obligations.StepsKeepMemoryCanonical := by
  unfold Obligations.StepsKeepMemoryCanonical
  intro s t hs ht
  exact step_keeps s hs t ht

end Sys2Proof.Machine

/-! ## Functions and the host (O55) -/

namespace Sys2Proof.Machine

/-! ### Function registers -/

section
variable {s : State} {fn : Nat} {f : Fn}

theorem State.fn?_num (h : s.fn? fn = some f) : f.num = fn := by
  simpa using List.find?_some h

theorem State.fn?_modFn_some (h : s.fn? fn = some f) (g : Fn → Fn) (hg : ∀ x, (g x).num = x.num) :
    (s.modFn fn g).fn? fn = some (g f) := by
  rw [State.fn?_modFn _ _ _ fun x hx => (hg x).trans hx, h, Option.map_some]

/-- Nothing waits for the completion ring. -/
theorem State.hccFlush_modFn (h : s.fn? fn = some f) (n : Nat) (g : Fn → Fn) (hg : ∀ x, (g x).num = x.num) (hw : (g f).hccWait = []) :
    (s.modFn fn g).hccFlush n fn = s.modFn fn g := by
  cases n with
  | zero => rfl
  | succ k => simp [State.hccFlush, State.fn?_modFn_some h g hg, hw]

/-- Nothing waits for the page-request ring. -/
theorem State.prqFlush_modFn (h : s.fn? fn = some f) (n : Nat) (g : Fn → Fn) (hg : ∀ x, (g x).num = x.num) (hw : (g f).prqWait = []) :
    (s.modFn fn g).prqFlush n fn = s.modFn fn g := by
  cases n with
  | zero => rfl
  | succ k => simp [State.prqFlush, State.fn?_modFn_some h g hg, hw]

/-- A register write that changes its function only. -/
theorem exec_registerWrite_modFn (h : s.fn? fn = some f) {off : Nat} {v : W64} {g : Fn → Fn} (hg : ∀ x, (g x).num = x.num)
    (he : execFunctionRegisterWrite fn off v s = .next (s.modFn fn g)) :
    ∃ t, exec (.functionRegisterWrite fn off v) s = .next t ∧ t.mem = s.mem ∧ t.fn? fn = some (g f) ∧ t.pending = s.pending :=
  ⟨_, he, rfl, State.fn?_modFn_some h g hg, rfl⟩

/-- A ring register is written where its ring's indices agree, and left alone where they differ. -/
theorem exec_registerWrite_ring (h : s.fn? fn = some f) {off : Nat} {v : W64} {p : Prop} [Decidable p] {g : Fn → Fn}
    (hg : ∀ x, (g x).num = x.num) (he : execFunctionRegisterWrite fn off v s = .next (if p then s.modFn fn g else s)) :
    ∃ t, exec (.functionRegisterWrite fn off v) s = .next t ∧ t.mem = s.mem ∧ t.fn? fn = some (if p then g f else f)
      ∧ t.pending = s.pending := by
  by_cases hp : p
  · simp only [if_pos hp] at he ⊢
    exact exec_registerWrite_modFn h hg he
  · simp only [if_neg hp] at he ⊢
    exact ⟨s, he, rfl, h, rfl⟩

theorem functionRegisters (h : s.fn? fn = some f) (v : W64) :
    let put := fun (off : Nat) (v : W64) (g : Fn) => ∃ t, exec (.functionRegisterWrite fn off v) s = .next t ∧ t.mem = s.mem
      ∧ t.fn? fn = some g ∧ t.pending = s.pending
    let sets := fun (off : Nat) (v : W64) (e : Instr) =>
      exec (.functionRegisterWrite fn off v) s = .next { s with pending := s.pending ++ [e] }
    put 0x0008 v { f with ctxtab := v &&& 0x00FFFFFFFFFFE000#64, tabWr := true }
      ∧ (v.extractLsb' 10 2 = 1#2 → sets 0x0010 v (.ctxcmdCreate fn (v.extractLsb' 0 10).toNat))
      ∧ (v.extractLsb' 10 2 = 2#2 → sets 0x0010 v (.ctxcmdTeardown fn (v.extractLsb' 0 10).toNat))
      ∧ put 0x0020 v (if f.hcqpi = f.hcqci then { f with hcq := v &&& 0x00FFFFFFFFFFF01F#64 } else f)
      ∧ (∃ t, exec (.functionRegisterWrite fn 0x0028 v) s = .next t ∧ t.mem = s.mem ∧ t.fn? fn = some { f with hcqpi := v }
          ∧ t.pending = s.pending ++ [.homeCommandDoorbell fn v.toNat])
      ∧ (f.hccWait = [] → put 0x0038 v (if f.hccpi = f.hccci then { f with hcc := v &&& 0x00FFFFFFFFFFF01F#64 } else f))
      ∧ (f.hccWait = [] → put 0x0048 v { f with hccci := v })
      ∧ (f.prqWait = [] → put 0x0050 v (if f.prqpi = f.prqci then { f with prq := v &&& 0x00FFFFFFFFFFF01F#64 } else f))
      ∧ (f.prqWait = [] → put 0x0060 v { f with prqci := v })
      ∧ put 0x0068 v { f with barwin := v &&& 0x00FFFFFFFFFF03FF#64 }
      ∧ sets 0x0100 v (.queueDoorbell fn (v.extractLsb' 0 10).toNat (v.extractLsb' 10 6).toNat (v.extractLsb' 16 32).toNat)
      ∧ (∀ off ∈ [0x0000, 0x0018, 0x0030, 0x0040, 0x0058], exec (.functionRegisterWrite fn off v) s = .next s) := by
  intro put sets
  refine ⟨?_, ?_, ?_, ?_, ?_, ?_, ?_, ?_, ?_, ?_, ?_, ?_⟩
  · refine exec_registerWrite_modFn h (g := fun f => { f with ctxtab := v &&& 0x00FFFFFFFFFFE000#64, tabWr := true }) (fun _ => rfl) ?_
    simp only [execFunctionRegisterWrite, h]
  · intro hv
    simp only [sets, exec, execFunctionRegisterWrite, h, hv]
    rfl
  · intro hv
    simp only [sets, exec, execFunctionRegisterWrite, h, hv]
    rfl
  · refine exec_registerWrite_ring h (g := fun f => { f with hcq := v &&& 0x00FFFFFFFFFFF01F#64 }) (fun _ => rfl) ?_
    simp only [execFunctionRegisterWrite, h]
  · refine ⟨(s.modFn fn fun f => { f with hcqpi := v }).due [.homeCommandDoorbell fn v.toNat],
      by simp only [exec, execFunctionRegisterWrite, h], rfl, ?_, rfl⟩
    exact State.fn?_modFn_some h (fun f => { f with hcqpi := v }) fun _ => rfl
  · intro hw
    refine exec_registerWrite_ring h (g := fun f => { f with hcc := v &&& 0x00FFFFFFFFFFF01F#64 }) (fun _ => rfl) ?_
    simp only [execFunctionRegisterWrite, h]
    rw [State.hccFlush_modFn h]
    · exact fun _ => rfl
    · exact hw
  · intro hw
    refine exec_registerWrite_modFn h (g := fun f => { f with hccci := v }) (fun _ => rfl) ?_
    simp only [execFunctionRegisterWrite, h]
    rw [State.hccFlush_modFn h]
    · exact fun _ => rfl
    · exact hw
  · intro hw
    refine exec_registerWrite_ring h (g := fun f => { f with prq := v &&& 0x00FFFFFFFFFFF01F#64 }) (fun _ => rfl) ?_
    simp only [execFunctionRegisterWrite, h]
    rw [State.prqFlush_modFn h]
    · exact fun _ => rfl
    · exact hw
  · intro hw
    refine exec_registerWrite_modFn h (g := fun f => { f with prqci := v }) (fun _ => rfl) ?_
    simp only [execFunctionRegisterWrite, h, State.prqciSet]
    rw [State.prqFlush_modFn h]
    · exact fun _ => rfl
    · exact hw
  · refine exec_registerWrite_modFn h (g := fun f => { f with barwin := v &&& 0x00FFFFFFFFFF03FF#64 }) (fun _ => rfl) ?_
    simp only [execFunctionRegisterWrite, h]
  · simp [sets, exec, execFunctionRegisterWrite, h, State.due]
  · intro off ho
    simp only [List.mem_cons, List.not_mem_nil, or_false] at ho
    rcases ho with rfl | rfl | rfl | rfl | rfl <;> simp [exec, execFunctionRegisterWrite, h]

/-! ### Partition masks and resets -/

theorem State.fpartSet_of_none (h : s.fn? fn = some f) (hc : s.liveCtxs [fn] = []) (m : BitVec 576) :
    (s.fpartSet fn m).mem = s.mem ∧ (s.fpartSet fn m).fn? fn = some { f with fpart := m, hmap := [] } := by
  simp only [State.fpartSet, hc, List.isEmpty_nil, if_true]
  exact ⟨rfl, State.fn?_modFn_some h _ fun _ => rfl⟩

theorem State.fpartSet_of_some (hc : s.liveCtxs [fn] ≠ []) (m : BitVec 576) : s.fpartSet fn m = s := by
  simp [State.fpartSet, hc]

theorem fpartWrites (h : s.fn? fn = some f) (m : BitVec 576) :
    (s.liveCtxs [fn] = [] → ∃ t, exec (.fpartWrite fn m) s = .next t ∧ t.mem = s.mem ∧ t.fn? fn = some { f with fpart := m, hmap := [] })
      ∧ (s.liveCtxs [fn] ≠ [] → exec (.fpartWrite fn m) s = .next s) := by
  have he : exec (.fpartWrite fn m) s = .next (s.fpartSet fn m) := by simp [exec, execFpartWrite, h]
  refine ⟨fun hc => ⟨_, he, State.fpartSet_of_none h hc m⟩, fun hc => ?_⟩
  rw [he, State.fpartSet_of_some hc]

/-- The PF writes one word of a function's mask. -/
theorem maskWordWrite {f0 : Fn} (h0 : s.fn? 0 = some f0) {j : Nat} (h : s.fn? j = some f) (hj : j < 64) {i : Nat} (hi : i < 9)
    (hc : s.liveCtxs [j] = []) (v : W64) :
    ∃ t, exec (.functionRegisterWrite 0 (0x2400 + 72 * j + 8 * i) v) s = .next t ∧ t.mem = s.mem
      ∧ t.fn? j = some { f with fpart := maskPut f.fpart i v, hmap := [] } := by
  refine ⟨_, ?_, State.fpartSet_of_none h hc (maskPut f.fpart i v)⟩
  have hd : (0x2400 + 72 * j + 8 * i - 0x2400) / 72 = j := by omega
  have hm : (0x2400 + 72 * j + 8 * i - 0x2400) % 72 / 8 = i := by omega
  simp only [exec, execFunctionRegisterWrite, h0, hd, hm, h]
  split <;> try omega
  have h1 : ¬ (0x2000 ≤ 0x2400 + 72 * j + 8 * i ∧ 0x2400 + 72 * j + 8 * i < 0x2200 ∧ (0x2400 + 72 * j + 8 * i) % 8 = 0) := by omega
  have h2 : 0x2400 ≤ 0x2400 + 72 * j + 8 * i ∧ j < 64 ∧ (0x2400 + 72 * j + 8 * i - 0x2400) % 8 = 0 := by omega
  simp only [ne_eq, not_true, if_false, if_neg h1, if_pos h2]

theorem hotResets (h : s.fn? 0 = some f) {pkg : Nat} {p : Pkg} (hp : s.pkg? pkg = some p) :
    exec (.hotReset pkg) s = .next { s with pending := s.pending ++ [.functionLevelReset 0] } := by
  simp [exec, execHotReset, h, hp, State.due]

end

/-! ### No context comes back to life -/

/-- t has the contexts of s, and only live ones of s are live in it. -/
structure NoneRevived (s t : State) : Prop where
  ids : t.ctxs.map (·.id) = s.ctxs.map (·.id)
  live : ∀ x ∈ t.ctxs, x.life = .live → ∃ y ∈ s.ctxs, y.id = x.id ∧ y.life = .live

theorem NoneRevived.of_ctxs {s t : State} (h : t.ctxs = s.ctxs) : NoneRevived s t :=
  ⟨by rw [h], fun x hx hl => ⟨x, h ▸ hx, rfl, hl⟩⟩

theorem NoneRevived.trans {s t u : State} (h : NoneRevived s t) (k : NoneRevived t u) : NoneRevived s u := by
  refine ⟨k.ids.trans h.ids, fun x hx hl => ?_⟩
  obtain ⟨y, hy, hi, hl⟩ := k.live x hx hl
  obtain ⟨z, hz, hj, hl⟩ := h.live y hy hl
  exact ⟨z, hz, hj.trans hi, hl⟩

theorem map_updFirst {α β : Type} {p : α → Bool} {f : α → α} {g : α → β} (h : ∀ a, g (f a) = g a) (l : List α) :
    (updFirst p f l).map g = l.map g := by
  induction l with
  | nil => rfl
  | cons a r ih =>
    unfold updFirst
    split
    · simp [h]
    · simp [ih]

theorem State.modCtx_noneRevived (s : State) (i : Nat) {f : Ctx → Ctx} (hi : ∀ c, (f c).id = c.id)
    (hf : ∀ c, (f c).life = .live → c.life = .live) : NoneRevived s (s.modCtx i f) := by
  refine ⟨map_updFirst hi _, fun x hx hl => ?_⟩
  rcases mem_updFirst hx with hx | ⟨y, hy, -, rfl⟩
  · exact ⟨x, hx, rfl, hl⟩
  · exact ⟨y, hy, (hi y).symm, hf y hl⟩

/-- Where numbers are not used twice, a context that is made not live is not. -/
theorem State.modCtx_not_live {s : State} (hn : (s.ctxs.map (·.id)).Nodup) {i : Nat} {f : Ctx → Ctx}
    (hf : ∀ c, (f c).life ≠ .live) : ∀ x ∈ (s.modCtx i f).ctxs, x.id = i → x.life ≠ .live := by
  unfold State.modCtx
  dsimp only
  generalize s.ctxs = l at hn
  induction l with
  | nil => exact nofun
  | cons c r ih =>
    obtain ⟨hc, hr⟩ := List.nodup_cons.1 hn
    intro x hx hxi
    unfold updFirst at hx
    split at hx
    · next he =>
      rcases List.mem_cons.1 hx with rfl | hx
      · exact hf c
      · exact absurd (List.mem_map.2 ⟨x, hx, hxi.trans (beq_iff_eq.1 he).symm⟩) hc
    · next he =>
      rcases List.mem_cons.1 hx with rfl | hx
      · exact absurd hxi (by simpa using he)
      · exact ih hr x hx hxi

theorem State.ctxStatus_ctxs (s : State) (fn ctx st : Nat) : (s.ctxStatus fn ctx st).ctxs = s.ctxs := rfl

theorem State.buryCtx_noneRevived (s : State) (ctx : Nat) : NoneRevived s (s.buryCtx ctx) := by
  unfold State.buryCtx
  split
  · exact .of_ctxs rfl
  · extract_lets resident s1 s2
    have h : NoneRevived s s2 := .trans (t := s1) (.of_ctxs rfl) (s1.modCtx_noneRevived ctx (fun _ => rfl) (by nofun))
    split
    · exact h
    · exact h.trans (.of_ctxs rfl)

theorem State.sendRejections_noneRevived (s : State) (c : Ctx) : NoneRevived s (s.sendRejections c) := by
  unfold State.sendRejections
  extract_lets hs s1
  have h : NoneRevived s s1 := s.modCtx_noneRevived c.id (fun _ => rfl) (by nofun)
  split
  · exact h.trans (State.buryCtx_noneRevived s1 c.id)
  · exact h.trans (.of_ctxs rfl)

/-- A context that is stopped is not live, and no other comes to life by it. -/
theorem State.stopContext_noneRevived (s : State) (c : Ctx) :
    NoneRevived s (s.stopContext c)
      ∧ ((s.ctxs.map (·.id)).Nodup → ∀ x ∈ (s.stopContext c).ctxs, x.id = c.id → x.life ≠ .live) := by
  unfold State.stopContext
  extract_lets ctx strip unqueue unhold isTask end_ calm rack s1 stop s2 s3 ends s4
  have h2 : NoneRevived s s2 := .trans (t := s1) (.of_ctxs rfl) (s1.modCtx_noneRevived ctx (fun _ => rfl) (by nofun))
  have hd : (s.ctxs.map (·.id)).Nodup → ∀ x ∈ s2.ctxs, x.id = c.id → x.life ≠ .live :=
    fun hn => State.modCtx_not_live (s := s1) hn (by nofun)
  have h4 : NoneRevived s2 s4 := .of_ctxs (by dsimp only [s4]; split <;> rfl)
  have done {t : State} (ht : NoneRevived s4 t) :
      NoneRevived s t ∧ ((s.ctxs.map (·.id)).Nodup → ∀ x ∈ t.ctxs, x.id = c.id → x.life ≠ .live) := by
    refine ⟨(h2.trans h4).trans ht, fun hn x hx hi hl => ?_⟩
    obtain ⟨y, hy, hyi, hyl⟩ := (h4.trans ht).live x hx hl
    exact hd hn y hy (hyi.trans hi) hyl
  split
  · exact done (State.sendRejections_noneRevived s4 c)
  · exact done (.of_ctxs rfl)

theorem State.endContext_noneRevived (s : State) (c : Ctx) :
    NoneRevived s (s.endContext c)
      ∧ ((s.ctxs.map (·.id)).Nodup → c.life = .live → ∀ x ∈ (s.endContext c).ctxs, x.id = c.id → x.life ≠ .live) := by
  unfold State.endContext
  split
  · have h1 : NoneRevived s (s.modCtx c.id fun c => { c with auto := true }) := s.modCtx_noneRevived c.id (fun _ => rfl) fun _ h => h
    obtain ⟨h2, hd⟩ := State.stopContext_noneRevived (s.modCtx c.id fun c => { c with auto := true }) c
    exact ⟨h1.trans h2, fun hn _ => hd (h1.ids ▸ hn)⟩
  · next hl => exact ⟨.of_ctxs rfl, fun _ h => absurd h hl⟩

/-- After some contexts are ended, none of them is live. -/
theorem endContexts_noneRevived (cs : List Ctx) (s : State) :
    NoneRevived s (cs.foldl State.endContext s)
      ∧ ((s.ctxs.map (·.id)).Nodup → ∀ c ∈ cs, c.life = .live →
        ∀ x ∈ (cs.foldl State.endContext s).ctxs, x.id = c.id → x.life ≠ .live) := by
  induction cs generalizing s with
  | nil => exact ⟨.of_ctxs rfl, nofun⟩
  | cons c r ih =>
    obtain ⟨h1, hc⟩ := s.endContext_noneRevived c
    obtain ⟨h2, hr⟩ := ih (s.endContext c)
    refine ⟨h1.trans h2, fun hn d hd hl x hx hi hxl => ?_⟩
    rcases List.mem_cons.1 hd with rfl | hd
    · obtain ⟨y, hy, hyi, hyl⟩ := h2.live x hx hxl
      exact hc hn hl y hy (hyi.trans hi) hyl
    · exact hr (h1.ids ▸ hn) d hd hl x hx hi hxl

theorem State.mem_liveCtxs {s : State} {fn : Nat} {c : Ctx} : c ∈ s.liveCtxs [fn] ↔ c ∈ s.ctxs ∧ fnOf c.id = fn ∧ c.life ≠ .dead := by
  simp [State.liveCtxs]

/-- A reset of one function: at once without a context; else its contexts are torn down first. -/
theorem functionLevelResets {s : State} {fn : Nat} {f : Fn} (h : s.fn? fn = some f) (h0 : fn ≠ 0) :
    (s.liveCtxs [fn] = [] → ∃ t, exec (.functionLevelReset fn) s = .next t ∧ t.mem = s.mem ∧ t.fn? fn = some f.reset)
      ∧ (s.liveCtxs [fn] ≠ [] → (s.ctxs.map (·.id)).Nodup → ∃ t, exec (.functionLevelReset fn) s = .next t
          ∧ .functionLevelReset fn ∈ t.pending ∧ ∀ c ∈ t.ctxs, fnOf c.id = fn → c.life ≠ .live) := by
  have he : exec (.functionLevelReset fn) s = .next (s.resetFns (.functionLevelReset fn) [fn]) := by
    simp [exec, execFunctionLevelReset, h, h0]
  rw [he]
  constructor
  · intro hc
    refine ⟨_, rfl, ?_, ?_⟩
    · simp only [State.resetFns, hc]
    · have hp : ((fun x : Fn => x.num == fn) ∘ fun g : Fn => if [fn].contains g.num then g.reset else g) = fun x => x.num == fn := by
        funext g
        simp only [Function.comp_apply]
        split <;> rfl
      have hf : (s.fns.find? fun x => x.num == fn) = some f := h
      simp only [State.resetFns, hc, State.fn?, List.find?_map, hp, hf]
      simp [State.fn?_num h]
  · intro hc hn
    obtain ⟨h1, hd⟩ := endContexts_noneRevived (s.liveCtxs [fn]) s
    have hr : s.resetFns (.functionLevelReset fn) [fn] = ((s.liveCtxs [fn]).foldl State.endContext s).due [.functionLevelReset fn] := by
      unfold State.resetFns
      split
      · next hl => exact absurd hl hc
      · rfl
    rw [hr]
    refine ⟨_, rfl, by simp, fun c hct hfn hl => ?_⟩
    obtain ⟨y, hy, hyi, hyl⟩ := h1.live c hct hl
    exact hd hn y (State.mem_liveCtxs.2 ⟨hy, hyi ▸ hfn, by simp [hyl]⟩) hyl c hct hyi.symm hl

/-! ### The host's writes through BAR2 -/

theorem State.frameWrite_fns (s : State) (e : Entry) (ia : Nat) (bs : List Byte) : (s.frameWrite e ia bs).fns = s.fns := by
  have hc : (s.noteCode e ia bs.length).fns = s.fns := by
    unfold State.noteCode
    dsimp only
    split <;> rfl
  have hs (t : State) : (t.frameSet e ia bs).fns = t.fns := by
    unfold State.frameSet
    dsimp only
    split <;> rfl
  have he (t : State) (x : Entry) : (t.egress x ia bs.length (some bs)).fns = t.fns := by
    unfold State.egress
    split <;> rfl
  have hp (t : State) : (t.framePut e ia bs).fns = t.fns := by
    unfold State.framePut
    dsimp only
    split
    · rw [he, he, hs]
    · rw [he, hs]
  exact (hp _).trans hc

/-- A page that is not being copied has its bytes at one place. -/
theorem State.frameWrite_wrote (s : State) {e : Entry} (he : e.mst ≠ 1) (ia : Nat) (bs : List Byte) :
    (s.frameWrite e ia bs).mem = writeBytes s.mem (e.key ia) bs := by
  have ht (t : State) : t.copyTarget e = none := if_neg he
  have hc : (s.noteCode e ia bs.length).mem = s.mem := State.noteCode_mem ..
  simp only [State.frameWrite, State.framePut, State.frameSet, ht]
  rw [State.due_mem, State.egress_mem, State.memWrite_mem, State.freshSectors_mem, State.noteReuse_mem, hc]

section
variable {s : State} {fn req : Nat} {f : Fn}

/-- The writes of a function that has none of the requester's, without a new one of its own. -/
theorem filter_ne_of_hostWrites (h : s.fn? fn = some f) (ho : s.hostWrites req = []) {w : HostWrite} (hw : w.req = req) :
    (f.writes ++ [w]).filter (fun x => x != w) = f.writes := by
  have hf : ∀ x ∈ f.writes, x.req ≠ req := by
    have := List.flatMap_eq_nil_iff.1 ho f (List.mem_of_find?_eq_some h)
    simpa [List.filter_eq_nil_iff] using this
  have hk : f.writes.filter (fun x => x != w) = f.writes :=
    List.filter_eq_self.2 fun x hx => bne_iff_ne.2 fun he => hf x hx (he ▸ hw)
  simp [hk]

/-- A function's write joins the empty queue of its requester. -/
theorem State.hostWrites_modFn (h : s.fn? fn = some f) (ho : s.hostWrites req = []) {w : HostWrite} (hw : w.req = req) :
    (s.modFn fn fun f => { f with writes := f.writes ++ [w] }).hostWrites req = [(fn, w)] := by
  have hn := State.fn?_num h
  unfold State.hostWrites at ho ⊢
  unfold State.fn? at h
  unfold State.modFn
  dsimp only
  generalize s.fns = l at h ho
  induction l with
  | nil => cases h
  | cons g r ih =>
    obtain ⟨hg, hr⟩ := List.append_eq_nil_iff.1 (List.flatMap_cons ▸ ho)
    unfold updFirst
    split
    · next hp =>
      simp only [List.find?_cons, hp] at h
      cases h
      have hg : f.writes.filter (fun w => w.req == req) = [] := List.map_eq_nil_iff.1 hg
      simp [hg, hr, hw, hn]
    · next hp =>
      simp only [List.find?_cons, hp] at h
      rw [List.flatMap_cons, hg, List.nil_append]
      exact ih h hr

/-- A write through BAR2 with no earlier one of its requester: what comes of it follows from what the host's access meets. -/
theorem exec_hostBar2Write (h : s.fn? fn = some f) (ho : s.hostWrites req = []) {off : Nat} {bytes : List Byte} (hb : bytes ≠ [])
    (hi : off + bytes.length ≤ 2 ^ 36) :
    ∃ w : HostWrite, w = ⟨req, 0, (f.window off).1, (f.window off).2, bytes⟩
      ∧ exec (.hostBar2Write ⟨req, fn⟩ off bytes) s
        = .next ((s.modFn fn fun f => { f with writes := f.writes ++ [w] }).hostFlush 1 req)
      ∧ (s.modFn fn fun f => { f with writes := f.writes ++ [w] }).hostOldest req = some (fn, w) := by
  refine ⟨_, rfl, ?_, ?_⟩
  · have hb' : bytes.isEmpty = false := by simpa using hb
    have hin : inBar2 off bytes.length = true := decide_eq_true hi
    simp [exec, execHostBar2Write, h, ho, hb', hin]
  · rw [State.hostOldest, State.hostWrites_modFn h ho rfl]
    rfl

theorem hostWriteLands (h : s.fn? fn = some f) (ho : s.hostWrites req = []) {off : Nat} {bytes : List Byte} (hb : bytes ≠ [])
    (hi : off + bytes.length ≤ 2 ^ 36) {e : Entry}
    (hl : s.hostLook (f.window off).1 (f.window off).2 bytes.length = .ok [((f.window off).2, bytes.length, e)]) (he : e.mst ≠ 1) :
    ∃ t, exec (.hostBar2Write ⟨req, fn⟩ off bytes) s = .next t ∧ MemWrote s t (e.key (f.window off).2) bytes ∧ t.fn? fn = some f := by
  obtain ⟨w, hw, hx, hold⟩ := exec_hostBar2Write h ho hb hi
  have hreq : w.req = req := by rw [hw]
  have hl' : (s.modFn fn fun f => { f with writes := f.writes ++ [w] }).hostLook w.ctx w.ia w.bytes.length
      = .ok [((f.window off).2, bytes.length, e)] := by rw [hw]; exact hl
  have hbs : (w.bytes.drop ((f.window off).2 - w.ia)).take bytes.length = bytes := by simp [hw]
  refine ⟨_, hx, ?_⟩
  simp only [State.hostFlush, hold, hl', List.foldl_cons, List.foldl_nil, hbs]
  generalize hu : (s.modFn fn fun f => { f with writes := f.writes ++ [w] }) = u
  have hm : (u.frameWrite e (f.window off).2 bytes).mem = (s.memWrite (e.key (f.window off).2) bytes).mem := by
    rw [State.frameWrite_wrote u he, ← hu]
    rfl
  have hf : (u.frameWrite e (f.window off).2 bytes).fn? fn = some { f with writes := f.writes ++ [w] } := by
    rw [State.fn?, State.frameWrite_fns, ← hu]
    exact State.fn?_modFn_some h _ fun _ => rfl
  have hback {t : State} (hm : t.mem = (s.memWrite (e.key (f.window off).2) bytes).mem) (hf : t.fn? fn = some { f with writes := f.writes ++ [w] }) :
      MemWrote s (t.modFn fn fun f => { f with writes := f.writes.filter fun x => x != w }) (e.key (f.window off).2) bytes
        ∧ (t.modFn fn fun f => { f with writes := f.writes.filter fun x => x != w }).fn? fn = some f := by
    constructor
    · intro a
      rw [← memByte_memWrite]
      exact congrArg (fun m => Tab.get memDefault m a) hm
    · rw [State.fn?_modFn_some hf]
      · simp only [filter_ne_of_hostWrites h ho hreq]
      · exact fun _ => rfl
  split
  · exact hback hm hf
  · exact hback hm hf

theorem hostWriteRefused (h : s.fn? fn = some f) (ho : s.hostWrites req = []) {off : Nat} {bytes : List Byte} (hb : bytes ≠ [])
    (hi : off + bytes.length ≤ 2 ^ 36) (hl : s.hostLook (f.window off).1 (f.window off).2 bytes.length = .refused) :
    ∃ t, exec (.hostBar2Write ⟨req, fn⟩ off bytes) s = .next t ∧ t.mem = s.mem ∧ t.fn? fn = some f
      ∧ t.outbox = s.outbox ++ [.unsupported fn 0] := by
  obtain ⟨w, hw, hx, hold⟩ := exec_hostBar2Write h ho hb hi
  have hreq : w.req = req := by rw [hw]
  have hl' : (s.modFn fn fun f => { f with writes := f.writes ++ [w] }).hostLook w.ctx w.ia w.bytes.length = .refused := by
    rw [hw]; exact hl
  refine ⟨_, hx, ?_⟩
  simp only [State.hostFlush, hold, hl']
  refine ⟨rfl, ?_, rfl⟩
  rw [State.fn?_modFn_some (f := { f with writes := f.writes ++ [w] })]
  · simp only [filter_ne_of_hostWrites h ho hreq]
  · exact State.fn?_modFn_some h _ fun _ => rfl
  · exact fun _ => rfl

/-! ### The host's reads through BAR2 -/

theorem State.portRead_outbox (s : State) (e : Entry) (ia n : Nat) :
    ∃ out, (s.portRead e ia n).outbox = s.outbox ++ out ∧ (e.loc = 1 → out = []) := by
  unfold State.portRead State.egress
  split
  · next h => exact ⟨_, rfl, fun h1 => absurd (h1.symm.trans h) (by decide)⟩
  · next h => cases h
  · next h _ => exact ⟨_, rfl, fun h1 => absurd (h1.symm.trans h) (by decide)⟩
  · exact ⟨[], (List.append_nil _).symm, fun _ => rfl⟩

theorem portReads_outbox (l : List (Nat × Nat × Entry)) (s : State) :
    ∃ out, (l.foldl (fun s p => s.portRead p.2.2 p.1 p.2.1) s).outbox = s.outbox ++ out ∧ ((∀ p ∈ l, p.2.2.loc = 1) → out = []) := by
  induction l generalizing s with
  | nil => exact ⟨[], (List.append_nil _).symm, fun _ => rfl⟩
  | cons p r ih =>
    obtain ⟨o1, h1, k1⟩ := State.portRead_outbox s p.2.2 p.1 p.2.1
    obtain ⟨o2, h2, k2⟩ := ih (s.portRead p.2.2 p.1 p.2.1)
    refine ⟨o1 ++ o2, by rw [List.foldl_cons, h2, h1, List.append_assoc], fun hp => ?_⟩
    rw [k1 (hp p List.mem_cons_self), k2 fun q hq => hp q (List.mem_cons_of_mem _ hq), List.append_nil]

theorem hostReadAnswers (h : s.fn? fn = some f) (ho : s.hostWrites req = []) {off size tag : Nat} (hi : off + size ≤ 2 ^ 36)
    {l : List (Nat × Nat × Entry)} (hl : s.hostLook (f.window off).1 (f.window off).2 size = .ok l) :
    ∃ t out bad, exec (.hostBar2Read ⟨req, fn⟩ off size tag) s = .next t ∧ t.mem = s.mem
      ∧ t.outbox = s.outbox ++ out ++ [.completion fn tag (l.flatMap fun p => s.memRead (p.2.2.key p.1) p.2.1) bad]
      ∧ ((∀ p ∈ l, p.2.2.loc = 1) → out = [])
      ∧ (bad = true ↔ ∃ p ∈ l, p.2.2.key p.1 / 64 ∈ s.poison) := by
  let bads := l.filter fun p => s.poison.contains (p.2.2.key p.1 / 64)
  let u := bads.foldl (fun s p => s.ownerRecord p.2.2 4 p.1) s
  let t := l.foldl (fun s p => s.portRead p.2.2 p.1 p.2.1) u
  obtain ⟨out, hout, hloc⟩ := portReads_outbox l u
  have hu : u.outbox = s.outbox := foldl_keeps (g := State.outbox) (fun _ _ => by rfl) bads s
  have hm : t.mem = s.mem :=
    (foldl_mem (fun s (p : Nat × Nat × Entry) => s.portRead_mem p.2.2 p.1 p.2.1) l u).trans
      (foldl_keeps (g := State.mem) (fun _ _ => by rfl) bads s)
  have hr (k n : Nat) : t.memRead k n = s.memRead k n := by rw [State.memRead, State.memRead, hm]
  refine ⟨{ t with outbox := t.outbox ++ [.completion fn tag (l.flatMap fun p => t.memRead (p.2.2.key p.1) p.2.1) (!bads.isEmpty)] },
    out, !bads.isEmpty, ?_, hm, ?_, hloc, ?_⟩
  · have hin : inBar2 off size = true := decide_eq_true hi
    simp [exec, execHostBar2Read, h, hin, ho, hl, t, u, bads]
  · simp only [hr]
    rw [show t.outbox = _ from hout, hu]
  · simp [bads, List.filter_eq_nil_iff]

theorem hostReadOutcomes (h : s.fn? fn = some f) {off size tag : Nat} (hi : off + size ≤ 2 ^ 36) :
    (s.hostWrites req ≠ [] →
        exec (.hostBar2Read ⟨req, fn⟩ off size tag) s = .next { s with pending := s.pending ++ [.hostBar2Read ⟨req, fn⟩ off size tag] })
      ∧ (s.hostWrites req = [] →
        (s.hostLook (f.window off).1 (f.window off).2 size = .held →
          exec (.hostBar2Read ⟨req, fn⟩ off size tag) s = .next { s with pending := s.pending ++ [.hostBar2Read ⟨req, fn⟩ off size tag] })
        ∧ (s.hostLook (f.window off).1 (f.window off).2 size = .refused →
          exec (.hostBar2Read ⟨req, fn⟩ off size tag) s = .next { s with outbox := s.outbox ++ [.unsupported fn tag] })) := by
  have hin : inBar2 off size = true := decide_eq_true hi
  refine ⟨fun ho => ?_, fun ho => ⟨fun hl => ?_, fun hl => ?_⟩⟩
  · simp [exec, execHostBar2Read, h, hin, ho, State.due]
  · simp [exec, execHostBar2Read, h, hin, ho, hl, State.due]
  · simp [exec, execHostBar2Read, h, hin, ho, hl]

/-- An access past the window is unsupported. -/
theorem hostOutside (h : s.fn? fn = some f) (off : Nat) :
    (∀ bytes : List Byte, 2 ^ 36 < off + bytes.length →
        exec (.hostBar2Write ⟨req, fn⟩ off bytes) s = .next { s with outbox := s.outbox ++ [.unsupported fn 0] })
      ∧ ∀ size tag, 2 ^ 36 < off + size →
        exec (.hostBar2Read ⟨req, fn⟩ off size tag) s = .next { s with outbox := s.outbox ++ [.unsupported fn tag] } := by
  constructor
  · intro bytes hi
    have hb : inBar2 off bytes.length = false := by simpa [inBar2] using hi
    simp [exec, execHostBar2Write, h, hb]
  · intro size tag hi
    have hb : inBar2 off size = false := by simpa [inBar2] using hi
    simp [exec, execHostBar2Read, h, hb]

end

/-- Settles O55: the register writes, masks and resets one by one, then what the host's accesses meet. -/
theorem functionsAnswerTheHost : Obligations.FunctionsAnswerTheHost := by
  unfold Obligations.FunctionsAnswerTheHost
  intro s fn f h put sets w
  refine ⟨functionRegisters h, fpartWrites h, ?_, functionLevelResets h, ?_, ?_, ?_, ?_, ?_⟩
  · rintro rfl j g i v hg hj hi hc
    exact maskWordWrite h hg hj hi hc v
  · rintro pkg p rfl hp
    exact hotResets h hp
  · intro req off bytes hi ho hb
    exact ⟨fun e hl he => hostWriteLands h ho hb hi hl he, hostWriteRefused h ho hb hi⟩
  · intro req off bytes
    exact (hostOutside h off).1 bytes
  · intro req off size tag hi
    obtain ⟨hbehind, halone⟩ := hostReadOutcomes h hi
    exact ⟨hbehind, fun ho => ⟨fun l hl => hostReadAnswers h ho hi hl, halone ho⟩⟩
  · intro req off
    exact (hostOutside h off).2

end Sys2Proof.Machine

/-! ## Contexts (O56) -/

namespace Sys2Proof.Machine

/-! ### What the end of a block and the work of a home leave as it was -/

/-- What tells of a wave whether it runs, and where. -/
def Wave.fate (w : Wave) : WaveId × CoreId × Run × BitVec 32 := (w.id, w.core, w.run, w.exited)

/-- What a core holds of contexts beside its Lockring. -/
def Core.outline (x : Core) : CoreId × List TaskRec × List WcBuf := (x.id, x.deque, x.wc)

/-- The contexts a home rejects. -/
def Home.outline (x : Home) : HomeId × List Nat := (x.id, x.dead)

/-- How far a context's teardown has come. -/
def Ctx.outline (c : Ctx) : Nat × Life × List CoreId := (c.id, c.life, c.revoked)

/-- t has no wave that s has not, up to its registers, and the cores, homes and contexts of s up to their outlines. -/
structure SameOutline (s t : State) : Prop where
  waves : ∀ w ∈ t.allWaves, ∃ v ∈ s.allWaves, v.fate = w.fate
  cores : t.cores.map Core.outline = s.cores.map Core.outline
  homes : t.homes.map Home.outline = s.homes.map Home.outline
  ctxs : t.ctxs.map Ctx.outline = s.ctxs.map Ctx.outline

/-- The records that an outline is taken of. -/
def State.outlined (s : State) : Wave × List Wave × List Core × List Home × List Ctx := (s.wave, s.waves, s.cores, s.homes, s.ctxs)

theorem SameOutline.of_eq {s t : State} (h : t.outlined = s.outlined) : SameOutline s t := by
  simp only [State.outlined, Prod.mk.injEq] at h
  obtain ⟨hw, hws, hc, hh, hx⟩ := h
  have ha : t.allWaves = s.allWaves := by simp only [State.allWaves, hw, hws]
  exact ⟨fun w h => ⟨w, ha ▸ h, rfl⟩, by rw [hc], by rw [hh], by rw [hx]⟩

theorem SameOutline.refl (s : State) : SameOutline s s := .of_eq rfl

theorem SameOutline.trans {s t u : State} (h : SameOutline s t) (k : SameOutline t u) : SameOutline s u := by
  refine ⟨fun w hw => ?_, k.cores.trans h.cores, k.homes.trans h.homes, k.ctxs.trans h.ctxs⟩
  obtain ⟨v, hv, hvw⟩ := k.waves w hw
  obtain ⟨x, hx, hxv⟩ := h.waves v hv
  exact ⟨x, hx, hxv.trans hvw⟩

/-- What comes first changes no record that an outline is taken of. -/
theorem SameOutline.after {s t u : State} (h : t.outlined = s.outlined) (k : SameOutline t u) : SameOutline s u := (of_eq h).trans k

/-- What comes last changes no record that an outline is taken of. -/
theorem SameOutline.then {s t u : State} (h : SameOutline s t) (k : u.outlined = t.outlined) : SameOutline s u := h.trans (of_eq k)

theorem SameOutline.foldl {α : Type} {f : State → α → State} (hf : ∀ s a, SameOutline s (f s a)) (l : List α) (s : State) :
    SameOutline s (l.foldl f s) := by
  induction l generalizing s with
  | nil => exact .refl s
  | cons a r ih => exact (hf s a).trans (ih _)

/-- Events become due after what has been done. -/
theorem SameOutline.due {s t : State} (h : SameOutline s t) (l : List Instr) : SameOutline s (t.due l) := h.trans (.of_eq rfl)

theorem SameOutline.modCtx {s t : State} (h : SameOutline s t) (i : Nat) {f : Ctx → Ctx} (hf : ∀ c, (f c).outline = c.outline) :
    SameOutline s (t.modCtx i f) :=
  h.trans ⟨fun w hw => ⟨w, hw, rfl⟩, rfl, rfl, map_updFirst hf _⟩

theorem SameOutline.modCore {s t : State} (h : SameOutline s t) (i : CoreId) {f : Core → Core} (hf : ∀ c, (f c).outline = c.outline) :
    SameOutline s (t.modCore i f) :=
  h.trans ⟨fun w hw => ⟨w, hw, rfl⟩, map_updFirst hf _, rfl, rfl⟩

theorem SameOutline.modHome {s t : State} (h : SameOutline s t) (i : HomeId) {f : Home → Home} (hf : ∀ x, (f x).outline = x.outline) :
    SameOutline s (t.modHome i f) :=
  h.trans ⟨fun w hw => ⟨w, hw, rfl⟩, rfl, map_updFirst hf _, rfl⟩

theorem SameOutline.modWave {s t : State} (h : SameOutline s t) (i : WaveId) {f : Wave → Wave} (hf : ∀ w, (f w).fate = w.fate) :
    SameOutline s (t.modWave i f) := by
  refine h.trans ?_
  unfold State.modWave
  split
  · next hi =>
    refine ⟨fun w hw => ?_, rfl, rfl, rfl⟩
    have ha : t.allWaves = t.wave :: t.waves := if_neg hi.2
    rw [ha]
    have hw' : w ∈ f t.wave :: t.waves := by
      unfold State.allWaves at hw
      split at hw
      · exact List.mem_cons_of_mem _ hw
      · exact hw
    rcases List.mem_cons.1 hw' with rfl | hw
    · exact ⟨t.wave, List.mem_cons_self, (hf _).symm⟩
    · exact ⟨w, List.mem_cons_of_mem _ hw, rfl⟩
  · refine ⟨fun w hw => ?_, rfl, rfl, rfl⟩
    have inWaves {v : Wave} (hv : v ∈ t.waves) : v ∈ t.allWaves := by
      unfold State.allWaves
      split
      · exact hv
      · exact List.mem_cons_of_mem _ hv
    have hw' : w ∈ t.allWaves ∨ w ∈ updFirst (fun w => decide (w.id = i)) f t.waves := by
      unfold State.allWaves at hw ⊢
      split at hw
      · exact .inr hw
      · next hn =>
        rw [if_neg hn]
        rcases List.mem_cons.1 hw with rfl | hw
        · exact .inl List.mem_cons_self
        · exact .inr hw
    rcases hw' with hw | hw
    · exact ⟨w, hw, rfl⟩
    · rcases mem_updFirst hw with hw | ⟨v, hv, -, rfl⟩
      · exact ⟨w, inWaves hw, rfl⟩
      · exact ⟨v, inWaves hv, (hf v).symm⟩

/-! Writes of memory at homes -/

theorem State.noteCode_outline (s : State) (e : Entry) (ia n : Nat) : SameOutline s (s.noteCode e ia n) := by
  unfold State.noteCode
  dsimp only
  split <;> exact .of_eq rfl

theorem State.egress_outline (s : State) (e : Entry) (ia n : Nat) (w : Option (List Byte)) : SameOutline s (s.egress e ia n w) := by
  unfold State.egress
  split <;> exact .of_eq rfl

theorem State.frameSet_outline (s : State) (e : Entry) (ia : Nat) (bs : List Byte) : SameOutline s (s.frameSet e ia bs) := by
  unfold State.frameSet
  dsimp only
  split <;> exact .of_eq rfl

theorem State.framePut_outline (s : State) (e : Entry) (ia : Nat) (bs : List Byte) : SameOutline s (s.framePut e ia bs) := by
  have h := (s.frameSet_outline e ia bs).trans (State.egress_outline _ e ia bs.length (some bs))
  unfold State.framePut
  dsimp only
  split
  · exact h.trans (State.egress_outline ..)
  · exact h

theorem State.frameWrite_outline (s : State) (e : Entry) (ia : Nat) (bs : List Byte) : SameOutline s (s.frameWrite e ia bs) :=
  ((s.noteCode_outline e ia bs.length).trans (State.framePut_outline _ e ia bs)).due _

theorem State.holdReq_outline (s : State) (e : Entry) (r : Req) : SameOutline s (s.holdReq e r) := by
  unfold State.holdReq
  split
  · exact .of_eq rfl
  · exact (SameOutline.refl s).modHome _ fun _ => rfl

theorem State.hubWrite_outline {s t : State} {ctx : Nat} {x : Range × Nat} {off : Nat} {bs : List Byte} (h : s.hubWrite ctx x off bs = .ok t) :
    SameOutline s t := by
  unfold State.hubWrite at h
  split at h
  · cases h
  · cases h
    refine .foldl (fun u p => ?_) _ s
    dsimp only
    split
    · exact u.holdReq_outline ..
    · exact u.frameWrite_outline ..

theorem State.ctxStore_outline {s t : State} {ctx : Nat} {va : W64} {bs : List Byte} (h : s.ctxStore ctx va bs = .ok t) :
    SameOutline s t := by
  unfold State.ctxStore at h
  split at h
  · cases h
  · exact State.hubWrite_outline h

/-! Operations that end -/

theorem Wave.putWord_fate (w : Wave) (o : Opd) (l j : Nat) (x : W32) : (w.putWord o l j x).fate = w.fate := by
  unfold Wave.putWord
  split <;> rfl

theorem Wave.putP_fate (w : Wave) (r : Nat) (ls : List Nat) (f : Nat → Bool) : (w.putP r ls f).fate = w.fate := by
  rw [Wave.putP_frame]
  rfl

theorem Op.ldcWrites_fate (o : Op) {p : Nat × (Wave → Wave)} (hp : p ∈ o.ldcWrites) (w : Wave) : (p.2 w).fate = w.fate := by
  unfold Op.ldcWrites at hp
  split at hp
  · simp only [List.mem_append, List.mem_flatMap, List.mem_map] at hp
    rcases hp with (⟨l, -, j, -, rfl⟩ | ⟨l, -, rfl⟩) | ⟨l, -, rfl⟩
    · exact w.putWord_fate ..
    · exact w.putP_fate ..
    · exact w.putP_fate ..
  · cases hp

theorem Op.writes_fate (o : Op) {p : Nat × (Wave → Wave)} (hp : p ∈ o.writes) (w : Wave) : (p.2 w).fate = w.fate := by
  rcases List.mem_append.1 hp with hp | hp
  · split at hp
    · obtain ⟨q, -, rfl⟩ := List.mem_map.1 hp
      exact w.putWord_fate ..
    · cases hp
  · exact o.ldcWrites_fate hp w

theorem Op.write_fate (o : Op) (sel : Nat → Bool) (w : Wave) : (o.write sel w).fate = w.fate := by
  have h : ∀ p ∈ o.writes.filter (fun p => sel p.1), ∀ w, (p.2 w).fate = w.fate := fun p hp => o.writes_fate (List.mem_filter.1 hp).1
  unfold Op.write
  generalize o.writes.filter (fun p => sel p.1) = l at h
  induction l generalizing w with
  | nil => rfl
  | cons p r ih =>
    rw [List.foldl_cons, ih _ fun q hq => h q (List.mem_cons_of_mem _ hq), h p List.mem_cons_self]

theorem State.writeEarly_outline (s : State) (i : Nat) : SameOutline s (s.writeEarly i) := by
  unfold State.writeEarly
  split
  · exact .refl s
  · next o _ =>
    dsimp only
    split
    · exact .of_eq rfl
    · exact .after (t := (s.pick _).2) (by rfl) (((SameOutline.refl _).modWave o.wave (o.write_fate _)).then (by rfl))

theorem State.unwait_outline (s : State) (i : Nat) : SameOutline s (s.unwait i) := .of_eq rfl

theorem State.finishOp_outline (s : State) (i : Nat) : SameOutline s (s.finishOp i) := by
  unfold State.finishOp
  split
  · exact .refl s
  split
  · exact .refl s
  split
  · exact .refl s
  split
  · exact (SameOutline.refl s).due _
  split
  · exact .after (t := s.modOp i fun o => { o with store := false }) (by rfl)
      (((State.writeEarly_outline _ i).trans (State.unwait_outline ..)).due _)
  · exact (SameOutline.refl s).due _

theorem State.tagMet_outline (s : State) (i : Nat) (tw : W64) : SameOutline s (s.tagMet i tw) :=
  .after (by rfl) (State.finishOp_outline _ i)

/-! Launches, and what looks for work -/

theorem Ctx.modLaunch_outline (c : Ctx) (i : Nat) (f : Launch → Launch) : (c.modLaunch i f).outline = c.outline := rfl

theorem State.freeLocks_outline (s : State) (c : CoreId) (p : Lock → Bool) : SameOutline s (s.freeLocks c p) := by
  unfold State.freeLocks
  split
  · exact ((SameOutline.refl s).modCore c fun _ => by rfl).due _
  · exact .refl s

theorem State.dropOps_outline (s : State) (b : Blk) : SameOutline s (s.dropOps b) := by
  unfold State.dropOps
  extract_lets mine ids mineK t
  exact .after (t := t) (by rfl) ((t.freeLocks_outline b.core mineK).trans (.foldl State.unwait_outline _ _))

theorem State.measure_outline (s : State) (b : Blk) : SameOutline s (s.measure b) := by
  unfold State.measure
  split <;> exact .of_eq rfl

theorem State.charge_outline (s : State) (i : BlkId) (pkg cost : Nat) : SameOutline s (s.charge i pkg cost) := by
  unfold State.charge
  split <;> exact .of_eq rfl

theorem State.reap_outline (s : State) (i : BlkId) : SameOutline s (s.reap i) := by
  unfold State.reap
  split
  · exact .refl s
  · extract_lets clusterOver tree
    split
    · exact .refl s
    split
    · exact .refl s
    split <;> exact .of_eq rfl

theorem State.reapAll_outline (s : State) (ctx : Nat) : SameOutline s (s.reapAll ctx) := .foldl State.reap_outline _ s

theorem State.askThief_outline (s : State) (pkg die : Nat) (may : CoreId → Bool) : SameOutline s (s.askThief pkg die may) := by
  unfold State.askThief
  split
  · exact .refl s
  split
  · exact (SameOutline.refl s).due _
  · exact .refl s

theorem State.kickTask_outline (s : State) (c : CoreId) : SameOutline s (s.kickTask c) := by
  unfold State.kickTask
  split
  · exact .refl s
  split
  · split
    · exact s.askThief_outline ..
    · exact .refl s
  split
  · exact .refl s
  · exact (SameOutline.refl s).due _

theorem State.kickRefill_outline (s : State) (c : CoreId) : SameOutline s (s.kickRefill c) := by
  unfold State.kickRefill
  split
  · split
    · exact (SameOutline.refl s).due _
    · exact .refl s
  · exact .refl s

theorem State.kickRefills_outline (s : State) (pkg : Nat) : SameOutline s (s.kickRefills pkg) := by
  unfold State.kickRefills
  split
  · split
    · exact .refl s
    · exact .foldl State.kickRefill_outline _ s
  · exact .refl s

theorem State.kickDie_outline (s : State) (p d : Nat) : SameOutline s (s.kickDie p d) := by
  unfold State.kickDie
  split
  · split
    · split
      · exact (SameOutline.refl s).due _
      · exact .refl s
    split
    · exact .refl s
    · exact (SameOutline.refl s).due _
  · exact .refl s

theorem State.kickDies_outline (s : State) : SameOutline s s.kickDies := .foldl (fun t (d : Die) => t.kickDie_outline d.pkg d.die) _ s

theorem State.purge_outline (s : State) (ctx lid : Nat) : SameOutline s (s.purge ctx lid) := by
  unfold State.purge
  extract_lets mine gone out strip t
  exact .after (t := t) (by rfl) (((SameOutline.refl t).modCtx ctx fun c => c.modLaunch_outline lid out).due _)

theorem State.failNext_outline (s : State) (ctx lid : Nat) : SameOutline s (s.failNext ctx lid) := by
  unfold State.failNext
  split
  · exact .refl s
  split
  · exact .refl s
  · exact (((SameOutline.refl s).modCtx ctx fun c => c.modLaunch_outline _ _).due _).trans (State.purge_outline ..)

theorem State.writeStats_outline (s : State) (ctx : Nat) (l : Launch) : SameOutline s (s.writeStats ctx l) := by
  have herr (e : EngErr) : SameOutline s (s.ctxErr ctx e) := by
    unfold State.ctxErr
    split
    · exact (SameOutline.refl s).due _
    · exact .refl s
  unfold State.writeStats
  split
  · exact .refl s
  split
  · next h => exact State.ctxStore_outline h
  · exact (herr _).due _

theorem State.wakeFallback_outline (s : State) (ctx lid : Nat) : SameOutline s (s.wakeFallback ctx lid) :=
  .foldl (fun t (o : Op) => t.tagMet_outline o.id (o.arg.get 0 0)) _ s

theorem State.fireSignals_outline (s : State) (ctx lid : Nat) : SameOutline s (s.fireSignals ctx lid) := by
  unfold State.fireSignals
  extract_lets strip t
  have h : SameOutline s t := (SameOutline.refl s).modCtx ctx fun _ => rfl
  split
  · exact h
  · exact (h.modCtx ctx fun _ => by rfl).due _

theorem State.endLaunch_outline (s : State) (ctx lid : Nat) : SameOutline s (s.endLaunch ctx lid) := by
  unfold State.endLaunch
  split
  · exact .refl s
  · next l _ =>
    split
    · exact .refl s
    split
    · split
      · exact .refl s
      · exact (SameOutline.refl s).due _
    · extract_lets s1 s2 free s3 s4 s5
      have h2 : SameOutline s s2 := (s.writeStats_outline ctx l).modCtx ctx fun c => c.modLaunch_outline _ _
      have h3 : SameOutline s s3 := h2.trans (.of_eq rfl)
      have h4 : SameOutline s s4 := (h3.trans (s3.wakeFallback_outline ctx lid)).trans (State.fireSignals_outline ..)
      have h5 : SameOutline s s5 := (h4.due _).trans (State.kickDies_outline _)
      split
      · split
        · exact h5.due _
        · exact h5
      · exact h5

theorem State.settleLaunch_outline (s : State) (n ctx lid : Nat) : SameOutline s (s.settleLaunch n ctx lid) := by
  induction n generalizing s lid with
  | zero => exact .refl s
  | succ k ih =>
    unfold State.settleLaunch
    split
    · exact .refl s
    · next l _ =>
      extract_lets s1 s2
      have h1 : SameOutline s s1 := by
        dsimp only [s1]
        split
        · exact (s.purge_outline ctx lid).trans (State.failNext_outline ..)
        · exact .refl s
      have h2 : SameOutline s s2 := h1.trans (s1.endLaunch_outline ctx lid)
      split
      · split
        · exact h2.trans (ih ..)
        · exact h2
      · exact h2

theorem State.closeBlk_outline (s : State) (i : BlkId) : SameOutline s (s.closeBlk i) := by
  unfold State.closeBlk
  split
  · exact .refl s
  · next b _ =>
    split
    next n s1 hs1 =>
    have h1 : SameOutline s s1 := by
      cases hs1
      exact .of_eq rfl
    extract_lets s2 tree keep go s3 cost s4 s5 acc s6 s7
    have h2 : SameOutline s s2 := (h1.trans (s1.dropOps_outline b)).trans (State.measure_outline ..)
    have h3 : SameOutline s s3 := h2.trans (.of_eq rfl)
    have h5 : SameOutline s s5 := (h3.trans (s3.charge_outline i b.core.pkg cost)).due _
    have h6 : SameOutline s s6 := (h5.modCtx i.ctx fun c => c.modLaunch_outline _ _).trans (State.reapAll_outline ..)
    have h7 : SameOutline s s7 := (h6.trans (s6.kickTask_outline b.core)).trans (State.kickRefill_outline ..)
    exact (h7.trans (s7.settleLaunch_outline 4096 i.ctx i.launch)).trans (State.kickDies_outline _)

/-! Pages, commands and leases at a home -/

theorem State.devWrite_outline {s t : State} {fn ia : Nat} {bs : List Byte} (h : s.devWrite fn ia bs = some t) : SameOutline s t := by
  obtain ⟨e, -, rfl⟩ := Option.map_eq_some_iff.1 h
  split
  · exact s.holdReq_outline ..
  · exact s.framePut_outline ..

theorem State.ringPut_outline {s t : State} {fn : Nat} {reg pi ci : W64} {ws : List W64} (h : s.ringPut fn reg pi ci ws = some t) :
    SameOutline s t := by
  unfold State.ringPut at h
  dsimp only at h
  split at h
  · cases h
    cases hw : s.devWrite fn (ringIa reg + 32 * (pi.toNat % 2 ^ ringLog reg)) (bytesOf ws) with
    | none => exact .refl s
    | some t => exact State.devWrite_outline hw
  · cases h

theorem State.hccFlush_outline (s : State) (n fn : Nat) : SameOutline s (s.hccFlush n fn) := by
  induction n generalizing s with
  | zero => exact .refl s
  | succ k ih =>
    unfold State.hccFlush
    split
    · exact .refl s
    split
    · exact .refl s
    split
    · next h => exact ((State.ringPut_outline h).then (by rfl)).trans (ih _)
    · exact .refl s

theorem State.cmdEnd_outline (s : State) (c : HomeCmd) (st n : Nat) (fr : W64) : SameOutline s (s.cmdEnd c st n fr) :=
  .after (by rfl) (State.hccFlush_outline _ 65537 c.fn)

theorem State.refuseHeld_outline (s : State) (h : HomeId) (ia : Nat) : SameOutline s (s.refuseHeld h ia) := by
  unfold State.refuseHeld
  split
  · exact .of_eq rfl
  · exact .refl s

theorem State.abortCopy_outline (s : State) (h : HomeId) (ia st : Nat) : SameOutline s (s.abortCopy h ia st) := by
  unfold State.abortCopy
  split
  · extract_lets t
    split
    · exact .after (t := t) (by rfl) (t.cmdEnd_outline ..)
    · exact .of_eq rfl
  · exact .refl s

theorem State.rejectPage_outline (s : State) (e : Entry) : SameOutline s (s.rejectPage e) := by
  unfold State.rejectPage
  split
  · exact .refl s
  split
  · exact .refl s
  · exact s.abortCopy_outline ..
  · extract_lets t
    have h : SameOutline s t := s.refuseHeld_outline ..
    split
    · exact h.trans (t.cmdEnd_outline ..)
    · exact h
  · extract_lets t
    split
    · exact .after (t := t) (by rfl) (t.cmdEnd_outline ..)
    · exact .of_eq rfl

theorem State.cancelCmds_outline (s : State) (ctx : Nat) (h : HomeId) : SameOutline s (s.cancelCmds ctx h) := by
  unfold State.cancelCmds
  extract_lets gone t
  refine .after (t := t) (by rfl) (.foldl (fun u e => ?_) _ t)
  split
  · exact u.cmdEnd_outline ..
  · exact .refl u

theorem State.shoot_outline (s : State) (e : Entry) (c : Option HomeCmd) (f : ShootFor) : SameOutline s (s.shoot e c f) := by
  unfold State.shoot
  extract_lets acks t fresh u
  have h : SameOutline s u := by
    dsimp only [u]
    split <;> exact .of_eq rfl
  exact h.due _

theorem State.releasePage_outline (s : State) (h : HomeId) (ia : Nat) : SameOutline s (s.releasePage h ia) := by
  unfold State.releasePage
  split
  · exact .refl s
  split
  · exact .refl s
  extract_lets t q u
  split
  · exact .of_eq rfl
  have hu : SameOutline s u := .after (t := t) (by rfl) (((SameOutline.refl t).modHome h fun _ => by rfl).due _)
  split
  · exact hu.trans (u.shoot_outline ..)
  · exact hu.trans (u.shoot_outline ..)
  · exact hu

theorem State.dropLeases_outline (s : State) (ctx : Nat) (h : HomeId) : SameOutline s (s.dropLeases ctx h) := by
  unfold State.dropLeases
  extract_lets ls isGrant strip t u stuck
  have hu : SameOutline t u := .foldl (fun v (l : LeaseReq) => .foldl (fun x p => x.releasePage_outline h p) l.pages v) ls t
  exact .after (t := t) (by rfl) (hu.trans (.foldl (fun v ia => .after (by rfl) (State.releasePage_outline _ h ia)) stuck u))

/-! Records found by their name have the outline they had -/

/-- Where two lists agree up to g, so do the first records that satisfy a predicate of g. -/
theorem find?_map_congr {α β : Type} {g : α → β} {l m : List α} (h : l.map g = m.map g) {p : α → Bool} {q : β → Bool}
    (hp : ∀ a, p a = q (g a)) : (l.find? p).map g = (m.find? p).map g := by
  have hq : p = q ∘ g := funext hp
  rw [hq, ← List.find?_map, h, List.find?_map]

theorem State.core?_outline {s t : State} (h : t.cores.map Core.outline = s.cores.map Core.outline) (k : CoreId) :
    (t.core? k).map Core.outline = (s.core? k).map Core.outline :=
  find?_map_congr h (q := fun x => decide (x.1 = k)) fun _ => rfl

theorem State.home?_outline {s t : State} (h : t.homes.map Home.outline = s.homes.map Home.outline) (k : HomeId) :
    (t.home? k).map Home.outline = (s.home? k).map Home.outline :=
  find?_map_congr h (q := fun x => decide (x.1 = k)) fun _ => rfl

theorem State.ctx?_outline {s t : State} (h : t.ctxs.map Ctx.outline = s.ctxs.map Ctx.outline) (i : Nat) :
    (t.ctx? i).map Ctx.outline = (s.ctx? i).map Ctx.outline :=
  find?_map_congr h (q := fun x => x.1 == i) fun _ => rfl

theorem State.coresOf_congr {s t : State} (h : t.cores.map (·.id) = s.cores.map (·.id)) (c : Ctx) : t.coresOf c = s.coresOf c := by
  have hc (u : State) : u.coresOf c = (u.cores.map (·.id)).filter fun k => c.dies.any fun d => d.2.1 == k.pkg && d.2.2 == k.die := by
    rw [List.filter_map]
    rfl
  rw [hc, hc, h]

theorem State.homesOf_congr {s t : State} (h : t.homes.map (·.id) = s.homes.map (·.id)) (c : Ctx) : t.homesOf c = s.homesOf c := by
  have hh (k : HomeId) : (t.home? k).isSome = (s.home? k).isSome := by
    have hk : (t.home? k).map (·.id) = (s.home? k).map (·.id) := find?_map_congr h (q := fun j => decide (j = k)) fun _ => rfl
    simpa only [Option.isSome_map] using congrArg Option.isSome hk
  simp only [State.homesOf, hh]

theorem SameOutline.coreIds {s t : State} (h : SameOutline s t) : t.cores.map (·.id) = s.cores.map (·.id) := by
  simpa [List.map_map, Function.comp_def, Core.outline] using congrArg (List.map Prod.fst) h.cores

theorem SameOutline.homeIds {s t : State} (h : SameOutline s t) : t.homes.map (·.id) = s.homes.map (·.id) := by
  simpa [List.map_map, Function.comp_def, Home.outline] using congrArg (List.map Prod.fst) h.homes

/-! ### Revocation at a core -/

/-- The wave has exited with all its threads. -/
def Wave.Gone (w : Wave) : Prop := w.run = .halted ∧ w.exited = 0xFFFFFFFF#32

theorem Wave.Gone.of_fate {v w : Wave} (h : v.fate = w.fate) (hv : v.Gone) : w.Gone := by
  simp only [Wave.fate, Prod.mk.injEq] at h
  obtain ⟨-, -, hr, he⟩ := h
  exact ⟨hr ▸ hv.1, he ▸ hv.2⟩

/-- Where no name is used twice, an update reaches the one record of its name. -/
theorem mem_updFirst_wave {i : WaveId} {f : Wave → Wave} {l : List Wave} (hn : (l.map (·.id)).Nodup) {w : Wave}
    (hw : w ∈ updFirst (fun w => decide (w.id = i)) f l) : (w ∈ l ∧ w.id ≠ i) ∨ ∃ v ∈ l, w = f v := by
  induction l with
  | nil => cases hw
  | cons a r ih =>
    obtain ⟨ha, hr⟩ := List.nodup_cons.1 hn
    unfold updFirst at hw
    split at hw
    · next hi =>
      have hi : a.id = i := of_decide_eq_true hi
      rcases List.mem_cons.1 hw with rfl | hw
      · exact .inr ⟨a, List.mem_cons_self, rfl⟩
      · exact .inl ⟨List.mem_cons_of_mem _ hw, fun h => ha (List.mem_map.2 ⟨w, hw, h.trans hi.symm⟩)⟩
    · next hi =>
      rcases List.mem_cons.1 hw with rfl | hw
      · exact .inl ⟨List.mem_cons_self, fun h => hi (decide_eq_true h)⟩
      · rcases ih hr hw with ⟨hw, h⟩ | ⟨v, hv, h⟩
        · exact .inl ⟨List.mem_cons_of_mem _ hw, h⟩
        · exact .inr ⟨v, List.mem_cons_of_mem _ hv, h⟩

theorem State.mem_allWaves_modWave {s : State} (hn : (s.allWaves.map (·.id)).Nodup) {i : WaveId} {f : Wave → Wave} {w : Wave}
    (hw : w ∈ (s.modWave i f).allWaves) : (w ∈ s.allWaves ∧ w.id ≠ i) ∨ ∃ v ∈ s.allWaves, w = f v := by
  unfold State.modWave at hw
  split at hw
  · next hi =>
    have ha : s.allWaves = s.wave :: s.waves := if_neg hi.2
    rw [ha] at hn ⊢
    have hrest (h : w ∈ s.waves) : (w ∈ s.wave :: s.waves ∧ w.id ≠ i) ∨ ∃ v ∈ s.wave :: s.waves, w = f v :=
      .inl ⟨List.mem_cons_of_mem _ h, fun h' => (List.nodup_cons.1 hn).1 (List.mem_map.2 ⟨w, h, h'.trans hi.1.symm⟩)⟩
    unfold State.allWaves at hw
    split at hw
    · exact hrest hw
    · rcases List.mem_cons.1 hw with rfl | hw
      · exact .inr ⟨s.wave, List.mem_cons_self, rfl⟩
      · exact hrest hw
  · next hi =>
    unfold State.allWaves at hw hn ⊢
    by_cases h0 : s.wave = Wave.idle
    · rw [if_pos h0] at hw hn ⊢
      exact mem_updFirst_wave hn hw
    · rw [if_neg h0] at hw hn ⊢
      rcases List.mem_cons.1 hw with rfl | hw
      · exact .inl ⟨List.mem_cons_self, fun h => hi ⟨h, h0⟩⟩
      · rcases mem_updFirst_wave (List.nodup_cons.1 hn).2 hw with ⟨hw, h⟩ | ⟨v, hv, h⟩
        · exact .inl ⟨List.mem_cons_of_mem _ hw, h⟩
        · exact .inr ⟨v, List.mem_cons_of_mem _ hv, h⟩

theorem State.modWave_nodup {s : State} (hn : (s.allWaves.map (·.id)).Nodup) (i : WaveId) {f : Wave → Wave} (hf : ∀ w, (f w).id = w.id) :
    ((s.modWave i f).allWaves.map (·.id)).Nodup := by
  unfold State.modWave
  split
  · next hi =>
    have ha : s.allWaves = s.wave :: s.waves := if_neg hi.2
    rw [ha, List.map_cons] at hn
    unfold State.allWaves
    split
    · exact (List.nodup_cons.1 hn).2
    · rw [List.map_cons, hf]
      exact hn
  · unfold State.allWaves at hn ⊢
    by_cases h0 : s.wave = Wave.idle
    · rw [if_pos h0] at hn ⊢
      rwa [map_updFirst hf]
    · rw [if_neg h0, List.map_cons] at hn ⊢
      rwa [map_updFirst hf]

theorem State.dueEnd_allWaves (s : State) (i : WaveId) : (s.dueEnd i).allWaves = s.allWaves := by
  unfold State.dueEnd
  split <;> rfl

/-- After some waves have met the end of their context, each of them has exited, and the others are as they were. -/
theorem ctxDeads_allWaves (l : List WaveId) {s : State} (hn : (s.allWaves.map (·.id)).Nodup) {w : Wave}
    (hw : w ∈ (l.foldl State.ctxDead s).allWaves) : w.Gone ∨ (w ∈ s.allWaves ∧ w.id ∉ l) := by
  induction l generalizing s with
  | nil => exact .inr ⟨hw, List.not_mem_nil⟩
  | cons i r ih =>
    have hd : (s.ctxDead i).allWaves = _ := State.dueEnd_allWaves _ i
    have hn' : ((s.ctxDead i).allWaves.map (·.id)).Nodup := by
      rw [hd]
      exact State.modWave_nodup hn i fun _ => rfl
    rcases ih hn' hw with h | ⟨h, hr⟩
    · exact .inl h
    · rw [hd] at h
      rcases State.mem_allWaves_modWave hn h with ⟨h, hi⟩ | ⟨v, -, rfl⟩
      · exact .inr ⟨h, List.not_mem_cons_of_ne_of_not_mem hi hr⟩
      · exact .inl ⟨rfl, rfl⟩

theorem State.ctxDead_records (s : State) (i : WaveId) :
    ((s.ctxDead i).cores, (s.ctxDead i).homes, (s.ctxDead i).ctxs) = (s.cores, s.homes, s.ctxs) := by
  unfold State.ctxDead State.dueEnd State.modWave
  split <;> split <;> rfl

theorem ctxDeads_records (l : List WaveId) (s : State) :
    (l.foldl State.ctxDead s).cores = s.cores ∧ (l.foldl State.ctxDead s).homes = s.homes ∧ (l.foldl State.ctxDead s).ctxs = s.ctxs := by
  have h := foldl_keeps (g := fun u : State => (u.cores, u.homes, u.ctxs)) (f := State.ctxDead) State.ctxDead_records l s
  simpa only [Prod.mk.injEq] using h

/-- The context's waves at the core have exited, and the core holds nothing of it; the teardown stands where it stood. -/
structure Revoked (s t : State) (ctx : Nat) (k : CoreId) : Prop where
  waves : ∀ w ∈ t.allWaves, w.id.blk.ctx = ctx → w.core = k → w.Gone
  core : ∀ y, t.core? k = some y → (∀ r ∈ y.deque, r.ctx ≠ ctx) ∧ ∀ b ∈ y.wc, b.ctx ≠ ctx
  coreIds : t.cores.map (·.id) = s.cores.map (·.id)
  homeIds : t.homes.map (·.id) = s.homes.map (·.id)
  ctxs : t.ctxs.map Ctx.outline = s.ctxs.map Ctx.outline

theorem State.allWaves_congr {s t : State} (h : t.wave = s.wave) (k : t.waves = s.waves) : t.allWaves = s.allWaves := by
  simp only [State.allWaves, h, k]

theorem State.revokeAt_revoked {s : State} (hn : (s.allWaves.map (·.id)).Nodup) (ctx : Nat) (k : CoreId) :
    Revoked s (s.revokeAt ctx k) ctx k := by
  unfold State.revokeAt
  extract_lets ids here exits kill ops mine core die s1 s2 s3
  obtain ⟨hcores, hhomes, hctxs⟩ : s2.cores = s1.cores ∧ s2.homes = s1.homes ∧ s2.ctxs = s1.ctxs := ctxDeads_records ids s1
  have hlocks := s2.freeLocks_outline k mine
  have hend : SameOutline s3 (exits.foldl State.closeBlk ((s3.kickRefills k.pkg).kickTask k)) :=
    ((s3.kickRefills_outline k.pkg).trans (State.kickTask_outline _ k)).trans (.foldl State.closeBlk_outline exits _)
  have h3w : s3.allWaves = (s2.freeLocks k mine).allWaves :=
    State.allWaves_congr (by rw [State.modPkg_wave, State.modDie_wave, State.modCore_wave])
      (by rw [State.modPkg_waves, State.modDie_waves, State.modCore_waves])
  have h3c : s3.cores = updFirst (fun x => decide (x.id = k)) core (s2.freeLocks k mine).cores := by
    rw [State.modPkg_cores, State.modDie_cores, State.modCore]
  have h3h : s3.homes = (s2.freeLocks k mine).homes := by rw [State.modPkg_homes, State.modDie_homes, State.modCore_homes]
  have h3x : s3.ctxs = (s2.freeLocks k mine).ctxs := by rw [State.modPkg_ctxs, State.modDie_ctxs, State.modCore_ctxs]
  refine ⟨fun w hw hctx hk => ?_, fun y hy => ?_, ?_, ?_, ?_⟩
  · obtain ⟨v, hv, hvw⟩ := hend.waves w hw
    obtain ⟨u, hu, huv⟩ := hlocks.waves v (h3w ▸ hv)
    have hf := huv.trans hvw
    refine Wave.Gone.of_fate hf ((ctxDeads_allWaves ids (s := s1) hn hu).resolve_right fun h => ?_)
    simp only [Wave.fate, Prod.mk.injEq] at hf
    obtain ⟨hid, hcore, -, -⟩ := hf
    refine h.2 (List.mem_map.2 ⟨u, List.mem_filter.2 ⟨h.1, ?_⟩, rfl⟩)
    simp [hid, hcore, hctx, hk]
  · have h3 : s3.core? k = ((s2.freeLocks k mine).core? k).map core := by
      rw [State.core?, h3c]
      exact find?_updFirst (f := core) (fun _ => id) _
    have hy' := State.core?_outline hend.cores k
    rw [hy, h3] at hy'
    cases hx : (s2.freeLocks k mine).core? k with
    | none => simp [hx] at hy'
    | some x =>
      simp only [hx, Option.map_some, Core.outline, Option.some.injEq, Prod.mk.injEq] at hy'
      obtain ⟨-, hdq, hwc⟩ := hy'
      rw [hdq, hwc]
      exact ⟨fun r hr => by simpa using (List.mem_filter.1 hr).2, fun b hb => by simpa using (List.mem_filter.1 hb).2⟩
  · rw [hend.coreIds, h3c, map_updFirst fun _ => by rfl, hlocks.coreIds, hcores]
  · rw [hend.homeIds, h3h, hlocks.homeIds, hhomes]
  · rw [hend.ctxs, h3x, hlocks.ctxs, hctxs]

/-! ### Creation -/

section
variable {s : State} {fn n : Nat} {f : Fn}

/-- The end of a context command shows in CTXST. -/
theorem State.ctxStatus_answers (h : s.fn? fn = some f) (hn : n < 1024) {u : State} (hm : u.mem = s.mem) (hu : u.fns = s.fns) (st : Nat) :
    (u.ctxStatus fn n st).mem = s.mem ∧ (u.ctxStatus fn n st).fn? fn = some { f with
      ctxst := ((f.ctxst &&& 0x8000000000000000#64) ^^^ 0x8000000000000000#64) ||| BitVec.ofNat 64 (n + st * 1024) } := by
  have h' : u.fn? fn = some f := by rw [State.fn?, hu]; exact h
  refine ⟨hm, ?_⟩
  rw [State.ctxStatus, State.fn?_modFn_some h', Nat.mod_eq_of_lt hn]
  exact fun _ => rfl

/-- The readers of a new context's log, where it replays one. -/
def Ctx.readers (c : Ctx) : List Instr := if c.logmode = 2 then c.rings.map fun r => .replayReaderTake c.id r.lpkg else []

/-- CTXCMD_CREATE for a number that nothing uses, in a partition that is up. -/
theorem exec_create_of_free (h : s.fn? fn = some f) (hn : n < 1024) (hc : s.ctx? (fn * 1024 + n) = none)
    (hb : ∀ b ∈ s.blks, b.id.ctx ≠ fn * 1024 + n) (hw : ∀ w ∈ s.allWaves, w.id.blk.ctx ≠ fn * 1024 + n) (hd : f.dies ≠ [])
    (hup : ∀ d ∈ f.dies, ∃ p, s.pkg? d.2.1 = some p ∧ p.up = true ∧ p.failed = false) {desc : Nat}
    (hdesc : desc = (f.ctxtab.extractLsb' 13 43).toNat * 8192 + 8192 * n) :
    exec (.ctxcmdCreate fn n) s = .next (
      if !f.tabWr then s.ctxStatus fn n 1
      else if s.devHeld fn desc 8192 then s.due [.ctxcmdCreate fn n]
      else (s.devRead fn desc 8192).elim (s.ctxStatus fn n 1) fun bs =>
        let c := newCtx (fn * 1024 + n) desc f.dies bs
        if s.descOk fn c bs then ((s.enterCtx c).due c.readers).ctxStatus fn n 0 else s.ctxStatus fn n 1) := by
  have hblks : s.blks.any (fun b => b.id.ctx == fn * 1024 + n) = false := by simpa using hb
  have hwaves : s.allWaves.any (fun w => w.id.blk.ctx == fn * 1024 + n) = false := by simpa using hw
  have hdies : f.dies.isEmpty = false := by simpa using hd
  simp only [exec, execCtxcmdCreate, h, Nat.mod_eq_of_lt hn, hc, hblks, hwaves, hdies, Bool.or_false, Bool.false_or, Bool.false_eq_true,
    if_false, ← hdesc]
  rw [if_neg]
  · cases s.devRead fn desc 8192 <;> rfl
  · simp only [Bool.not_eq_true', Bool.not_eq_false, List.all_eq_true]
    intro d hdm
    obtain ⟨p, hp, hu, hf⟩ := hup d hdm
    simp [hp, hu, hf]

theorem State.enterCtx_ctx? (s : State) (c : Ctx) : (s.enterCtx c).ctx? c.id = some c := by
  simp [State.enterCtx, State.ctx?, List.find?_append, List.find?_eq_none.2]

/-- A context command ends with a status in CTXST, and memory as it was. -/
def CtxAnswer (s : State) (fn n : Nat) (f : Fn) (i : Instr) (st : Nat) : Prop :=
  ∃ t, exec i s = .next t ∧ t.mem = s.mem ∧ t.fn? fn = some { f with
    ctxst := ((f.ctxst &&& 0x8000000000000000#64) ^^^ 0x8000000000000000#64) ||| BitVec.ofNat 64 (n + st * 1024) }

theorem CtxAnswer.of_exec (h : s.fn? fn = some f) (hn : n < 1024) {i : Instr} {st : Nat} (he : exec i s = .next (s.ctxStatus fn n st)) :
    CtxAnswer s fn n f i st :=
  ⟨_, he, State.ctxStatus_answers h hn rfl rfl st⟩

theorem createsFromTable (h : s.fn? fn = some f) (hn : n < 1024) (hc : s.ctx? (fn * 1024 + n) = none)
    (hb : ∀ b ∈ s.blks, b.id.ctx ≠ fn * 1024 + n) (hw : ∀ w ∈ s.allWaves, w.id.blk.ctx ≠ fn * 1024 + n) (hd : f.dies ≠ [])
    (hup : ∀ d ∈ f.dies, ∃ p, s.pkg? d.2.1 = some p ∧ p.up = true ∧ p.failed = false) {desc : Nat}
    (hdesc : desc = (f.ctxtab.extractLsb' 13 43).toNat * 8192 + 8192 * n) :
    (f.tabWr = false → CtxAnswer s fn n f (.ctxcmdCreate fn n) 1)
      ∧ (∀ bs, f.tabWr = true → s.devHeld fn desc 8192 = false → s.devRead fn desc 8192 = some bs →
          let ok := s.descOk fn (newCtx (fn * 1024 + n) desc f.dies bs) bs
          CtxAnswer s fn n f (.ctxcmdCreate fn n) (if ok then 0 else 1)
          ∧ ∃ t, exec (.ctxcmdCreate fn n) s = .next t
            ∧ t.ctx? (fn * 1024 + n) = if ok then some (newCtx (fn * 1024 + n) desc f.dies bs) else none)
      ∧ (s.devHeld fn desc 8192 = false → s.devRead fn desc 8192 = none → CtxAnswer s fn n f (.ctxcmdCreate fn n) 1)
      ∧ (f.tabWr = true → s.devHeld fn desc 8192 = true →
          exec (.ctxcmdCreate fn n) s = .next { s with pending := s.pending ++ [.ctxcmdCreate fn n] }) := by
  have he := exec_create_of_free h hn hc hb hw hd hup hdesc
  refine ⟨fun ht => ?_, fun bs ht hh hr => ?_, fun hh hr => ?_, fun ht hh => ?_⟩
  · exact .of_exec h hn (by simpa [ht] using he)
  · dsimp only
    simp only [ht, hh, hr, Bool.not_true, Bool.false_eq_true, if_false, Option.elim_some] at he
    by_cases hok : s.descOk fn (newCtx (fn * 1024 + n) desc f.dies bs) bs = true
    · rw [if_pos hok] at he
      rw [if_pos hok, if_pos hok]
      exact ⟨⟨_, he, State.ctxStatus_answers h hn rfl rfl 0⟩, _, he, State.enterCtx_ctx? s (newCtx (fn * 1024 + n) desc f.dies bs)⟩
    · rw [if_neg hok] at he
      rw [if_neg hok, if_neg hok]
      exact ⟨.of_exec h hn he, _, he, hc⟩
  · refine .of_exec h hn ?_
    cases ht : f.tabWr <;> simpa [ht, hh, hr] using he
  · simpa [ht, hh, State.due] using he

/-! ### Teardown -/

theorem exec_create_of_used (h : s.fn? fn = some f) (hn : n < 1024) {c : Ctx} (hc : s.ctx? (fn * 1024 + n) = some c) (hl : c.life ≠ .dead) :
    exec (.ctxcmdCreate fn n) s = .next (s.ctxStatus fn n 2) := by
  simp [exec, execCtxcmdCreate, h, Nat.mod_eq_of_lt hn, hc, hl]

theorem exec_teardown_of_none (h : s.fn? fn = some f) (hn : n < 1024) (hc : s.ctx? (fn * 1024 + n) = none) :
    exec (.ctxcmdTeardown fn n) s = .next (s.ctxStatus fn n 1) := by
  simp [exec, execCtxcmdTeardown, h, Nat.mod_eq_of_lt hn, hc]

theorem exec_teardown_of_dead (h : s.fn? fn = some f) (hn : n < 1024) {c : Ctx} (hc : s.ctx? (fn * 1024 + n) = some c) (hl : c.life = .dead) :
    exec (.ctxcmdTeardown fn n) s = .next (s.ctxStatus fn n 1) := by
  simp [exec, execCtxcmdTeardown, h, Nat.mod_eq_of_lt hn, hc, hl]

/-- A teardown under way is not begun again. -/
theorem exec_teardown_of_stopped (h : s.fn? fn = some f) (hn : n < 1024) {c : Ctx} (hc : s.ctx? (fn * 1024 + n) = some c)
    (hd : c.life ≠ .dead) (hl : c.life ≠ .live) (ha : c.auto = false) :
    exec (.ctxcmdTeardown fn n) s = .next (s.ctxStatus fn n 2) := by
  simp only [exec, execCtxcmdTeardown, h, Nat.mod_eq_of_lt hn, hc, ha, Option.isNone_some, Bool.false_eq_true, if_false]

theorem exec_teardown_of_live (h : s.fn? fn = some f) (hn : n < 1024) {c : Ctx} (hc : s.ctx? (fn * 1024 + n) = some c) (hl : c.life = .live) :
    exec (.ctxcmdTeardown fn n) s = .next (s.stopContext c) := by
  simp [exec, execCtxcmdTeardown, h, Nat.mod_eq_of_lt hn, hc, hl]

end

/-- A context stops: its launches have ended, nothing of it is parked, triggered or listed, and revocation is due at every core. -/
theorem State.stopContext_stopped {s : State} {i : Nat} {c : Ctx} (hc : s.ctx? i = some c) (hk : s.coresOf c ≠ []) :
    ∃ c', (s.stopContext c).ctx? i = some c' ∧ c'.life = .stopping ∧ (∀ l ∈ c'.launches, l.ended = true) ∧ c'.parked = [] ∧ c'.trig = []
      ∧ (∀ d ∈ (s.stopContext c).dies, ∀ j ∈ d.list, j.ctx ≠ i)
      ∧ ∀ k ∈ s.coresOf c, .coreRevocation i k ∈ (s.stopContext c).pending := by
  have hi : c.id = i := State.ctx?_id s hc
  unfold State.stopContext
  extract_lets ctx strip unqueue unhold isTask end_ calm rack s1 stop s2 s3 ends s4
  have h4 : s4.ctxs = s2.ctxs ∧ s4.dies = s1.dies ∧ s4.cores = s1.cores := by
    dsimp only [s4]
    split <;> exact ⟨rfl, rfl, rfl⟩
  obtain ⟨hctxs, hdies, hcores⟩ := h4
  have hcs : s4.coresOf c = s.coresOf c := State.coresOf_congr (by rw [hcores]) c
  have hctx : s4.ctx? i = some (stop c) := by
    rw [State.ctx?, hctxs, ← State.ctx?, ← hi, State.ctx?_modCtx s1 ctx stop fun _ h => h]
    exact congrArg (Option.map stop) (hi.symm ▸ hc)
  split
  · next he => exact absurd (hcs.symm.trans he) hk
  · refine ⟨stop c, hctx, rfl, fun l hl => ?_, rfl, rfl, fun d hd j hj => ?_, fun k hkc => ?_⟩
    · obtain ⟨l', -, rfl⟩ := List.mem_map.1 hl
      rfl
    · rw [State.due_dies, hdies] at hd
      obtain ⟨d', -, rfl⟩ := List.mem_map.1 hd
      simpa [hi, ctx] using (List.mem_filter.1 hj).2
    · rw [State.due_pending, hcs]
      exact List.mem_append_right _ (List.mem_map.2 ⟨k, hkc, by rw [show ctx = i from hi]⟩)

theorem State.buryCtx_records (s : State) (i : Nat) :
    (s.buryCtx i).allWaves = s.allWaves ∧ (s.buryCtx i).cores = s.cores ∧ (s.buryCtx i).homes = s.homes := by
  unfold State.buryCtx
  split
  · exact ⟨rfl, rfl, rfl⟩
  · dsimp only
    split <;> exact ⟨rfl, rfl, rfl⟩

/-- A buried context is dead. -/
theorem State.buryCtx_dead (s : State) (i : Nat) {c : Ctx} (hc : (s.buryCtx i).ctx? i = some c) : c.life = .dead := by
  unfold State.buryCtx at hc
  split at hc
  · next h => cases h.symm.trans hc
  · next x h =>
    extract_lets resident s1 s2 at hc
    have h2 : s2.ctx? i = _ := State.ctx?_modCtx s1 i _ fun _ h => h
    have hx : s1.ctx? i = some x := h
    have hc' : s2.ctx? i = some c := by
      split at hc
      · exact hc
      · exact hc
    rw [h2, hx] at hc'
    cases hc'
    rfl

theorem State.sendRejections_records (s : State) (c : Ctx) :
    (s.sendRejections c).allWaves = s.allWaves ∧ (s.sendRejections c).cores = s.cores := by
  unfold State.sendRejections
  extract_lets hs t
  split
  · obtain ⟨hw, hc, -⟩ := t.buryCtx_records c.id
    exact ⟨hw, hc⟩
  · exact ⟨rfl, rfl⟩

theorem State.sendRejections_pending (s : State) (c : Ctx) : ∀ h ∈ s.homesOf c, .contextRejection c.id h ∈ (s.sendRejections c).pending := by
  intro h hh
  unfold State.sendRejections
  extract_lets hs t
  have hne : ¬ hs.isEmpty = true := fun he => List.ne_nil_of_mem hh (List.isEmpty_iff.1 he)
  rw [if_neg hne]
  exact List.mem_append_right _ (List.mem_map.2 ⟨h, hh, rfl⟩)

/-- CORE_REVOCATION at a core of the partition that has not revoked the context yet. -/
theorem coreRevokes {s : State} {i : Nat} {c : Ctx} (hc : s.ctx? i = some c) {k : CoreId} (hl : c.life = .stopping ∨ c.life = .revoking)
    (hk : k ∈ s.coresOf c) (hr : k ∉ c.revoked) (hn : (s.allWaves.map (·.id)).Nodup) (hx : ∃ x, s.core? k = some x) :
    ∃ t, exec (.coreRevocation i k) s = .next t
      ∧ (∀ w ∈ t.allWaves, w.id.blk.ctx = i → w.core = k → w.run = .halted ∧ w.exited = 0xFFFFFFFF#32)
      ∧ (∀ y, t.core? k = some y → (∀ r ∈ y.deque, r.ctx ≠ i) ∧ ∀ b ∈ y.wc, b.ctx ≠ i)
      ∧ ((∃ q ∈ s.coresOf c, q ≠ k ∧ q ∉ c.revoked) → ∃ c', t.ctx? i = some c' ∧ c'.life = .revoking ∧ k ∈ c'.revoked)
      ∧ ((∀ q ∈ s.coresOf c, q = k ∨ q ∈ c.revoked) → ∀ h ∈ s.homesOf c, .contextRejection i h ∈ t.pending) := by
  obtain ⟨x, hx⟩ := hx
  have hi : c.id = i := State.ctx?_id s hc
  let mark : Ctx → Ctx := fun c => { c with life := .revoking, revoked := c.revoked ++ [k] }
  let s1 := s.modCtx i mark
  let s2 := s1.revokeAt i k
  obtain ⟨hwaves, hcore, hids, hhomes, hctxs⟩ := State.revokeAt_revoked (s := s1) hn i k
  have hcores2 : s2.coresOf c = s.coresOf c := State.coresOf_congr hids c
  have hhomes2 : s2.homesOf c = s.homesOf c := State.homesOf_congr hhomes c
  have he : exec (.coreRevocation i k) s
      = .next (if (s2.coresOf c).all fun x => x = k ∨ x ∈ c.revoked then s2.sendRejections c else s2) := by
    have hgo : ((c.life != .stopping && c.life != .revoking) || c.revoked.contains k || !(s.coresOf c).contains k) = false := by
      rcases hl with hl | hl <;> simp [hl, hr, hk]
    simp only [exec, execCoreRevocation, hx, hc, hgo, Option.isNone_some, Bool.false_eq_true, if_false]
    rfl
  rw [he, hcores2]
  by_cases hall : ∀ q ∈ s.coresOf c, q = k ∨ q ∈ c.revoked
  · rw [if_pos (by simpa using hall)]
    obtain ⟨hw, hcs⟩ := s2.sendRejections_records c
    refine ⟨_, rfl, fun w hw' => hwaves w (hw ▸ hw'), fun y hy => hcore y ?_, fun ⟨q, hq, hqk, hqr⟩ => ?_, fun _ h hh => ?_⟩
    · rwa [State.core?, hcs] at hy
    · exact absurd (hall q hq) (not_or.2 ⟨hqk, hqr⟩)
    · have := s2.sendRejections_pending c h (hhomes2 ▸ hh)
      rwa [hi] at this
  · rw [if_neg (by simpa using hall)]
    refine ⟨_, rfl, hwaves, hcore, fun _ => ?_, fun h => absurd h hall⟩
    have h1 : s1.ctx? i = some (mark c) := by
      rw [State.ctx?_modCtx s i mark fun _ h => h, hc]
      rfl
    have h2 := State.ctx?_outline hctxs i
    rw [h1, Option.map_some] at h2
    obtain ⟨c', hc', ho⟩ := Option.map_eq_some_iff.1 h2
    simp only [Ctx.outline, Prod.mk.injEq] at ho
    obtain ⟨-, hlife, hrev⟩ := ho
    exact ⟨c', hc', hlife, by rw [hrev]; exact List.mem_append_right _ List.mem_cons_self⟩

/-- A home turns to rejecting a context: its work ends there, and where no home is left the context is buried. -/
theorem exec_rejection {s : State} {i : Nat} {c : Ctx} (hc : s.ctx? i = some c) {h : HomeId} {x : Home} (hl : c.life = .rejecting)
    (hx : s.home? h = some x) (hd : i ∉ x.dead) :
    ∃ t, SameOutline (s.modHome h fun x => { x with dead := i :: x.dead }) t
      ∧ (exec (.contextRejection i h) s = .next (t.buryCtx i)
        ∨ exec (.contextRejection i h) s = .next t ∧ ∃ y ∈ t.homesOf c, ∃ z, t.home? y = some z ∧ i ∉ z.dead) := by
  have hgo : (c.life != .rejecting || x.dead.contains i) = false := by simp [hl, hd]
  simp only [exec, execContextRejection, hx, hc, hgo, Bool.false_eq_true, if_false]
  let u := s.modHome h fun x => { x with dead := i :: x.dead }
  let v := (u.entries.filter fun e => decide (e.home = h) && e.owner == i).foldl State.rejectPage u
  have hv : SameOutline u v := .foldl State.rejectPage_outline _ u
  refine ⟨(v.cancelCmds i h).dropLeases i h, (hv.trans (v.cancelCmds_outline i h)).trans (State.dropLeases_outline _ i h), ?_⟩
  split
  · exact .inl rfl
  · next hall =>
    refine .inr ⟨rfl, ?_⟩
    simp only [List.all_eq_true, not_forall] at hall
    obtain ⟨y, hy, hz⟩ := hall
    split at hz
    · next z hyz => exact ⟨y, hy, z, hyz, by simpa using hz⟩
    · exact absurd rfl hz

theorem State.home?_modHome_of_ne (s : State) {h y : HomeId} (hy : y ≠ h) {f : Home → Home} (hf : ∀ x, (f x).id = x.id) :
    (s.modHome h f).home? y = s.home? y :=
  find?_updFirst_of_ne (p := fun x : Home => decide (x.id = h)) (q := fun x => decide (x.id = y)) (fun x _ => by rw [hf])
    (fun _ hx => decide_eq_false fun he => hy (he.symm.trans (of_decide_eq_true hx))) _

/-- CONTEXT_REJECTION at a home that does not reject the context yet. -/
theorem homeRejects {s : State} {i : Nat} {c : Ctx} (hc : s.ctx? i = some c) {h : HomeId} {x : Home} (hl : c.life = .rejecting)
    (hx : s.home? h = some x) (hd : i ∉ x.dead) :
    ∃ t x', exec (.contextRejection i h) s = .next t ∧ t.home? h = some x' ∧ i ∈ x'.dead
      ∧ ∀ c', (∀ g ∈ s.homesOf c, g ≠ h → ∀ y, s.home? g = some y → i ∈ y.dead) → t.ctx? i = some c' → c'.life = .dead := by
  let mark : Home → Home := fun x => { x with dead := i :: x.dead }
  obtain ⟨t, ht, he⟩ := exec_rejection hc hl hx hd
  have h1 : (s.modHome h mark).home? h = some (mark x) := by
    rw [State.home?_modHome s h mark fun _ h => h, hx]
    rfl
  have h2 := State.home?_outline ht.homes h
  rw [h1, Option.map_some] at h2
  obtain ⟨x', hx', ho⟩ := Option.map_eq_some_iff.1 h2
  simp only [Home.outline, Prod.mk.injEq] at ho
  have hdead : i ∈ x'.dead := ho.2 ▸ List.mem_cons_self
  rcases he with he | ⟨he, y, hy, z, hz, hzd⟩
  · obtain ⟨-, -, hh⟩ := t.buryCtx_records i
    refine ⟨_, x', he, ?_, hdead, fun c' _ hc' => t.buryCtx_dead i hc'⟩
    rwa [State.home?, hh]
  · refine ⟨t, x', he, hx', hdead, fun c' hothers _ => ?_⟩
    have hyh : y ≠ h := by
      rintro rfl
      cases hx'.symm.trans hz
      exact hzd hdead
    have hmark : (s.modHome h mark).homesOf c = s.homesOf c := State.homesOf_congr (map_updFirst (fun _ => by rfl) _) c
    have hy1 : (s.modHome h mark).home? y = s.home? y := State.home?_modHome_of_ne s hyh fun _ => rfl
    have hy2 := State.home?_outline ht.homes y
    rw [hz, hy1, Option.map_some] at hy2
    obtain ⟨y0, hy0, ho⟩ := Option.map_eq_some_iff.1 hy2.symm
    simp only [Home.outline, Prod.mk.injEq] at ho
    rw [State.homesOf_congr ht.homeIds, hmark] at hy
    exact absurd (ho.2 ▸ hothers y hy hyh y0 hy0) hzd

/-- Settles O56: creation from the table first, then the steps of a teardown in their order. -/
theorem contextsLiveAndDie : Obligations.ContextsLiveAndDie := by
  unfold Obligations.ContextsLiveAndDie
  intro s fn n f h hn id desc answers clean up
  refine ⟨fun hc => ⟨fun ⟨hblks, hwaves⟩ hd hup => createsFromTable h hn hc hblks hwaves hd hup rfl,
    CtxAnswer.of_exec h hn (exec_teardown_of_none h hn hc)⟩, fun c hc => ⟨?_, ?_, ?_, ?_, ?_, ?_⟩⟩
  · exact fun hl => CtxAnswer.of_exec h hn (exec_create_of_used h hn hc hl)
  · exact fun hl => CtxAnswer.of_exec h hn (exec_teardown_of_dead h hn hc hl)
  · exact fun hd hl ha => CtxAnswer.of_exec h hn (exec_teardown_of_stopped h hn hc hd hl ha)
  · intro hl hk
    obtain ⟨c', hstop⟩ := State.stopContext_stopped hc hk
    exact ⟨_, c', exec_teardown_of_live h hn hc hl, State.stopContext_mem s c, hstop⟩
  · intro k hl hk hr hn' _ hx
    exact coreRevokes hc hl hk hr hn' hx
  · intro g x hl hx hd
    exact homeRejects hc hl hx hd

end Sys2Proof.Machine

/-! ## Packages (O54) -/

namespace Sys2Proof.Machine

/-! ### Records by name, bytes by key -/

/-- The only record of a list that satisfies a predicate is the one found. -/
theorem find?_of_unique {α : Type} {p : α → Bool} {l : List α} {a : α} (ha : a ∈ l) (hp : p a = true)
    (hu : ∀ b ∈ l, p b = true → b = a) : l.find? p = some a := by
  cases h : l.find? p with
  | none => exact absurd hp (List.find?_eq_none.1 h a ha)
  | some b => rw [hu b (List.mem_of_find?_eq_some h) (List.find?_some h)]

/-- No record of the first list satisfies the predicate. -/
theorem find?_append_of_forall_not {α : Type} {p : α → Bool} {l : List α} (h : ∀ b ∈ l, ¬ p b = true) (m : List α) :
    (l ++ m).find? p = m.find? p := by
  rw [List.find?_append, List.find?_eq_none.2 h, Option.none_or]

/-- A table of which only the entries at some keys are left. -/
theorem Tab.get_filter_keys {α : Type} (p : Nat → Bool) (d : α) (t : Tab α) (k : Nat) :
    Tab.get d (t.filter fun x => p x.1) k = if p k then t.get d k else d := by
  induction t with
  | nil => simp [Tab.get]
  | cons x r ih =>
    obtain ⟨j, v⟩ := x
    by_cases hj : p j = true
    · by_cases hk : j = k
      · subst hk
        simp [Tab.get, hj]
      · simp [Tab.get, hj, hk, ih]
    · by_cases hk : j = k
      · subst hk
        simp [hj, ih]
      · simp [Tab.get, hj, hk, ih]

section
variable {s : State} {pkg : Nat} {p : Pkg} {cfg : BootCfg}

theorem State.pkg?_modPkg_some (h : s.pkg? pkg = some p) (g : Pkg → Pkg) (hg : ∀ x, (g x).id = x.id) :
    (s.modPkg pkg g).pkg? pkg = some (g p) := by
  rw [State.pkg?_modPkg _ _ _ fun x hx => (hg x).trans hx, h, Option.map_some]

/-! ### The reset of a package -/

/-- What a reset leaves of a package: its row lists (R76). -/
def Pkg.afterReset (p : Pkg) (pkg : Nat) : Pkg := { Pkg.atReset pkg with listA := p.listA, listB := p.listB }

theorem State.memByte_resetPkg (s : State) (pkg a : Nat) : (s.resetPkg pkg).memByte a = if keyInPkg pkg a then 0 else s.memByte a := by
  have h := Tab.get_filter_keys (fun k => !keyInPkg pkg k) memDefault s.mem a
  cases hk : keyInPkg pkg a <;> rw [hk] at h <;> exact h

theorem State.pkg?_resetPkg (h : s.pkg? pkg = some p) : (s.resetPkg pkg).pkg? pkg = some (p.afterReset pkg) := by
  simp only [State.pkg?, State.resetPkg] at h ⊢
  rw [h, find?_append_of_forall_not (by simp)]
  exact List.find?_cons_of_pos (by simp [Pkg.atReset])

theorem State.resetPkg_cores (s : State) (pkg : Nat) : ∀ k ∈ (s.resetPkg pkg).cores, k.id.pkg ≠ pkg := by simp [State.resetPkg]

theorem State.resetPkg_dies (s : State) (pkg : Nat) : ∀ d ∈ (s.resetPkg pkg).dies, d.pkg ≠ pkg := by simp [State.resetPkg]

theorem State.resetPkg_homes (s : State) (pkg : Nat) : ∀ x ∈ (s.resetPkg pkg).homes, x.id.pkg ≠ pkg := by simp [State.resetPkg]

theorem Pkg.rowList_afterReset (h : s.pkg? pkg = some p) : (p.afterReset pkg).rowList = p.rowList := by
  obtain rfl := State.pkg?_id s h
  rfl

theorem losesPower (h : s.pkg? pkg = some p) : ∃ t, exec (.powerLoss pkg) s = .next t
    ∧ (∀ a, t.memByte a = if keyInPkg pkg a then 0 else s.memByte a) ∧ t.pkg? pkg = some (p.afterReset pkg)
    ∧ (∀ w ∈ t.waves, w.core.pkg ≠ pkg) ∧ (∀ e ∈ t.entries, e.home.pkg ≠ pkg) ∧ ∀ k ∈ t.cores, k.id.pkg ≠ pkg :=
  ⟨s.resetPkg pkg, by simp [exec, execPowerLoss, h], s.memByte_resetPkg pkg, State.pkg?_resetPkg h, by simp [State.resetPkg],
    by simp [State.resetPkg], s.resetPkg_cores pkg⟩

/-! ### A bring-up that stops -/

/-- In t the bring-up of a package with the row lists of p has stopped at a step, with a report and what it has measured. -/
def Stopped (p : Pkg) (pkg step code : Nat) (meas : List (List Byte)) (t : State) : Prop :=
  ∃ q, t.pkg? pkg = some q ∧ q.up = false ∧ q.fault = some step ∧ q.meas = meas ∧ q.listA = p.listA ∧ q.listB = p.listB
    ∧ .report pkg code ∈ t.outbox

theorem State.report_sent (s : State) (pkg code : Nat) : .report pkg code ∈ (s.report pkg code).outbox := by simp [State.report]

theorem State.bootStop_stopped (h : s.pkg? pkg = some p) (hup : p.up = false) (step : Nat) :
    Stopped p pkg step step p.meas (s.bootStop pkg step) :=
  ⟨{ p with fault := some step }, State.pkg?_modPkg_some h (fun p => { p with fault := some step }) fun _ => rfl, hup, rfl, rfl, rfl, rfl,
    State.report_sent _ _ _⟩

/-- What the numbering of the cores gives a package (R12, R13). -/
def Pkg.numbered (p : Pkg) (cfg : BootCfg) : Pkg :=
  { p with fwCore := cfg.fwCore, coreMap := (cfg.enabled.zip cfg.fwCore).map fun x => workers x.1 x.2 }

theorem State.bringUp_stopped_config (h : s.pkg? pkg = some p) (hup : p.up = false) (l : RowList) (hc : BootCfgOk cfg = false) :
    Stopped p pkg 3 3 p.meas (s.bringUp pkg cfg l) := by
  have he : s.bringUp pkg cfg l = s.bootStop pkg 3 := by simp [State.bringUp, hc]
  exact he ▸ State.bootStop_stopped h hup 3

theorem State.bringUp_stopped_join (h : s.pkg? pkg = some p) (hup : p.up = false) (l : RowList) (hc : BootCfgOk cfg = true)
    (hj : cfg.joinOk = false) : Stopped p pkg 4 4 p.meas (s.bringUp pkg cfg l) := by
  have he : s.bringUp pkg cfg l = (s.modPkg pkg fun p => p.numbered cfg).bootStop pkg 4 := by
    simp [State.bringUp, hc, hj, Pkg.numbered]
  have h1 := State.pkg?_modPkg_some h (fun p => p.numbered cfg) fun _ => rfl
  exact he ▸ State.bootStop_stopped h1 hup 4

/-- Step 4 done: the package has joined the rack, or stays alone. -/
def State.joins (s : State) (pkg : Nat) (cfg : BootCfg) : State :=
  let s := s.modPkg pkg fun p => p.numbered cfg
  let salted := s.pkgs.any fun p => p.joined && p.id != pkg
  let s := s.modPkg pkg fun p => { p with joined := cfg.joined }
  { s with rack := { s.rack with
      hsalt := if cfg.joined && !salted then cfg.hsalt else s.rack.hsalt
      lost := s.rack.lost.filter fun p => p != pkg } }

theorem State.pkg?_joins (h : s.pkg? pkg = some p) : (s.joins pkg cfg).pkg? pkg = some { p.numbered cfg with joined := cfg.joined } :=
  State.pkg?_modPkg_some (State.pkg?_modPkg_some h (fun p => p.numbered cfg) fun _ => rfl) (fun p => { p with joined := cfg.joined })
    fun _ => rfl

theorem State.bringUp_stopped_port (h : s.pkg? pkg = some p) (hup : p.up = false) (l : RowList) (hc : BootCfgOk cfg = true)
    (hj : cfg.joinOk = true) (hp : cfg.portOk = false) : Stopped p pkg 5 5 p.meas (s.bringUp pkg cfg l) := by
  have he : s.bringUp pkg cfg l = (s.joins pkg cfg).bootStop pkg 5 := by
    simp [State.bringUp, State.joins, hc, hj, hp, Pkg.numbered]
  exact he ▸ State.bootStop_stopped (State.pkg?_joins h) hup 5

/-! ### A bring-up that succeeds -/

/-- A package whose bring-up is complete. -/
def Pkg.booted (p : Pkg) (cfg : BootCfg) : Pkg :=
  { p.numbered cfg with
    joined := cfg.joined, up := true, fault := none, boot := none, cxlmode := cfg.cxlmode, cxl := cfg.cxl, ports := cfg.ports,
    rcAtomics := cfg.rcAtomics }

/-- The cores a package comes up with. -/
def newCores (pkg seq : Nat) : List Core := (List.range 4).flatMap fun d => (List.range 49).map fun i => Core.new ⟨pkg, d, i⟩ seq

/-- The stack bases a package comes up with. -/
def newHomes (cap : Nat) (l : RowList) (pkg : Nat) : List Home := (List.range 16).map fun k => Home.new cap l ⟨pkg, k⟩

/-- t is s with the package up and its units in place. -/
structure BroughtUp (s : State) (pkg : Nat) (p : Pkg) (cfg : BootCfg) (l : RowList) (t : State) : Prop where
  found : t.pkg? pkg = some (p.booted cfg)
  cores : t.cores = s.cores ++ newCores pkg s.seq
  dies : t.dies = s.dies ++ (List.range 4).map (Die.new pkg)
  homes : t.homes = s.homes ++ newHomes cfg.xstcap l pkg
  fns : t.fns = if s.fns.isEmpty then (List.range 64).map Fn.new else s.fns

theorem State.bringUp_broughtUp (h : s.pkg? pkg = some p) (l : RowList) (hc : BootCfgOk cfg = true) (hj : cfg.joinOk = true)
    (hp : cfg.portOk = true) : BroughtUp s pkg p cfg l (s.bringUp pkg cfg l) := by
  let up : Pkg → Pkg := fun p =>
    { p with up := true, fault := none, boot := none, cxlmode := cfg.cxlmode, cxl := cfg.cxl, ports := cfg.ports, rcAtomics := cfg.rcAtomics }
  let t := (s.joins pkg cfg).modPkg pkg up
  have he : s.bringUp pkg cfg l = { t with
      cores := t.cores ++ newCores pkg t.seq
      dies := t.dies ++ (List.range 4).map (Die.new pkg)
      homes := t.homes ++ newHomes cfg.xstcap l pkg
      fns := if t.fns.isEmpty then (List.range 64).map Fn.new else t.fns } := by
    simp [State.bringUp, hc, hj, hp, t, up, State.joins, Pkg.numbered, newCores, newHomes]
  rw [he]
  exact ⟨State.pkg?_modPkg_some (State.pkg?_joins h) up fun _ => rfl, rfl, rfl, rfl, rfl⟩

theorem find?_newCores (seq : Nat) {d i : Nat} (hd : d < 4) (hi : i < 49) :
    (newCores pkg seq).find? (fun x => decide (x.id = ⟨pkg, d, i⟩)) = some (Core.new ⟨pkg, d, i⟩ seq) := by
  refine find?_of_unique ?_ (by simp [Core.new]) ?_
  · simp only [newCores, List.mem_flatMap, List.mem_map, List.mem_range]
    exact ⟨d, hd, i, hi, rfl⟩
  · simp only [newCores, List.mem_flatMap, List.mem_map, List.mem_range, decide_eq_true_eq]
    rintro _ ⟨d', -, i', -, rfl⟩ hid
    exact congrArg (Core.new · seq) hid

theorem find?_newDies {d : Nat} (hd : d < 4) :
    ((List.range 4).map (Die.new pkg)).find? (fun x => x.pkg == pkg && x.die == d) = some (Die.new pkg d) := by
  refine find?_of_unique (List.mem_map_of_mem (List.mem_range.2 hd)) (by simp [Die.new]) ?_
  simp only [List.mem_map, Bool.and_eq_true, beq_iff_eq]
  rintro _ ⟨d', -, rfl⟩ ⟨-, hid⟩
  exact congrArg (Die.new pkg) hid

theorem find?_newHomes (cap : Nat) (l : RowList) {k : Nat} (hk : k < 16) :
    (newHomes cap l pkg).find? (fun x => decide (x.id = ⟨pkg, k⟩)) = some (Home.new cap l ⟨pkg, k⟩) := by
  refine find?_of_unique (List.mem_map_of_mem (List.mem_range.2 hk)) (by simp [Home.new]) ?_
  simp only [newHomes, List.mem_map, decide_eq_true_eq]
  rintro _ ⟨k', -, rfl⟩ hid
  exact congrArg (Home.new cap l) hid

section
variable {l : RowList} {t : State} (b : BroughtUp s pkg p cfg l t)
include b

theorem BroughtUp.core? (hs : ∀ k ∈ s.cores, k.id.pkg ≠ pkg) {d i : Nat} (hd : d < 4) (hi : i < 49) :
    t.core? ⟨pkg, d, i⟩ = some (Core.new ⟨pkg, d, i⟩ s.seq) := by
  rw [State.core?, b.cores, find?_append_of_forall_not]
  · exact find?_newCores s.seq hd hi
  · exact fun k hk hid => hs k hk (congrArg CoreId.pkg (of_decide_eq_true hid))

theorem BroughtUp.die? (hs : ∀ d ∈ s.dies, d.pkg ≠ pkg) {d : Nat} (hd : d < 4) : t.die? pkg d = some (Die.new pkg d) := by
  rw [State.die?, b.dies, find?_append_of_forall_not]
  · exact find?_newDies hd
  · intro x hx hid
    simp only [Bool.and_eq_true, beq_iff_eq] at hid
    exact hs x hx hid.1

theorem BroughtUp.home? (hs : ∀ x ∈ s.homes, x.id.pkg ≠ pkg) {k : Nat} (hk : k < 16) :
    t.home? ⟨pkg, k⟩ = some (Home.new cfg.xstcap l ⟨pkg, k⟩) := by
  rw [State.home?, b.homes, find?_append_of_forall_not]
  · exact find?_newHomes cfg.xstcap l hk
  · exact fun x hx hid => hs x hx (congrArg HomeId.pkg (of_decide_eq_true hid))

end

/-! ### Images and row lists (step 2) -/

/-- The package with the digests of the first n images. -/
def State.measures (s : State) (pkg : Nat) (cfg : BootCfg) (n : Nat) : State := s.modPkg pkg fun p => { p with meas := cfg.digests.take n }

theorem State.pkg?_measures (h : s.pkg? pkg = some p) (n : Nat) :
    (s.measures pkg cfg n).pkg? pkg = some { p with meas := cfg.digests.take n } :=
  State.pkg?_modPkg_some h (fun p => { p with meas := cfg.digests.take n }) fun _ => rfl

theorem State.bringImages_stopped_image (h : s.pkg? pkg = some p) (hup : p.up = false) {k : Nat} (hb : cfg.badImage = some k) :
    Stopped p pkg 2 2 (cfg.digests.take k) (s.bringImages pkg cfg) := by
  have he : s.bringImages pkg cfg = (s.measures pkg cfg k).bootStop pkg 2 := by simp [State.bringImages, hb, State.measures]
  exact he ▸ State.bootStop_stopped (State.pkg?_measures h k) hup 2

theorem State.bringImages_stopped_hbm (h : s.pkg? pkg = some p) (hup : p.up = false) (hb : cfg.badImage = none) (hh : cfg.hbmOk = false) :
    Stopped p pkg 2 2 (cfg.digests.take 16) (s.bringImages pkg cfg) := by
  have he : s.bringImages pkg cfg = (s.measures pkg cfg 16).bootStop pkg 2 := by simp [State.bringImages, hb, hh, State.measures]
  exact he ▸ State.bootStop_stopped (State.pkg?_measures h 16) hup 2

theorem State.rowList_measures (h : s.pkg? pkg = some p) : ((s.measures pkg cfg 16).pkg? pkg).bind Pkg.rowList = p.rowList := by
  rw [State.pkg?_measures h]
  rfl

section
variable (h : s.pkg? pkg = some p) (hb : cfg.badImage = none) (hh : cfg.hbmOk = true)
include h hb hh

theorem State.bringImages_stopped_list (hup : p.up = false) (hl : p.rowList = none) :
    Stopped p pkg 2 0x77 (cfg.digests.take 16) (s.bringImages pkg cfg) := by
  let waits : Pkg → Pkg := fun p => { p with fault := some 2, boot := some cfg }
  have he : s.bringImages pkg cfg = ((s.measures pkg cfg 16).modPkg pkg waits).report pkg 0x77 := by
    have hl' := (State.rowList_measures (cfg := cfg) h).trans hl
    rw [State.measures] at hl' ⊢
    simp [State.bringImages, hb, hh, hl', waits]
  rw [he]
  exact ⟨_, State.pkg?_modPkg_some (State.pkg?_measures h 16) waits fun _ => rfl, hup, rfl, rfl, rfl, rfl, State.report_sent _ _ _⟩

/-- With its images verified, its HBM trained and a row list found, a package goes on to step 3. -/
theorem State.bringImages_of_list {l : RowList} (hl : p.rowList = some l) :
    s.bringImages pkg cfg = (s.measures pkg cfg 16).bringUp pkg cfg l := by
  have hl' := (State.rowList_measures (cfg := cfg) h).trans hl
  rw [State.measures] at hl' ⊢
  simp [State.bringImages, hb, hh, hl']

end

/-! ### PACKAGE_BOOT and SIGNED_LIST_RESTORE -/

theorem exec_packageBoot (hlt : pkg < 144) : exec (.packageBoot pkg cfg) s
    = .next (if cfg.badImage = some 0 then (s.resetPkg pkg).bootStop pkg 1 else (s.resetPkg pkg).bringImages pkg cfg) := by
  simp [exec, execPackageBoot, Nat.not_le.2 hlt]

theorem exec_packageBoot_of_first (hlt : pkg < 144) (hb : cfg.badImage ≠ some 0) :
    exec (.packageBoot pkg cfg) s = .next ((s.resetPkg pkg).bringImages pkg cfg) := by
  rw [exec_packageBoot hlt, if_neg hb]

/-- A boot stops at a step: memory is empty, the row lists stay. -/
def BootStops (s : State) (pkg : Nat) (p : Pkg) (cfg : BootCfg) (step code n : Nat) : Prop :=
  ∃ t q, exec (.packageBoot pkg cfg) s = .next t ∧ t.pkg? pkg = some q ∧ q.up = false ∧ q.fault = some step ∧ q.meas = cfg.digests.take n
    ∧ q.listA = p.listA ∧ q.listB = p.listB ∧ .report pkg code ∈ t.outbox ∧ ∀ a, t.memByte a = if keyInPkg pkg a then 0 else s.memByte a

theorem memByte_of_resetPkg {t : State} (h : t.mem = (s.resetPkg pkg).mem) (a : Nat) :
    t.memByte a = if keyInPkg pkg a then 0 else s.memByte a := by
  rw [← State.memByte_resetPkg, State.memByte, h, State.memByte]

theorem BootStops.of_stopped {t : State} {step code n : Nat} (he : exec (.packageBoot pkg cfg) s = .next t)
    (hm : t.mem = (s.resetPkg pkg).mem) (h : Stopped (p.afterReset pkg) pkg step code (cfg.digests.take n) t) :
    BootStops s pkg p cfg step code n := by
  obtain ⟨q, hq, hup, hf, hmeas, ha, hb, ho⟩ := h
  exact ⟨t, q, he, hq, hup, hf, hmeas, ha, hb, ho, memByte_of_resetPkg hm⟩

theorem bootStops_control (h : s.pkg? pkg = some p) (hlt : pkg < 144) (hb : cfg.badImage = some 0) : BootStops s pkg p cfg 1 1 0 :=
  .of_stopped (by rw [exec_packageBoot hlt, if_pos hb]) (State.bootStop_mem ..)
    (State.bootStop_stopped (State.pkg?_resetPkg h) rfl 1)

/-- A boot whose control-complex image verifies stops where the rest of the bring-up does. -/
theorem BootStops.of_images {step code n : Nat} (hlt : pkg < 144) (hb : cfg.badImage ≠ some 0)
    (h : Stopped (p.afterReset pkg) pkg step code (cfg.digests.take n) ((s.resetPkg pkg).bringImages pkg cfg)) :
    BootStops s pkg p cfg step code n :=
  .of_stopped (exec_packageBoot_of_first hlt hb) (State.bringImages_mem ..) h

section
variable (h : s.pkg? pkg = some p) (hlt : pkg < 144) (hb : cfg.badImage = none)
include h hlt hb

/-- A boot whose row list is found stops where steps 3 to 5 do. -/
theorem BootStops.of_bringUp (hh : cfg.hbmOk = true) {l : RowList} (hl : p.rowList = some l) {step : Nat}
    (hs : ∀ {u : State} {r : Pkg}, u.pkg? pkg = some r → r.up = false → Stopped r pkg step step r.meas (u.bringUp pkg cfg l)) :
    BootStops s pkg p cfg step step 16 := by
  refine .of_images hlt (by simp [hb]) ?_
  have hr := State.pkg?_resetPkg h
  rw [State.bringImages_of_list hr hb hh ((Pkg.rowList_afterReset h).trans hl)]
  exact hs (State.pkg?_measures hr 16) rfl

theorem bootComesUp (hh : cfg.hbmOk = true) {l : RowList} (hl : p.rowList = some l) (hc : BootCfgOk cfg = true)
    (hj : cfg.joinOk = true) (hp : cfg.portOk = true) :
    ∃ t q, exec (.packageBoot pkg cfg) s = .next t
      ∧ (t.pkg? pkg = some q ∧ q.up = true ∧ q.fault = none ∧ q.meas = cfg.digests.take 16 ∧ q.joined = cfg.joined
        ∧ q.coreMap = (cfg.enabled.zip cfg.fwCore).map (fun x => workers x.1 x.2)
        ∧ (∀ d < 4, t.die? pkg d = some (Die.new pkg d) ∧ ∀ i < 49, t.core? ⟨pkg, d, i⟩ = some (Core.new ⟨pkg, d, i⟩ s.seq))
        ∧ ∀ k < 16, t.home? ⟨pkg, k⟩ = some (Home.new cfg.xstcap l ⟨pkg, k⟩))
      ∧ q.listA = p.listA ∧ q.listB = p.listB ∧ (∀ a, t.memByte a = if keyInPkg pkg a then 0 else s.memByte a)
      ∧ (s.fns = [] → t.fns = (List.range 64).map Fn.new) := by
  have hr := State.pkg?_resetPkg h
  have he := exec_packageBoot_of_first (s := s) hlt (by simp [hb] : cfg.badImage ≠ some 0)
  rw [State.bringImages_of_list hr hb hh ((Pkg.rowList_afterReset h).trans hl)] at he
  have b := State.bringUp_broughtUp (State.pkg?_measures (cfg := cfg) hr 16) l hc hj hp
  refine ⟨_, _, he, ⟨b.found, rfl, rfl, rfl, rfl, rfl, fun d hd => ⟨b.die? (s.resetPkg_dies pkg) hd, fun i hi => ?_⟩, fun k hk => ?_⟩,
    rfl, rfl, memByte_of_resetPkg (State.bringUp_mem ..), fun hf => ?_⟩
  · exact b.core? (s.resetPkg_cores pkg) hd hi
  · exact b.home? (s.resetPkg_homes pkg) hk
  · rw [b.fns, if_pos]
    exact List.isEmpty_iff.2 hf

end

/-- A valid first copy is the row list where the second is not valid. -/
theorem Pkg.rowList_restored (h : p.rowList = none) {l : RowList} (hl : listValid p.id l = true) : ({ p with listA := l } : Pkg).rowList = some l := by
  simp only [Pkg.rowList] at h ⊢
  cases hb : listValid p.id p.listB with
  | false => simp [hl]
  | true => cases ha : listValid p.id p.listA <;> simp [ha, hb] at h

theorem restoresList (h : s.pkg? pkg = some p) {l : RowList} (hboot : p.boot = some cfg) (hf : p.fault = some 2) (hn : p.rowList = none)
    (hl : listValid pkg l = true) (hb : cfg.badImage = none) (hh : cfg.hbmOk = true) (hc : BootCfgOk cfg = true) (hj : cfg.joinOk = true)
    (hp : cfg.portOk = true) : ∃ t q, exec (.signedListRestore pkg l) s = .next t ∧ t.mem = s.mem ∧ t.pkg? pkg = some q ∧ q.up = true
      ∧ q.fault = none ∧ q.listA = l ∧ q.meas = cfg.digests.take 16 := by
  have hid := State.pkg?_id s h
  have h1 := State.pkg?_modPkg_some h (fun p => { p with listA := l }) fun _ => rfl
  have he : exec (.signedListRestore pkg l) s = .next ((s.modPkg pkg fun p => { p with listA := l }).bringImages pkg cfg) := by
    simp [exec, execSignedListRestore, h, hboot, hf, hl]
  have b := State.bringUp_broughtUp (State.pkg?_measures (cfg := cfg) h1 16) l hc hj hp
  rw [State.bringImages_of_list h1 hb hh (Pkg.rowList_restored hn (hid ▸ hl))] at he
  exact ⟨_, _, he, State.bringUp_mem .., b.found, rfl, rfl, rfl, rfl⟩

/-! ### Attestation, frequency, links and lanes -/

theorem attests (h : s.pkg? pkg = some p) (hup : p.up = true) (nonce : List Byte) :
    ∃ t sig, exec (.attestationRequest pkg nonce) s = .next t ∧ t.mem = s.mem ∧ sig.length = 2420
      ∧ t.outbox = s.outbox ++ [.attestation pkg (p.attested nonce ++ sig)] := by
  let sig := (List.range 2420).map (Config.signature pkg (p.attested nonce) s.free)
  let t : State := { s with free := s.free + 1, outbox := s.outbox ++ [.attestation pkg (p.attested nonce ++ sig)] }
  have he : exec (.attestationRequest pkg nonce) s = .next t := by simp [exec, execAttestationRequest, h, hup, t, sig]
  exact ⟨t, sig, he, rfl, by simp [sig], rfl⟩

theorem islandOf_ne_none {i : Nat} (h : i < 16) : islandOf i ≠ none := by
  have hall : ∀ i < 16, islandOf i ≠ none := by decide
  exact hall i h

theorem changesFrequency (h : s.pkg? pkg = some p) {island mhz : Nat} (hi : island < 16) (h0 : 0 < mhz) (hm : mhz ≤ 3000) :
    ∃ t q, exec (.frequencyChange pkg island mhz) s = .next t ∧ t.mem = s.mem ∧ t.pkg? pkg = some q
      ∧ q = { p with mhz := q.mhz, volt := q.volt } ∧ ∀ i, q.mhz.get 3000 i = if i = island then mhz else p.mhz.get 3000 i := by
  let set : Pkg → Pkg := fun p => { p with mhz := p.mhz.set 3000 island mhz, volt := p.volt.set 0 island s.anyWord.1 }
  have he : exec (.frequencyChange pkg island mhz) s = .next (s.anyWord.2.modPkg pkg set) := by
    simp [exec, execFrequencyChange, h, islandOf_ne_none hi, Nat.ne_of_gt h0, Nat.not_lt.2 hm, set]
  exact ⟨_, _, he, rfl, State.pkg?_modPkg_some (s := s.anyWord.2) h set fun _ => rfl, rfl, fun i => Tab.get_set 3000 p.mhz island i mhz⟩

theorem losesLink (h : s.pkg? pkg = some p) {d1 d2 : Nat} (hn : neighbours d1 d2 = true) :
    ∃ t q, exec (.neighbourLinkFailure pkg d1 d2) s = .next t ∧ t.mem = s.mem ∧ t.pkg? pkg = some q
      ∧ ((d1, d2) ∈ q.links ∨ (d2, d1) ∈ q.links) ∧ q = { p with links := q.links } := by
  let drop : Pkg → Pkg := fun p => if p.links.contains (d1, d2) || p.links.contains (d2, d1) then p else { p with links := p.links ++ [(d1, d2)] }
  have he : exec (.neighbourLinkFailure pkg d1 d2) s = .next (s.modPkg pkg drop) := by
    simp [exec, execNeighbourLinkFailure, h, hn, drop]
  have hq : (s.modPkg pkg drop).pkg? pkg = some (drop p) := State.pkg?_modPkg_some h drop fun x => by dsimp only [drop]; split <;> rfl
  by_cases hl : (p.links.contains (d1, d2) || p.links.contains (d2, d1)) = true
  · rw [show drop p = p from if_pos hl] at hq
    exact ⟨_, p, he, rfl, hq, by simpa using hl, rfl⟩
  · rw [show drop p = { p with links := p.links ++ [(d1, d2)] } from if_neg hl] at hq
    exact ⟨_, _, he, rfl, hq, .inl (by simp), rfl⟩

theorem losesLane (h : s.pkg? pkg = some p) {lane : Nat} (hlt : lane < 72) (hn : lane ∉ p.lanes) :
    ∃ t, exec (.laneFailure pkg lane) s = .next t ∧ t.mem = s.mem ∧ t.pkg? pkg = some { p with lanes := p.lanes ++ [lane] }
      ∧ t.outbox = s.outbox ++ [.report pkg 0x13] ∧ (p.lanes.length = 71 → .heartbeatMiss pkg ∈ t.pending) := by
  let u := (s.modPkg pkg fun p => { p with lanes := p.lanes ++ [lane] }).report pkg 0x13
  have he : exec (.laneFailure pkg lane) s = .next (if p.lanes.length + 1 = 72 then u.due [.heartbeatMiss pkg] else u) := by
    simp [exec, execLaneFailure, h, Nat.not_le.2 hlt, hn, u]
  have hq : u.pkg? pkg = some { p with lanes := p.lanes ++ [lane] } :=
    State.pkg?_modPkg_some h (fun p => { p with lanes := p.lanes ++ [lane] }) fun _ => rfl
  by_cases hl : p.lanes.length = 71
  · rw [if_pos (by omega)] at he
    exact ⟨_, he, rfl, hq, rfl, fun _ => by simp⟩
  · rw [if_neg (by omega)] at he
    exact ⟨_, he, rfl, hq, rfl, fun hl' => absurd hl' hl⟩

/-! ### A package without heartbeat -/

/-- The state with a package fenced, before its jobs are looked at. -/
def State.fenced (s : State) (pkg : Nat) : State :=
  { s with rack := { s.rack with lost := s.rack.lost ++ [pkg] } }.modPkg pkg fun p => { p with failed := true }

theorem State.fence_of_noJobs (h : s.jobsOf pkg = []) :
    s.fence pkg = if pkg % 4 = 0 then (s.fenced pkg).due [.trayStandbyTakeover (pkg / 4)] else s.fenced pkg := by
  have hj : (s.fenced pkg).jobsOf pkg = [] := h
  have hd : (s.fenced pkg).due [] = s.fenced pkg := by simp [State.due]
  simp only [State.fenced] at hj hd ⊢
  simp [State.fence, hj, hd]

theorem State.rewriteMap_cases (s : State) (pkg fn : Nat) :
    s.rewriteMap pkg fn = s ∨ ∃ n g, s.rewriteMap pkg fn = (s.choose n).2.modFn fn g := by
  unfold State.rewriteMap
  split
  · exact .inl rfl
  · split
    · exact .inr ⟨_, _, rfl⟩
    · exact .inl rfl

/-- What the rewriting of home maps leaves alone. -/
theorem State.rewriteMaps_keeps (pkg : Nat) (l : List Nat) (s : State) :
    let t := l.foldl (fun s n => s.rewriteMap pkg n) s
    (t.mem, t.pkgs, t.rack, t.pending) = (s.mem, s.pkgs, s.rack, s.pending) := by
  refine foldl_keeps (g := fun s : State => (s.mem, s.pkgs, s.rack, s.pending)) (fun t n => ?_) l s
  obtain he | ⟨k, g, he⟩ := t.rewriteMap_cases pkg n <;> rw [he]
  rfl

theorem missesHeartbeat (h : s.pkg? pkg = some p) (hj : s.jobsOf pkg = []) (hl : pkg ∉ s.rack.lost) :
    ∃ t, exec (.heartbeatMiss pkg) s = .next t ∧ t.mem = s.mem ∧ pkg ∈ t.rack.lost ∧ t.pkg? pkg = some { p with failed := true }
      ∧ (pkg % 4 = 0 → .trayStandbyTakeover (pkg / 4) ∈ t.pending) := by
  have hf := State.fence_of_noJobs hj
  have hfj : (s.fence pkg).jobsOf pkg = [] := by rw [hf]; split <;> exact hj
  have hfl : pkg ∈ (s.fence pkg).rack.lost := by rw [hf]; split <;> simp [State.fenced]
  have hfp : (s.fence pkg).pkg? pkg = some { p with failed := true } := by
    rw [hf]
    split <;> exact State.pkg?_modPkg_some (s := { s with rack := _ }) h (fun p => { p with failed := true }) fun _ => rfl
  have he : exec (.heartbeatMiss pkg) s
      = .next (((s.fence pkg).fns.map fun f => f.num).foldl (fun s n => s.rewriteMap pkg n) (s.fence pkg)) := by
    simp [exec, execHeartbeatMiss, h, hl, hfj]
  have hk := State.rewriteMaps_keeps pkg ((s.fence pkg).fns.map fun f => f.num) (s.fence pkg)
  simp only [Prod.mk.injEq] at hk
  obtain ⟨hm, hp, hr, hpend⟩ := hk
  refine ⟨_, he, hm.trans (s.fence_mem pkg), hr ▸ hfl, ?_, fun h4 => hpend ▸ ?_⟩
  · rw [State.pkg?, hp]
    exact hfp
  · rw [hf, if_pos h4]
    simp

end

/-- Settles O54: the boot's stops in the order of its steps, then each other event of a package. -/
theorem packagesComeAndGo : Obligations.PackagesComeAndGo := by
  unfold Obligations.PackagesComeAndGo
  intro s pkg p h cleared came stops
  refine ⟨fun hlt cfg => ⟨bootStops_control h hlt, fun k hb => ?_, fun hb => ⟨fun hh => ?_, fun hh hl => ?_,
      fun l hh hl => ⟨fun hc => ?_, fun hc hj => ?_, fun hc hj hp => ?_, fun hc hj hp => bootComesUp h hlt hb hh hl hc hj hp⟩⟩⟩,
    fun cfg l hboot hf hn hl hb hh hc hj hp => restoresList h hboot hf hn hl hb hh hc hj hp, losesPower h,
    fun nonce hup => attests h hup nonce, fun island mhz hi h0 hm => changesFrequency h hi h0 hm, fun d1 d2 hn => losesLink h hn,
    fun lane hlt hn => losesLane h hlt hn, missesHeartbeat h⟩
  · exact BootStops.of_images hlt (by simp [hb]) (State.bringImages_stopped_image (State.pkg?_resetPkg h) rfl hb)
  · exact BootStops.of_images hlt (by simp [hb]) (State.bringImages_stopped_hbm (State.pkg?_resetPkg h) rfl hb hh)
  · exact BootStops.of_images hlt (by simp [hb])
      (State.bringImages_stopped_list (State.pkg?_resetPkg h) hb hh rfl ((Pkg.rowList_afterReset h).trans hl))
  · exact BootStops.of_bringUp h hlt hb hh hl fun hu hup => State.bringUp_stopped_config hu hup l hc
  · exact BootStops.of_bringUp h hlt hb hh hl fun hu hup => State.bringUp_stopped_join hu hup l hc hj
  · exact BootStops.of_bringUp h hlt hb hh hl fun hu hup => State.bringUp_stopped_port hu hup l hc hj hp

end Sys2Proof.Machine

/-! ## Traps of the focus wave -/

namespace Sys2Proof.Machine

section
variable {s : State}

theorem State.dueEnd_wave (s : State) (i : WaveId) : (s.dueEnd i).wave = s.wave := by
  unfold State.dueEnd
  split <;> rfl

theorem State.modWave_focus (h : s.wave ≠ Wave.idle) (f : Wave → Wave) : s.modWave s.wave.id f = { s with wave := f s.wave } :=
  if_pos ⟨rfl, h⟩

theorem State.ite_due_wave {p : Prop} [Decidable p] (s : State) (l : List Instr) : (if p then s else s.due l).wave = s.wave := by
  split <;> rfl

/-- A fatal trap stops the focus wave, and leaves its registers. -/
theorem State.fatal_wave (h : s.wave ≠ Wave.idle) : (s.fatal s.wave.id).wave = { s.wave with run := .halted, clause := none } := by
  unfold State.fatal
  split
  · rw [State.dueEnd_wave, State.modWave_focus h]
  · extract_lets ids dies s1 h1 s2 kill own keep unlock free s3 s4 ends s5
    have h2 : s2.wave = { s.wave with run := .halted, clause := none } := by
      simp only [s2, s1, h1, State.modWave_focus h, Wave.halt]
      split <;> rfl
    have h3 : s3.wave = s2.wave := rfl
    have h4 : s4.wave = s3.wave := by rw [← State.ite_due_wave (p := ¬free = true) s3 s3.autoRestarts, ite_not]
    have h5 : s5.wave = s4.wave := foldl_keeps (g := State.wave) (f := State.dueEnd) State.dueEnd_wave ends s4
    have h := ((h5.trans h4).trans h3).trans h2
    clear_value s5
    split
    · exact h
    · exact h

/-- A trap at the focus wave's word: its registers stay, and its record is due. A Lockring conflict may leave no record (R364). -/
theorem State.trapHere_trapped (h : s.wave ≠ Wave.idle) {code : Nat} (hc : code ≠ 0x06) (sub : Nat) (addr x y : W64) (l : Nat) :
    Trapped s (s.trapHere code sub addr x y l) code l addr := by
  have hw : (s.trapHere code sub addr x y l).wave
      = if trapRestart code then { s.wave with run := .trapped code none } else { s.wave with run := .halted, clause := none } := by
    unfold State.trapHere State.takeTrap
    change (if trapRestart code = true then _ else _ : State).wave = _
    split
    · exact (State.ite_due_wave _ _).trans (by rw [State.modWave_focus h]; rfl)
    · rw [State.due_wave, State.fatal_wave h]
  refine ⟨State.trapHere_mem .., ?_, ?_, ?_, ?_, ?_, ?_, ?_, ?_, _, takeTrap_due s _ _ hc, rfl, rfl, rfl, rfl, rfl, rfl, rfl, rfl⟩
  all_goals
    rw [hw]
    split <;> rfl

/-- A wave with an open clause is a wave. -/
theorem State.wave_ne_idle {c : Clause} (h : s.wave.clause = some c) : s.wave ≠ Wave.idle := fun hi => by
  rw [hi] at h
  cases h

end

end Sys2Proof.Machine

/-! ## Control and status registers (O43) -/

namespace Sys2Proof.Machine

section
variable {s : State} {w : AW} {c : Ctx}

theorem State.idleWord_eq_true {g : Guard} : s.idleWord g = true ↔ s.wave.part g = [] := List.isEmpty_iff

theorem State.csrWrite_of_idle (h : s.wave.part w.g = []) (f : State → W64 → State) : s.csrWrite w f = s :=
  if_pos (State.idleWord_eq_true.2 h)

theorem State.csrWrite_of_fault (h : s.wave.part w.g ≠ []) {code : Nat} (hf : csrwFault s.wave.fw w.csr = some code)
    (f : State → W64 → State) : s.csrWrite w f = s.trapHere code w.csr 0 0 0 (s.lead w.g) := by
  rw [State.csrWrite, if_neg (mt State.idleWord_eq_true.1 h), hf]

theorem State.csrWrite_of_ok (h : s.wave.part w.g ≠ []) (hf : csrwFault s.wave.fw w.csr = none) (f : State → W64 → State) :
    s.csrWrite w f = f s (s.csrSrc w) := by
  rw [State.csrWrite, if_neg (mt State.idleWord_eq_true.1 h), hf]

/-! ### Reads -/

/-- The registers of a range: RNGBASE, RNGLIM, RNGIA, RNGATTR. -/
def Range.reg (r : Range) (k : Nat) : W64 := match k with | 0 => r.base | 1 => r.lim | 2 => r.ia | _ => r.attr

/-- The range registers that a wave reads: firmware those it has written (R37). -/
def Ctx.rangesFor (c : Ctx) (fw : Bool) : List Range := if fw then c.staged.getD c.ranges else c.ranges

theorem State.csrGet_range (hc : s.ctx? s.wave.id.blk.ctx = some c) {i : Nat} {r : Range} (hr : (c.rangesFor s.wave.fw)[i]? = some r)
    (hi : i < 16) {k : Nat} (hk : k < 4) : s.csrGet (0x020 + 0x010 * k + i) = some (r.reg k) := by
  have hm : (0x020 + 0x010 * k + i) % 16 = i := by omega
  have hd : (0x020 + 0x010 * k + i) / 16 = k + 2 := by omega
  have hr' : (if s.wave.fw = true then c.staged.getD c.ranges else c.ranges)[i]? = some r := hr
  unfold State.csrGet
  simp only [hc]
  split <;> try omega
  simp only [hm, hd, hr', Option.map_some]
  obtain rfl | rfl | rfl | rfl : k = 0 ∨ k = 1 ∨ k = 2 ∨ k = 3 := by omega
  all_goals rfl

/-- CSRR of a register that is there writes it to its destination, and nothing else. -/
theorem csrrGives (h : s.wave.part w.g ≠ []) (hd : isS w.d = true ∨ isA w.d = true) {x : W64} (hx : s.csrGet w.csr = some x) :
    ∃ t, exec (.csrr w) s = .next t ∧ OnlyWave s t ∧ Wrote (w.w64 || isA w.d) w.d [0] (fun _ => x) s.wave t.wave := by
  refine ⟨s.put64 w.d w.w64 x, ?_, ?_⟩
  · simp only [exec, execCsrr, hx, if_neg (mt State.idleWord_eq_true.1 h)]
  · cases hw : w.d <;> simp only [hw, isS, isA, Bool.false_eq_true, or_false, or_true] at hd
    case s n =>
      cases hp : w.w64
      · refine ⟨rfl, fun r => ?_, rfl⟩
        simp [State.put64, Wave.getS_setS, isA]
      · refine ⟨rfl, fun r => ?_, rfl⟩
        simp only [State.put64, if_true, Wave.getS_setS]
        by_cases h0 : r = n.toNat <;> simp [h0]
    case a n =>
      refine ⟨rfl, fun r => ?_, rfl⟩
      simp [State.put64, Wave.getA_setA, zext, isA]

/-! ### Writes -/

theorem exec_csrw_of_ok (h : s.wave.part w.g ≠ []) (hf : csrwFault s.wave.fw w.csr = none) :
    exec (.csrw w) s = .next (s.csrPut w.csr (s.csrSrc w)) :=
  congrArg Host.Outcome.next (State.csrWrite_of_ok h hf _)

/-- A write of a CSR that the wave may not write traps, whatever the write would do. -/
theorem csrWrite_traps (h : s.wave.part w.g ≠ []) (hi : s.wave ≠ Wave.idle) {code : Nat} (hf : csrwFault s.wave.fw w.csr = some code)
    (hc : code ≠ 0x06) {i : Instr} {f : State → W64 → State} (he : exec i s = .next (s.csrWrite w f)) :
    ∃ t, exec i s = .next t ∧ Trapped s t code ((s.wave.part w.g).headD 0) 0 :=
  ⟨_, he, State.csrWrite_of_fault h hf f ▸ State.trapHere_trapped hi hc ..⟩

theorem csrwFault_range (fw : Bool) {n : Nat} (h1 : 0x020 ≤ n) (h2 : n < 0x060) : csrwFault fw n = if fw then none else some 0x13 := by
  have ha : csrAccess n = .fwOnly := by
    unfold csrAccess
    split <;> try omega
    exact if_pos (by omega)
  simp only [csrwFault, ha]

/-! ### The range registers and the tag window, as firmware writes them -/

/-- A block of the context of the focus wave runs. -/
def State.ctxRuns (s : State) : Bool := s.allWaves.any fun w => w.id.blk.ctx == s.wave.id.blk.ctx && !w.fw

/-- What firmware's write of the range registers leaves in its context: in force at once where no block runs (R37). -/
def Ctx.withRanges (c : Ctx) (runs : Bool) (rs : List Range) : Ctx :=
  if runs then { c with staged := some rs } else { c with ranges := rs, staged := none }

theorem State.ctx?_modCtx_some (hc : s.ctx? i = some c) (f : Ctx → Ctx) (hf : ∀ c, (f c).id = c.id) :
    (s.modCtx i f).ctx? i = some (f c) := by
  rw [State.ctx?_modCtx _ _ _ fun x hx => (hf x).trans hx, hc, Option.map_some]

theorem State.putRanges_ctx? (hc : s.ctx? s.wave.id.blk.ctx = some c) (f : Ctx → List Range → List Range) :
    (s.putRanges f).ctx? s.wave.id.blk.ctx = some (c.withRanges s.ctxRuns (f c (c.staged.getD c.ranges))) := by
  unfold State.putRanges
  exact State.ctx?_modCtx_some hc _ fun x => by split <;> rfl

theorem Ctx.withRanges_seen (c : Ctx) (runs : Bool) (rs : List Range) :
    (c.withRanges runs rs).staged.getD (c.withRanges runs rs).ranges = rs := by
  cases runs <;> rfl

/-- Firmware's write of one range register: the range reads as written, in force once no block runs (R37). -/
theorem writesRange (h : s.wave.part w.g ≠ []) (hfw : s.wave.fw = true) (hc : s.ctx? s.wave.id.blk.ctx = some c)
    (hid : c.id = s.wave.id.blk.ctx) (h1 : 0x020 ≤ w.csr) (h2 : w.csr < 0x060) {r : Range}
    (hr : (c.staged.getD c.ranges)[w.csr % 16]? = some r) {i : Instr} {f : Ctx → W64 → Range → Range}
    (he : exec i s = .next (s.csrWrite w fun s v => s.putRanges fun c rs => rs.modify (w.csr % 16) (f c v))) :
    let runs := ∃ v ∈ s.allWaves, v.id.blk.ctx = c.id ∧ v.fw = false
    ∃ t, exec i s = .next t ∧ t.mem = s.mem ∧ t.wave = s.wave
      ∧ ((runs → (t.ctx? c.id).map (·.ranges) = some c.ranges) ∧ (¬runs → (t.ctx? c.id).map (·.staged) = some none))
      ∧ ((t.ctx? c.id).bind fun d => (d.staged.getD d.ranges)[w.csr % 16]?) = some (f c (s.csrSrc w) r) := by
  intro runs
  have hruns : s.ctxRuns = true ↔ runs := by simp [State.ctxRuns, runs, hid]
  have hf : csrwFault s.wave.fw w.csr = none := by rw [csrwFault_range _ h1 h2, hfw, if_pos rfl]
  have ht := State.putRanges_ctx? hc fun c rs => rs.modify (w.csr % 16) (f c (s.csrSrc w))
  rw [← hid] at ht
  rw [State.csrWrite_of_ok h hf] at he
  refine ⟨_, he, rfl, rfl, ⟨fun hr => ?_, fun hr => ?_⟩, ?_⟩
  · rw [ht, hruns.2 hr]
    rfl
  · rw [ht, Bool.eq_false_iff.2 (mt hruns.1 hr)]
    rfl
  · rw [ht, Option.bind_some, Ctx.withRanges_seen, List.getElem?_modify_eq, hr]
    rfl

theorem Range.writeBound_of_valid {r : Range} (h : r.valid = true) (k : Nat) (v : W64) :
    r.writeBound k v = { r with attr := r.attr ||| 0x8000000000000000#64 } :=
  if_pos h

theorem Range.writeBound_base {r : Range} (h : r.valid = false) (v : W64) :
    (r.writeBound 0 v).base = v &&& 0x01FFFFFFFFFF0000#64 ∧ (r.writeBound 0 v).lim = r.lim := by
  simp [Range.writeBound, h]

/-- The write that sets V is taken or rejected as a whole (R36). -/
theorem Range.writeAttr_sets {r : Range} (h : r.valid = false) (dies : List (Nat × Nat × Nat)) {v : W64} (hv : v.getLsbD 0 = true) :
    (r.writeAttr dies v).valid = !({ r with attr := v &&& attrMask }.rejected dies)
      ∧ (r.writeAttr dies v).attr.getLsbD 63 = !(r.writeAttr dies v).valid ∧ (r.writeAttr dies v).base = r.base := by
  have hn : (v &&& attrMask).getLsbD 0 = true := by simp [hv, attrMask]
  have hm : (v &&& attrMask).getLsbD 63 = false := by simp [attrMask]
  have he : r.writeAttr dies v = if { r with attr := v &&& attrMask }.rejected dies
      then { r with attr := ((v &&& attrMask) &&& ~~~1#64) ||| rejBit } else { r with attr := v &&& attrMask } := by
    simp only [Range.writeAttr, h, hn, Bool.false_and, Bool.false_eq_true, if_false, if_true]
  rw [he]
  split
  · next hr => simp [hr, Range.valid, rejBit]
  · next hr =>
    rw [Bool.eq_false_iff.2 hr]
    exact ⟨hn, hm.trans (congrArg (! ·) hn).symm, rfl⟩

/-- What entries' contents are written for, in a package or in a context's saved copy of it: no wave, no memory, no context comes or goes. -/
theorem State.tagPut_kept (s : State) (x : Ctx) (pkg e : Nat) (v : Nat × Nat) :
    ((s.tagPut x pkg e v).wave, (s.tagPut x pkg e v).mem, (s.tagPut x pkg e v).ctxs.map (·.id))
      = (s.wave, s.mem, s.ctxs.map (·.id)) := by
  unfold State.tagPut
  split
  · exact congrArg (fun l => (s.wave, s.mem, l)) (map_updFirst (g := Ctx.id) (fun _ => by rfl) s.ctxs)
  · rfl

/-- Firmware's write of the tag window (R335, R355). -/
theorem writesTagwin (h : s.wave.part w.g ≠ []) (hfw : s.wave.fw = true) (hc : s.ctx? s.wave.id.blk.ctx = some c)
    (hid : c.id = s.wave.id.blk.ctx) (h14 : w.csr = 0x014)
    (hv : ((s.csrSrc w).extractLsb' 0 18).toNat + ((s.csrSrc w).extractLsb' 18 19).toNat ≤ 262144) :
    ∃ t d, exec (.tagwinWrite w) s = .next t ∧ t.mem = s.mem ∧ t.wave = s.wave ∧ t.ctx? c.id = some d
      ∧ d.tagwin = s.csrSrc w &&& 0x1FFFFFFFFF#64 := by
  have hf : csrwFault s.wave.fw w.csr = none := by rw [hfw, h14]; rfl
  have he : exec (.tagwinWrite w) s = .next _ := congrArg Host.Outcome.next (State.csrWrite_of_ok h hf _)
  have hb : (s.csrSrc w &&& 0x1FFFFFFFFF#64).extractLsb' 0 18 = (s.csrSrc w).extractLsb' 0 18 := by
    rw [BitVec.extractLsb'_and]
    exact BitVec.and_allOnes
  have hn : (s.csrSrc w &&& 0x1FFFFFFFFF#64).extractLsb' 18 19 = (s.csrSrc w).extractLsb' 18 19 := by
    rw [BitVec.extractLsb'_and]
    exact BitVec.and_allOnes
  simp only [hc, hb, hn, if_neg (Nat.not_lt.2 hv)] at he
  generalize hu : c.pkgs.foldl _ s = u at he
  have hk : (u.wave, u.mem, u.ctxs.map (·.id)) = (s.wave, s.mem, s.ctxs.map (·.id)) := by
    rw [← hu]
    let g := fun t : State => (t.wave, t.mem, t.ctxs.map (·.id))
    exact foldl_keeps (g := g) (fun t p => foldl_keeps (g := g) (fun t e => t.tagPut_kept c p e (0, 0)) _ t) _ s
  simp only [Prod.mk.injEq] at hk
  obtain ⟨hw, hm, hx⟩ := hk
  have hid' : (u.ctx? c.id).map (·.id) = (s.ctx? c.id).map (·.id) := find?_map_congr hx (q := fun i => i == c.id) fun _ => rfl
  rw [hid, hc, ← hid] at hid'
  obtain ⟨d, hd, -⟩ := Option.map_eq_some_iff.1 hid'
  exact ⟨_, _, he, hm, hw, State.ctx?_modCtx_some hd (fun c => { c with tagwin := s.csrSrc w &&& 0x1FFFFFFFFF#64 }) fun _ => rfl, rfl⟩

end

/-- Settles O43: reads, then a user's writes and their faults, then firmware's writes. -/
theorem controlRegisters : Obligations.ControlRegisters := by
  unfold Obligations.ControlRegisters
  intro s w c k hc hk lead v dst setWave
  have hi := State.wave_ne_idle hk
  refine ⟨fun h i hm => ?_, fun h hd => ?_, fun h hfw => ?_, fun h hfw hid => ?_⟩
  · have hw := fun f => State.csrWrite_of_idle (f := f) h
    simp only [List.mem_cons, List.not_mem_nil, or_false] at hm
    rcases hm with rfl | rfl | rfl | rfl | rfl
    · exact congrArg Host.Outcome.next (if_pos (State.idleWord_eq_true.2 h))
    all_goals exact congrArg Host.Outcome.next (hw _)
  · have reads {n : Nat} {x : W64} (hx : s.csrGet n = some x) (hn : w.csr = n) : dst x := csrrGives h hd (hn ▸ hx)
    have range {i : Nat} {r : Range} (hr : (c.rangesFor s.wave.fw)[i]? = some r) (hi : i < 16) (k : Nat) (hk : k < 4)
        (hn : w.csr = 0x020 + 0x010 * k + i) : dst (r.reg k) := reads (State.csrGet_range hc hr hi hk) hn
    have hsl : c.slots.length = 4 * c.dies.length := by simp [Ctx.slots, List.length_flatMap, mul_comm]
    refine ⟨?_, ?_, ?_, ?_, ?_, ?_, ?_, ?_, ?_, ?_, ?_, ?_, ?_, fun b hb => ?_, fun i r hr hi =>
      ⟨range hr hi 0 (by decide), range hr hi 1 (by decide), range hr hi 2 (by decide), range hr hi 3 (by decide)⟩⟩
    all_goals
      refine reads ?_
      simp [State.csrGet, *]
  · have writes {n : Nat} {t : Wave} (hn : w.csr = n) (hf : csrwFault false n = none) (hp : s.csrPut n v = { s with wave := t }) :
        setWave t := by
      subst hn
      exact (exec_csrw_of_ok h (hfw ▸ hf)).trans (congrArg _ hp)
    have traps {code : Nat} {i : Instr} {f : State → W64 → State} (hf : csrwFault false w.csr = some code) (hc : code ≠ 0x06)
        (he : exec i s = .next (s.csrWrite w f)) : ∃ t, exec i s = .next t ∧ Trapped s t code lead 0 :=
      csrWrite_traps h hi (hfw ▸ hf) hc he
    have each {l : List Nat} {code : Nat} (hl : ∀ n ∈ l, csrwFault false n = some code) (hn : w.csr ∈ l) :
        csrwFault false w.csr = some code := hl _ hn
    refine ⟨fun hn => writes hn rfl rfl, fun hn => writes hn rfl rfl, fun hn => writes hn rfl rfl, fun hn => writes hn rfl rfl,
      fun hn => writes hn rfl rfl, fun hn => traps (each (by decide) hn) (by decide) rfl,
      fun hn => traps (each (by decide) hn) (by decide) rfl, fun hn => traps (hn ▸ rfl) (by decide) rfl,
      fun h1 h2 => ?_, fun h1 h2 => ?_⟩
    · exact traps (csrwFault_range false h1 (by omega)) (by decide) rfl
    · exact traps (csrwFault_range false (by omega) h2) (by decide) rfl
  · have ok {n : Nat} (hn : w.csr = n) (hf : csrwFault true n = none) : exec (.csrw w) s = .next (s.csrPut n v) := by
      subst hn
      exact exec_csrw_of_ok h (hfw ▸ hf)
    refine ⟨fun hn => ok hn rfl, fun hn => ⟨_, ok hn rfl, rfl, rfl, ?_⟩, fun r h1 h2 hr => ?_, fun r h1 h2 hr hv hb => ?_,
      fun hn hle => writesTagwin h hfw hc hid hn hle⟩
    · exact (congrArg (State.ctx? _) hid).trans (State.ctx?_modCtx_some hc (fun c => { c with dbgctl := v &&& 1#64 }) fun _ => rfl)
    · obtain ⟨t, he, hm, hw, hwhen, hr'⟩ := writesRange (i := .rangeBoundWrite w) h hfw hc hid h1 (by omega) hr
        (f := fun _ v r => r.writeBound (w.csr / 16 - 2) v) rfl
      refine ⟨t, he, hm, hw, hwhen, fun hv => ?_, fun hv h3 => ⟨_, hr', ?_⟩⟩
      · exact hr'.trans (congrArg some (Range.writeBound_of_valid hv ..))
      · rw [show w.csr / 16 - 2 = 0 by omega]
        exact Range.writeBound_base hv _
    · obtain ⟨t, he, hm, hw, hwhen, hr'⟩ := writesRange (i := .rngattrWrite w) h hfw hc hid (by omega) h2 hr
        (f := fun c v r => r.writeAttr c.dies v) rfl
      exact ⟨t, _, he, hm, hw, hwhen, hr', Range.writeAttr_sets hv _ hb⟩

end Sys2Proof.Machine

/-! ## Leases (O51) -/

namespace Sys2Proof.Machine

/-! ### Pages and the records of their homes -/

theorem pageShift_le (a : Nat) : pageShift a ≤ 54 := by
  unfold pageShift
  split <;> omega

/-- A page lies in the size class of its bytes (R31). -/
theorem pageShift_pageOf (a : Nat) : pageShift (pageOf a) = pageShift a := by
  have hd : pageOf a / 2 ^ 54 = a / 2 ^ 54 := by
    obtain ⟨m, hm⟩ := Nat.exists_eq_add_of_le (pageShift_le a)
    rw [hm, pow_add, pageOf, ← Nat.div_div_eq_div_mul, Nat.mul_div_cancel _ (Nat.two_pow_pos _), Nat.div_div_eq_div_mul]
  simp only [pageShift, hd]

theorem pageOf_pageOf (a : Nat) : pageOf (pageOf a) = pageOf a := by
  conv_lhs => rw [pageOf, pageShift_pageOf]
  rw [pageOf, Nat.mul_div_cancel _ (Nat.two_pow_pos _)]

section
variable {s t : State} {h g : HomeId} {a b : Nat} {e : Entry}

theorem State.entry?_place (he : s.entry? h a = some e) : e.home = h ∧ e.ia = pageOf a := by
  simpa using List.find?_some he

theorem State.entry?_congr (he : t.entries = s.entries) (g : HomeId) (a : Nat) : t.entry? g a = s.entry? g a := by
  rw [State.entry?, he, State.entry?]

theorem State.entry?_modEntry (he : s.entry? h a = some e) {f : Entry → Entry} (hf : ∀ x, (f x).home = x.home ∧ (f x).ia = x.ia) :
    (s.modEntry h a f).entry? h a = some (f e) := by
  rw [← Option.map_some, ← he]
  refine find?_updFirst (fun x hx => ?_) _
  obtain ⟨h1, h2⟩ := hf x
  rwa [h1, h2]

theorem State.entry?_modEntry_of_ne (hg : g ≠ h ∨ pageOf b ≠ pageOf a) {f : Entry → Entry}
    (hf : ∀ x, (f x).home = x.home ∧ (f x).ia = x.ia) : (s.modEntry h a f).entry? g b = s.entry? g b := by
  refine find?_updFirst_of_ne (fun x _ => ?_) (fun x hx => ?_) _
  · obtain ⟨h1, h2⟩ := hf x
    rw [h1, h2]
  · simp only [Bool.and_eq_true, decide_eq_true_eq, beq_iff_eq] at hx
    simp only [hx.1, hx.2, Bool.and_eq_false_iff, decide_eq_false_iff_not, beq_eq_false_iff_ne]
    exact hg.imp Ne.symm Ne.symm

/-- The entry's own name names it. -/
theorem State.modEntry_self (he : s.entry? h a = some e) (f : Entry → Entry) : t.modEntry e.home e.ia f = t.modEntry h a f := by
  obtain ⟨rfl, h2⟩ := State.entry?_place he
  simp only [State.modEntry, h2, pageOf_pageOf]

theorem State.pageop?_self (he : s.entry? h a = some e) : t.pageop? e.home e.ia = t.pageop? h a := by
  obtain ⟨rfl, h2⟩ := State.entry?_place he
  simp only [State.pageop?, h2, pageOf_pageOf]

theorem State.modPageop_self (he : s.entry? h a = some e) (f : PageOp → PageOp) : t.modPageop e.home e.ia f = t.modPageop h a f := by
  obtain ⟨rfl, h2⟩ := State.entry?_place he
  simp only [State.modPageop, h2, pageOf_pageOf]

theorem State.pageop?_modPageop {o : PageOp} (ho : s.pageop? h a = some o) {f : PageOp → PageOp}
    (hf : ∀ x, (f x).home = x.home ∧ (f x).ia = x.ia) : (s.modPageop h a f).pageop? h a = some (f o) := by
  rw [← Option.map_some, ← ho]
  refine find?_updFirst (fun x hx => ?_) _
  obtain ⟨h1, h2⟩ := hf x
  rwa [h1, h2]

theorem State.home?_modHome_some {x : Home} (hx : s.home? h = some x) (f : Home → Home) (hf : ∀ x, (f x).id = x.id) :
    (s.modHome h f).home? h = some (f x) := by
  rw [State.home?_modHome _ _ _ fun y hy => (hf y).trans hy, hx, Option.map_some]

end

/-! ### A grant -/

section
variable {s : State} {l : LeaseReq} {h : Home}

/-- One page of a lease is counted (R53). -/
def Entry.leased (e : Entry) : Entry := { e with lcnt := min (e.lcnt + 1) 65535 }

/-- Counting the pages of a lease changes the entries of those pages, each once. -/
theorem leasedPages (hm : HomeId) (ps : List Nat) (s : State) (hn : (ps.map pageOf).Nodup) :
    let t := ps.foldl (fun s p => s.modEntry hm p Entry.leased) s
    (∀ p ∈ ps, ∀ e, s.entry? hm p = some e → t.entry? hm p = some e.leased)
      ∧ (∀ g a, (g ≠ hm ∨ pageOf a ∉ ps.map pageOf) → t.entry? g a = s.entry? g a) ∧ t = { s with entries := t.entries } := by
  induction ps generalizing s with
  | nil => exact ⟨nofun, fun _ _ _ => rfl, rfl⟩
  | cons p r ih =>
    rw [List.map_cons, List.nodup_cons] at hn
    obtain ⟨hin, hout, hs⟩ := ih (s.modEntry hm p Entry.leased) hn.2
    refine ⟨fun q hq e he => ?_, fun g a ha => ?_, hs⟩
    · rcases List.mem_cons.1 hq with rfl | hq
      · rw [List.foldl_cons, hout hm q (.inr hn.1)]
        exact State.entry?_modEntry he fun _ => ⟨rfl, rfl⟩
      · refine hin q hq e ?_
        have hpq : pageOf q ≠ pageOf p := fun hpq => hn.1 (hpq ▸ List.mem_map_of_mem hq)
        exact (State.entry?_modEntry_of_ne (f := Entry.leased) (.inr hpq) fun _ => ⟨rfl, rfl⟩).trans he
    · rw [List.map_cons, List.mem_cons, not_or] at ha
      rw [List.foldl_cons, hout g a (ha.imp_right And.right)]
      exact State.entry?_modEntry_of_ne (ha.imp_right And.left) fun _ => ⟨rfl, rfl⟩

theorem exec_leaseRequest (hh : s.home? l.home = some h) : exec (.leaseRequest l) s = .next (s.leaseAsk l) := by
  simp only [exec, execLeaseRequest, hh, Option.isNone_some, Bool.false_eq_true, if_false]

theorem leaseRefusal (hh : s.home? l.home = some h) (hd : l.blk.ctx ∉ h.dead) (hi : l.hint = false)
    (hr : (∃ p ∈ l.pages, s.leaseLook l p = .refuse) ∨ pinMax < s.blkPins l) :
    exec (.leaseRequest l) s = .next { s with pending := s.pending ++ [.leaseRefused l] } := by
  have hc : (l.pages.any (fun p => s.leaseLook l p == .refuse) || decide (s.blkPins l > pinMax)) = true := by
    simpa using hr
  rw [exec_leaseRequest hh]
  simp only [State.leaseAsk, hh, List.contains_eq_mem, hd, hi, hc, decide_false, Bool.false_eq_true, if_false, if_true]
  rfl

theorem State.leaseAsk_of_ok (hh : s.home? l.home = some h) (hd : l.blk.ctx ∉ h.dead) (hi : l.hint = false)
    (hr : ∀ p ∈ l.pages, s.leaseLook l p ≠ .refuse) (hb : s.blkPins l ≤ pinMax) :
    s.leaseAsk l = (l.pages.find? fun p => s.leaseLook l p != .grant).elim
      (if h.pins + s.newPins l > pinMax then s.modHome l.home fun h => { h with queue := h.queue ++ [l] } else s.leaseGrant l)
      (s.leaseWait l) := by
  have hc : (l.pages.any (fun p => s.leaseLook l p == .refuse) || decide (s.blkPins l > pinMax)) = false := by
    simpa using ⟨hr, hb⟩
  simp only [State.leaseAsk, hh, List.contains_eq_mem, hd, hi, hc, decide_false, Bool.false_eq_true, if_false]
  split <;> simp [*]

/-- Every page may be leased. -/
theorem exec_leaseRequest_of_grants (hh : s.home? l.home = some h) (hd : l.blk.ctx ∉ h.dead) (hi : l.hint = false)
    (hg : ∀ p ∈ l.pages, s.leaseLook l p = .grant) (hb : s.blkPins l ≤ pinMax) : exec (.leaseRequest l) s = .next
      (if h.pins + s.newPins l > pinMax then s.modHome l.home fun h => { h with queue := h.queue ++ [l] } else s.leaseGrant l) := by
  have hn : (l.pages.find? fun p => s.leaseLook l p != .grant) = none := by simpa using hg
  rw [exec_leaseRequest hh, State.leaseAsk_of_ok hh hd hi (fun p hp => by rw [hg p hp]; nofun) hb, hn, Option.elim_none]

theorem leaseGranted (hh : s.home? l.home = some h) (hn : (l.pages.map pageOf).Nodup) (hd : l.blk.ctx ∉ h.dead) (hi : l.hint = false)
    (hg : ∀ p ∈ l.pages, s.leaseLook l p = .grant) (hb : s.blkPins l ≤ pinMax) (hp : h.pins + s.newPins l ≤ pinMax) :
    ∃ t h', exec (.leaseRequest l) s = .next t ∧ t.mem = s.mem ∧ t.home? l.home = some h'
      ∧ h' = { h with pins := h.pins + s.newPins l } ∧ .leaseGrantReceived l ∈ t.pending
      ∧ (∀ p ∈ l.pages, ∀ e, s.entry? l.home p = some e → t.entry? l.home p = some { e with lcnt := min (e.lcnt + 1) 65535 })
      ∧ ∀ g a, (g ≠ l.home ∨ pageOf a ∉ l.pages.map pageOf) → t.entry? g a = s.entry? g a := by
  obtain ⟨hin, hout, hs⟩ := leasedPages l.home l.pages s hn
  have he := exec_leaseRequest_of_grants hh hd hi hg hb
  rw [if_neg (Nat.not_lt.2 hp)] at he
  refine ⟨_, _, he, ?_, ?_, rfl, List.mem_append_right _ List.mem_cons_self, hin, hout⟩
  · exact (congrArg State.mem hs :)
  · refine State.home?_modHome_some (f := fun x : Home => { x with pins := x.pins + s.newPins l }) (x := h) ?_ fun _ => rfl
    exact (congrArg (State.home? · l.home) hs).trans hh

theorem leaseQueued (hh : s.home? l.home = some h) (hd : l.blk.ctx ∉ h.dead) (hi : l.hint = false)
    (hg : ∀ p ∈ l.pages, s.leaseLook l p = .grant) (hb : s.blkPins l ≤ pinMax) (hp : pinMax < h.pins + s.newPins l) :
    ∃ t, exec (.leaseRequest l) s = .next t ∧ t.entries = s.entries ∧ t.home? l.home = some { h with queue := h.queue ++ [l] } := by
  have he := exec_leaseRequest_of_grants hh hd hi hg hb
  rw [if_pos hp] at he
  exact ⟨_, he, rfl, State.home?_modHome_some hh (fun h => { h with queue := h.queue ++ [l] }) fun _ => rfl⟩

end

/-! ### A page that is brought in -/

section
variable {s t : State}

/-- What a page operation is for, and the lease requests it holds. -/
def PageOp.outline (o : PageOp) : HomeId × Nat × Option HomeCmd × List LeaseReq := (o.home, o.ia, o.cmd, o.held)

/-- The translation entries of every home, and the outlines of its page operations. -/
def State.pages (s : State) : List Entry × List (HomeId × Nat × Option HomeCmd × List LeaseReq) :=
  (s.entries, s.pageops.map PageOp.outline)

theorem State.egress_pages (s : State) (e : Entry) (ia n : Nat) (w : Option (List Byte)) : (s.egress e ia n w).pages = s.pages := by
  unfold State.egress
  split <;> rfl

theorem State.noteReuse_pages (s : State) (e : Entry) (k n : Nat) : (s.noteReuse e k n).pages = s.pages := by
  unfold State.noteReuse State.pages
  extract_lets note
  refine congrArg (s.entries, ·) ?_
  rw [List.map_map]
  refine List.map_congr_left fun o _ => ?_
  simp only [Function.comp, note]
  split
  · rfl
  · split <;> rfl

theorem State.framePut_pages (s : State) (e : Entry) (ia : Nat) (bs : List Byte) : (s.framePut e ia bs).pages = s.pages := by
  have hset : (s.frameSet e ia bs).pages = s.pages := by
    refine Eq.trans ?_ (s.noteReuse_pages e (e.key ia) bs.length)
    unfold State.frameSet
    dsimp only
    split <;> rfl
  unfold State.framePut
  dsimp only
  split
  · rw [State.egress_pages, State.egress_pages, hset]
  · rw [State.egress_pages, hset]

theorem State.holdReq_pages (s : State) (e : Entry) (r : Req) : (s.holdReq e r).pages = s.pages := by
  unfold State.holdReq
  split
  · exact congrArg (s.entries, ·) (map_updFirst (fun _ => by rfl) _)
  · rfl

theorem State.ringPut_pages {fn : Nat} {reg pi ci : W64} {ws : List W64} (h : s.ringPut fn reg pi ci ws = some t) :
    t.pages = s.pages := by
  unfold State.ringPut at h
  dsimp only at h
  split at h
  · cases h
    cases hw : s.devWrite fn (ringIa reg + 32 * (pi.toNat % 2 ^ ringLog reg)) (bytesOf ws) with
    | none => rfl
    | some u =>
      obtain ⟨e, -, rfl⟩ := Option.map_eq_some_iff.1 hw
      rw [Option.getD_some]
      split
      · exact s.holdReq_pages ..
      · exact s.framePut_pages ..
  · cases h

theorem State.prqFlush_pages (s : State) (n fn : Nat) : (s.prqFlush n fn).pages = s.pages := by
  induction n generalizing s with
  | zero => rfl
  | succ k ih =>
    unfold State.prqFlush
    split
    · rfl
    split
    · rfl
    split
    · next h =>
      have hp := State.ringPut_pages h
      exact (ih _).trans hp
    · rfl

/-- A record of the page-request ring changes no entry, and no page operation but for the accesses it holds and the old bytes it keeps. -/
theorem State.pageRequest_pages (s : State) (e : Entry) : (s.pageRequest e).pages = s.pages := State.prqFlush_pages _ 65537 _

theorem leaseFills {l : LeaseReq} {h : Home} (hh : s.home? l.home = some h) (hd : l.blk.ctx ∉ h.dead) (hi : l.hint = false)
    {p : Nat} {e : Entry} (hp : l.pages = [p]) (hl : s.leaseLook l p = .absent) (he : s.entry? l.home p = some e)
    (hb : s.blkPins l ≤ pinMax) (ho : s.pageop? l.home p = none) :
    ∃ t o, exec (.leaseRequest l) s = .next t ∧ t.entry? l.home p = some { e with mst := 2 } ∧ t.pageop? l.home p = some o
      ∧ o.held = [l] ∧ o.cmd = none := by
  obtain ⟨hhome, hia⟩ := State.entry?_place he
  have hask : s.leaseAsk l = s.startFill e [l] := by
    rw [State.leaseAsk_of_ok hh hd hi (fun q hq => by rw [hp, List.mem_singleton] at hq; rw [hq, hl]; nofun) hb]
    simp [hp, hl, State.leaseWait, he]
  let fresh : PageOp := { PageOp.fresh e.home e.ia none with held := [l] }
  let u : State := { s.modEntry e.home e.ia fun e => { e with mst := 2 } with pageops := s.pageops ++ [fresh] }
  have hk : (s.startFill e [l]).pages = u.pages := u.pageRequest_pages e
  have hu : u.pageop? l.home p = some fresh := by
    rw [State.pageop?, List.find?_append, show s.pageops.find? _ = none from ho, Option.none_or]
    simp [fresh, PageOp.fresh, hhome, hia, pageOf_pageOf]
  simp only [State.pages, Prod.mk.injEq] at hk
  obtain ⟨hent, hops⟩ := hk
  have hout : ((s.startFill e [l]).pageop? l.home p).map PageOp.outline = (u.pageop? l.home p).map PageOp.outline :=
    find?_map_congr hops (q := fun x => decide (x.1 = l.home) && x.2.1 == pageOf p) fun _ => rfl
  rw [hu] at hout
  obtain ⟨o, ho, heq⟩ := Option.map_eq_some_iff.1 hout
  simp only [PageOp.outline, Prod.mk.injEq] at heq
  obtain ⟨-, -, hcmd, hheld⟩ := heq
  refine ⟨_, o, (exec_leaseRequest hh).trans (congrArg _ hask), ?_, ho, hheld, hcmd⟩
  rw [State.entry?_congr hent]
  exact (congrArg (State.entry? · l.home p) (State.modEntry_self he _)).trans (State.entry?_modEntry he fun _ => ⟨rfl, rfl⟩)

end

/-! ### Grants and refusals at a block -/

theorem delFirst_eq_erase {α : Type} [DecidableEq α] (a : α) (l : List α) : delFirst (fun x => decide (x = a)) l = l.erase a := by
  induction l with
  | nil => rfl
  | cons b r ih =>
    by_cases h : b = a
    · simp [delFirst, h]
    · simp [delFirst, h, ih]

section
variable {s t : State} {l : LeaseReq} {b : Blk}

theorem grantReceived (hb : s.blk? l.blk = some b) (hw : l ∈ b.wanted) :
    ∃ t b', exec (.leaseGrantReceived l) s = .next t ∧ t.mem = s.mem ∧ t.blk? l.blk = some b'
      ∧ b'.leases = b.leases ++ [l] ∧ b'.wanted = b.wanted.erase l
      ∧ (b.wanted.length = 1 → b.state = .placed → .blockStart b.id ∈ t.pending) ∧ (b.wanted.length ≠ 1 → t.pending = s.pending) := by
  let take := fun (b : Blk) => { b with wanted := delFirst (fun x => decide (x = l)) b.wanted, leases := b.leases ++ [l] }
  have he : exec (.leaseGrantReceived l) s = .next (
      if b.wanted.length = 1 then (s.modBlk l.blk take).due [if b.state = .saved then .blockRestore b.id b.core else .blockStart b.id]
      else s.modBlk l.blk take) := by
    simp only [exec, execLeaseGrantReceived, hb, List.contains_eq_mem, hw, decide_true, Bool.not_true, Bool.false_eq_true, if_false, take]
  have ht : (s.modBlk l.blk take).blk? l.blk = some (take b) := by
    rw [State.blk?_modBlk _ _ take fun _ h => h, hb, Option.map_some]
  have hwd : (take b).wanted = b.wanted.erase l := delFirst_eq_erase l b.wanted
  by_cases h1 : b.wanted.length = 1
  · rw [if_pos h1] at he
    refine ⟨_, _, he, rfl, ht, rfl, hwd, fun _ hp => ?_, (absurd h1 ·)⟩
    simp [hp]
  · rw [if_neg h1] at he
    exact ⟨_, _, he, rfl, ht, rfl, hwd, fun h => absurd h h1, fun _ => rfl⟩

/-- A grant that the block no longer waits for is given back. -/
theorem grantReturned (hb : s.blk? l.blk = some b) (hw : l ∉ b.wanted) :
    exec (.leaseGrantReceived l) s = .next { s with pending := s.pending ++ [.leaseRelease l] } := by
  simp only [exec, execLeaseGrantReceived, hb, List.contains_eq_mem, hw, decide_false, Bool.not_false, if_true]
  rfl

end

/-! ### What follows the failure of a launch -/

/-- The launch is there, and failed. -/
def State.Failed (s : State) (ctx lid : Nat) : Prop := ∃ c x, s.ctx? ctx = some c ∧ c.launch? lid = some x ∧ x.bad = true

/-- t has no block that s has not, every event due in s, and every failed launch of s as one. -/
structure Unwinds (s t : State) : Prop where
  blks : t.blks ⊆ s.blks
  pending : s.pending ⊆ t.pending
  failed : ∀ i j, s.Failed i j → t.Failed i j

/-- The records that say what a launch still has to do. -/
def State.launching (s : State) : List Blk × List Instr × List Ctx := (s.blks, s.pending, s.ctxs)

section
variable {s t u : State}

theorem State.Failed.congr (h : t.ctxs = s.ctxs) {i j : Nat} (hf : s.Failed i j) : t.Failed i j := by
  rwa [State.Failed, State.ctx?, h]

theorem Unwinds.of_ctxs (hb : t.blks ⊆ s.blks) (hp : s.pending ⊆ t.pending) (hc : t.ctxs = s.ctxs) : Unwinds s t :=
  ⟨hb, hp, fun _ _ => State.Failed.congr hc⟩

theorem Unwinds.of_eq (h : t.launching = s.launching) : Unwinds s t := by
  simp only [State.launching, Prod.mk.injEq] at h
  obtain ⟨hb, hp, hc⟩ := h
  exact .of_ctxs (hb ▸ List.Subset.refl _) (hp ▸ List.Subset.refl _) hc

theorem Unwinds.refl (s : State) : Unwinds s s := .of_eq rfl

theorem Unwinds.trans (h : Unwinds s t) (k : Unwinds t u) : Unwinds s u :=
  ⟨List.Subset.trans k.blks h.blks, List.Subset.trans h.pending k.pending, fun i j hf => k.failed i j (h.failed i j hf)⟩

theorem Unwinds.foldl {α : Type} {f : State → α → State} (hf : ∀ s a, Unwinds s (f s a)) (l : List α) (s : State) :
    Unwinds s (l.foldl f s) := by
  induction l generalizing s with
  | nil => exact .refl s
  | cons a r ih => exact (hf s a).trans (ih _)

theorem Unwinds.due (h : Unwinds s t) (l : List Instr) : Unwinds s (t.due l) :=
  h.trans (.of_ctxs (List.Subset.refl _) (List.subset_append_left ..) rfl)

/-- What happens first and last without touching those records. -/
theorem Unwinds.after (h : t.launching = s.launching) (k : Unwinds t u) : Unwinds s u := (of_eq h).trans k

/-- A change of a context that leaves its failed launches failed. -/
theorem Unwinds.modCtx (h : Unwinds s t) (i : Nat) {f : Ctx → Ctx} (hi : ∀ c, (f c).id = c.id)
    (hf : ∀ c j x, c.launch? j = some x → x.bad = true → ∃ y, (f c).launch? j = some y ∧ y.bad = true) : Unwinds s (t.modCtx i f) := by
  refine h.trans ⟨List.Subset.refl _, List.Subset.refl _, ?_⟩
  rintro k j ⟨c, x, hc, hx, hb⟩
  by_cases hk : k = i
  · subst hk
    obtain ⟨y, hy, hyb⟩ := hf c j x hx hb
    exact ⟨f c, y, by rw [State.ctx?_modCtx _ _ _ fun c hc => (hi c).trans hc, hc, Option.map_some], hy, hyb⟩
  · refine ⟨c, x, Eq.trans (find?_updFirst_of_ne (fun c _ => by rw [hi]) (fun c hc => ?_) _) hc, hx, hb⟩
    rw [beq_iff_eq] at hc
    simp [hc, Ne.symm hk]

theorem Ctx.launch?_modLaunch (c : Ctx) (i : Nat) {f : Launch → Launch} (hf : ∀ l, (f l).id = l.id) :
    (c.modLaunch i f).launch? i = (c.launch? i).map f :=
  find?_updFirst (fun l hl => by rwa [hf]) _

/-- A change of a launch that does not take its failure back. -/
theorem Unwinds.modLaunch (h : Unwinds s t) (i j : Nat) {f : Launch → Launch} (hi : ∀ l, (f l).id = l.id)
    (hf : ∀ l, l.bad = true → (f l).bad = true) : Unwinds s (t.modCtx i fun c => c.modLaunch j f) := by
  refine h.modCtx i (fun _ => rfl) fun c k x hx hb => ?_
  by_cases hk : k = j
  · subst hk
    exact ⟨f x, by rw [Ctx.launch?_modLaunch c k hi, hx, Option.map_some], hf x hb⟩
  · refine ⟨x, Eq.trans (find?_updFirst_of_ne (fun l _ => by rw [hi]) (fun l hl => ?_) _) hx, hb⟩
    rw [beq_iff_eq] at hl
    simp [hl, Ne.symm hk]

/-! Writes of memory, and operations that end -/

theorem State.egress_launching (s : State) (e : Entry) (ia n : Nat) (w : Option (List Byte)) :
    (s.egress e ia n w).launching = s.launching := by
  unfold State.egress
  split <;> rfl

theorem State.framePut_launching (s : State) (e : Entry) (ia : Nat) (bs : List Byte) :
    (s.framePut e ia bs).launching = s.launching := by
  have hset : (s.frameSet e ia bs).launching = s.launching := by
    unfold State.frameSet
    dsimp only
    split <;> rfl
  unfold State.framePut
  dsimp only
  split
  · rw [State.egress_launching, State.egress_launching, hset]
  · rw [State.egress_launching, hset]

theorem State.noteCode_launching (s : State) (e : Entry) (ia n : Nat) : (s.noteCode e ia n).launching = s.launching := by
  unfold State.noteCode
  dsimp only
  split <;> rfl

theorem State.frameWrite_unwinds (s : State) (e : Entry) (ia : Nat) (bs : List Byte) : Unwinds s (s.frameWrite e ia bs) :=
  (Unwinds.of_eq ((State.framePut_launching _ e ia bs).trans (s.noteCode_launching e ia bs.length))).due _

theorem State.holdReq_launching (s : State) (e : Entry) (r : Req) : (s.holdReq e r).launching = s.launching := by
  unfold State.holdReq
  split <;> rfl

theorem State.ctxStore_unwinds {ctx : Nat} {va : W64} {bs : List Byte} (h : s.ctxStore ctx va bs = .ok t) : Unwinds s t := by
  unfold State.ctxStore State.hubWrite at h
  split at h
  · cases h
  split at h
  · cases h
  cases h
  refine .foldl (fun u p => ?_) _ s
  dsimp only
  split
  · exact .of_eq (u.holdReq_launching ..)
  · exact u.frameWrite_unwinds ..

theorem State.writeEarly_launching (s : State) (i : Nat) : (s.writeEarly i).launching = s.launching := by
  unfold State.writeEarly
  split
  · rfl
  dsimp only
  split
  · rfl
  · unfold State.modWave
    split <;> rfl

theorem State.unwait_unwinds (s : State) (i : Nat) : Unwinds s (s.unwait i) := Unwinds.after (by rfl) (Unwinds.due (.refl _) _)

theorem State.finishOp_unwinds (s : State) (i : Nat) : Unwinds s (s.finishOp i) := by
  unfold State.finishOp
  split
  · exact .refl s
  split
  · exact .refl s
  split
  · exact .refl s
  split
  · exact (Unwinds.refl s).due _
  split
  · exact (Unwinds.after ((State.writeEarly_launching _ i).trans (by rfl)) (State.unwait_unwinds _ i)).due _
  · exact (Unwinds.refl s).due _

theorem State.wakeFallback_unwinds (s : State) (ctx lid : Nat) : Unwinds s (s.wakeFallback ctx lid) :=
  .foldl (fun _ _ => .after (by rfl) (State.finishOp_unwinds _ _)) _ s

/-! The end of a launch -/

theorem State.kickDie_unwinds (s : State) (p d : Nat) : Unwinds s (s.kickDie p d) := by
  unfold State.kickDie
  split
  · split
    · split
      · exact (Unwinds.refl s).due _
      · exact .refl s
    split
    · exact .refl s
    · exact (Unwinds.refl s).due _
  · exact .refl s

theorem State.fireSignals_unwinds (s : State) (ctx lid : Nat) : Unwinds s (s.fireSignals ctx lid) := by
  have signals {t u : State} (h : Unwinds t u) (g : Ctx → List Queue) : Unwinds t (u.modCtx ctx fun c => { c with queues := g c }) :=
    h.modCtx ctx (fun _ => by rfl) fun _ _ x hx hb => ⟨x, hx, hb⟩
  unfold State.fireSignals
  extract_lets strip t
  have h : Unwinds s t := signals (.refl s) _
  split
  · exact h
  · exact (signals h _).due _

theorem State.purge_unwinds (s : State) (ctx lid : Nat) : Unwinds s (s.purge ctx lid) := by
  unfold State.purge
  extract_lets mine gone out strip t
  have h : Unwinds s t := .of_ctxs (List.filter_subset_self _) (List.Subset.refl _) rfl
  exact (h.modLaunch (f := out) ctx lid (fun _ => rfl) fun _ => id).due _

theorem State.failNext_unwinds (s : State) (ctx lid : Nat) : Unwinds s (s.failNext ctx lid) := by
  unfold State.failNext
  split
  · exact .refl s
  split
  · exact .refl s
  · exact (((Unwinds.refl s).modLaunch ctx _ (fun _ => by rfl) fun _ _ => by rfl).due _).trans (State.purge_unwinds ..)

theorem State.writeStats_unwinds (s : State) (ctx : Nat) (l : Launch) : Unwinds s (s.writeStats ctx l) := by
  have herr (e : EngErr) : Unwinds s (s.ctxErr ctx e) := by
    unfold State.ctxErr
    split
    · exact (Unwinds.refl s).due _
    · exact .refl s
  unfold State.writeStats
  split
  · exact .refl s
  split
  · next h => exact State.ctxStore_unwinds h
  · exact (herr _).due _

theorem State.endLaunch_unwinds (s : State) (ctx lid : Nat) : Unwinds s (s.endLaunch ctx lid) := by
  unfold State.endLaunch
  split
  · exact .refl s
  next l _ =>
  split
  · exact .refl s
  split
  · split
    · exact .refl s
    · exact (Unwinds.refl s).due _
  extract_lets s1 s2 free s3 s4 s5
  have h2 : Unwinds s s2 := (s.writeStats_unwinds ctx l).modLaunch ctx lid (fun _ => by rfl) fun _ => id
  have h3 : Unwinds s s3 := h2.trans (.of_eq rfl)
  have h4 : Unwinds s s4 := (h3.trans (s3.wakeFallback_unwinds ctx lid)).trans (State.fireSignals_unwinds ..)
  have h5 : Unwinds s s5 := (h4.due _).trans (.foldl (fun t (d : Die) => t.kickDie_unwinds d.pkg d.die) _ _)
  split
  · split
    · exact h5.due _
    · exact h5
  · exact h5

/-- What follows the failure of a launch brings no block, takes no event back, and no failure. -/
theorem State.settleLaunch_unwinds (s : State) (n ctx lid : Nat) : Unwinds s (s.settleLaunch n ctx lid) := by
  induction n generalizing s lid with
  | zero => exact .refl s
  | succ k ih =>
    unfold State.settleLaunch
    split
    · exact .refl s
    next l _ =>
    extract_lets s1 s2
    have h1 : Unwinds s s1 := by
      dsimp only [s1]
      split
      · exact (s.purge_unwinds ctx lid).trans (State.failNext_unwinds ..)
      · exact .refl s
    have h2 : Unwinds s s2 := h1.trans (s1.endLaunch_unwinds ctx lid)
    split
    · split
      · exact h2.trans (ih ..)
      · exact h2
    · exact h2

/-- A failed launch drops its unstarted blocks (R362). -/
theorem State.settleLaunch_purges {c : Ctx} {x : Launch} (hc : s.ctx? ctx = some c) (hx : c.launch? lid = some x) (hb : x.bad = true)
    (n : Nat) : Unwinds (s.purge ctx lid) (s.settleLaunch (n + 1) ctx lid) := by
  unfold State.settleLaunch
  simp only [hc, hx, Option.bind_some, hb, if_true]
  have h1 := (State.failNext_unwinds (s.purge ctx lid) ctx lid).trans (State.endLaunch_unwinds _ ctx lid)
  split
  · exact h1.trans (State.settleLaunch_unwinds ..)
  · exact h1

theorem State.purge_blks (s : State) (ctx lid : Nat) : ∀ b ∈ (s.purge ctx lid).blks,
    b.id.ctx = ctx → b.id.task = false → b.id.launch = lid → b.state ≠ .placed := by
  intro b hb hctx htask hlid hst
  simpa [hctx, htask, hlid, hst] using (List.mem_filter.1 hb).2

/-- A launch that fails stays failed, and leaves none of its blocks placed. -/
theorem State.failLaunch_unwinds {c : Ctx} {x : Launch} (hc : s.ctx? ctx = some c) (hx : c.launch? lid = some x) :
    let t := s.failLaunch ctx lid
    s.pending ⊆ t.pending ∧ t.Failed ctx lid
      ∧ ∀ b ∈ t.blks, b.id.ctx = ctx → b.id.task = false → b.id.launch = lid → b.state ≠ .placed := by
  intro t
  let fail : Launch → Launch := fun l => { l with bad := true }
  let u := s.modCtx ctx fun c => c.modLaunch lid fail
  have huc : u.ctx? ctx = some (c.modLaunch lid fail) := State.ctx?_modCtx_some hc (fun c => c.modLaunch lid fail) fun _ => rfl
  have hux : (c.modLaunch lid fail).launch? lid = some (fail x) := by
    rw [Ctx.launch?_modLaunch c lid (f := fail) fun _ => rfl, hx, Option.map_some]
  have ht : Unwinds (u.purge ctx lid) t := State.settleLaunch_purges huc hux rfl 4095
  have hp := u.purge_unwinds ctx lid
  exact ⟨(hp.trans ht).pending, (hp.trans ht).failed _ _ ⟨_, _, huc, hux, rfl⟩, fun b hb => u.purge_blks ctx lid b (ht.blks hb)⟩

end

theorem leaseRefusedAtPlacement {s : State} {l : LeaseReq} {b : Blk} (hb : s.blk? l.blk = some b) {c : Ctx} {x : Launch}
    (hp : b.state = .placed) (ht : b.id.task = false) (hc : s.ctx? b.id.ctx = some c) (hx : c.launch? b.id.launch = some x) :
    ∃ t r c' x', exec (.leaseRefused l) s = .next t ∧ .trapRecordPost b.id.ctx r ∈ t.pending ∧ r.code = 0x16 ∧ r.sub = 0
      ∧ r.addr = BitVec.ofNat 64 l.va ∧ (∀ y ∈ t.blks, y.id = b.id → y.state ≠ .placed) ∧ t.ctx? b.id.ctx = some c'
      ∧ c'.launch? b.id.launch = some x' ∧ x'.bad = true := by
  let r : TrapRec := { ctxRecord 0x16 0 (BitVec.ofNat 64 l.va) 0 0 (s.lserOf b.id) with pkg := l.pkg, die := l.die }
  let u := s.due [.trapRecordPost b.id.ctx r]
  have he : exec (.leaseRefused l) s = .next (u.failLaunch b.id.ctx b.id.launch) := by
    simp only [exec, execLeaseRefused, hb, hp]
    rfl
  obtain ⟨hpend, ⟨c', x', hc', hx', hbad⟩, hblks⟩ := State.failLaunch_unwinds (s := u) (ctx := b.id.ctx) (lid := b.id.launch) hc hx
  exact ⟨_, r, c', x', he, hpend (List.mem_append_right _ List.mem_cons_self), rfl, rfl, rfl,
    fun y hy hi => hblks y hy (hi ▸ rfl) (hi ▸ ht) (hi ▸ rfl), hc', hx', hbad⟩

/-! ### Release -/

section
variable {s : State} {l : LeaseReq} {h : Home} {p : Nat} {e : Entry}

/-- The last lease of a page goes: its count falls, its pin is free, and the requests that wait at the home try again (R54, R60). -/
def State.unpinned (s : State) (h : HomeId) (p : Nat) (q : List LeaseReq) : State :=
  ((s.modEntry h p fun e => { e with lcnt := e.lcnt - 1 }).modHome h fun x => { x with pins := x.pins - 1, queue := [] }).due
    (q.map fun l => .leaseRequest l)

theorem State.entry?_unpinned {hm : HomeId} (he : s.entry? hm p = some e) (q : List LeaseReq) :
    (s.unpinned hm p q).entry? hm p = some { e with lcnt := e.lcnt - 1 } :=
  State.entry?_modEntry (f := fun e => { e with lcnt := e.lcnt - 1 }) he fun _ => ⟨rfl, rfl⟩

theorem State.home?_unpinned {hm : HomeId} (hh : s.home? hm = some h) (p : Nat) (q : List LeaseReq) :
    (s.unpinned hm p q).home? hm = some { h with pins := h.pins - 1, queue := [] } :=
  State.home?_modHome_some (s := s.modEntry hm p fun e => { e with lcnt := e.lcnt - 1 }) hh
    (fun x => { x with pins := x.pins - 1, queue := [] }) fun _ => rfl

theorem State.releasePage_of_unheld {hm : HomeId} (he : s.entry? hm p = some e) (hl : e.lcnt = 0 ∨ e.lcnt = 65535) :
    s.releasePage hm p = s := by
  simp [State.releasePage, he, hl]

theorem State.releasePage_of_many {hm : HomeId} (he : s.entry? hm p = some e) (h1 : 1 < e.lcnt) (h2 : e.lcnt ≠ 65535) :
    s.releasePage hm p = s.modEntry hm p fun e => { e with lcnt := e.lcnt - 1 } := by
  have h0 : e.lcnt ≠ 0 := by omega
  have h1 : e.lcnt ≠ 1 := by omega
  simp [State.releasePage, he, h0, h1, h2]

theorem State.releasePage_of_last {hm : HomeId} (hh : s.home? hm = some h) (he : s.entry? hm p = some e) (hl : e.lcnt = 1) :
    (e.mst = 0 → s.releasePage hm p = s.unpinned hm p h.queue)
      ∧ (∀ o, e.mst = 3 → s.pageop? hm p = some o →
          s.releasePage hm p = (s.unpinned hm p h.queue).shoot { e with lcnt := 0 } o.cmd .unmap) := by
  have hq : (s.modEntry hm p fun e => { e with lcnt := e.lcnt - 1 }).home? hm = some h := hh
  have ho : (s.unpinned hm p h.queue).pageop? hm p = s.pageop? hm p := rfl
  refine ⟨fun hm => ?_, fun o hm hop => ?_⟩
  · simp [State.releasePage, he, hl, hq, hm, State.unpinned]
  · rw [hop] at ho
    simp only [State.unpinned] at ho
    simp [State.releasePage, he, hl, hq, hm, State.unpinned, ho]

/-- A shoot-down of a page that has an operation of its own, for that operation's command (R62). -/
theorem State.shoot_shootsDown {hm : HomeId} {o : PageOp} {c : HomeCmd} (he : s.entry? hm p = some e)
    (ho : s.pageop? hm p = some o) (w : ShootFor) : ShootsDown s (s.shoot e (some c) w) hm p e c w := by
  let shot := fun o : PageOp => { o with cmd := some c, acks := s.flushDies e, shoot := some w }
  let u := s.modEntry hm p fun e => { e with mst := 5 }
  have hs : s.shoot e (some c) w = (u.modPageop hm p shot).due ((s.flushDies e).map fun d => .pageFlush hm (pageOf p) d.1 d.2) := by
    obtain ⟨h1, h2⟩ := State.entry?_place he
    have hu : u.pageop? hm p = some o := ho
    simp only [State.shoot, State.modEntry_self he, State.pageop?_self he, State.modPageop_self he]
    rw [hu, h1, h2]
  rw [hs]
  refine ⟨rfl, State.entry?_modEntry (f := fun e => { e with mst := 5 }) he fun _ => ⟨rfl, rfl⟩, fun d hd => ?_, shot o,
    State.pageop?_modPageop (s := u) (f := shot) ho fun _ => ⟨rfl, rfl⟩, rfl, rfl, rfl⟩
  exact List.mem_append_right _ (List.mem_map_of_mem (f := fun d : Nat × Nat => Instr.pageFlush hm (pageOf p) d.1 d.2) hd)

theorem exec_leaseRelease (hh : s.home? l.home = some h) (hp : l.pages = [p]) :
    exec (.leaseRelease l) s = .next (s.releasePage l.home p) := by
  simp only [exec, execLeaseRelease, hh, hp, Option.isNone_some, Bool.false_eq_true, if_false, List.foldl_cons, List.foldl_nil]

/-- The last lease of a page goes, and none of its events wait. -/
theorem leaseLastReleased (hh : s.home? l.home = some h) (hp : l.pages = [p]) (he : s.entry? l.home p = some e) (hl : e.lcnt = 1)
    (hm : e.mst = 0) : ∃ t, exec (.leaseRelease l) s = .next t ∧ t.mem = s.mem ∧ t.entry? l.home p = some { e with lcnt := 0 }
      ∧ t.home? l.home = some { h with pins := h.pins - 1, queue := [] } ∧ ∀ q ∈ h.queue, .leaseRequest q ∈ t.pending := by
  have hu := State.entry?_unpinned he h.queue
  rw [hl] at hu
  refine ⟨_, exec_leaseRelease hh hp, ?_⟩
  rw [(State.releasePage_of_last hh he hl).1 hm]
  exact ⟨rfl, hu, State.home?_unpinned hh p h.queue, fun q hq => List.mem_append_right _ (List.mem_map_of_mem hq)⟩

/-- The last lease of a page whose UNMAP waits for it goes: the shoot-down runs (R71). -/
theorem leaseReleaseShoots (hh : s.home? l.home = some h) (hp : l.pages = [p]) (he : s.entry? l.home p = some e) (hl : e.lcnt = 1)
    (hm : e.mst = 3) {o : PageOp} {c : HomeCmd} (ho : s.pageop? l.home p = some o) (hc : o.cmd = some c) :
    ∃ t, exec (.leaseRelease l) s = .next t ∧ ShootsDown s t l.home p { e with lcnt := 0 } c .unmap := by
  have hu := State.entry?_unpinned he h.queue
  rw [hl] at hu
  refine ⟨_, exec_leaseRelease hh hp, ?_⟩
  rw [(State.releasePage_of_last hh he hl).2 o hm ho, hc]
  exact State.shoot_shootsDown (c := c) hu (show (s.unpinned l.home p h.queue).pageop? l.home p = some o from ho) .unmap

end

/-- Settles O51: a request's answer follows from what its pages allow, a grant and a refusal act on the block that asked, and a release
is that of its one page. -/
theorem leasesPinPages : Obligations.LeasesPinPages := by
  unfold Obligations.LeasesPinPages
  intro s l h hh hn
  refine ⟨fun hd hi => ⟨leaseRefusal hh hd hi, fun hg hb => ⟨leaseGranted hh hn hd hi hg hb, leaseQueued hh hd hi hg hb⟩,
      fun p e hp hk he hb ho => leaseFills hh hd hi hp hk he hb ho⟩,
    fun b hb => ⟨grantReceived hb, grantReturned hb, fun c x h1 h2 h3 h4 => leaseRefusedAtPlacement hb h1 h2 h3 h4⟩,
    fun p e hp he => ⟨fun h0 => ?_, fun h1 h2 => ?_, fun h1 h2 => leaseLastReleased hh hp he h1 h2,
      fun o c h1 h2 ho hc => leaseReleaseShoots hh hp he h1 h2 ho hc⟩⟩
  · rw [exec_leaseRelease hh hp, State.releasePage_of_unheld he h0]
  · refine ⟨_, exec_leaseRelease hh hp, ?_⟩
    rw [State.releasePage_of_many he h1 h2]
    exact ⟨rfl, rfl, rfl, State.entry?_modEntry (f := fun e => { e with lcnt := e.lcnt - 1 }) he fun _ => ⟨rfl, rfl⟩⟩

end Sys2Proof.Machine

/-! ## Weak stores (O26) -/

namespace Sys2Proof.Machine

/-! ### Write-combining buffers -/

/-- A buffer of the core holds the bytes of an operation at their place in their line. -/
def Core.Gathers (k : Core) (ctx id a : Nat) (bs : List Byte) : Prop :=
  ∃ f ∈ k.wc, f.ia = lineOf a ∧ f.ctx = ctx ∧ id ∈ f.ops ∧ (id, a - lineOf a, bs) ∈ f.parts

/-- What a buffer's drain asks, and for whom. -/
def WcBuf.asks (b : WcBuf) : HomeId × List Nat := (b.home, b.ops)

/-- A core's buffers by what they ask. -/
def Core.asks (k : Core) : CoreId × List (HomeId × List Nat) := (k.id, k.wc.map WcBuf.asks)

/-- Each core of s is there in t, and its buffers hold all they held. -/
def KeepsGathered (s t : State) : Prop :=
  ∀ c k, s.core? c = some k → ∃ k', t.core? c = some k' ∧ ∀ ctx id a bs, k.Gathers ctx id a bs → k'.Gathers ctx id a bs

theorem KeepsGathered.refl (s : State) : KeepsGathered s s := fun _ k h => ⟨k, h, fun _ _ _ _ => id⟩

theorem KeepsGathered.of_cores {s t : State} (h : t.cores = s.cores) : KeepsGathered s t := fun c k hk =>
  ⟨k, (congrArg (fun l : List Core => l.find? fun x => decide (x.id = c)) h :).trans hk, fun _ _ _ _ => id⟩

theorem KeepsGathered.trans {s t u : State} (h : KeepsGathered s t) (h' : KeepsGathered t u) : KeepsGathered s u := fun c k hk => by
  obtain ⟨k', hk', hg⟩ := h c k hk
  obtain ⟨k'', hk'', hg'⟩ := h' c k' hk'
  exact ⟨k'', hk'', fun ctx id a bs hb => hg' ctx id a bs (hg ctx id a bs hb)⟩

theorem KeepsGathered.due {s t : State} (h : KeepsGathered s t) (l : List Instr) : KeepsGathered s (t.due l) := h

section
variable {s : State} {c : CoreId} {k : Core}

theorem State.core?_modCore (hk : s.core? c = some k) {f : Core → Core} (hf : ∀ k, (f k).id = k.id) :
    (s.modCore c f).core? c = some (f k) := by
  rw [← Option.map_some, ← hk]
  exact find?_updFirst (fun x hx => by simpa [hf] using hx) _

theorem State.core?_modCore_of_ne {d : CoreId} (h : d ≠ c) {f : Core → Core} (hf : ∀ k, (f k).id = k.id) :
    (s.modCore c f).core? d = s.core? d :=
  find?_updFirst_of_ne (fun x _ => by simp [hf]) (fun x hx => by simp_all [Ne.symm h]) _

theorem State.modCore_keepsGathered {f : Core → Core} (hf : ∀ k, (f k).id = k.id)
    (hg : ∀ k, s.core? c = some k → ∀ ctx id a bs, k.Gathers ctx id a bs → (f k).Gathers ctx id a bs) : KeepsGathered s (s.modCore c f) := by
  intro d k hk
  by_cases h : d = c
  · subst h
    exact ⟨f k, State.core?_modCore hk hf, hg k hk⟩
  · exact ⟨k, (State.core?_modCore_of_ne h hf).trans hk, fun _ _ _ _ => id⟩

/-- Some buffers of a core are marked as sent. -/
def Core.sendBufs (p : WcBuf → Bool) (k : Core) : Core := { k with wc := k.wc.map fun b => if p b then { b with sent := true } else b }

theorem State.sendBufs_cases (s : State) (c : CoreId) (p : WcBuf → Bool) :
    s.sendBufs c p = s ∨ ∃ k, s.core? c = some k ∧ s.sendBufs c p = (s.modCore c (Core.sendBufs p)).due
      (((k.wc.filter fun b => !b.sent && p b).map fun b => Instr.wcBufferDrain c b.ia).filter fun e => !s.pending.contains e) := by
  unfold State.sendBufs
  split
  · exact .inl rfl
  · next k hk =>
    dsimp only
    split
    · exact .inl rfl
    · exact .inr ⟨k, hk, rfl⟩

theorem Core.Gathers.sendBufs {ctx id a : Nat} {bs : List Byte} (h : k.Gathers ctx id a bs) (p : WcBuf → Bool) :
    (k.sendBufs p).Gathers ctx id a bs := by
  obtain ⟨f, hf, h1, h2, h3, h4⟩ := h
  refine ⟨_, List.mem_map_of_mem hf, ?_⟩
  split <;> exact ⟨h1, h2, h3, h4⟩

theorem State.sendBufs_keepsGathered (s : State) (c : CoreId) (p : WcBuf → Bool) : KeepsGathered s (s.sendBufs c p) := by
  obtain h | ⟨k, _, h⟩ := State.sendBufs_cases s c p <;> rw [h]
  · exact .refl s
  · exact (State.modCore_keepsGathered (f := Core.sendBufs p) (fun _ => rfl) fun k _ _ _ _ _ h => h.sendBufs p).due _

theorem WcBuf.asks_sent (p : WcBuf → Bool) (b : WcBuf) : (if p b then { b with sent := true } else b).asks = b.asks := by
  split <;> rfl

theorem State.sendBufs_asks (s : State) (c : CoreId) (p : WcBuf → Bool) : (s.sendBufs c p).cores.map Core.asks = s.cores.map Core.asks := by
  obtain h | ⟨k, _, h⟩ := State.sendBufs_cases s c p <;> rw [h]
  refine map_updFirst (fun k => ?_) _
  simp only [Core.asks, Core.sendBufs, List.map_map, Prod.mk.injEq, true_and]
  exact List.map_congr_left fun b _ => WcBuf.asks_sent p b

theorem State.sendBufs_frame (s : State) (c : CoreId) (p : WcBuf → Bool) :
    s.sendBufs c p = { s with cores := (s.sendBufs c p).cores, pending := (s.sendBufs c p).pending } := by
  obtain h | ⟨k, _, h⟩ := State.sendBufs_cases s c p <;> rw [h]
  rfl

theorem State.sendBufs_pending (s : State) (c : CoreId) (p : WcBuf → Bool) :
    ∃ l, (s.sendBufs c p).pending = s.pending ++ l ∧ l.filterMap reqOf = [] := by
  obtain h | ⟨k, _, h⟩ := State.sendBufs_cases s c p <;> rw [h]
  · exact ⟨[], (List.append_nil _).symm, rfl⟩
  · refine ⟨_, rfl, ?_⟩
    simp only [List.filterMap_eq_nil_iff, List.mem_filter, List.mem_map]
    rintro _ ⟨⟨b, _, rfl⟩, _⟩
    rfl

end

/-! ### A store gathered in a buffer (R92) -/

section
variable {s : State} {c : CoreId} {ctx ia op : Nat} {h : HomeId} {bs : List Byte}

theorem mem_updFirst_of_mem {α : Type} {p : α → Bool} {f : α → α} {l : List α} {a : α} (h : a ∈ l) :
    a ∈ updFirst p f l ∨ p a = true ∧ f a ∈ updFirst p f l := by
  induction l with
  | nil => cases h
  | cons b r ih =>
    by_cases hb : p b = true
    · rcases List.mem_cons.1 h with rfl | h
      · exact .inr ⟨hb, by simp [updFirst, hb]⟩
      · exact .inl (by simp [updFirst, hb, h])
    · rcases List.mem_cons.1 h with rfl | h
      · exact .inl (by simp [updFirst, hb])
      · simp only [updFirst, hb, Bool.false_eq_true, if_false, List.mem_cons]
        exact (ih h).imp .inr (.imp id .inr)

theorem exists_mem_updFirst {α : Type} {p : α → Bool} {l : List α} (h : l.any p = true) (f : α → α) : ∃ a ∈ l, p a = true ∧ f a ∈ updFirst p f l := by
  induction l with
  | nil => cases h
  | cons b r ih =>
    by_cases hb : p b = true
    · exact ⟨b, List.mem_cons_self, hb, by simp [updFirst, hb]⟩
    · simp only [List.any_cons, hb, Bool.false_or] at h
      obtain ⟨a, ha, hp, hf⟩ := ih h
      exact ⟨a, List.mem_cons_of_mem _ ha, hp, by simp [updFirst, hb, hf]⟩

theorem WcBuf.put_mem (b : WcBuf) (ia op seq : Nat) (bs : List Byte) :
    op ∈ (b.put ia op seq bs).ops ∧ (op, ia - b.ia, bs) ∈ (b.put ia op seq bs).parts
      ∧ b.ops ⊆ (b.put ia op seq bs).ops ∧ b.parts ⊆ (b.put ia op seq bs).parts := by
  refine ⟨?_, by simp [WcBuf.put], ?_, List.subset_append_left _ _⟩
  · by_cases h : op ∈ b.ops <;> simp [WcBuf.put, h]
  · by_cases h : op ∈ b.ops <;> simp [WcBuf.put, h]

theorem Core.Gathers.of_put {k k' : Core} {p : WcBuf → Bool} {n : Nat} (hk : k'.wc = updFirst p (fun b => b.put ia op n bs) k.wc)
    {ctx' id a : Nat} {bs' : List Byte} (hg : k.Gathers ctx' id a bs') : k'.Gathers ctx' id a bs' := by
  obtain ⟨f, hf, h1, h2, h3, h4⟩ := hg
  rcases mem_updFirst_of_mem (p := p) (f := fun b : WcBuf => b.put ia op n bs) hf with hf | ⟨_, hf⟩
  · exact ⟨f, hk ▸ hf, h1, h2, h3, h4⟩
  · obtain ⟨_, _, ho, hp⟩ := WcBuf.put_mem f ia op n bs
    exact ⟨f.put ia op n bs, hk ▸ hf, h1, h2, ho h3, hp h4⟩

/-- Of eight buffers in use the oldest is sent (R92). -/
def State.wcRoom (s : State) (c : CoreId) (old : List WcBuf) : State :=
  match old with
  | b :: _ => if old.length < 8 then s else s.sendBufs c fun y => decide (y = b)
  | [] => s

/-- A buffer is taken for a store (R92). -/
def State.wcTake (s : State) (c : CoreId) (ctx : Nat) (h : HomeId) (ia op : Nat) (bs : List Byte) : State :=
  (s.modCore c fun x => { x with wc := x.wc ++ [WcBuf.put ⟨lineOf ia, ctx, h, [], [], 0, false⟩ ia op s.seq bs] }).due [.wcBufferDrain c (lineOf ia)]

/-- A store joins the buffer of its line (R92). -/
def State.wcJoin (s : State) (c : CoreId) (ctx ia op : Nat) (bs : List Byte) : State :=
  s.modCore c fun x => { x with wc := updFirst (fun b => b.gathers ia ctx) (fun b => b.put ia op s.seq bs) x.wc }

theorem State.wcStore_of_none (hc : s.core? c = none) : s.wcStore c ctx h ia op bs = s := by
  simp only [State.wcStore, hc]

theorem State.wcStore_of_some {x : Core} (hc : s.core? c = some x) : s.wcStore c ctx h ia op bs =
    if x.wc.any fun b => b.gathers ia ctx then { s with seq := s.seq + 1 }.wcJoin c ctx ia op bs
    else ({ s with seq := s.seq + 1 }.wcRoom c x.filling).wcTake c ctx h ia op bs := by
  simp only [State.wcStore, hc]
  rfl

theorem State.wcRoom_cases (s : State) (c : CoreId) (old : List WcBuf) : s.wcRoom c old = s ∨ ∃ p, s.wcRoom c old = s.sendBufs c p := by
  unfold State.wcRoom
  split
  · split
    · exact .inl rfl
    · exact .inr ⟨_, rfl⟩
  · exact .inl rfl

theorem State.wcRoom_keepsGathered (s : State) (c : CoreId) (old : List WcBuf) : KeepsGathered s (s.wcRoom c old) := by
  obtain h | ⟨p, h⟩ := State.wcRoom_cases s c old <;> rw [h]
  · exact .refl s
  · exact State.sendBufs_keepsGathered s c p

theorem State.wcRoom_frame (s : State) (c : CoreId) (old : List WcBuf) :
    s.wcRoom c old = { s with cores := (s.wcRoom c old).cores, pending := (s.wcRoom c old).pending } ∧ s.pending ⊆ (s.wcRoom c old).pending := by
  obtain h | ⟨p, h⟩ := State.wcRoom_cases s c old <;> rw [h]
  · exact ⟨rfl, fun _ h => h⟩
  · obtain ⟨l, hl, _⟩ := State.sendBufs_pending s c p
    exact ⟨State.sendBufs_frame s c p, hl ▸ List.subset_append_left _ _⟩

theorem State.wcTake_keepsGathered : KeepsGathered s (s.wcTake c ctx h ia op bs) :=
  (State.modCore_keepsGathered (f := fun x => { x with wc := x.wc ++ [WcBuf.put ⟨lineOf ia, ctx, h, [], [], 0, false⟩ ia op s.seq bs] })
    (fun _ => rfl) fun _ _ _ _ _ _ ⟨f, hf, hg⟩ => ⟨f, List.mem_append_left _ hf, hg⟩).due _

theorem State.wcTake_gathers {x : Core} (hc : s.core? c = some x) :
    ∃ k, (s.wcTake c ctx h ia op bs).core? c = some k ∧ k.Gathers ctx op ia bs := by
  obtain ⟨ho, hp, _⟩ := WcBuf.put_mem ⟨lineOf ia, ctx, h, [], [], 0, false⟩ ia op s.seq bs
  exact ⟨_, State.core?_modCore (f := fun x => { x with wc := x.wc ++ [WcBuf.put ⟨lineOf ia, ctx, h, [], [], 0, false⟩ ia op s.seq bs] }) hc
    fun _ => rfl, _, List.mem_append_right _ List.mem_cons_self, rfl, rfl, ho, hp⟩

theorem State.wcJoin_keepsGathered : KeepsGathered s (s.wcJoin c ctx ia op bs) :=
  State.modCore_keepsGathered (f := fun x => { x with wc := updFirst (fun b => b.gathers ia ctx) (fun b => b.put ia op s.seq bs) x.wc })
    (fun _ => rfl) fun _ _ _ _ _ _ hg => hg.of_put rfl

theorem State.wcJoin_gathers {x : Core} (hc : s.core? c = some x) (hany : (x.wc.any fun b => b.gathers ia ctx) = true) :
    ∃ k, (s.wcJoin c ctx ia op bs).core? c = some k ∧ k.Gathers ctx op ia bs := by
  obtain ⟨b, _, hb, hm⟩ := exists_mem_updFirst hany fun b => b.put ia op s.seq bs
  simp only [WcBuf.gathers, Bool.and_eq_true, beq_iff_eq] at hb
  obtain ⟨⟨_, hl⟩, hx⟩ := hb
  obtain ⟨ho, hp, _⟩ := WcBuf.put_mem b ia op s.seq bs
  exact ⟨_, State.core?_modCore (f := fun x => { x with wc := updFirst (fun b => b.gathers ia ctx) (fun b => b.put ia op s.seq bs) x.wc }) hc
    fun _ => rfl, _, hm, hl, hx, ho, hl ▸ hp⟩

theorem State.wcStore_keepsGathered : KeepsGathered s (s.wcStore c ctx h ia op bs) := by
  cases hc : s.core? c with
  | none => rw [State.wcStore_of_none hc]; exact .refl s
  | some x =>
    rw [State.wcStore_of_some hc]
    split
    · exact KeepsGathered.trans (t := { s with seq := s.seq + 1 }) (.of_cores rfl) State.wcJoin_keepsGathered
    · exact (KeepsGathered.trans (t := { s with seq := s.seq + 1 }) (.of_cores rfl) (State.wcRoom_keepsGathered _ c x.filling)).trans
        State.wcTake_keepsGathered

theorem State.wcStore_frame : s.wcStore c ctx h ia op bs = { s with
      cores := (s.wcStore c ctx h ia op bs).cores, pending := (s.wcStore c ctx h ia op bs).pending, seq := (s.wcStore c ctx h ia op bs).seq }
    ∧ s.pending ⊆ (s.wcStore c ctx h ia op bs).pending := by
  cases hc : s.core? c with
  | none => rw [State.wcStore_of_none hc]; exact ⟨rfl, fun _ h => h⟩
  | some x =>
    rw [State.wcStore_of_some hc]
    split
    · exact ⟨rfl, fun _ h => h⟩
    · obtain ⟨hf, hp⟩ := State.wcRoom_frame { s with seq := s.seq + 1 } c x.filling
      refine ⟨?_, fun e he => List.mem_append_left _ (hp he)⟩
      conv_lhs => rw [hf]
      conv_rhs => rw [hf]
      rfl

theorem State.wcStore_gathers {x : Core} (hc : s.core? c = some x) :
    ∃ k, (s.wcStore c ctx h ia op bs).core? c = some k ∧ k.Gathers ctx op ia bs := by
  rw [State.wcStore_of_some hc]
  split
  · exact State.wcJoin_gathers (s := { s with seq := s.seq + 1 }) hc ‹_›
  · obtain ⟨k, hk, _⟩ := State.wcRoom_keepsGathered { s with seq := s.seq + 1 } c x.filling c x hc
    exact State.wcTake_gathers hk

end

/-! ### What the pieces of a weak store may change -/

/-- The operation is in flight, sets no flag, and has drawn no error response. -/
def State.OpSound (s : State) (id : Nat) : Prop := ∃ o, s.op? id = some o ∧ o.flag = none ∧ o.fault = none

/-- A block, its scratchpad's bytes apart. -/
def Blk.sansBytes (b : Blk) : Blk := { b with scratch := [] }

/-- t is s after pieces of a weak store: bytes in scratchpads and buffers, requests, and how much of an operation is unanswered. -/
structure Storing (s t : State) : Prop where
  frame : t = { s with blks := t.blks, cores := t.cores, pending := t.pending, seq := t.seq, ops := t.ops }
  pads : ∀ b, (t.blk? b).map Blk.sansBytes = (s.blk? b).map Blk.sansBytes
  gathered : KeepsGathered s t
  pending : s.pending ⊆ t.pending
  sound : ∀ id, s.OpSound id → t.OpSound id

theorem Storing.refl (s : State) : Storing s s := ⟨rfl, fun _ => rfl, .refl s, fun _ => id, fun _ => id⟩

theorem Storing.trans {s t u : State} (h : Storing s t) (k : Storing t u) : Storing s u where
  frame := k.frame.trans (congrArg (fun x : State =>
    { x with blks := u.blks, cores := u.cores, pending := u.pending, seq := u.seq, ops := u.ops }) h.frame)
  pads b := (k.pads b).trans (h.pads b)
  gathered := h.gathered.trans k.gathered
  pending := List.Subset.trans h.pending k.pending
  sound id hs := k.sound id (h.sound id hs)

section
variable {s t : State}

theorem Storing.wave (h : Storing s t) : t.wave = s.wave := by rw [h.frame]
theorem Storing.mem (h : Storing s t) : t.mem = s.mem := by rw [h.frame]
theorem Storing.reqErr (h : Storing s t) (r : Req) : t.reqErr r = s.reqErr r := by rw [h.frame]; rfl

theorem Storing.blk? (h : Storing s t) {b : BlkId} {x : Blk} (hb : s.blk? b = some x) : ∃ y, t.blk? b = some y ∧ y.sansBytes = x.sansBytes := by
  have hp := h.pads b
  rw [hb] at hp
  exact Option.map_eq_some_iff.1 hp

theorem Storing.blk?_none (h : Storing s t) {b : BlkId} (hb : s.blk? b = none) : t.blk? b = none := by
  have hp := h.pads b
  rw [hb] at hp
  exact Option.map_eq_none_iff.1 hp

/-- The requests of pieces are those of the state before, but for their place in the order and the generation they name. -/
theorem Storing.pieceReq (h : Storing s t) (m : MemSpec) (id l : Nat) {p : Piece} {a : Nat} {g : Range} (hp : p.spot = .ia a g) :
    t.pieceReq m id l p = { s.pieceReq m id l p with seq := (t.pieceReq m id l p).seq, gl := (t.pieceReq m id l p).gl } := by
  rw [h.frame]
  simp only [State.pieceReq, hp]
  rfl

/-- A request on its way in t is one of s or is due in t alone. -/
theorem Storing.onWay (h : Storing s t) {l : List Instr} (hp : t.pending = s.pending ++ l) {q : Req} (hq : q ∈ t.onWay) :
    q ∈ s.onWay ∨ q ∈ l.filterMap reqOf := by
  have ho : t.onWay = (s.pending ++ l).filterMap reqOf ++ s.deferred.flatMap (fun d => d.evs.filterMap reqOf)
      ++ (s.held.filter fun h => !h.again).filterMap (fun h => reqOf h.ev) ++ s.homeHeld := by
    rw [← hp, h.frame]
    rfl
  rw [ho] at hq
  simp only [State.onWay, List.filterMap_append, List.mem_append] at hq ⊢
  tauto

theorem State.OpSound.modOp {i id : Nat} {f : Op → Op} (hf : ∀ o, (f o).id = o.id ∧ (f o).flag = o.flag ∧ (f o).fault = o.fault)
    (h : s.OpSound id) : (s.modOp i f).OpSound id := by
  obtain ⟨o, ho, h1, h2⟩ := h
  by_cases hi : id = i
  · subst hi
    refine ⟨f o, ?_, (hf o).2.1.trans h1, (hf o).2.2.trans h2⟩
    rw [State.op?_modOp _ _ _ fun x hx => (hf x).1.trans hx, ho, Option.map_some]
  · refine ⟨o, (find?_updFirst_of_ne (fun x _ => by simp [hf]) (fun x hx => ?_) _).trans ho, h1, h2⟩
    simp only [beq_iff_eq] at hx
    simp [hx, Ne.symm hi]

theorem Storing.modOp (i : Nat) {f : Op → Op} (hf : ∀ o, (f o).id = o.id ∧ (f o).flag = o.flag ∧ (f o).fault = o.fault) :
    Storing s (s.modOp i f) :=
  ⟨rfl, fun _ => rfl, .of_cores rfl, fun _ => id, fun _ h => h.modOp hf⟩

theorem Storing.fill (i l pos : Nat) (bs : List Byte) : Storing s (s.fill i l pos bs) := .modOp i fun _ => ⟨rfl, rfl, rfl⟩

theorem Storing.send (r : Req) (e : Req → Instr) : Storing s (s.send r e) :=
  ⟨rfl, fun _ => rfl, .of_cores rfl, List.subset_append_left _ _, fun _ => id⟩

theorem Storing.cores (hf : t = { s with cores := t.cores, pending := t.pending, seq := t.seq }) (hg : KeepsGathered s t) (hp : s.pending ⊆ t.pending) :
    Storing s t := by
  refine ⟨by rw [hf], fun b => ?_, hg, hp, fun id h => ?_⟩
  · rw [hf]
    rfl
  · rw [hf]
    exact h

theorem Storing.sendBufs (c : CoreId) (p : WcBuf → Bool) : Storing s (s.sendBufs c p) := by
  refine .cores ?_ (State.sendBufs_keepsGathered s c p) ?_
  · conv_lhs => rw [State.sendBufs_frame]
    congr 1
    rw [State.sendBufs_frame]
  · obtain ⟨l, hl, _⟩ := State.sendBufs_pending s c p
    exact hl ▸ List.subset_append_left _ _

theorem Storing.wcStore (c : CoreId) (ctx : Nat) (h : HomeId) (ia op : Nat) (bs : List Byte) : Storing s (s.wcStore c ctx h ia op bs) :=
  .cores State.wcStore_frame.1 State.wcStore_keepsGathered State.wcStore_frame.2

theorem Storing.updLines (c : CoreId) (ia : Nat) (bs : List Byte) : Storing s (s.modCore c fun c => { c with l1 := updLines c.l1 ia bs }) :=
  .cores rfl (State.modCore_keepsGathered (f := fun c => { c with l1 := Machine.updLines c.l1 ia bs }) (fun _ => rfl)
    fun _ _ _ _ _ _ h => h) fun _ => id

theorem State.blk?_modBlk_of_ne {i b : BlkId} (h : b ≠ i) {f : Blk → Blk} (hf : ∀ x, (f x).id = x.id) : (s.modBlk i f).blk? b = s.blk? b :=
  find?_updFirst_of_ne (fun x _ => by simp [hf]) (fun x hx => by simp_all [Ne.symm h]) _

theorem Storing.scratch (i : BlkId) (mem : Tab Byte) : Storing s (s.modBlk i fun x => { x with scratch := mem }) := by
  refine ⟨rfl, fun b => ?_, .of_cores rfl, fun _ => id, fun _ => id⟩
  by_cases hb : b = i
  · subst hb
    rw [State.blk?_modBlk _ _ (fun x => { x with scratch := mem }) fun _ h => h, Option.map_map]
    rfl
  · rw [State.blk?_modBlk_of_ne (f := fun x => { x with scratch := mem }) hb fun _ => rfl]

end

/-! ### Requests that let a store to a scratchpad pass -/

/-- No request of the operation on its way draws an error response, and no buffer holds bytes of it. -/
def State.Unrefused (s : State) (id : Nat) : Prop :=
  (∀ q ∈ s.onWay, q.op = id → q.home.stack < 16 → s.reqErr q = none) ∧ ∀ k ∈ s.cores, ∀ f ∈ k.wc, id ∉ f.ops

/-- What the focus wave has on its way, and what its core's buffers hold, goes to homes. -/
def State.Passable (s : State) : Prop :=
  (∀ q ∈ s.onWay, q.wave = s.wave.id → q.home.stack < 16) ∧ ∀ k, s.core? s.wave.core = some k → ∀ b ∈ k.wc, b.home.stack < 16

section
variable {s t : State}

theorem State.siblingErr_of_unrefused {r : Req} (h : s.Unrefused r.op) (hr : 16 ≤ r.home.stack) : s.siblingErr r = none := by
  obtain ⟨hq, hb⟩ := h
  have he : s.opErr r.op [r] none = none := by
    have h1 : (([r] ++ s.onWay).filter fun q => q.op == r.op && decide (q.home.stack < 16)).filterMap
        (fun q => (s.reqErr q).map fun e => (q.lane, q.ia, e)) = [] := by
      rw [List.filterMap_eq_nil_iff]
      intro q hm
      simp only [List.mem_filter, List.cons_append, List.nil_append, List.mem_cons, Bool.and_eq_true, beq_iff_eq, decide_eq_true_eq] at hm
      obtain ⟨rfl | hm, ho, hs⟩ := hm
      · omega
      · rw [hq q hm ho hs, Option.map_none]
    have h2 : (s.cores.findSome? fun c => c.wc.findSome? fun b =>
        if b.ops.contains r.op && some b.ia != none then (s.bufErr b).map fun e => (0, b.ia, e) else none) = none := by
      rw [List.findSome?_eq_none_iff]
      refine fun k hk => List.findSome?_eq_none_iff.2 fun f hf => if_neg ?_
      simp [hb k hk f hf]
    simp only [State.opErr, h1, h2, List.foldl_nil, Option.or_none]
  rw [State.siblingErr, he, Option.map_none, ite_self]

theorem State.overlapWait_of_passable {r : Req} (h : s.Passable) (hr : 16 ≤ r.home.stack) (hw : r.wave = s.wave.id) (hc : r.src = s.wave.core) :
    s.overlapWait r = false := by
  obtain ⟨hq, hb⟩ := h
  rw [State.overlapWait, Bool.or_eq_false_iff]
  constructor
  · unfold State.bufWait
    rw [hc]
    split
    · rfl
    · next k hk =>
      rw [List.any_eq_false]
      intro b hm
      have hn : b.home ≠ r.home := fun he => by
        have := hb k hk b hm
        rw [he] at this
        omega
      simp [hn]
  · rw [List.any_eq_false]
    intro q hm
    by_cases hqw : q.wave = r.wave
    · have hn : q.home ≠ r.home := fun he => by
        have := hq q hm (hqw.trans hw)
        rw [he] at this
        omega
      simp [Req.overlaps, hn]
    · simp [hqw]

theorem le_foldl_max (l : List Nat) (n : Nat) : n ≤ l.foldl max n ∧ ∀ x ∈ l, x ≤ l.foldl max n := by
  induction l generalizing n with
  | nil => simp
  | cons a r ih =>
    obtain ⟨h1, h2⟩ := ih (max n a)
    simp only [List.foldl_cons, List.mem_cons, forall_eq_or_imp]
    exact ⟨by omega, by omega, h2⟩

/-- Nothing on its way names the fresh number. -/
theorem State.unrefused_freshId (s : State) : s.Unrefused s.freshId := by
  have hle := (le_foldl_max (s.ops.map (·.id) ++ s.onWay.map (·.op) ++ s.cores.flatMap fun c => c.wc.flatMap fun b => b.ops) s.seq).2
  have hlt : ∀ x ∈ s.ops.map (·.id) ++ s.onWay.map (·.op) ++ s.cores.flatMap (fun c => c.wc.flatMap fun b => b.ops), x < s.freshId :=
    fun x hx => Nat.lt_succ_of_le (hle x hx)
  refine ⟨fun q hq ho => absurd ho (Nat.ne_of_lt (hlt _ ?_)), fun k hk f hf ho => absurd rfl (Nat.ne_of_lt (hlt _ ?_))⟩
  · exact List.mem_append_left _ (List.mem_append_right _ (List.mem_map_of_mem hq))
  · exact List.mem_append_right _ (List.mem_flatMap.2 ⟨k, hk, List.mem_flatMap.2 ⟨f, hf, ho⟩⟩)

theorem asks_back (h : t.cores.map Core.asks = s.cores.map Core.asks) :
    (∀ k ∈ t.cores, ∀ f ∈ k.wc, ∃ k' ∈ s.cores, ∃ f' ∈ k'.wc, f'.asks = f.asks)
      ∧ ∀ c k, t.core? c = some k → ∃ k', s.core? c = some k' ∧ ∀ f ∈ k.wc, ∃ f' ∈ k'.wc, f'.asks = f.asks := by
  have hk : ∀ {k k' : Core}, k'.asks = k.asks → ∀ f ∈ k.wc, ∃ f' ∈ k'.wc, f'.asks = f.asks := by
    intro k k' he f hf
    have hw : k'.wc.map WcBuf.asks = k.wc.map WcBuf.asks := congrArg Prod.snd he
    exact List.mem_map.1 (hw ▸ List.mem_map_of_mem hf)
  constructor
  · intro k hm
    obtain ⟨k', hm', he⟩ := List.mem_map.1 (h ▸ List.mem_map_of_mem hm : k.asks ∈ s.cores.map Core.asks)
    exact fun f hf => ⟨k', hm', hk he f hf⟩
  · intro c k hc
    have hf : (t.core? c).map Core.asks = (s.core? c).map Core.asks := find?_map_congr h (q := fun x => decide (x.1 = c)) fun _ => rfl
    rw [hc] at hf
    obtain ⟨k', hk', he⟩ := Option.map_eq_some_iff.1 hf.symm
    exact ⟨k', hk', hk he⟩

/-- A request that draws no error response leaves the operation unrefused. -/
theorem Storing.unrefused (h : Storing s t) {l : List Instr} (hp : t.pending = s.pending ++ l)
    (ha : t.cores.map Core.asks = s.cores.map Core.asks) {id : Nat}
    (hl : ∀ q ∈ l.filterMap reqOf, q.home.stack < 16 → s.reqErr q = none) (hu : s.Unrefused id) : t.Unrefused id := by
  obtain ⟨hq, hb⟩ := hu
  refine ⟨fun q hm ho hs => ?_, fun k hk f hf ho => ?_⟩
  · rw [h.reqErr]
    rcases h.onWay hp hm with hm | hm
    · exact hq q hm ho hs
    · exact hl q hm hs
  · obtain ⟨k', hk', f', hf', he⟩ := (asks_back ha).1 k hk f hf
    have hops : f'.ops = f.ops := congrArg Prod.snd he
    exact hb k' hk' f' hf' (hops ▸ ho)

/-- Requests to homes leave the way to scratchpads free. -/
theorem Storing.passable (h : Storing s t) {l : List Instr} (hp : t.pending = s.pending ++ l)
    (ha : t.cores.map Core.asks = s.cores.map Core.asks) (hl : ∀ q ∈ l.filterMap reqOf, q.home.stack < 16) (hs : s.Passable) : t.Passable := by
  obtain ⟨hq, hb⟩ := hs
  rw [State.Passable, h.wave]
  refine ⟨fun q hm hw => ?_, fun k hk f hf => ?_⟩
  · rcases h.onWay hp hm with hm | hm
    · exact hq q hm hw
    · exact hl q hm
  · obtain ⟨k', hk', hback⟩ := (asks_back ha).2 _ k hk
    obtain ⟨f', hf', he⟩ := hback f hf
    have hhome : f'.home = f.home := congrArg Prod.fst he
    exact hhome ▸ hb k' hk' f' hf'

end

/-! ### Pieces to global memory -/

section
variable {s : State} {m : MemSpec} {id l a : Nat} {p : Piece} {g : Range}

theorem State.pieceReq_ia (hp : p.spot = .ia a g) :
    let r := s.pieceReq m id l p
    r.op = id ∧ r.wave = s.wave.id ∧ r.lane = l ∧ r.ia = a ∧ r.size = p.size ∧ r.pos = p.pos
      ∧ r.data = ((m.d1 l).drop p.pos).take p.size ∧ r.strong = m.strong ∧ r.src = s.wave.core ∧ r.ctx = s.wave.id.blk.ctx
      ∧ r.pol = effPolicy m.w.cp g.mt := by
  simp only [State.pieceReq, hp, and_self]

/-- The request of a piece sets out for its home. -/
def State.requestPiece (s : State) (m : MemSpec) (id l : Nat) (p : Piece) : State :=
  (s.wcMeet (s.pieceReq m id l p).src (s.pieceReq m id l p).lines).send (s.pieceReq m id l p) .l2Request

theorem State.storePiece_request (hp : p.spot = .ia a g) (hw : effPolicy m.w.cp g.mt ≠ .wc) :
    s.storePiece m id l p = .ok (s.requestPiece m id l p) := by
  obtain ⟨_, _, _, _, _, _, _, _, _, _, hpol⟩ := State.pieceReq_ia (s := s) (m := m) (id := id) (l := l) hp
  simp only [State.storePiece, hp, hpol, hw, if_false, State.requestPiece]

theorem Storing.requestPiece : Storing s (s.requestPiece m id l p) := (Storing.sendBufs ..).trans (.send ..)

theorem State.requestPiece_pending :
    ∃ is, (s.requestPiece m id l p).pending = s.pending ++ is ∧ is.filterMap reqOf = [s.pieceReq m id l p]
      ∧ .l2Request (s.pieceReq m id l p) ∈ is := by
  obtain ⟨is, h1, h2⟩ := State.sendBufs_pending s (s.pieceReq m id l p).src fun b => (s.pieceReq m id l p).lines.any fun a => b.ia == lineOf a
  refine ⟨is ++ [.l2Request (s.pieceReq m id l p)], ?_, ?_, List.mem_append_right _ List.mem_cons_self⟩
  · rw [← List.append_assoc, ← h1]
    rfl
  · rw [List.filterMap_append, h2]
    rfl

theorem State.requestPiece_blks : (s.requestPiece m id l p).blks = s.blks := by
  rw [State.requestPiece, State.wcMeet, State.sendBufs_frame]
  rfl

theorem State.requestPiece_asks : (s.requestPiece m id l p).cores.map Core.asks = s.cores.map Core.asks := State.sendBufs_asks ..

/-- A piece is gathered in a buffer of its line (R92). -/
theorem State.storePiece_gathered (hp : p.spot = .ia a g) (hw : effPolicy m.w.cp g.mt = .wc) :
    ∃ t, s.storePiece m id l p = .ok t ∧ Storing s t ∧ t.blks = s.blks ∧ ((s.core? s.wave.core).isSome →
      ∃ k, t.core? s.wave.core = some k ∧ k.Gathers s.wave.id.blk.ctx id a (((m.d1 l).drop p.pos).take p.size)) := by
  obtain ⟨_, _, _, ha, _, _, hd, _, hc, hx, hpol⟩ := State.pieceReq_ia (s := s) (m := m) (id := id) (l := l) hp
  simp only [State.storePiece, hp, hpol, hw, if_true, Except.ok.injEq, exists_eq_left']
  generalize s.pieceReq m id l p = r at *
  let u := s.modCore r.src fun c => { c with l1 := updLines c.l1 r.ia r.data }
  have hmerged : ∀ b : Bool, Storing s (if b then u.modOp id fun o => { o with left := o.left - 1 } else u)
      ∧ (if b then u.modOp id fun o => { o with left := o.left - 1 } else u).blks = s.blks := fun b => by
    have hu : Storing s u := .updLines ..
    cases b
    · exact ⟨hu, rfl⟩
    · exact ⟨hu.trans (.modOp id (f := fun o => { o with left := o.left - 1 }) fun _ => ⟨rfl, rfl, rfl⟩), rfl⟩
  obtain ⟨hv, hb⟩ := hmerged (match s.core? r.src with | some c => c.wc.any fun b => b.gathers r.ia r.ctx && b.ops.contains id | none => false)
  refine ⟨hv.trans (.wcStore ..), (congrArg State.blks State.wcStore_frame.1).trans hb, fun hk => ?_⟩
  obtain ⟨k, hk⟩ := Option.isSome_iff_exists.1 hk
  rw [← hc] at hk ⊢
  obtain ⟨k', hk', _⟩ := hv.gathered _ k hk
  rw [← ha, ← hd, ← hx]
  exact State.wcStore_gathers hk'

end

/-! ### A piece to a scratchpad -/

/-- The piece writes byte k of block b's scratchpad. -/
def padHit (b : BlkId) (k : Nat) (p : Nat × Piece) : Bool :=
  match p.2.spot with | .scr b' o => decide (b' = b ∧ o ≤ k ∧ k < o + p.2.size) | .ia _ _ => false

/-- The byte that a piece writes at byte k of its scratchpad. -/
def MemSpec.padByte (m : MemSpec) (k : Nat) (p : Nat × Piece) : Byte :=
  match p.2.spot with | .scr _ o => (m.d1 p.1).getD (p.2.pos + (k - o)) 0 | .ia _ _ => 0

/-- Byte k of block b's scratchpad after pieces of an access, the last one's where they meet, where it was d (R50). -/
def MemSpec.padLast (m : MemSpec) (ps : List (Nat × Piece)) (b : BlkId) (k : Nat) (d : Byte) : Byte :=
  match ps.reverse.find? (padHit b k) with | some p => m.padByte k p | none => d

theorem MemSpec.padLast_cons (m : MemSpec) (p : Nat × Piece) (ps : List (Nat × Piece)) (b : BlkId) (k : Nat) (d : Byte) :
    m.padLast (p :: ps) b k d = m.padLast ps b k (if padHit b k p then m.padByte k p else d) := by
  simp only [MemSpec.padLast, List.reverse_cons, List.find?_append, List.find?_singleton]
  cases ps.reverse.find? (padHit b k) with
  | some q => rfl
  | none => by_cases h : padHit b k p = true <;> simp [h]

section
variable {s : State}

theorem State.scrByte_modBlk {i : BlkId} {x : Blk} (hx : s.blk? i = some x) (mem : Tab Byte) (b : BlkId) (k : Nat) :
    (s.modBlk i fun y => { y with scratch := mem }).scrByte b k = if i = b then mem.get 0 k else s.scrByte b k := by
  by_cases hb : i = b
  · subst hb
    simp only [State.scrByte, State.blk?_modBlk _ _ (fun y => { y with scratch := mem }) fun _ h => h, hx, Option.map_some, if_true]
  · rw [if_neg hb, State.scrByte, State.blk?_modBlk_of_ne (f := fun y => { y with scratch := mem }) (Ne.symm hb) fun _ => rfl, State.scrByte]

/-- The bytes fall off the notify word of a command ring (R311). -/
def State.OffWord (s : State) (b : BlkId) (o n : Nat) : Prop := ∀ x, s.blk? b = some x → x.logn = 0 ∨ o + n ≤ x.noff ∨ x.noff + 8 ≤ o

theorem State.scrStore_offWord {b : BlkId} {o : Nat} {bs : List Byte} (ho : s.OffWord b o bs.length) (w : WaveId) (ord : Nat) :
    ∃ t, s.scrStore b o bs w ord = .ok t ∧ Storing s t ∧ t.onWay = s.onWay ∧ t.cores = s.cores
      ∧ ∀ b' k, s.blk? b' ≠ none → t.scrByte b' k = if b = b' ∧ o ≤ k ∧ k < o + bs.length then bs.getD (k - o) 0 else s.scrByte b' k := by
  cases hx : s.blk? b with
  | none =>
    refine ⟨s, by simp only [State.scrStore, hx], .refl s, rfl, rfl, fun b' k hb' => (if_neg fun h => ?_).symm⟩
    obtain ⟨rfl, _⟩ := h
    exact hb' hx
  | some x =>
    refine ⟨s.modBlk b fun y => { y with scratch := writeBytes x.scratch o bs }, ?_, .scratch .., rfl, rfl, fun b' k _ => ?_⟩
    · simp only [State.scrStore, hx, ho x hx, if_true]
    · rw [State.scrByte_modBlk hx, get_writeBytes]
      by_cases hb : b = b'
      · subst hb
        simp only [true_and, if_true, State.scrByte, hx]
      · simp only [hb, false_and, if_false]

end

section
variable {s : State} {m : MemSpec} {id l : Nat} {p : Piece} {b : BlkId} {o : Nat}

theorem State.pieceReq_scr (hp : p.spot = .scr b o) :
    let r := s.pieceReq m id l p
    r.op = id ∧ r.wave = s.wave.id ∧ r.src = s.wave.core ∧ 16 ≤ r.home.stack ∧ r.data = ((m.d1 l).drop p.pos).take p.size := by
  simp only [State.pieceReq, hp, scrHome, true_and, and_true]
  omega

/-- A piece to a scratchpad, off its notify word: it waits its turn, or its bytes are there. -/
theorem State.storePiece_pad (hp : p.spot = .scr b o) (ho : s.OffWord b o p.size) (hu : s.Unrefused id) (hd : p.pos + p.size ≤ (m.d1 l).length) :
    ∃ t, s.storePiece m id l p = .ok t ∧ Storing s t ∧ t.Unrefused id
      ∧ (s.Passable → t.Passable ∧ ∀ b' k, s.blk? b' ≠ none → t.scrByte b' k = if padHit b' k (l, p) then m.padByte k (l, p) else s.scrByte b' k) := by
  obtain ⟨hop, hw, hc, hs, hdata⟩ := State.pieceReq_scr (s := s) (m := m) (id := id) (l := l) hp
  have hlen : (s.pieceReq m id l p).data.length = p.size := by
    rw [hdata, List.length_take, List.length_drop]
    omega
  have hsib := State.siblingErr_of_unrefused (r := s.pieceReq m id l p) (hop.symm ▸ hu) hs
  by_cases hwait : s.overlapWait (s.pieceReq m id l p) = true
  · refine ⟨s.send (s.pieceReq m id l p) .homeAccess, ?_, .send .., ?_, fun hpass => ?_⟩
    · simp only [State.storePiece, hp, hwait, if_true]
    · refine (Storing.send ..).unrefused (l := [.homeAccess (s.pieceReq m id l p)]) rfl rfl (fun q hq hlt => ?_) hu
      rw [show q = s.pieceReq m id l p by simpa [reqOf] using hq] at hlt
      omega
    · rw [State.overlapWait_of_passable hpass hs hw hc] at hwait
      cases hwait
  · obtain ⟨t, ht, hst, hway, hcores, hbytes⟩ := State.scrStore_offWord (hlen.symm ▸ ho) s.wave.id s.wave.ordinal
    have hall := hst.trans (.fill id l p.pos [])
    refine ⟨t.fill id l p.pos [], ?_, hall, ?_, fun hpass => ⟨?_, fun b' k hb' => ?_⟩⟩
    · simp only [State.storePiece, hp, hwait, Bool.false_eq_true, if_false, hsib, ht]
      rfl
    · refine ⟨fun q hq => ?_, ?_⟩
      · rw [hall.reqErr]
        exact hu.1 q (hway ▸ hq)
      · exact hcores.symm ▸ hu.2
    · obtain ⟨h1, h2⟩ := hpass
      rw [State.Passable, hall.wave]
      refine ⟨fun q hq => h1 q (hway ▸ hq), fun k hk => h2 k ?_⟩
      rw [State.core?, ← hcores]
      exact hk
    · have hb : (t.fill id l p.pos []).scrByte b' k = t.scrByte b' k := rfl
      rw [hb, hbytes b' k hb', hlen]
      simp only [padHit, MemSpec.padByte, hp, decide_eq_true_eq, hdata]
      refine ite_congr rfl (fun hk => ?_) fun _ => rfl
      rw [List.getD_eq_getElem?_getD, List.getElem?_take_of_lt (by omega), List.getElem?_drop, List.getD_eq_getElem?_getD]

end

/-! ### The pieces of an access, one after the other -/

/-- The pieces of a weak store, the first first. -/
def State.storePieces (s : State) (m : MemSpec) (id : Nat) (ps : List (Nat × Piece)) : Except W64 State :=
  ps.foldl (fun (acc : Except W64 State) p => acc.bind fun s => s.storePiece m id p.1 p.2) (.ok s)

section
variable {s t : State} {m : MemSpec} {id : Nat}

theorem State.storePieces_cons {p : Nat × Piece} (h : s.storePiece m id p.1 p.2 = .ok t) (ps : List (Nat × Piece)) :
    s.storePieces m id (p :: ps) = t.storePieces m id ps := by
  rw [State.storePieces, List.foldl_cons]
  exact congrArg (fun x => List.foldl _ x ps) h

theorem State.storePieces_append {ps : List (Nat × Piece)} (h : s.storePieces m id ps = .ok t) (qs : List (Nat × Piece)) :
    s.storePieces m id (ps ++ qs) = t.storePieces m id qs := by
  rw [State.storePieces, List.foldl_append]
  exact congrArg (fun x => List.foldl _ x qs) h

theorem State.OffWord.storing {b : BlkId} {o n : Nat} (h : s.OffWord b o n) (hs : Storing s t) : t.OffWord b o n := by
  intro y hy
  cases hx : s.blk? b with
  | none => rw [hs.blk?_none hx] at hy; cases hy
  | some x =>
    obtain ⟨y', hy', he⟩ := hs.blk? hx
    obtain rfl : y' = y := Option.some_inj.1 (hy'.symm.trans hy)
    have hc : y'.cmdq = x.cmdq := (congrArg Blk.cmdq he :)
    have := h x hx
    simpa only [Blk.logn, Blk.noff, hc] using this

/-- The pieces of an access that lie in scratchpads, off their notify words, with their bytes. -/
def State.PadPieces (s : State) (m : MemSpec) (ps : List (Nat × Piece)) : Prop :=
  ∀ p ∈ ps, p.2.pos + p.2.size ≤ (m.d1 p.1).length ∧ ∃ b o, p.2.spot = .scr b o ∧ s.OffWord b o p.2.size

theorem State.storePieces_pads (ps : List (Nat × Piece)) (hp : s.PadPieces m ps) (hu : s.Unrefused id) :
    ∃ t, s.storePieces m id ps = .ok t ∧ Storing s t
      ∧ (s.Passable → ∀ b k, s.blk? b ≠ none → t.scrByte b k = m.padLast ps b k (s.scrByte b k)) := by
  induction ps generalizing s with
  | nil => exact ⟨s, rfl, .refl s, fun _ _ _ _ => rfl⟩
  | cons p ps ih =>
    obtain ⟨⟨hd, b, o, hs, ho⟩, hr⟩ := List.forall_mem_cons.1 hp
    obtain ⟨u, hok, hsu, huu, hpass⟩ := State.storePiece_pad hs ho hu hd
    obtain ⟨t, hok', hst, hlast⟩ := ih (s := u) (fun q hq => by
      obtain ⟨hd, b, o, hs, ho⟩ := hr q hq
      exact ⟨hd, b, o, hs, ho.storing hsu⟩) huu
    refine ⟨t, (State.storePieces_cons hok ps).trans hok', hsu.trans hst, fun h b' k hb' => ?_⟩
    obtain ⟨hup, hbyte⟩ := hpass h
    have hb'' : u.blk? b' ≠ none := by
      obtain ⟨x, hx⟩ := Option.ne_none_iff_exists'.1 hb'
      obtain ⟨y, hy, _⟩ := hsu.blk? hx
      rw [hy]
      nofun
    rw [hlast hup b' k hb'', hbyte b' k hb', MemSpec.padLast_cons]

/-- Where a piece of an access to global memory goes: to its home, or into a buffer of its line. -/
structure Placed (s t : State) (m : MemSpec) (id l : Nat) (p : Piece) (a : Nat) (g : Range) : Prop where
  asked : effPolicy m.w.cp g.mt ≠ .wc →
    ∃ n x, .l2Request { s.pieceReq m id l p with seq := n, gl := x } ∈ t.pending
  gathered : effPolicy m.w.cp g.mt = .wc → (s.core? s.wave.core).isSome →
    ∃ k, t.core? s.wave.core = some k ∧ k.Gathers s.wave.id.blk.ctx id a (((m.d1 l).drop p.pos).take p.size)

theorem Placed.later {u : State} {l a : Nat} {p : Piece} {g : Range} (h : Placed s t m id l p a g) (hp : t.pending ⊆ u.pending)
    (hk : KeepsGathered t u) : Placed s u m id l p a g := by
  refine ⟨fun hw => ?_, fun hw hc => ?_⟩
  · obtain ⟨n, x, hr⟩ := h.asked hw
    exact ⟨n, x, hp hr⟩
  · obtain ⟨k, hc, hg⟩ := h.gathered hw hc
    obtain ⟨k', hk', hkeep⟩ := hk _ k hc
    exact ⟨k', hk', hkeep _ _ _ _ hg⟩

theorem Placed.earlier {u : State} {l a : Nat} {p : Piece} {g : Range} (hp : p.spot = .ia a g) (hs : Storing s t) (h : Placed t u m id l p a g) :
    Placed s u m id l p a g := by
  refine ⟨fun hw => ?_, fun hw hc => ?_⟩
  · obtain ⟨n, x, hr⟩ := h.asked hw
    rw [hs.pieceReq m id l hp] at hr
    exact ⟨n, x, hr⟩
  · obtain ⟨k, hk⟩ := Option.isSome_iff_exists.1 hc
    obtain ⟨k', hk', _⟩ := hs.gathered _ k hk
    rw [← hs.wave] at hk' ⊢
    exact h.gathered hw (by rw [hk', Option.isSome_some])

theorem Placed.of_step {l a : Nat} {p : Piece} {g : Range} (hp : p.spot = .ia a g) :
    ∃ t, s.storePiece m id l p = .ok t ∧ Storing s t ∧ t.blks = s.blks ∧ Placed s t m id l p a g := by
  by_cases hw : effPolicy m.w.cp g.mt = .wc
  · obtain ⟨t, ht, hst, hb, hg⟩ := State.storePiece_gathered (s := s) (m := m) (id := id) (l := l) hp hw
    exact ⟨t, ht, hst, hb, fun h => absurd hw h, fun _ => hg⟩
  · obtain ⟨is, h1, _, h3⟩ := State.requestPiece_pending (s := s) (m := m) (id := id) (l := l) (p := p)
    exact ⟨_, State.storePiece_request hp hw, .requestPiece, State.requestPiece_blks, fun _ => ⟨_, _, h1 ▸ List.mem_append_right _ h3⟩, fun h => absurd h hw⟩

/-- The pieces of an access to global memory all set out. -/
theorem State.storePieces_homes (ps : List (Nat × Piece)) (hp : AllAtHomes ps) :
    ∃ t, s.storePieces m id ps = .ok t ∧ Storing s t ∧ t.blks = s.blks ∧ ∀ p ∈ ps, ∀ a g, p.2.spot = .ia a g → Placed s t m id p.1 p.2 a g := by
  induction ps generalizing s with
  | nil => exact ⟨s, rfl, .refl s, rfl, nofun⟩
  | cons p ps ih =>
    obtain ⟨⟨a, g, hs⟩, hr⟩ := List.forall_mem_cons.1 hp
    obtain ⟨u, hok, hsu, hbu, hpl⟩ := Placed.of_step (s := s) (m := m) (id := id) (l := p.1) hs
    obtain ⟨t, hok', hst, hbt, hall⟩ := ih (s := u) hr
    refine ⟨t, (State.storePieces_cons hok ps).trans hok', hsu.trans hst, hbt.trans hbu, ?_⟩
    rintro q hq a' g' hs'
    rcases List.mem_cons.1 hq with rfl | hq
    · obtain ⟨rfl, rfl⟩ := Spot.ia.inj (hs.symm.trans hs')
      exact hpl.later hst.pending hst.gathered
    · exact (hall q hq a' g' hs').earlier hs' hsu

/-- Pieces that no buffer gathers and no home refuses. -/
def State.Welcome (s : State) (m : MemSpec) (id : Nat) (ps : List (Nat × Piece)) : Prop :=
  ∀ p ∈ ps, ∀ a g, p.2.spot = .ia a g →
    effPolicy m.w.cp g.mt ≠ .wc ∧ s.reqErr (s.pieceReq m id p.1 p.2) = none ∧ (s.pieceReq m id p.1 p.2).home.stack < 16

theorem State.storePieces_welcome (ps : List (Nat × Piece)) (hp : AllAtHomes ps) (hw : s.Welcome m id ps) (hu : s.Unrefused id)
    (h : s.storePieces m id ps = .ok t) : t.Unrefused id ∧ (s.Passable → t.Passable) := by
  induction ps generalizing s with
  | nil =>
    obtain rfl : s = t := Except.ok.inj h
    exact ⟨hu, fun h => h⟩
  | cons p ps ih =>
    obtain ⟨⟨a, g, hs⟩, hr⟩ := List.forall_mem_cons.1 hp
    obtain ⟨hwp, hwr⟩ := List.forall_mem_cons.1 hw
    obtain ⟨hpol, herr, hstk⟩ := hwp a g hs
    rw [State.storePieces_cons (State.storePiece_request hs hpol)] at h
    have hst : Storing s (s.requestPiece m id p.1 p.2) := .requestPiece
    obtain ⟨is, h1, h2, _⟩ := State.requestPiece_pending (s := s) (m := m) (id := id) (l := p.1) (p := p.2)
    have hone : ∀ q ∈ is.filterMap reqOf, q = s.pieceReq m id p.1 p.2 := fun q hq => by
      rw [h2] at hq
      exact List.mem_singleton.1 hq
    obtain ⟨hu', hp'⟩ := ih hr (fun q hq a' g' hs' => by
        obtain ⟨hpol, herr, hstk⟩ := hwr q hq a' g' hs'
        rw [hst.reqErr, hst.pieceReq m id q.1 hs']
        exact ⟨hpol, herr, hstk⟩)
      (hst.unrefused h1 State.requestPiece_asks (fun q hq _ => hone q hq ▸ herr) hu) h
    exact ⟨hu', fun hpass => hp' (hst.passable h1 State.requestPiece_asks (fun q hq => hone q hq ▸ hstk) hpass)⟩

end

/-! ### The pieces of a lane that passes its checks -/

theorem natSize_le {n : Nat} (h : 0 < n) (a : Nat) : natSize a n ≤ n := by
  unfold natSize
  (repeat' split) <;> omega

theorem natPieces_within (f a pos n : Nat) : ∀ q ∈ natPieces f a pos n, q.1 + q.2 ≤ pos + n := by
  induction f generalizing a pos n with
  | zero => exact fun q hq => (List.not_mem_nil hq).elim
  | succ f ih =>
    intro q hq
    rw [natPieces] at hq
    split at hq
    · cases hq
    · next hn =>
      have hk := natSize_le (Nat.pos_of_ne_zero hn) a
      rcases List.mem_cons.1 hq with rfl | hq
      · exact Nat.add_le_add_left hk pos
      · have := ih _ _ _ q hq
        omega

theorem natPieces_ne_nil {n : Nat} (h : n ≠ 0) (f a pos : Nat) : natPieces (f + 1) a pos n ≠ [] := by
  rw [natPieces, if_neg h]
  nofun

/-- Pieces of an element of n bytes: there are some, and those in scratchpads lie within it. -/
def PiecesOf (n : Nat) (ps : List Piece) : Prop := ps ≠ [] ∧ ∀ p ∈ ps, ∀ b o, p.spot = .scr b o → p.pos + p.size ≤ n

theorem PiecesOf.scr {n : Nat} (h : n ≠ 0) (f a : Nat) (b : BlkId) (il : Bool) :
    PiecesOf n ((natPieces (f + 1) a 0 n).map fun q => ⟨q.1, q.2, .scr b (a + q.1), il⟩) := by
  refine ⟨fun hm => natPieces_ne_nil h f a 0 (List.map_eq_nil_iff.1 hm), fun p hp _ _ _ => ?_⟩
  obtain ⟨q, hq, rfl⟩ := List.mem_map.1 hp
  exact (natPieces_within _ _ _ _ q hq).trans_eq (Nat.zero_add n)

theorem PiecesOf.ia {n : Nat} {ps : List Piece} (hn : ps ≠ []) (h : ∀ p ∈ ps, ∃ a g, p.spot = .ia a g) : PiecesOf n ps := by
  refine ⟨hn, fun p hp b o hs => ?_⟩
  obtain ⟨a, g, hi⟩ := h p hp
  rw [hi] at hs
  cases hs

theorem stkGroup_ok {rs : List Range} {ivs : List Interval} {k : Kind} {a l : Nat} {g : Nat × Nat} {was gs : List (Nat × Nat × Xl)}
    (h : stkGroup rs ivs k a l g was = .ok gs) : ∃ x, gs = was ++ [(g.1, g.2, x)] := by
  unfold stkGroup at h
  extract_lets va at h
  split at h
  · cases h
  · cases h
  · split at h
    · exact ⟨_, (Except.ok.inj h).symm⟩
    · cases h

/-- The check of the groups of a stack access, one after the other (R39). -/
def stkFold (rs : List Range) (ivs : List Interval) (k : Kind) (a l : Nat) (gs : List (Nat × Nat)) (x : Except LaneErr (List (Nat × Nat × Xl))) :
    Except LaneErr (List (Nat × Nat × Xl)) :=
  gs.foldl (fun (acc : Except LaneErr (List (Nat × Nat × Xl))) g => match acc with
    | .error e => .error e
    | .ok was => stkGroup rs ivs k a l g was) x

theorem stkFold_error {rs : List Range} {ivs : List Interval} {k : Kind} {a l : Nat} (gs : List (Nat × Nat)) (e : LaneErr) :
    stkFold rs ivs k a l gs (.error e) = .error e := by
  induction gs with
  | nil => rfl
  | cons g gs ih => exact ih

theorem stkFold_ok {rs : List Range} {ivs : List Interval} {k : Kind} {a l : Nat} (gs : List (Nat × Nat)) (was r : List (Nat × Nat × Xl))
    (h : stkFold rs ivs k a l gs (.ok was) = .ok r) : r.map (fun x => (x.1, x.2.1)) = was.map (fun x => (x.1, x.2.1)) ++ gs := by
  induction gs generalizing was with
  | nil =>
    obtain rfl := Except.ok.inj h
    exact (List.append_nil _).symm
  | cons g gs ih =>
    have h' : stkFold rs ivs k a l gs (stkGroup rs ivs k a l g was) = .ok r := h
    cases hg : stkGroup rs ivs k a l g was with
    | error e => rw [hg, stkFold_error] at h'; cases h'
    | ok was' =>
      rw [hg] at h'
      obtain ⟨x, rfl⟩ := stkGroup_ok hg
      simpa using ih _ h'

theorem stkGroups_head {a n : Nat} (h : n ≠ 0) : ∃ g gs, stkGroups a n = g :: gs ∧ g.2 ≠ 0 := by
  obtain ⟨k, hk⟩ : ∃ k, (a + n + 3) / 4 - a / 4 = k + 1 := ⟨(a + n + 3) / 4 - a / 4 - 1, by omega⟩
  simp only [stkGroups, hk, List.range_succ_eq_map, List.map_cons]
  exact ⟨_, _, rfl, by omega⟩

theorem stkPieces_of {rs : List Range} {ivs : List Interval} {k : Kind} {a n l : Nat} {ps : List Piece} (hn : n ≠ 0)
    (h : stkPieces rs ivs k false a n l = .ok ps) : PiecesOf n ps := by
  unfold stkPieces at h
  split at h
  · cases h
  split at h
  · cases h
  next gs hg =>
  have hgs := stkFold_ok _ _ _ hg
  obtain ⟨g, r, hh, hg0⟩ := stkGroups_head (a := a) hn
  rw [hh, List.map_nil, List.nil_append] at hgs
  obtain ⟨x, xs, rfl, rfl, _⟩ := List.map_eq_cons_iff.1 hgs
  simp only [Bool.false_and, Bool.false_eq_true, if_false, Except.ok.injEq] at h
  subst h
  refine .ia (fun he => ?_) fun p hp => ?_
  · rw [List.flatMap_cons] at he
    exact natPieces_ne_nil hg0 7 x.2.2.ia 0 (List.map_eq_nil_iff.1 (List.append_eq_nil_iff.1 he).1)
  · obtain ⟨y, _, hp⟩ := List.mem_flatMap.1 hp
    obtain ⟨q, _, rfl⟩ := List.mem_map.1 hp
    exact ⟨_, _, rfl⟩

theorem State.lanePieces_of {s : State} {w : Wave} {sp : Space} {k : Kind} {narrow noStk : Bool} {n l : Nat} {a : W64} {ps : List Piece} (hn : n ≠ 0)
    (h : s.lanePieces w sp k narrow noStk false n a l = .ok ps) : PiecesOf n ps := by
  unfold State.lanePieces at h
  extract_lets rs ivs at h
  split at h
  · cases h
  next sp' a' _ =>
  extract_lets v at h
  split at h
  · split at h
    · cases h
    split at h
    · cases h
    exact stkPieces_of hn h
  · split at h
    · split at h
      · exact Except.ok.inj h ▸ .scr hn ..
      · cases h
    · cases h
  · split at h
    · split at h
      · split at h
        · cases h
        split at h
        · cases h
        exact Except.ok.inj h ▸ .scr hn ..
      · cases h
    · cases h
  · split at h
    · cases h
    next x _ =>
      obtain rfl := Except.ok.inj h
      refine .ia (fun he => natPieces_ne_nil hn 31 x.ia 0 (List.map_eq_nil_iff.1 he)) fun p hp => ?_
      obtain ⟨q, _, rfl⟩ := List.mem_map.1 hp
      exact ⟨_, _, rfl⟩

theorem State.laneCheck_of {s : State} {w : Wave} {sp : Space} {k : Kind} {narrow noStk : Bool} {n l : Nat} {a : W64} {ps : List Piece} (hn : n ≠ 0)
    (h : s.laneCheck w sp k narrow noStk false n a l = .ok ps) : PiecesOf n ps := by
  unfold State.laneCheck at h
  split at h
  · cases h
  next qs hq =>
  split at h
  · cases h
  · exact Except.ok.inj h ▸ State.lanePieces_of hn hq

/-! ### The bytes of a store -/

theorem leBytes_length (n v : Nat) : (leBytes n v).length = n := by
  induction n generalizing v with
  | zero => rfl
  | succ n ih => rw [leBytes, List.length_cons, ih]

theorem length_take_words (n : Nat) (f : Nat → Nat) : (((List.range ((n + 3) / 4)).flatMap fun j => leBytes 4 (f j)).take n).length = n := by
  have h : ((List.range ((n + 3) / 4)).flatMap fun j => leBytes 4 (f j)).length = (n + 3) / 4 * 4 := by
    simp [List.length_flatMap, leBytes_length]
  rw [List.length_take, h]
  omega

theorem State.elem_length (s : State) (o : Opd) (n l : Nat) : (s.elem o n l).length = n := by
  unfold State.elem
  split
  · exact length_take_words n _
  · exact length_take_words n _
  · exact length_take_words n _
  · exact leBytes_length n _
  · exact leBytes_length n _

/-! ### A weak store at issue -/

/-- What the weak stores of a memory word have in common. -/
structure IsWeakStore (w : MW) (s : State) (m : MemSpec) : Prop where
  runs : exec m.ins s = .next (s.memWord m)
  word : m.w = w
  weak : m.strong = false
  writes : m.req = .store
  size : m.size = w.bytes
  data : m.d1 = s.elem w.data w.bytes
  ins : m.ins = .st w ∨ m.ins = .stq w

theorem isWeakStore {w : MW} {s : State} {m : MemSpec} (hm : m ∈ weakStores w s) : IsWeakStore w s m := by
  simp only [weakStores, List.mem_cons, List.not_mem_nil, or_false] at hm
  rcases hm with rfl | rfl
  · exact ⟨rfl, rfl, rfl, rfl, rfl, rfl, .inl rfl⟩
  · exact ⟨rfl, rfl, rfl, rfl, rfl, rfl, .inr rfl⟩

section
variable {s t : State}

theorem State.postInc_frame (s : State) (w : MW) (k : Bool) :
    s.postInc w k = { s with wave := (s.postInc w k).wave } := by
  unfold State.postInc
  split <;> rfl

theorem State.postInc_wave (s : State) (w : MW) (k : Bool) : (s.postInc w k).wave = { s.wave with a := (s.postInc w k).wave.a } := by
  unfold State.postInc
  split <;> rfl

theorem State.postInc_congr (h : t.wave = s.wave) (w : MW) (k : Bool) : (t.postInc w k).wave = (s.postInc w k).wave := by
  unfold State.postInc
  split
  · simp only [h]
  · exact h

theorem baseStepped_postInc (s : State) (w : MW) (k : Bool) : BaseStepped w k s (s.postInc w k) := by
  intro r _
  unfold State.postInc
  split
  · next n hpi hb =>
    rw [Wave.getA_setA]
    by_cases hr : r = n.toNat
    · subst hr
      simp [hpi, hb]
    · simp [hb, hr, Ne.symm hr]
  · next h =>
    refine (if_neg ?_).symm
    rintro ⟨hpi, n, hb, _⟩
    exact h n hpi hb

theorem baseStepped_of_wave {u : State} {w : MW} {k : Bool} (h : u.wave = t.wave) (ht : BaseStepped w k s t) : BaseStepped w k s u := by
  intro r hr
  rw [h]
  exact ht r hr

/-- An operation with nothing to report leaves quietly, or stays. -/
theorem State.settleOp_sound {id : Nat} (h : s.OpSound id) :
    (s.settleOp id).wave = s.wave ∧ (s.settleOp id).blks = s.blks ∧ (s.settleOp id).cores = s.cores ∧ s.pending ⊆ (s.settleOp id).pending := by
  obtain ⟨o, ho, hf, hn⟩ := h
  simp only [State.settleOp, ho, hf, hn, Option.isSome_none, Bool.false_eq_true, if_false]
  split
  · exact ⟨rfl, rfl, rfl, fun _ h => h⟩
  · exact ⟨rfl, rfl, rfl, List.subset_append_left _ _⟩

end

/-- The policy of a weak store as a whole (R92). -/
def storePolicy (m : MemSpec) (ps : List (Nat × Piece)) : Policy :=
  if ps.any fun p => match p.2.spot with | .ia _ r => effPolicy m.w.cp r.mt == .wc | _ => false then .wc else .keep

/-- The operation of a weak store, in flight, with its word issued. -/
def State.storeIssued (s : State) (m : MemSpec) (ok bad : List Nat) (ps : List (Nat × Piece)) : State :=
  (s.newOp m ok bad ps.length (storePolicy m ps)).2.issued m

section
variable {w : MW} {s t : State} {m : MemSpec} {ok bad : List Nat} {ps : List (Nat × Piece)}

/-- The lanes that pass their checks. -/
def okLanes (cs : List (Nat × Except LaneErr (List Piece))) : List Nat :=
  (cs.filter fun c => match c.2 with | .ok _ => true | .error _ => false).map (·.1)

theorem State.weakStore_of_ok (h : (s.storeIssued m ok bad ps).storePieces m s.freshId (homesFirst ps) = .ok t) :
    s.weakStore m ok bad ps = t.settleOp s.freshId := by
  unfold State.storeIssued State.storePieces storePolicy at h
  simp only [State.weakStore]
  split
  · next v hv => cases hv.symm.trans h
  · next u hu =>
    obtain rfl := Except.ok.inj (hu.symm.trans h)
    rfl

theorem State.weakStore_of_error {v : W64} (h : (s.storeIssued m ok bad ps).storePieces m s.freshId (homesFirst ps) = .error v)
    {b : Blk} (hb : s.blk? s.wave.id.blk = some b) :
    s.weakStore m ok bad ps = s.trapHere 0x0E 0 (BitVec.ofNat 64 b.noff) v 0 (ok.headD 0) := by
  unfold State.storeIssued State.storePieces storePolicy at h
  simp only [State.weakStore, hb]
  split
  · next v' hv =>
    obtain rfl := Except.error.inj (hv.symm.trans h)
    rfl
  · next u hu => cases hu.symm.trans h

/-- What a weak store has changed when its word is issued: its base, and an operation more. -/
theorem State.storeIssued_frame (hm : IsWeakStore w s m) : ∃ o : Op, o.id = s.freshId ∧ o.flag = none ∧ o.fault = none
    ∧ s.storeIssued m ok bad ps = { s with wave := (s.postInc w true).wave, seq := s.freshId, ops := s.ops ++ [o] } := by
  have hflag : s.wave.flagOf m.ins = none := by
    obtain h | h := hm.ins <;> rw [h] <;> rfl
  unfold State.storeIssued
  generalize storePolicy m ps = pol
  obtain ⟨o, hid, hfl, hfa, hn⟩ : ∃ o : Op, o.id = s.freshId ∧ o.flag = s.wave.flagOf m.ins ∧ o.fault = none
      ∧ (s.newOp m ok bad ps.length pol).2 = { s with seq := s.freshId, ops := s.ops ++ [o] } := ⟨_, rfl, rfl, rfl, rfl⟩
  refine ⟨o, hid, hfl.trans hflag, hfa, ?_⟩
  have hi : (s.newOp m ok bad ps.length pol).2.issued m = (s.newOp m ok bad ps.length pol).2.postInc w true := by
    have hf : (s.newOp m ok bad ps.length pol).2.wave.flagOf m.ins = none := hflag
    simp only [State.issued, hf, hm.word, hm.weak, Bool.not_false]
  rw [hi, hn, State.postInc_frame, State.postInc_congr (t := { s with seq := s.freshId, ops := s.ops ++ [o] }) (s := s) rfl]

theorem State.op?_append {o : Op} (h : s.op? o.id = none) (n : Nat) (w : Wave) :
    State.op? { s with wave := w, seq := n, ops := s.ops ++ [o] } o.id = some o := by
  have hs : s.ops.find? (fun x => x.id == o.id) = none := h
  simp only [State.op?, List.find?_append, hs, Option.none_or, List.find?_singleton, beq_self_eq_true, if_true]

/-- u is s with a weak store's word issued and its operation in flight, none of its pieces on its way yet. -/
structure StoreReady (w : MW) (s u : State) (m : MemSpec) : Prop where
  wave : u.wave = (s.postInc w true).wave
  mem : u.mem = s.mem
  blks : u.blks = s.blks
  cores : u.cores = s.cores
  onWay : u.onWay = s.onWay
  sound : u.OpSound s.freshId
  reqErr : ∀ r, u.reqErr r = s.reqErr r
  pieceReq : ∀ l p a g, p.spot = .ia a g → u.pieceReq m s.freshId l p = { s.pieceReq m s.freshId l p with seq := s.freshId + 1 }

theorem State.storeIssued_ready (hm : IsWeakStore w s m) : StoreReady w s (s.storeIssued m ok bad ps) m := by
  obtain ⟨o, hid, hf, hn, he⟩ := State.storeIssued_frame (ok := ok) (bad := bad) (ps := ps) hm
  rw [he]
  refine ⟨rfl, rfl, rfl, rfl, rfl, ⟨o, ?_, hf, hn⟩, fun _ => rfl, fun l p a g hp => ?_⟩
  · rw [← hid]
    exact State.op?_append (by rw [hid]; exact State.op?_freshId s) _ _
  · rw [State.postInc_wave]
    simp only [State.pieceReq, hp]
    rfl

theorem StoreReady.wave_eq (h : StoreReady w s t m) : t.wave = { s.wave with a := t.wave.a } := h.wave ▸ State.postInc_wave s w true

theorem StoreReady.blk? (h : StoreReady w s t m) (b : BlkId) : t.blk? b = s.blk? b := by rw [State.blk?, h.blks, State.blk?]

theorem StoreReady.core? (h : StoreReady w s t m) (c : CoreId) : t.core? c = s.core? c := by rw [State.core?, h.cores, State.core?]

theorem StoreReady.unrefused (h : StoreReady w s t m) : t.Unrefused s.freshId := by
  simp only [State.Unrefused, h.onWay, h.reqErr, h.cores]
  exact s.unrefused_freshId

theorem StoreReady.passable (h : StoreReady w s t m) (hn : NoneOnWay s) : t.Passable := by
  rw [State.Passable, h.onWay, h.wave_eq]
  exact ⟨fun q hq hw => absurd hw (hn.1 q hq), fun k hk => hn.2 k ((h.core? _).symm.trans hk)⟩

end

/-! ### Pieces to homes first (R50) -/

/-- The piece lies in global memory. -/
def atHome (p : Nat × Piece) : Bool := match p.2.spot with | .ia _ _ => true | .scr _ _ => false

theorem homesFirst_eq (ps : List (Nat × Piece)) : homesFirst ps = ps.filter atHome ++ ps.filter fun p => !atHome p := by
  have h : homesFirst ps = (ps.partition atHome).1 ++ (ps.partition atHome).2 := rfl
  rw [h, List.partition_eq_filter_filter]
  rfl

theorem atHome_iff {p : Nat × Piece} : atHome p = true ↔ ∃ a g, p.2.spot = .ia a g := by
  unfold atHome
  split
  · next a g h => exact ⟨fun _ => ⟨a, g, h⟩, fun _ => rfl⟩
  · next h => simp [h]

theorem not_atHome_iff {p : Nat × Piece} : (!atHome p) = true ↔ ∃ b o, p.2.spot = .scr b o := by
  unfold atHome
  split
  · next h => simp [h]
  · next b o h => exact ⟨fun _ => ⟨b, o, h⟩, fun _ => rfl⟩

theorem MemSpec.padLast_pads (m : MemSpec) (ps : List (Nat × Piece)) (b : BlkId) (k : Nat) (d : Byte) :
    m.padLast (ps.filter fun p => !atHome p) b k d = m.padLast ps b k d := by
  have h : (fun p => decide ((!atHome p) = true ∧ padHit b k p = true)) = padHit b k := by
    funext p
    cases hs : p.2.spot <;> simp [atHome, padHit, hs]
  rw [MemSpec.padLast, ← List.filter_reverse, List.find?_filter, MemSpec.padLast, h]

section
variable {s : State} {m : MemSpec} {id : Nat} {ps : List (Nat × Piece)}

theorem State.scrByte_congr {t : State} (h : t.blks = s.blks) (b : BlkId) (k : Nat) : t.scrByte b k = s.scrByte b k := by
  simp only [State.scrByte, State.blk?, h]

/-- All the pieces of a weak store are taken: each sets out for its home or a buffer, and the rest fill the scratchpads. -/
theorem State.storePieces_taken (hpads : s.PadPieces m (ps.filter fun p => !atHome p)) (hu : s.Unrefused id)
    (hc : AllAtHomes ps ∨ s.Welcome m id ps) :
    ∃ t, s.storePieces m id (homesFirst ps) = .ok t ∧ Storing s t ∧ (∀ p ∈ ps, ∀ a g, p.2.spot = .ia a g → Placed s t m id p.1 p.2 a g)
      ∧ (s.Passable → ∀ b k, s.blk? b ≠ none → t.scrByte b k = m.padLast ps b k (s.scrByte b k)) := by
  have hhomes : AllAtHomes (ps.filter atHome) := fun p hp => atHome_iff.1 (List.mem_filter.1 hp).2
  obtain ⟨u, hok, hsu, hblks, hpl⟩ := State.storePieces_homes (s := s) (m := m) (id := id) _ hhomes
  have hmem : ∀ p ∈ ps, ∀ a g, p.2.spot = .ia a g → p ∈ ps.filter atHome := fun p hp a g hs =>
    List.mem_filter.2 ⟨hp, atHome_iff.2 ⟨a, g, hs⟩⟩
  rw [homesFirst_eq, State.storePieces_append hok]
  simp only [← MemSpec.padLast_pads m ps, ← fun b k => State.scrByte_congr (s := s) hblks b k]
  rcases hc with hall | hw
  · have hnil : (ps.filter fun p => !atHome p) = [] :=
      List.filter_eq_nil_iff.2 fun p hp => by simp [atHome_iff.2 (hall p hp)]
    rw [hnil]
    exact ⟨u, rfl, hsu, fun p hp a g hs => hpl p (hmem p hp a g hs) a g hs, fun _ _ _ _ => rfl⟩
  · obtain ⟨huu, hpass⟩ := State.storePieces_welcome _ hhomes (fun p hp => hw p (List.mem_filter.1 hp).1) hu hok
    have hpads' : u.PadPieces m (ps.filter fun p => !atHome p) := fun p hp => by
      obtain ⟨hd, b, o, hs, ho⟩ := hpads p hp
      exact ⟨hd, b, o, hs, ho.storing hsu⟩
    obtain ⟨t, hok', hst, hlast⟩ := State.storePieces_pads _ hpads' huu
    refine ⟨t, hok', hsu.trans hst, fun p hp a g hs => (hpl p (hmem p hp a g hs) a g hs).later hst.pending hst.gathered, fun h b k hb => ?_⟩
    refine hlast (hpass h) b k ?_
    rwa [State.blk?, hblks]

end

/-! ### The lanes of a weak store -/

section
variable {w : MW} {s : State} {m : MemSpec}

theorem bytes_ne_zero (w : MW) : w.bytes ≠ 0 := (Nat.two_pow_pos _).ne'

/-- Every lane of a weak store without a fault has passed its checks, and has pieces. -/
theorem IsWeakStore.check_ok (hm : IsWeakStore w s m) (hf : m.faults (m.checks s) = []) :
    ∀ c ∈ m.checks s, ∃ ps, c.2 = .ok ps ∧ PiecesOf w.bytes ps := by
  intro c hc
  have hn := List.filterMap_eq_nil_iff.1 hf c hc
  obtain ⟨l, _, rfl⟩ := List.mem_map.1 hc
  dsimp only at hn ⊢
  cases hk : s.laneCheck s.wave m.w.sp m.kind m.narrow m.single m.strong m.size (m.addr l) l with
  | ok ps =>
    rw [hm.weak, hm.size] at hk
    exact ⟨ps, rfl, State.laneCheck_of (bytes_ne_zero w) hk⟩
  | error e =>
    rw [hk] at hn
    obtain hi | hi := hm.ins <;> rw [hi] at hn <;> cases e <;> cases hn

/-- A piece of a weak store in a scratchpad has its bytes in the element. -/
theorem IsWeakStore.pad_within (hm : IsWeakStore w s m) (hf : m.faults (m.checks s) = []) {p : Nat × Piece} (hp : p ∈ okPieces (m.checks s))
    {b : BlkId} {o : Nat} (hs : p.2.spot = .scr b o) : p.2.pos + p.2.size ≤ (m.d1 p.1).length := by
  obtain ⟨c, hc, hpc⟩ := List.mem_flatMap.1 hp
  obtain ⟨qs, hq, hqs⟩ := hm.check_ok hf c hc
  rw [hq] at hpc
  obtain ⟨q, hq, rfl⟩ := List.mem_map.1 hpc
  rw [hm.data, State.elem_length]
  exact hqs.2 q hq b o hs

/-- A weak store of one piece is one lane's. -/
theorem okLanes_single {n l : Nat} {p : Piece} {cs : List (Nat × Except LaneErr (List Piece))} (h : ∀ c ∈ cs, ∃ ps, c.2 = .ok ps ∧ PiecesOf n ps)
    (hp : okPieces cs = [(l, p)]) : (okLanes cs).headD 0 = l := by
  cases cs with
  | nil => cases hp
  | cons c cs =>
    obtain ⟨ps, hc, hne, _⟩ := h c List.mem_cons_self
    obtain ⟨q, qs, rfl⟩ := List.exists_cons_of_ne_nil hne
    simp only [okPieces, List.flatMap_cons, hc, List.map_cons, List.cons_append, List.cons.injEq, Prod.mk.injEq] at hp
    simp only [okLanes, List.filter_cons, hc, if_true, List.map_cons, List.headD_cons]
    exact hp.1.1

/-- A weak store whose lanes pass their checks: only its base steps where there is none. -/
theorem IsWeakStore.exec_eq (hm : IsWeakStore w s m) (hf : m.faults (m.checks s) = []) :
    (m.lanes s = [] ∧ exec m.ins s = .next (s.postInc w true))
      ∨ (m.lanes s ≠ [] ∧ ∃ bad, exec m.ins s = .next (s.weakStore m (okLanes (m.checks s)) bad (okPieces (m.checks s)))) := by
  rw [hm.runs, State.memWord]
  by_cases hl : m.lanes s = []
  · refine .inl ⟨hl, ?_⟩
    simp only [hl, List.isEmpty_nil, if_true, hm.word, hm.weak, Bool.not_false]
  · refine .inr ⟨hl, (m.lanes s).filter fun l => !(okLanes (m.checks s)).contains l, ?_⟩
    have hal : m.misaligned s = [] := by simp only [MemSpec.misaligned, hm.weak, Bool.false_eq_true, if_false]
    have hw : m.req.writes = true := by rw [hm.writes]; rfl
    simp only [List.isEmpty_iff, hl, if_false, hf, hal, hm.weak, Bool.false_eq_true, hw, if_true]
    rfl

end

/-! ### A weak store off the notify words -/

/-- What a weak store off the notify words has done at issue. -/
structure StoreTaken (w : MW) (s t : State) (m : MemSpec) (ps : List (Nat × Piece)) : Prop where
  mem : t.mem = s.mem
  base : BaseStepped w true s t
  wave : t.wave = { s.wave with a := t.wave.a }
  placed : ∀ p ∈ ps, ∀ a g, p.2.spot = .ia a g → Placed s t m s.freshId p.1 p.2 a g
  bytes : NoneOnWay s → ∀ b k, s.blk? b ≠ none → t.scrByte b k = m.padLast ps b k (s.scrByte b k)

/-- Each piece of the store goes to a home, or each to a scratchpad, or those to homes are welcome there. -/
def OneKind (s : State) (m : MemSpec) (ps : List (Nat × Piece)) : Prop :=
  AllAtHomes ps ∨ AllInPads ps ∨ ∀ p ∈ ps, ∀ a g, p.2.spot = .ia a g → effPolicy m.w.cp g.mt ≠ .wc ∧ s.reqErr (s.pieceReq m s.freshId p.1 p.2) = none

section
variable {w : MW} {s : State} {m : MemSpec}

theorem StoreTaken.none (s : State) (w : MW) (m : MemSpec) : StoreTaken w s (s.postInc w true) m [] where
  mem := State.postInc_mem s w true
  base := baseStepped_postInc s w true
  wave := State.postInc_wave s w true
  placed := nofun
  bytes _ b k _ := State.scrByte_congr (by rw [State.postInc_frame]) b k

theorem IsWeakStore.taken (hm : IsWeakStore w s m) (hf : m.faults (m.checks s) = []) (hh : HomesOk s m)
    (ho : OffNotify s (okPieces (m.checks s))) (hk : OneKind s m (okPieces (m.checks s))) :
    ∃ t, exec m.ins s = .next t ∧ StoreTaken w s t m (okPieces (m.checks s)) := by
  obtain ⟨hl, he⟩ | ⟨_, bad, he⟩ := hm.exec_eq hf
  · refine ⟨_, he, ?_⟩
    have hps : okPieces (m.checks s) = [] := by simp only [MemSpec.checks, hl, List.map_nil, okPieces, List.flatMap_nil]
    exact hps ▸ .none s w m
  have hin : ∀ p ∈ okPieces (m.checks s), ∀ b o, p.2.spot = .scr b o → p.2.pos + p.2.size ≤ (m.d1 p.1).length :=
    fun p hp b o hs => hm.pad_within hf hp hs
  unfold HomesOk at hh
  generalize okLanes (m.checks s) = ok, okPieces (m.checks s) = ps at *
  have hr : StoreReady w s (s.storeIssued m ok bad ps) m := State.storeIssued_ready hm
  generalize hu : s.storeIssued m ok bad ps = u at *
  have hpads : u.PadPieces m (ps.filter fun p => !atHome p) := fun p hp => by
    obtain ⟨hp, hs⟩ := List.mem_filter.1 hp
    obtain ⟨b, o, hs⟩ := not_atHome_iff.1 hs
    exact ⟨hin p hp b o hs, b, o, hs, fun x hx => ho p hp b o hs x ((hr.blk? b).symm.trans hx)⟩
  have hkind : AllAtHomes ps ∨ u.Welcome m s.freshId ps := by
    obtain hk | hk | hk := hk
    · exact .inl hk
    · refine .inr fun p hp a g hs => ?_
      obtain ⟨b, o, hs'⟩ := hk p hp
      cases hs.symm.trans hs'
    · refine .inr fun p hp a g hs => ?_
      obtain ⟨hpol, hnone⟩ := hk p hp a g hs
      have hstk := hh p hp a g hs
      rw [hr.reqErr, hr.pieceReq p.1 p.2 a g hs]
      refine ⟨hpol, hnone, ?_⟩
      simp only [State.pieceReq, hs] at hstk ⊢
      exact hstk
  obtain ⟨t, hok, hut, hplaced, hbytes⟩ := State.storePieces_taken hpads hr.unrefused hkind
  obtain ⟨hsw, hsb, hsc, hsp⟩ := State.settleOp_sound (hut.sound _ hr.sound)
  have htw : (t.settleOp s.freshId).wave = u.wave := hsw.trans hut.wave
  refine ⟨_, he.trans (congrArg _ (State.weakStore_of_ok (hu ▸ hok))), ?_, ?_, ?_, fun p hp a g hs => ?_, fun hn b k hb => ?_⟩
  · exact (State.settleOp_mem ..).trans (hut.mem.trans hr.mem)
  · exact baseStepped_of_wave (htw.trans hr.wave) (baseStepped_postInc s w true)
  · rw [htw]
    exact hr.wave_eq
  · have hpl := (hplaced p hp a g hs).later hsp (.of_cores hsc)
    refine ⟨fun hpol => ?_, fun hpol hc => ?_⟩
    · obtain ⟨n, x, hn⟩ := hpl.asked hpol
      rw [hr.pieceReq p.1 p.2 a g hs] at hn
      exact ⟨n, x, hn⟩
    · have := hpl.gathered hpol
      rw [hr.wave_eq, hr.core?] at this
      exact this hc
  · rw [State.scrByte_congr hsb, hbytes (hr.passable hn) b k (by rwa [hr.blk?]), State.scrByte_congr hr.blks]

theorem Placed.asks {t : State} {l a : Nat} {p : Piece} {g : Range} (hp : p.spot = .ia a g) (h : Placed s t m s.freshId l p a g)
    (hw : effPolicy m.w.cp g.mt ≠ .wc) : Asked s t m l p a := by
  obtain ⟨n, x, hr⟩ := h.asked hw
  obtain ⟨h1, h2, h3, h4, h5, h6, h7, h8, _⟩ := State.pieceReq_ia (s := s) (m := m) (id := s.freshId) (l := l) hp
  exact ⟨_, hr, h1, h2, h3, h4, h5, h6, h7, h8⟩

end

/-! ### Bytes read back -/

theorem readBytes_length (m : Tab Byte) (k n : Nat) : (readBytes m k n).length = n := by rw [readBytes, List.length_map, List.length_range]

theorem readBytes_add (m : Tab Byte) (k i j : Nat) : readBytes m k (i + j) = readBytes m k i ++ readBytes m (k + i) j := by
  simp only [readBytes, List.range_add, List.map_append, List.map_map]
  congr 1
  exact List.map_congr_left fun x _ => by rw [Function.comp, Nat.add_assoc]

theorem readBytes_writeBytes_same (m : Tab Byte) (k : Nat) (bs : List Byte) : readBytes (writeBytes m k bs) k bs.length = bs := by
  refine List.ext_getElem (readBytes_length ..) fun i h1 h2 => ?_
  simp only [readBytes, List.getElem_map, List.getElem_range, get_writeBytes]
  rw [if_pos (by omega), Nat.add_sub_cancel_left, List.getD_eq_getElem _ _ h2]

theorem readBytes_writeBytes_before (m : Tab Byte) (k n : Nat) (bs : List Byte) : readBytes (writeBytes m (k + n) bs) k n = readBytes m k n := by
  refine List.map_congr_left fun i hi => ?_
  rw [get_writeBytes, if_neg]
  have := List.mem_range.1 hi
  omega

theorem leBytes_leVal (bs : List Byte) : leBytes bs.length (leVal bs) = bs := by
  induction bs with
  | nil => rfl
  | cons b r ih =>
    have hb := b.isLt
    have h1 : BitVec.ofNat 8 (b.toNat + 256 * leVal r) = b := BitVec.eq_of_toNat_eq (by rw [BitVec.toNat_ofNat]; omega)
    have h2 : (b.toNat + 256 * leVal r) / 256 = leVal r := by omega
    rw [List.length_cons, leBytes, leVal, h1, h2, ih]

/-! ### A store to the notify word (R311) -/

/-- The entries that a block's wave publishes up to index v. -/
def Blk.published (b : Blk) (v : Nat) (w : WaveId) (ord : Nat) (ftz : Bool) : List Cmd :=
  (List.range ((v + 2 ^ 32 - b.wi) % 2 ^ 32)).map fun i => Cmd.at_ ((b.wi + i) % 2 ^ 32) [] (some w) ord false ftz

/-- The block when it has published them. -/
def Blk.publish (b : Blk) (v : Nat) (w : WaveId) (ord : Nat) (ftz : Bool) : Blk :=
  { b with wi := v, cmds := b.cmds ++ b.published v w ord ftz }

section
variable {s : State} {b : Blk} {i : BlkId}

theorem State.release_keeps (s : State) (w : WaveId) (e : Nat) (evs : List Instr) : (s.release w e evs).blks = s.blks ∧ (s.release w e evs).ops = s.ops := by
  have h : (s.sendAll w).blks = s.blks ∧ (s.sendAll w).ops = s.ops := by
    unfold State.sendAll
    split
    · rw [State.sendBufs_frame]
      exact ⟨rfl, rfl⟩
    · exact ⟨rfl, rfl⟩
  unfold State.release State.defer
  split <;> exact h

theorem State.publish_keeps (hb : s.blk? i = some b) (v : Nat) (w : WaveId) (ord : Nat) :
    (∃ ftz, (s.publish i v w ord).blk? i = some (b.publish v w ord ftz)) ∧ (s.publish i v w ord).ops = s.ops := by
  simp only [State.publish, hb]
  let ftz := match s.wave? w with | some y => y.ftz | none => false
  refine ⟨⟨ftz, ?_⟩, (State.release_keeps ..).2⟩
  rw [State.blk?, (State.release_keeps ..).1]
  have hm := State.blk?_modBlk s i (fun x => { x with wi := v, cmds := x.cmds ++ b.published v w ord ftz }) fun _ h => h
  rw [hb] at hm
  exact hm

/-- A store that touches the notify word: RI stays, and WI moves where the ring has room. -/
theorem State.scrStore_onWord (hb : s.blk? i = some b) (hn : b.logn ≠ 0) {o : Nat} {bs : List Byte} (h1 : b.noff < o + bs.length)
    (h2 : o < b.noff + 8) (w : WaveId) (ord : Nat) :
    let v := leVal (readBytes (writeBytes b.scratch o bs) b.noff 4)
    ((v + 2 ^ 32 - b.wi) % 2 ^ 32 ≤ 2 ^ b.logn - (b.wi + 2 ^ 32 - b.ri) % 2 ^ 32 → ∃ t b' ftz, s.scrStore i o bs w ord = .ok t
      ∧ t.ops = s.ops ∧ t.blk? i = some (b'.publish v w ord ftz)
      ∧ b' = { b with scratch := writeBytes (writeBytes b.scratch o bs) (b.noff + 4) (leBytes 4 b.ri) })
    ∧ (2 ^ b.logn - (b.wi + 2 ^ 32 - b.ri) % 2 ^ 32 < (v + 2 ^ 32 - b.wi) % 2 ^ 32 → ∃ e, s.scrStore i o bs w ord = .error e) := by
  intro v
  have ht : ¬ (b.logn = 0 ∨ o + bs.length ≤ b.noff ∨ b.noff + 8 ≤ o) := by omega
  simp only [State.scrStore, hb, ht, if_false]
  constructor
  · intro hr
    let b' : Blk := { b with scratch := writeBytes (writeBytes b.scratch o bs) (b.noff + 4) (leBytes 4 b.ri) }
    let u := s.modBlk i fun x => { x with scratch := b'.scratch }
    have hu : u.blk? i = some b' := by
      rw [State.blk?_modBlk _ _ (fun x => { x with scratch := b'.scratch }) fun _ h => h, hb]
      rfl
    obtain ⟨⟨ftz, hp⟩, hops⟩ := State.publish_keeps hu v w ord
    exact ⟨_, b', ftz, if_pos hr, hops, hp, rfl⟩
  · intro hr
    exact ⟨_, if_neg (Nat.not_le.2 hr)⟩

end

/-- The notify word reads as the new WI and the RI that was there. -/
theorem scrRead_notify (b : Blk) (m : Tab Byte) (v : Nat) (w : WaveId) (ord : Nat) (ftz : Bool) :
    (Blk.publish { b with scratch := writeBytes m (b.noff + 4) (leBytes 4 b.ri) } v w ord ftz).scrRead b.noff 8
      = leBytes 4 (leVal (readBytes m b.noff 4)) ++ leBytes 4 b.ri := by
  have h4 := leBytes_leVal (readBytes m b.noff 4)
  rw [readBytes_length] at h4
  have hr := readBytes_writeBytes_same m (b.noff + 4) (leBytes 4 b.ri)
  rw [leBytes_length] at hr
  rw [Blk.scrRead, Blk.publish, readBytes_add _ _ 4 4, readBytes_writeBytes_before, hr, h4]

theorem Blk.mem_published (b : Blk) (v : Nat) (w : WaveId) (ord : Nat) (ftz : Bool) {i : Nat} (hi : i < (v + 2 ^ 32 - b.wi) % 2 ^ 32) :
    ∃ x ∈ b.published v w ord ftz, x.idx = (b.wi + i) % 2 ^ 32 ∧ x.taken = false ∧ x.wave = some w :=
  ⟨_, List.mem_map_of_mem (List.mem_range.2 hi), rfl, rfl, rfl⟩

section
variable {w : MW} {s : State} {m : MemSpec}

/-- A weak store of one piece to its own block's scratchpad, with nothing older on its way: the scratchpad takes it at once. -/
theorem IsWeakStore.storePieces_own (hm : IsWeakStore w s m) {l o : Nat} {p : Piece} {b : Blk} (hs : p.spot = .scr b.id o)
    (hn : NoneOnWay s) (ok bad : List Nat) :
    (s.storeIssued m ok bad [(l, p)]).storePieces m s.freshId (homesFirst [(l, p)])
      = ((s.storeIssued m ok bad [(l, p)]).scrStore b.id o (((m.d1 l).drop p.pos).take p.size) s.wave.id
          (s.storeIssued m ok bad [(l, p)]).wave.ordinal).map fun t => t.fill s.freshId l p.pos [] := by
  have hr : StoreReady w s (s.storeIssued m ok bad [(l, p)]) m := State.storeIssued_ready hm
  generalize s.storeIssued m ok bad [(l, p)] = u at *
  obtain ⟨hop, hrw, hrc, hstk, hdata⟩ := State.pieceReq_scr (s := u) (m := m) (id := s.freshId) (l := l) hs
  have hwait := State.overlapWait_of_passable (hr.passable hn) hstk hrw hrc
  have hsib := State.siblingErr_of_unrefused (r := u.pieceReq m s.freshId l p) (hop.symm ▸ hr.unrefused) hstk
  have hfirst : homesFirst [(l, p)] = [(l, p)] := by
    rw [homesFirst_eq]
    simp [atHome, hs]
  have hid : u.wave.id = s.wave.id := by rw [hr.wave_eq]
  rw [hfirst, State.storePieces, List.foldl_cons, List.foldl_nil]
  change u.storePiece m s.freshId l p = _
  simp only [State.storePiece, hs, hwait, Bool.false_eq_true, if_false, hsib, hdata, hid]

end

section
variable {w : MW} {s : State} {m : MemSpec} {l o : Nat} {p : Piece} {b : Blk}

/-- A weak store of one piece that touches the notify word of its own block publishes the entries up to the new WI, or traps (R311). -/
theorem IsWeakStore.notifies (hm : IsWeakStore w s m) {c : Clause} (hc : s.wave.clause = some c) (hf : m.faults (m.checks s) = [])
    (hps : okPieces (m.checks s) = [(l, p)]) (hs : p.spot = .scr b.id o) (hb : s.blk? s.wave.id.blk = some b) (hn : b.logn ≠ 0)
    (hlen : (((m.d1 l).drop p.pos).take p.size).length = p.size) (h1 : b.noff < o + p.size) (h2 : o < b.noff + 8) (hway : NoneOnWay s) :
    let v := leVal (readBytes (writeBytes b.scratch o (((m.d1 l).drop p.pos).take p.size)) b.noff 4)
    ((v + 2 ^ 32 - b.wi) % 2 ^ 32 ≤ 2 ^ b.logn - (b.wi + 2 ^ 32 - b.ri) % 2 ^ 32 → ∃ t b' ord ftz, exec m.ins s = .next t ∧ t.mem = s.mem
      ∧ t.blk? b.id = some (b'.publish v s.wave.id ord ftz)
      ∧ b' = { b with
          scratch := writeBytes (writeBytes b.scratch o (((m.d1 l).drop p.pos).take p.size)) (b.noff + 4) (leBytes 4 b.ri) })
    ∧ (2 ^ b.logn - (b.wi + 2 ^ 32 - b.ri) % 2 ^ 32 < (v + 2 ^ 32 - b.wi) % 2 ^ 32 →
        ∃ t, exec m.ins s = .next t ∧ Trapped s t 0x0E l (BitVec.ofNat 64 b.noff)) := by
  intro v
  obtain ⟨hl, _⟩ | ⟨_, bad, he⟩ := hm.exec_eq hf
  · simp only [MemSpec.checks, hl, List.map_nil, okPieces, List.flatMap_nil, List.nil_eq, reduceCtorEq] at hps
  have hhead := okLanes_single (hm.check_ok hf) hps
  rw [hps] at he
  generalize okLanes (m.checks s) = ok at *
  have hrun := hm.storePieces_own (l := l) hs hway ok bad
  have hu : StoreReady w s (s.storeIssued m ok bad [(l, p)]) m := State.storeIssued_ready hm
  generalize hi : s.storeIssued m ok bad [(l, p)] = u at *
  have hub : u.blk? b.id = some b := by rwa [State.blk?_id s hb, hu.blk?]
  obtain ⟨hfits, hfull⟩ := State.scrStore_onWord hub hn (hlen.symm ▸ h1) h2 s.wave.id u.wave.ordinal
  constructor
  · intro hr
    obtain ⟨t, b', ftz, ht, hops, htb, hb'⟩ := hfits hr
    rw [ht] at hrun
    have hts : (t.fill s.freshId l p.pos []).OpSound s.freshId := by
      refine State.OpSound.modOp (s := t) (fun _ => ⟨rfl, rfl, rfl⟩) ?_
      rw [State.OpSound, State.op?, hops]
      exact hu.sound
    obtain ⟨_, hsb, _⟩ := State.settleOp_sound hts
    have hst := State.weakStore_of_ok (hi ▸ hrun)
    refine ⟨_, b', u.wave.ordinal, ftz, he, State.weakStore_mem .., ?_, hb'⟩
    rw [hst, State.blk?, hsb]
    exact htb
  · intro hr
    obtain ⟨e, hte⟩ := hfull hr
    rw [hte] at hrun
    refine ⟨_, he, ?_⟩
    rw [State.weakStore_of_error (hi ▸ hrun) hb, hhead]
    exact State.trapHere_trapped (State.wave_ne_idle hc) (by decide) ..

end

/-- Settles O26: a weak store's pieces set out for their homes and buffers first, none of which stops those to scratchpads, whose bytes the
last writer leaves; the notify word's rule is that of the store that touches it. -/
theorem weakStoresIssue : Obligations.WeakStoresIssue := by
  unfold Obligations.WeakStoresIssue
  intro s w c hc _ m hm hf hh ps bytes
  have hm := isWeakStore hm
  refine ⟨fun ho hk => ?_, fun l p o b hps hs hb hn hlen h1 h2 hway => ?_⟩
  · obtain ⟨t, he, hmem, hbase, hwave, hplaced, hlast⟩ := hm.taken hf hh ho (by rw [OneKind, hm.word]; exact hk)
    refine ⟨t, he, hmem, hbase, hwave, fun p hp a g hs hw => ?_, fun p hp a g hs hw hcore => ?_, fun hway b k hb => ?_⟩
    · exact (hplaced p hp a g hs).asks hs (hm.word.symm ▸ hw)
    · exact (hplaced p hp a g hs).gathered (hm.word.symm ▸ hw) hcore
    · exact hlast hway b k hb
  · obtain ⟨hfits, hfull⟩ := hm.notifies hc hf hps hs hb hn hlen h1 h2 hway
    refine ⟨fun hr => ?_, hfull⟩
    obtain ⟨t, b', ord, ftz, he, hmem, hblk, hb'⟩ := hfits hr
    subst hb'
    refine ⟨t, _, he, hmem, hblk, rfl, rfl, scrRead_notify b _ _ _ ord ftz, ?_, fun x hx => List.mem_append_left _ hx, fun i hi => ?_⟩
    · exact (List.length_append).trans (by rw [Blk.published, List.length_map, List.length_range])
    · obtain ⟨x, hx, hxs⟩ := b.mem_published _ s.wave.id ord ftz hi
      exact ⟨x, List.mem_append_right _ hx, hxs⟩

end Sys2Proof.Machine

/-! ## Homes perform requests (O33) -/

namespace Sys2Proof.Machine

/-! ### What an answer, and what looks for work after it, may change -/

/-- A core's L1. -/
def Core.cache (k : Core) : CoreId × List Line := (k.id, k.l1)

/-- t is s after operations have been answered and tasks have been looked at again: waves, operations, what waits for them, tasks and the
deques that hold them, events due besides those of s. -/
structure Woken (s t : State) : Prop where
  frame : t = { s with
    wave := t.wave, waves := t.waves, ops := t.ops, deferred := t.deferred, watches := t.watches, ctxs := t.ctxs, cores := t.cores,
    pkgs := t.pkgs, pending := t.pending, free := t.free }
  caches : t.cores.map Core.cache = s.cores.map Core.cache
  pending : s.pending ⊆ t.pending

theorem Woken.refl (s : State) : Woken s s := ⟨rfl, rfl, fun _ => id⟩

theorem Woken.trans {s t u : State} (h : Woken s t) (k : Woken t u) : Woken s u where
  frame := k.frame.trans (congrArg (fun x : State => { x with
    wave := u.wave, waves := u.waves, ops := u.ops, deferred := u.deferred, watches := u.watches, ctxs := u.ctxs, cores := u.cores,
    pkgs := u.pkgs, pending := u.pending, free := u.free }) h.frame)
  caches := k.caches.trans h.caches
  pending := List.Subset.trans h.pending k.pending

theorem Woken.foldl {α : Type} {f : State → α → State} (hf : ∀ s a, Woken s (f s a)) (l : List α) (s : State) : Woken s (l.foldl f s) := by
  induction l generalizing s with
  | nil => exact .refl s
  | cons a r ih => exact (hf s a).trans (ih _)

section
variable {s t : State}

theorem Woken.due (h : Woken s t) (l : List Instr) : Woken s (t.due l) := h.trans ⟨rfl, rfl, List.subset_append_left ..⟩

theorem Woken.watches (h : Woken s t) (l : List Watch) : Woken s { t with watches := l } := h.trans ⟨rfl, rfl, fun _ => id⟩

theorem Woken.modCtx (h : Woken s t) (i : Nat) (f : Ctx → Ctx) : Woken s (t.modCtx i f) := h.trans ⟨rfl, rfl, fun _ => id⟩

theorem Woken.modPkg (h : Woken s t) (i : Nat) (f : Pkg → Pkg) : Woken s (t.modPkg i f) := h.trans ⟨rfl, rfl, fun _ => id⟩

theorem Woken.modOp (h : Woken s t) (i : Nat) (f : Op → Op) : Woken s (t.modOp i f) := h.trans ⟨rfl, rfl, fun _ => id⟩

theorem Woken.deques (h : Woken s t) (c : CoreId) {f : Core → Core} (hf : ∀ k, (f k).cache = k.cache) : Woken s (t.modCore c f) :=
  h.trans ⟨rfl, map_updFirst hf _, fun _ => id⟩

theorem Woken.ite {p : Prop} [Decidable p] {u : State} (h : Woken s t) (k : Woken s u) : Woken s (if p then t else u) := by
  split <;> assumption

theorem Woken.mem (h : Woken s t) : t.mem = s.mem := by rw [h.frame]
theorem Woken.blks (h : Woken s t) : t.blks = s.blks := by rw [h.frame]
theorem Woken.dies (h : Woken s t) : t.dies = s.dies := by rw [h.frame]
theorem Woken.homes (h : Woken s t) : t.homes = s.homes := by rw [h.frame]
theorem Woken.entries (h : Woken s t) : t.entries = s.entries := by rw [h.frame]
theorem Woken.pageops (h : Woken s t) : t.pageops = s.pageops := by rw [h.frame]
theorem Woken.fns (h : Woken s t) : t.fns = s.fns := by rw [h.frame]

end

/-! Operations that are answered -/

theorem State.modWave_woken (s : State) (i : WaveId) (f : Wave → Wave) : Woken s (s.modWave i f) := by
  unfold State.modWave
  split <;> exact ⟨rfl, rfl, fun _ => id⟩

theorem State.writeEarly_woken (s : State) (i : Nat) : Woken s (s.writeEarly i) := by
  have hp (ks : List Nat) : Woken s (s.pick ks).2 := ⟨rfl, rfl, fun _ => id⟩
  unfold State.writeEarly
  split
  · exact .refl s
  · exact (hp _).ite (((hp _).trans (State.modWave_woken ..)).modOp ..)

theorem State.unwait_woken (s : State) (i : Nat) : Woken s (s.unwait i) := ⟨rfl, rfl, List.subset_append_left ..⟩

theorem State.finishOp_woken (s : State) (i : Nat) : Woken s (s.finishOp i) := by
  have hs := Woken.refl s
  unfold State.finishOp
  split
  · exact hs
  · exact hs.ite (hs.ite ((hs.due _).ite ((((hs.modOp ..).trans (State.writeEarly_woken ..)).trans (State.unwait_woken ..)).due _ |>.ite (hs.due _))))

theorem State.answer_woken (s : State) (i l p : Nat) (bs : List Byte) : Woken s (s.answer i l p bs) :=
  ((Woken.refl s).modOp ..).trans (State.finishOp_woken ..)

theorem State.answerWatch_woken (s : State) (x : Watch) (w : W64) : Woken s (s.answerWatch x w) := by
  unfold State.answerWatch
  split
  · exact s.answer_woken ..
  · exact s.answer_woken ..
  · exact .refl s

theorem State.wake_woken (s : State) (kind : Watcher → Bool) (key : Nat) (w : W64) : Woken s (s.wake kind key w) :=
  ((Woken.refl s).watches _).trans (.foldl (fun t x => t.answerWatch_woken x w) _ _)

/-! Tasks that are looked at again (R173 to R175) -/

theorem State.kickRefill_woken (s : State) (c : CoreId) : Woken s (s.kickRefill c) := by
  unfold State.kickRefill
  split
  · exact ((Woken.refl s).due _).ite (.refl s)
  · exact .refl s

theorem State.kickRefills_woken (s : State) (pkg : Nat) : Woken s (s.kickRefills pkg) := by
  unfold State.kickRefills
  split
  · exact (Woken.refl s).ite (.foldl State.kickRefill_woken _ s)
  · exact .refl s

theorem State.askThief_woken (s : State) (pkg die : Nat) (may : CoreId → Bool) : Woken s (s.askThief pkg die may) := by
  unfold State.askThief
  split
  · exact .refl s
  split
  · exact (Woken.refl s).due _
  · exact .refl s

theorem State.kickTask_woken (s : State) (c : CoreId) : Woken s (s.kickTask c) := by
  have hs := Woken.refl s
  unfold State.kickTask
  split
  · exact hs
  · exact ((s.askThief_woken ..).ite hs).ite (hs.ite (hs.due _))

theorem State.kickReplay_woken (s : State) (ctx : Nat) : Woken s (s.kickReplay ctx) := by
  unfold State.kickReplay
  split
  · exact ((Woken.refl s).due _).ite (.refl s)
  · exact .refl s

theorem State.pushTask_woken {s : State} {c : CoreId} {x : TaskRec} {p : Bool × State} (h : s.pushTask c x = some p) : Woken s p.2 := by
  unfold State.pushTask at h
  split at h
  · cases h
  split at h
  · cases h
    have hd : Woken s (s.modCore c fun k => { k with deque := x :: k.deque }) := (Woken.refl s).deques c fun _ => rfl
    exact (((hd.trans (State.kickTask_woken _ c)).trans (State.kickRefill_woken _ c)).trans (State.askThief_woken ..)).trans
      (State.kickReplay_woken _ x.ctx)
  split at h
  · cases h
  split at h
  · cases h
    have hp : Woken s (s.modPkg c.pkg fun p => { p with ovfl := p.ovfl ++ [x] }) := (Woken.refl s).modPkg ..
    exact (hp.trans (State.kickRefills_woken _ c.pkg)).trans (State.kickReplay_woken _ x.ctx)
  · cases h

theorem State.readyTask_woken (s : State) (p : Parked) : Woken s (s.readyTask p) := by
  have hs : Woken s (s.setCtr p p.task.ctrs.length) := (Woken.refl s).modCtx ..
  unfold State.readyTask
  dsimp only
  split
  · exact hs
  split
  · exact hs.ite (hs.modCtx ..)
  split
  · next h => exact (hs.trans (State.pushTask_woken h)).modCtx ..
  · exact hs

theorem State.watchTask_woken (s : State) (p : Parked) (n k : Nat) : Woken s (s.watchTask p n k) := by
  have hs (k : Nat) : Woken s (s.setCtr p k) := (Woken.refl s).modCtx ..
  induction n generalizing k with
  | zero => exact s.readyTask_woken p
  | succ m ih =>
    unfold State.watchTask
    dsimp only
    split
    · exact ih _
    · exact (hs k).ite ((ih _).ite ((hs k).watches _))

theorem State.retryParked_woken (s : State) (mine : Parked → Bool) : Woken s (s.retryParked mine) :=
  .foldl (fun t p => t.watchTask_woken p _ _) _ s

theorem State.retryHeld_woken (s : State) : Woken s s.retryHeld := s.retryParked_woken _

theorem State.wakeTasks_woken (s : State) (key : Nat) : Woken s (s.wakeTasks key) := by
  refine ((Woken.refl s).watches _).trans (.foldl (fun t x => ?_) _ _)
  split
  · split
    · split
      · exact t.watchTask_woken ..
      · exact .refl t
    · exact .refl t
  · exact .refl t

/-- What a request sets off at its location, and its answer. -/
theorem State.reqEffect_woken (s : State) (r : Req) (key : Nat) (old new : List Byte) (fl : Nat) : Woken s (s.reqEffect r key old new fl) := by
  have hs : Woken s (if fl = 0 then s else s.modOp r.op fun o => if o.flag.isSome then { o with sticky := o.sticky ||| fl } else o) :=
    (Woken.refl s).ite ((Woken.refl s).modOp ..)
  unfold State.reqEffect
  extract_lets w t
  split
  · exact hs.trans (State.wake_woken ..)
  · exact (hs.trans (State.wake_woken ..)).trans (State.wakeTasks_woken ..)
  · exact (hs.modOp ..).ite hs
  · exact hs

theorem State.reqDone_woken (s : State) (r : Req) (key : Nat) (old new : List Byte) (fl : Nat) : Woken s (s.reqDone r key old new fl) :=
  (((Woken.refl s).modOp ..).trans (State.reqEffect_woken ..)).trans (State.answer_woken ..)

/-! ### Answers -/

/-- Operation i is still in flight in t, with as many pieces to be answered. -/
def OpLeft (s t : State) (i : Nat) : Prop := ∀ o, s.op? i = some o → ∃ o', t.op? i = some o' ∧ o'.left = o.left

section
variable {s t u : State} {i : Nat}

theorem OpLeft.of_ops (h : t.ops = s.ops) : OpLeft s t i := fun o ho => ⟨o, by rwa [State.op?, h], rfl⟩

theorem OpLeft.refl (s : State) (i : Nat) : OpLeft s s i := .of_ops rfl

theorem OpLeft.trans (h : OpLeft s t i) (k : OpLeft t u i) : OpLeft s u i := fun o ho => by
  obtain ⟨o', ho', hl⟩ := h o ho
  obtain ⟨o'', ho'', hl'⟩ := k o' ho'
  exact ⟨o'', ho'', hl'.trans hl⟩

theorem State.op?_modOp_some {o : Op} (h : s.op? i = some o) (f : Op → Op) (hf : ∀ o, (f o).id = o.id) : (s.modOp i f).op? i = some (f o) := by
  rw [State.op?_modOp _ _ _ fun o ho => (hf o).trans ho, h, Option.map_some]

theorem OpLeft.modOp (h : OpLeft s t i) {f : Op → Op} (hf : ∀ o, (f o).id = o.id ∧ (f o).left = o.left) : OpLeft s (t.modOp i f) i :=
  h.trans fun o ho => ⟨f o, State.op?_modOp_some ho f fun o => (hf o).1, (hf o).2⟩

theorem State.op?_writeEarly {o : Op} (h : s.op? i = some o) :
    ∃ o', (s.writeEarly i).op? i = some o' ∧ o'.left = o.left ∧ o'.data = o.data := by
  simp only [State.writeEarly, h]
  split
  · exact ⟨o, h, rfl, rfl⟩
  · refine ⟨_, State.op?_modOp_some (o := o) (s := (s.pick _).2.modWave o.wave _) ?_ _ ?_, rfl, rfl⟩
    · rw [State.op?, (modWave_atWaves ..).ops]
      exact h
    · exact fun _ => rfl

/-- An operation whose pieces are answered stays in flight until it completes. -/
theorem State.op?_finishOp {o : Op} (h : s.op? i = some o) :
    ∃ o', (s.finishOp i).op? i = some o' ∧ o'.left = o.left ∧ o'.data = o.data := by
  have hs : ∃ o', s.op? i = some o' ∧ o'.left = o.left ∧ o'.data = o.data := ⟨o, h, rfl, rfl⟩
  simp only [State.finishOp, h]
  split
  · exact hs
  split
  · exact hs
  split
  · exact hs
  split
  · obtain ⟨o', ho', hl, hd⟩ := State.op?_writeEarly (State.op?_modOp_some h (fun o => { o with store := false }) fun _ => rfl)
    exact ⟨o', ho', hl, hd⟩
  · exact hs

/-- The operation of an answer has one piece less to be answered, and the bytes answered at their place. -/
theorem State.op?_answer {o : Op} (h : s.op? i = some o) (l p : Nat) (bs : List Byte) :
    ∃ o', (s.answer i l p bs).op? i = some o' ∧ o'.left = o.left - 1 ∧ ∀ k < bs.length, o'.data.get 0 (16 * l + p + k) = bs.getD k 0 := by
  let put := fun o : Op => { o.put l p bs with left := o.left - 1 }
  obtain ⟨o', ho', hl, hd⟩ := State.op?_finishOp (State.op?_modOp_some h put fun _ => rfl)
  refine ⟨o', ho', hl, fun k hk => ?_⟩
  rw [hd, show (put o).data = writeBytes o.data (16 * l + p) bs from rfl, get_writeBytes, if_pos (by omega), Nat.add_sub_cancel_left]

variable {r : Req}

theorem OpLeft.answered (h : OpLeft s t r.op) (bs : List Byte) : Answered s (t.answer r.op r.lane r.pos bs) r bs := fun o ho => by
  obtain ⟨o', ho', hl⟩ := h o ho
  obtain ⟨o'', ho'', hl', hd⟩ := State.op?_answer ho' r.lane r.pos bs
  exact ⟨o'', ho'', hl'.trans (by rw [hl]), hd⟩

/-- A request that wakes no waits leaves its own operation unanswered. -/
theorem State.reqEffect_opLeft (hk : ∀ z, r.kind ≠ .rmw .arv z ∧ r.kind ≠ .rmw .csig z) (key : Nat) (old new : List Byte) (fl : Nat) :
    OpLeft s (s.reqEffect r key old new fl) r.op := by
  have hs : OpLeft s (if fl = 0 then s else s.modOp r.op fun o => if o.flag.isSome then { o with sticky := o.sticky ||| fl } else o) r.op := by
    split
    · exact .refl s _
    · exact (OpLeft.refl s _).modOp fun o => by split <;> exact ⟨rfl, rfl⟩
  unfold State.reqEffect
  extract_lets w t
  split
  · next h => exact absurd h (hk _).1
  · next h => exact absurd h (hk _).2
  · have hm : OpLeft s (t.modOp r.op fun o => { o with arg := o.arg.set 0 64 (o.arg.get 0 67) }) r.op := hs.modOp fun _ => ⟨rfl, rfl⟩
    split <;> (dsimp only; split)
    · exact hm
    · exact hs
    · exact hm
    · exact hs
  · exact hs

theorem State.reqDone_answered (hk : ∀ z, r.kind ≠ .rmw .arv z ∧ r.kind ≠ .rmw .csig z) (h : OpLeft s t r.op) (key : Nat)
    (old new : List Byte) (fl : Nat) : Answered s (t.reqDone r key old new fl) r (r.returns old) :=
  ((h.modOp (f := fun o => { o with cleared := true }) fun _ => ⟨rfl, rfl⟩).trans (State.reqEffect_opLeft hk key old new fl)).answered _

end

/-! ### Order points that are not logged -/

/-- Without a log ring of its context an event is performed at its order point as it comes (R141, R147). -/
theorem State.atPointLate_of_unlogged {s : State} {e : LogEv} (h : ∀ c, s.ctx? e.ctx = some c → c.rings = []) (ev : Instr) :
    ∃ l, ∀ late perform, s.atPointLate e ev late perform = (perform { s with held := l }).1 := by
  have ha : s.admitEv e ev = .free := by
    unfold State.admitEv
    split
    · rfl
    · next c hc => simp only [Ctx.ring?, h c hc, List.find?_nil]
  exact ⟨s.held.filter fun h => h.ev != ev, fun late perform => by simp only [State.atPointLate, ha]⟩

/-! ### The bytes a request leaves -/

/-- No read-modify-write leaves more bytes than its location and its new value have. -/
theorem length_rmwApply (op : Rmw) (z : Bool) (old v v2 : List Byte) {n : Nat} (ho : old.length = n) (h2 : v2.length ≤ n) :
    (rmwApply op z old v v2).1.length ≤ n := by
  cases op
  case cas =>
    simp only [rmwApply]
    split
    · exact h2
    · exact ho.le
  all_goals exact ((leBytes_length _ _).trans ho).le

theorem memWrote_writeBytes {s t : State} {k : Nat} {bs : List Byte} (h : t.mem = writeBytes s.mem k bs) : MemWrote s t k bs := fun a => by
  rw [State.memByte, h]
  exact get_writeBytes bs s.mem k a

/-- The bytes that stood there. -/
theorem memWrote_memRead {s t : State} (h : t.mem = s.mem) (k n : Nat) : MemWrote s t k (s.memRead k n) := fun a => by
  rw [State.memByte, h]
  split
  · next ha =>
    obtain ⟨i, rfl⟩ := Nat.exists_eq_add_of_le ha.1
    have hi : i < n := by simpa [State.memRead, readBytes_length] using ha.2
    simp [State.memRead, readBytes, memDefault, hi]
  · rfl

section
variable {s : State} {e : Entry}

/-- What R69 asks of a migration under way, and what a request finds at its page, are said by the page operations' outlines. -/
theorem State.copyTarget_congr {t : State} (h : t.pages = s.pages) (e : Entry) : t.copyTarget e = s.copyTarget e := by
  simp only [State.pages, Prod.mk.injEq] at h
  have hf : (t.pageops.find? fun p => decide (p.home = e.home) && p.ia == e.ia).map PageOp.outline
      = (s.pageops.find? fun p => decide (p.home = e.home) && p.ia == e.ia).map PageOp.outline :=
    find?_map_congr h.2 (q := fun x => decide (x.1 = e.home) && x.2.1 == e.ia) fun _ => rfl
  have hc (u : State) : u.copyTarget e = if e.mst = 1 then
      ((u.pageops.find? fun p => decide (p.home = e.home) && p.ia == e.ia).map PageOp.outline).bind fun x => x.2.2.1.map fun c => e.inFrame c.fra
      else none := by
    unfold State.copyTarget
    cases u.pageops.find? fun p => decide (p.home = e.home) && p.ia == e.ia <;> rfl
  rw [hc, hc, hf]

/-- A page that is not being migrated is written in its frame alone (R69). -/
theorem State.mem_frameSet (h : s.copyTarget e = none) (ia : Nat) (bs : List Byte) : (s.frameSet e ia bs).mem = writeBytes s.mem (e.key ia) bs := by
  have hu : (((s.noteReuse e (e.key ia) bs.length).freshSectors (e.key ia) bs.length).memWrite (e.key ia) bs).copyTarget e = none :=
    (State.copyTarget_congr (s.noteReuse_pages e (e.key ia) bs.length) e).trans h
  simp only [State.frameSet, hu]
  rfl

theorem State.mem_framePut (h : s.copyTarget e = none) (ia : Nat) (bs : List Byte) : (s.framePut e ia bs).mem = writeBytes s.mem (e.key ia) bs := by
  simp only [State.framePut, h, State.egress_mem, State.mem_frameSet h]

theorem State.copyTarget_of_mst (h : e.mst ≠ 1) : s.copyTarget e = none := by simp [State.copyTarget, h]

theorem State.mem_frameWrite (h : e.mst ≠ 1) (ia : Nat) (bs : List Byte) : (s.frameWrite e ia bs).mem = writeBytes s.mem (e.key ia) bs := by
  simp only [State.frameWrite, State.due_mem, State.mem_framePut (State.copyTarget_of_mst h), State.noteCode_mem]

theorem State.mem_sendAtomic (h : e.mst ≠ 1) (ia k : Nat) (d d2 bs : List Byte) (changes : Bool) :
    (s.sendAtomic e ia k d d2 bs changes).mem = if changes then writeBytes s.mem (e.key ia) bs else s.mem := by
  cases changes
  · rfl
  · simp only [State.sendAtomic, State.due_mem, if_true, State.mem_frameSet (State.copyTarget_of_mst h), State.noteCode_mem]

variable {r : Req}

theorem Req.spans_of_linear (hi : r.il = false) : r.spans = [(0, r.ia, r.size)] := by simp [Req.spans, ilSpans, hi]

theorem State.reqRead_of_linear (hi : r.il = false) : s.reqRead e r = s.memRead (e.key r.ia) r.size := by
  simp [State.reqRead, Req.spans_of_linear hi]

/-- The bytes a request leaves are in the frame, whether the home writes them or the port's AtomicOp does (R72). -/
theorem State.mem_reqWrite (hi : r.il = false) (h : e.mst ≠ 1) {bs : List Byte} (hl : bs.length ≤ r.size) (changes : Bool) :
    (s.reqWrite e r bs changes).mem = if changes then writeBytes s.mem (e.key r.ia) bs else s.mem := by
  unfold State.reqWrite
  split
  · exact State.mem_sendAtomic h ..
  · rw [Req.spans_of_linear hi]
    have hread : (if (r.kind == .store) = true then s else s.portRead e r.ia r.size).mem = s.mem := by split <;> simp
    cases changes
    · exact hread
    · simp only [List.foldl_cons, List.foldl_nil, if_true, State.mem_frameWrite h, List.drop_zero, List.take_of_length_le hl, hread]

end

/-! ### Copies that a read-modify-write invalidates (R85, R89) -/

/-- No copy of the request's line in its core and die is valid. -/
def Faded (s : State) (r : Req) : Prop :=
  (∀ d, s.die? r.src.pkg r.src.die = some d → ∀ x ∈ d.l2, x.ia = lineOf r.ia → x.stale = true)
  ∧ ∀ k, s.core? r.src = some k → ∀ x ∈ k.l1, x.ia = lineOf r.ia → x.stale = true

/-- The cores are those of s, and every copy of a die is one that s has there, up to its bytes and pin. -/
structure Thinned (s t : State) : Prop where
  cores : t.cores = s.cores
  dies : ∀ p i d', t.die? p i = some d' → ∃ d, s.die? p i = some d ∧ ∀ x ∈ d'.l2, ∃ y ∈ d.l2, y.ia = x.ia ∧ y.stale = x.stale

section
variable {s t u : State} {r : Req}

theorem State.die?_modDie {p i : Nat} {f : Die → Die} (hf : ∀ d, (f d).pkg = d.pkg ∧ (f d).die = d.die) :
    (s.modDie p i f).die? p i = (s.die? p i).map f :=
  find?_updFirst (fun d hd => by rwa [(hf d).1, (hf d).2]) _

theorem State.die?_modDie_of_ne {p i q j : Nat} (h : ¬(q = p ∧ j = i)) {f : Die → Die} (hf : ∀ d, (f d).pkg = d.pkg ∧ (f d).die = d.die) :
    (s.modDie p i f).die? q j = s.die? q j := by
  refine find?_updFirst_of_ne (fun d _ => by rw [(hf d).1, (hf d).2]) (fun d hd => ?_) _
  simp only [Bool.and_eq_true, beq_iff_eq] at hd
  rw [hd.1, hd.2, Bool.and_eq_false_iff, beq_eq_false_iff_ne, beq_eq_false_iff_ne]
  by_contra hn
  rw [not_or, not_not, not_not] at hn
  exact h ⟨hn.1.symm, hn.2.symm⟩

theorem Thinned.of_eq (hc : t.cores = s.cores) (hd : t.dies = s.dies) : Thinned s t :=
  ⟨hc, fun p i d h => ⟨d, by rwa [State.die?, ← hd], fun x hx => ⟨x, hx, rfl, rfl⟩⟩⟩

theorem Thinned.refl (s : State) : Thinned s s := .of_eq rfl rfl

theorem Thinned.trans (h : Thinned s t) (k : Thinned t u) : Thinned s u := by
  refine ⟨k.cores.trans h.cores, fun p i d'' hd'' => ?_⟩
  obtain ⟨d', hd', hx⟩ := k.dies p i d'' hd''
  obtain ⟨d, hd, hy⟩ := h.dies p i d' hd'
  refine ⟨d, hd, fun x hm => ?_⟩
  obtain ⟨y, hm, hi, hs⟩ := hx x hm
  obtain ⟨z, hm, hi', hs'⟩ := hy y hm
  exact ⟨z, hm, hi'.trans hi, hs'.trans hs⟩

theorem Thinned.modDie (h : Thinned s t) (p i : Nat) {f : Die → Die} (hf : ∀ d, (f d).pkg = d.pkg ∧ (f d).die = d.die)
    (hl : ∀ d, ∀ x ∈ (f d).l2, ∃ y ∈ d.l2, y.ia = x.ia ∧ y.stale = x.stale) : Thinned s (t.modDie p i f) := by
  refine h.trans ⟨rfl, fun q j d' hd' => ?_⟩
  by_cases hq : q = p ∧ j = i
  · obtain ⟨rfl, rfl⟩ := hq
    rw [State.die?_modDie hf] at hd'
    obtain ⟨d, hd, rfl⟩ := Option.map_eq_some_iff.1 hd'
    exact ⟨d, hd, hl d⟩
  · rw [State.die?_modDie_of_ne hq hf] at hd'
    exact ⟨d', hd', fun x hx => ⟨x, hx, rfl, rfl⟩⟩

/-- A full slice loses a line, by a free choice. -/
theorem State.makeRoom_cases (s : State) (p i slice : Nat) (keep : List Nat) :
    s.makeRoom p i slice keep = s ∨ ∃ ia, s.makeRoom p i slice keep = { s with free := s.free + 1 }.modDie p i fun d => d.drop ia := by
  unfold State.makeRoom
  split
  · exact .inl rfl
  split
  · exact .inl rfl
  split
  · exact .inl rfl
  · exact .inr ⟨_, rfl⟩

theorem State.makeRoom_thinned (s : State) (p i slice : Nat) (keep : List Nat) : Thinned s (s.makeRoom p i slice keep) := by
  obtain h | ⟨ia, h⟩ := s.makeRoom_cases p i slice keep <;> rw [h]
  · exact .refl s
  · exact Thinned.modDie (s := s) (t := { s with free := s.free + 1 }) (.of_eq rfl rfl) p i (f := fun d => d.drop ia) (fun _ => ⟨rfl, rfl⟩)
      fun d x hx => ⟨x, List.mem_of_mem_filter hx, rfl, rfl⟩

theorem State.pinHome_thinned (s : State) (ctx : Nat) (h : HomeId) (ia : Nat) : Thinned s (s.pinHome ctx h ia) := by
  have hs := Thinned.refl s
  unfold State.pinHome
  split
  · exact hs
  split
  · exact hs
  split
  · exact .of_eq rfl rfl
  · exact (s.makeRoom_thinned ..).modDie _ _ (fun _ => ⟨rfl, rfl⟩) fun d x hx => ⟨x, hx, rfl, rfl⟩

theorem State.pinCopy_thinned (s : State) (ctx p i ia : Nat) : Thinned s (s.pinCopy ctx p i ia) := by
  have hs := Thinned.refl s
  unfold State.pinCopy
  split
  · exact hs
  split
  · exact hs
  split
  · exact .of_eq rfl rfl
  · refine Thinned.modDie ?_ _ _ (fun _ => ⟨rfl, rfl⟩) fun d x hx => ?_
    · split
      · exact hs
      · exact s.makeRoom_thinned ..
    · obtain ⟨y, hy, rfl⟩ := List.mem_map.1 hx
      exact ⟨y, hy, by split <;> exact ⟨rfl, rfl⟩⟩

theorem State.pinFor_thinned (s : State) (r : Req) : Thinned s (s.pinFor r) := by
  unfold State.pinFor
  split
  · exact .refl s
  extract_lets has
  split
  · exact s.pinCopy_thinned ..
  · exact s.pinHome_thinned ..

theorem Faded.thinned (h : Faded s r) (k : Thinned s t) : Faded t r := by
  refine ⟨fun d' hd' x hx hi => ?_, fun c hc => h.2 c (by rwa [State.core?, ← k.cores])⟩
  obtain ⟨d, hd, hl⟩ := k.dies _ _ d' hd'
  obtain ⟨y, hy, hyi, hys⟩ := hl x hx
  exact hys ▸ h.1 d hd y hy (hyi.trans hi)

theorem Faded.woken (h : Faded s r) (k : Woken s t) : Faded t r := by
  refine ⟨fun d hd => h.1 d (by rwa [State.die?, ← k.dies]), fun c hc x hx => ?_⟩
  have hf : (t.core? r.src).map Core.cache = (s.core? r.src).map Core.cache :=
    find?_map_congr k.caches (q := fun x => decide (x.1 = r.src)) fun _ => rfl
  rw [hc] at hf
  obtain ⟨c', hc', he⟩ := Option.map_eq_some_iff.1 hf.symm
  exact h.2 c' hc' x ((Prod.mk.inj he).2 ▸ hx)

theorem mem_dropLine {ls : List Line} {ia : Nat} {x : Line} (hx : x ∈ dropLine ls ia) (hi : x.ia = lineOf ia) : x.stale = true := by
  obtain ⟨y, -, rfl⟩ := List.mem_map.1 hx
  split at hi
  · next h => rw [if_pos h]
  · next h => exact absurd hi h

theorem lineOf_lineOf (ia : Nat) : lineOf (lineOf ia) = lineOf ia := by simp only [lineOf]; omega

theorem State.dropCopies_faded (s : State) (hi : r.il = false) : Faded (s.dropCopies r) r := by
  have hl : r.lines = [lineOf r.ia] := by simp [Req.lines, Req.spans_of_linear hi]
  simp only [State.dropCopies, hl, List.foldl_cons, List.foldl_nil]
  refine ⟨fun d hd x hx hxi => ?_, fun c hc x hx hxi => ?_⟩
  · have hm := State.die?_modDie (s := s) (p := r.src.pkg) (i := r.src.die) (f := fun d => { d with l2 := dropLine d.l2 (lineOf r.ia) })
      fun _ => ⟨rfl, rfl⟩
    obtain ⟨d, -, rfl⟩ := Option.map_eq_some_iff.1 (hm.symm.trans hd)
    exact mem_dropLine hx (hxi.trans (lineOf_lineOf _).symm)
  · have hm := find?_updFirst (p := fun k : Core => decide (k.id = r.src)) (f := fun k : Core => { k with l1 := dropLine k.l1 (lineOf r.ia) })
      (fun k hk => hk) s.cores
    obtain ⟨k, -, rfl⟩ := Option.map_eq_some_iff.1 (hm.symm.trans hc)
    exact mem_dropLine hx (hxi.trans (lineOf_lineOf _).symm)

end

/-! ### A request performed on its frame -/

/-- The request has been performed on its frame, and the copies of its core and die follow; its answer is still due. -/
def State.performed (s : State) (r : Req) (e : Entry) : State :=
  let old := s.reqRead e r
  (((s.reqWrite e r (reqApply r old).1 (r.changes old)).modEntry r.home r.ia fun e => e.touch r.src (r.changes old)).copiesAfter r old).modOp r.op
    fun o => { o with cleared := true }

/-- What is read through a port of the package comes back with a completion (R142). -/
def ComesLate (r : Req) (e : Entry) : Prop := (e.loc = 3 ∧ r.kind ≠ .store) ∨ (e.loc = 2 ∧ r.kind = .load)

section
variable {s : State} {r : Req} {e : Entry}

theorem State.homeServe_late (h : ComesLate r e) : ∃ fl pay, (s.homeServe r e).1 =
    ((s.performed r e).reqEffect r (iaKey r.home r.ia) (s.reqRead e r) (reqApply r (s.reqRead e r)).1 fl).due
      [.readCompletionReturns { r with kind := .load, data := r.returns (s.reqRead e r), data2 := pay }] :=
  ⟨_, _, congrArg Prod.fst (if_pos h)⟩

theorem State.homeServe_prompt (h : ¬ComesLate r e) : ∃ fl, (s.homeServe r e).1 =
    ((s.performed r e).fillCopies r e).reqDone r (iaKey r.home r.ia) (s.reqRead e r) (reqApply r (s.reqRead e r)).1 fl :=
  ⟨_, congrArg Prod.fst (if_neg h)⟩

/-- What follows a request's performance at its home leaves memory as it is. -/
theorem State.mem_homeServe : (s.homeServe r e).1.mem = (s.performed r e).mem := by
  by_cases h : ComesLate r e
  · obtain ⟨fl, pay, h⟩ := State.homeServe_late (s := s) h
    rw [h, State.due_mem, State.reqEffect_mem]
  · obtain ⟨fl, h⟩ := State.homeServe_prompt (s := s) h
    rw [h, State.reqDone_mem, State.fillCopies_mem]

theorem State.homeServe_back (h : ComesLate r e) (hr : r.returns (s.reqRead e r) = s.reqRead e r) :
    ∃ q, .readCompletionReturns q ∈ (s.homeServe r e).1.pending ∧ q.op = r.op ∧ q.lane = r.lane ∧ q.pos = r.pos ∧ q.data = s.reqRead e r := by
  obtain ⟨fl, pay, h⟩ := State.homeServe_late (s := s) h
  rw [h]
  exact ⟨_, List.mem_append_right _ List.mem_cons_self, rfl, rfl, rfl, hr⟩

/-! What a request's performance leaves of the operations -/

theorem State.frameSet_ops (s : State) (e : Entry) (ia : Nat) (bs : List Byte) : (s.frameSet e ia bs).ops = s.ops := by
  unfold State.frameSet
  dsimp only
  split <;> rfl

theorem State.egress_ops (s : State) (e : Entry) (ia n : Nat) (w : Option (List Byte)) : (s.egress e ia n w).ops = s.ops := by
  unfold State.egress
  split <;> rfl

theorem State.noteCode_ops (s : State) (e : Entry) (ia n : Nat) : (s.noteCode e ia n).ops = s.ops := by
  unfold State.noteCode
  dsimp only
  split <;> rfl

theorem State.frameWrite_ops (s : State) (e : Entry) (ia : Nat) (bs : List Byte) : (s.frameWrite e ia bs).ops = s.ops := by
  unfold State.frameWrite State.framePut
  dsimp only
  rw [State.due_ops]
  split <;> simp only [State.egress_ops, State.frameSet_ops, State.noteCode_ops]

theorem State.reqWrite_ops (s : State) (e : Entry) (r : Req) (bs : List Byte) (changes : Bool) : (s.reqWrite e r bs changes).ops = s.ops := by
  unfold State.reqWrite
  split
  · cases changes
    · rfl
    · simp only [State.sendAtomic, State.due_ops, if_true, State.frameSet_ops, State.noteCode_ops]
  · have hread : (if r.kind == .store then s else r.spans.foldl (fun s p => s.portRead e p.2.1 p.2.2) s).ops = s.ops := by
      split
      · rfl
      · exact foldl_keeps (g := State.ops) (f := fun t (p : Nat × Nat × Nat) => t.portRead e p.2.1 p.2.2) (fun t p => State.egress_ops ..) _ _
    cases changes
    · exact hread
    · exact (foldl_keeps (g := State.ops) (f := fun t (p : Nat × Nat × Nat) => t.frameWrite e p.2.1 ((bs.drop p.1).take p.2.2))
        (fun t p => State.frameWrite_ops ..) _ _).trans hread

theorem State.copiesAfter_ops (s : State) (r : Req) (old : List Byte) : (s.copiesAfter r old).ops = s.ops := by
  unfold State.copiesAfter
  split
  · split
    · exact foldl_keeps (g := State.ops) (f := fun t (p : Nat × Nat × Nat) => t.putCopies r.src p.2.1 ((r.data.drop p.1).take p.2.2))
        (fun _ _ => rfl) _ _
    · rfl
  · rfl
  · rfl

theorem State.performed_opLeft : OpLeft s (s.performed r e) r.op := by
  refine OpLeft.modOp (f := fun o => { o with cleared := true }) (.of_ops ?_) fun _ => ⟨rfl, rfl⟩
  rw [State.copiesAfter_ops]
  exact State.reqWrite_ops ..

theorem State.makeRoom_ops (s : State) (p i slice : Nat) (keep : List Nat) : (s.makeRoom p i slice keep).ops = s.ops := by
  obtain h | ⟨ia, h⟩ := s.makeRoom_cases p i slice keep <;> rw [h]
  rfl

theorem State.pinFor_ops (s : State) (r : Req) : (s.pinFor r).ops = s.ops := by
  have hh (ctx : Nat) (h : HomeId) (ia : Nat) : (s.pinHome ctx h ia).ops = s.ops := by
    unfold State.pinHome
    split
    · rfl
    split
    · rfl
    split
    · rfl
    · exact State.makeRoom_ops ..
  have hc (ctx p i ia : Nat) : (s.pinCopy ctx p i ia).ops = s.ops := by
    unfold State.pinCopy
    split
    · rfl
    split
    · rfl
    split
    · rfl
    · rw [State.modDie_ops]
      split
      · rfl
      · exact State.makeRoom_ops ..
  unfold State.pinFor
  extract_lets has
  split
  · rfl
  split
  · exact hc ..
  · exact hh ..

theorem State.fillL1_ops (s : State) (r : Req) (d : List Byte) : (s.fillL1 r d).ops = s.ops := by
  have ha (c : CoreId) (ia ctx gen : Nat) : (s.allocL1 c ia ctx gen d).ops = s.ops := by
    have hv (k : Core) : (s.victim l1Lines k.l1).2.ops = s.ops := by
      unfold State.victim
      split
      · rfl
      split <;> rfl
    unfold State.allocL1
    split
    · rfl
    · dsimp only
      rw [State.modCore_ops]
      split
      · rfl
      · exact hv _
  unfold State.fillL1
  extract_lets same
  split
  · exact ha ..
  · rfl

theorem State.allocL2_ops (s : State) (p i ia ctx gen : Nat) (d : List Byte) (strm : Bool) : (s.allocL2 p i ia ctx gen d strm).ops = s.ops := by
  unfold State.allocL2
  extract_lets t
  rw [State.modDie_ops]
  dsimp only [t]
  split
  · split
    · rfl
    · exact State.makeRoom_ops ..
  · rfl

theorem State.fillCopies_ops (s : State) (r : Req) (e : Entry) : (s.fillCopies r e).ops = s.ops := by
  unfold State.fillCopies
  extract_lets d64 t away same
  split
  · exact State.pinFor_ops ..
  split
  · rfl
  · rw [State.pinFor_ops]
    split
    · exact (State.allocL2_ops ..).trans (State.fillL1_ops ..)
    · exact State.fillL1_ops ..

theorem State.homeServe_answered (h : ¬ComesLate r e) (hk : ∀ z, r.kind ≠ .rmw .arv z ∧ r.kind ≠ .rmw .csig z) :
    Answered s (s.homeServe r e).1 r (r.returns (s.reqRead e r)) := by
  obtain ⟨fl, h⟩ := State.homeServe_prompt (s := s) h
  rw [h]
  exact State.reqDone_answered hk (State.performed_opLeft.trans (.of_ops (State.fillCopies_ops ..))) _ _ _ _

/-- After a read-modify-write the copies of its line stay invalid through what it sets off. -/
theorem State.homeServe_faded {op : Rmw} {z : Bool} (hi : r.il = false) (hk : r.kind = .rmw op z) : Faded (s.homeServe r e).1 r := by
  have hp : Faded (s.performed r e) r := by
    refine Faded.woken ?_ ((Woken.refl _).modOp ..)
    simp only [State.copiesAfter, hk]
    exact State.dropCopies_faded _ hi
  by_cases h : ComesLate r e
  · obtain ⟨fl, pay, h⟩ := State.homeServe_late (s := s) h
    rw [h]
    exact hp.woken ((State.reqEffect_woken ..).due _)
  · obtain ⟨fl, h⟩ := State.homeServe_prompt (s := s) h
    have hf : (s.performed r e).fillCopies r e = (s.performed r e).pinFor r := by simp [State.fillCopies, hk]
    rw [h, hf]
    exact (hp.thinned (State.pinFor_thinned ..)).woken (State.reqDone_woken ..)

/-! The bytes a request leaves in memory -/

theorem State.mem_performed (hi : r.il = false) (hm : e.mst ≠ 1) (hl : (reqApply r (s.reqRead e r)).1.length ≤ r.size) :
    (s.performed r e).mem
      = if r.changes (s.reqRead e r) then writeBytes s.mem (e.key r.ia) (reqApply r (s.reqRead e r)).1 else s.mem := by
  simp only [State.performed, State.modOp_mem, State.copiesAfter_mem, State.modEntry_mem]
  exact State.mem_reqWrite hi hm hl _

theorem State.length_memRead (s : State) (k n : Nat) : (s.memRead k n).length = n := readBytes_length ..

theorem State.mem_homeServe_read (hi : r.il = false) (hm : e.mst ≠ 1) (hk : r.kind = .load ∨ ∃ n, r.kind = .tryRead n) :
    (s.homeServe r e).1.mem = s.mem := by
  have hr := State.reqRead_of_linear (s := s) (e := e) hi
  rw [State.mem_homeServe, State.mem_performed hi hm] <;> obtain hk | ⟨n, hk⟩ := hk
  · simp [Req.changes, hk]
  · simp [Req.changes, hk]
  · simp [reqApply, hk, hr, State.length_memRead]
  · simp [reqApply, hk, hr, State.length_memRead]

theorem State.homeServe_wrote_store (hi : r.il = false) (hm : e.mst ≠ 1) (hk : r.kind = .store) (hl : r.data.length = r.size) :
    MemWrote s (s.homeServe r e).1 (e.key r.ia) r.data := by
  refine memWrote_writeBytes ?_
  rw [State.mem_homeServe, State.mem_performed hi hm] <;> simp [reqApply, Req.changes, hk, hl]

/-- A read-modify-write leaves the bytes its operation computes; a comparison that fails leaves the old ones, and changes nothing. -/
theorem State.homeServe_wrote_rmw {op : Rmw} {z : Bool} (hi : r.il = false) (hm : e.mst ≠ 1) (hk : r.kind = .rmw op z)
    (h2 : r.data2.length ≤ r.size) :
    MemWrote s (s.homeServe r e).1 (e.key r.ia) ((rmwApply op z (s.memRead (e.key r.ia) r.size) r.data r.data2).1.take r.size) := by
  have hlen := length_rmwApply op z _ r.data r.data2 (s.length_memRead (e.key r.ia) r.size) h2
  have happ : (reqApply r (s.reqRead e r)).1 = (rmwApply op z (s.memRead (e.key r.ia) r.size) r.data r.data2).1 := by
    simp only [reqApply, hk, State.reqRead_of_linear hi]
  have hmem := State.mem_homeServe.trans (State.mem_performed hi hm (happ ▸ hlen))
  rw [List.take_of_length_le hlen]
  by_cases hc : r.changes (s.reqRead e r) = true
  · rw [if_pos hc, happ] at hmem
    exact memWrote_writeBytes hmem
  · rw [if_neg hc] at hmem
    have hcas : op = .cas ∧ s.memRead (e.key r.ia) r.size ≠ r.data := by
      rw [State.reqRead_of_linear hi] at hc
      cases op <;> simp_all [Req.changes]
    obtain ⟨rfl, hne⟩ := hcas
    simp only [rmwApply, if_neg hne]
    exact memWrote_memRead hmem _ _

/-! The request at its home -/

theorem State.takeReqs_nil (s : State) : s.takeReqs [] = s := by
  refine congrArg (fun l => { s with pending := l }) (List.filter_eq_self.2 fun e _ => ?_)
  split <;> rfl

/-- Each of the events that bring a request to its home performs it. -/
theorem exec_atHome {i : Instr} (hi : i ∈ [Instr.homeAccess r, .arvPerform r, .counterSignalPerform r]) : exec i s = .next (s.reqArrive r) := by
  simp only [List.mem_cons, List.not_mem_nil, or_false] at hi
  rcases hi with rfl | rfl | rfl <;> rfl

/-- A request that stands first at its home is performed on its frame, under its order point, which holds nothing back. -/
theorem AtHome.exec_eq (h : AtHome s r e) (hw : s.waitRead r (iaKey r.home r.ia) (s.memRead (e.key r.ia) r.size) = none)
    {i : Instr} (hi : i ∈ [Instr.homeAccess r, .arvPerform r, .counterSignalPerform r]) :
    ∃ l, exec i s = .next (State.homeServe { s with held := l } r e).1 := by
  obtain ⟨hlapsed, hdie, hfifo, hstack, hholds, hsame, hsib, herr, he, -, hil, hrings, -⟩ := h
  have hone : s.reqArrive r = s.homeOne r.atHome r := by
    simp only [State.reqArrive, hlapsed, hdie, hfifo, hholds, hsame, Nat.not_le.2 hstack, Bool.or_self, Bool.false_eq_true, if_false,
      List.foldl_nil, State.takeReqs_nil]
  rw [← State.reqRead_of_linear hil] at hw
  rw [exec_atHome hi, hone]
  simp only [State.homeOne, hsib, herr, Option.map_none, Option.or_none, he, hw]
  split
  · obtain ⟨l, hl⟩ := State.atPointLate_of_unlogged (s := s) (e := s.homeEv r) hrings r.atHome
    exact ⟨l, by rw [hl]⟩
  · exact ⟨s.held, rfl⟩

theorem State.waitRead_of_ne_load (h : r.kind ≠ .load) (key : Nat) (old : List Byte) : s.waitRead r key old = none := by
  unfold State.waitRead
  dsimp only
  split
  · next hk _ => exact absurd hk h
  · rfl

end

/-! ### A request performed at its scratchpad (R82, R83) -/

/-- The request stands first at the scratchpad of block b, which has no command ring and holds no lane of its instruction back. -/
structure AtPad (s : State) (r : Req) (b : Blk) : Prop where
  stack : 16 ≤ r.home.stack
  target : s.scrTarget r = some b
  blk : s.blk? b.id = some b
  noRing : b.logn = 0
  lapsed : s.lapsed r = false
  overlap : s.overlapWait r = false
  prog : s.progWait r = false
  same : s.sameLoc r = []
  sibling : s.siblingErr r = none
  unlogged : ∀ c, s.ctx? r.wave.blk.ctx = some c → c.rings = []

/-- Memory is as it was, and of the scratchpad of block b the bytes bs from offset o on have been written. -/
def PadWrote (s t : State) (b : BlkId) (o : Nat) (bs : List Byte) : Prop :=
  t.mem = s.mem ∧ ∀ k, t.scrByte b k = if o ≤ k ∧ k < o + bs.length then bs.getD (k - o) 0 else s.scrByte b k

/-- The bytes the request leaves are in the scratchpad. -/
def State.padWritten (s : State) (r : Req) (b : Blk) : State :=
  if r.kind.writes then s.modBlk b.id fun x => { x with scratch := writeBytes b.scratch r.ia (reqApply r (b.scrRead r.ia r.size)).1 } else s

section
variable {s : State} {r : Req} {b : Blk}

theorem State.scrStore_of_noRing (hb : s.blk? b.id = some b) (hn : b.logn = 0) (o : Nat) (bs : List Byte) (w : WaveId) (ord : Nat) :
    s.scrStore b.id o bs w ord = .ok (s.modBlk b.id fun x => { x with scratch := writeBytes b.scratch o bs }) := by
  simp only [State.scrStore, hb, hn, true_or, if_true]

theorem AtPad.exec_eq (h : AtPad s r b) (hw : s.waitRead r (scrKey b.id r.ia) (b.scrRead r.ia r.size) = none)
    {i : Instr} (hi : i ∈ [Instr.homeAccess r, .arvPerform r, .counterSignalPerform r]) :
    ∃ l fl, exec i s = .next ((State.padWritten { s with held := l } r b).reqDone r (scrKey b.id r.ia) (b.scrRead r.ia r.size)
      (reqApply r (b.scrRead r.ia r.size)).1 fl) := by
  have hpad : s.reqArrive r = s.scrAccess r.atHome r := by
    simp only [State.reqArrive, h.lapsed, h.overlap, h.prog, h.same, ge_iff_le, h.stack, Bool.or_self, Bool.false_eq_true, if_false, if_true,
      List.foldl_nil, State.takeReqs_nil]
  have hstore (l : List Held) (bs : List Byte) : State.scrStore { s with held := l } b.id r.ia bs r.wave r.ord
      = .ok (({ s with held := l } : State).modBlk b.id fun x => { x with scratch := writeBytes b.scratch r.ia bs }) :=
    State.scrStore_of_noRing (s := { s with held := l }) h.blk h.noRing ..
  rw [exec_atHome hi, hpad]
  simp only [State.scrAccess, h.target, h.sibling, hw]
  cases hk : r.kind.writes <;> simp only [State.padWritten, hk, Bool.false_eq_true, if_false, if_true]
  · split
    · obtain ⟨l, hl⟩ := State.atPointLate_of_unlogged (s := s) (e := s.reqEv _ _ r) h.unlogged r.atHome
      exact ⟨l, _, congrArg _ (hl none _)⟩
    · exact ⟨s.held, _, rfl⟩
  · split
    · obtain ⟨l, hl⟩ := State.atPointLate_of_unlogged (s := s) (e := s.reqEv _ _ r) h.unlogged r.atHome
      exact ⟨l, _, congrArg _ ((hl none _).trans (by rw [hstore]))⟩
    · exact ⟨s.held, _, by rw [hstore s.held]⟩

/-- A request at its scratchpad is performed there: its bytes, and its answer where it wakes no waits. -/
theorem AtPad.performs (h : AtPad s r b) (hw : s.waitRead r (scrKey b.id r.ia) (b.scrRead r.ia r.size) = none)
    {i : Instr} (hi : i ∈ [Instr.homeAccess r, .arvPerform r, .counterSignalPerform r]) :
    ∃ t, exec i s = .next t ∧ PadWrote s t b.id r.ia (if r.kind.writes then (reqApply r (b.scrRead r.ia r.size)).1 else [])
      ∧ ((∀ z, r.kind ≠ .rmw .arv z ∧ r.kind ≠ .rmw .csig z) → Answered s t r (r.returns (b.scrRead r.ia r.size))) := by
  obtain ⟨l, fl, he⟩ := h.exec_eq hw hi
  have hdone := State.reqDone_woken (State.padWritten { s with held := l } r b) r (scrKey b.id r.ia) (b.scrRead r.ia r.size)
    (reqApply r (b.scrRead r.ia r.size)).1 fl
  refine ⟨_, he, ⟨hdone.mem.trans ?_, fun k => (State.scrByte_congr hdone.blks b.id k).trans ?_⟩,
    fun hk => State.reqDone_answered hk (.of_ops ?_) _ _ _ _⟩
  · unfold State.padWritten
    split <;> rfl
  · unfold State.padWritten
    split
    · refine (State.scrByte_modBlk (s := { s with held := l }) h.blk _ b.id k).trans ?_
      rw [if_pos rfl, get_writeBytes]
      simp only [State.scrByte, h.blk]
    · rw [if_neg (by simp only [List.length_nil]; omega)]
      rfl
  · unfold State.padWritten
    split <;> rfl

end

/-! ### The statement -/

section
variable {s : State} {r : Req} {e : Entry}

/-- A load or a read at its home leaves memory as it was, and is answered or comes back. -/
theorem AtHome.reads (h : AtHome s r e) (hk : r.kind = .load ∨ ∃ n, r.kind = .tryRead n)
    (hw : s.waitRead r (iaKey r.home r.ia) (s.memRead (e.key r.ia) r.size) = none) :
    ∃ t, exec (.homeAccess r) s = .next t ∧ t.mem = s.mem ∧ (¬ComesLate r e → Answered s t r (s.memRead (e.key r.ia) r.size))
      ∧ (ComesLate r e → ∃ q, .readCompletionReturns q ∈ t.pending ∧ q.op = r.op ∧ q.lane = r.lane ∧ q.pos = r.pos
        ∧ q.data = s.memRead (e.key r.ia) r.size) := by
  obtain ⟨l, he⟩ := h.exec_eq hw List.mem_cons_self
  obtain ⟨-, -, -, -, -, -, -, -, -, hm, hi, -, -⟩ := h
  let u : State := { s with held := l }
  have hold : u.reqRead e r = s.memRead (e.key r.ia) r.size := State.reqRead_of_linear (s := u) hi
  have hret : r.returns (u.reqRead e r) = s.memRead (e.key r.ia) r.size := by
    rw [hold]
    obtain hk | ⟨n, hk⟩ := hk <;> simp only [Req.returns, hk]
  refine ⟨_, he, State.mem_homeServe_read hi hm hk, fun hl => ?_, fun hl => ?_⟩
  · have ha := State.homeServe_answered (s := u) hl (by obtain hk | ⟨n, hk⟩ := hk <;> simp [hk])
    rwa [hret] at ha
  · have hb := State.homeServe_back (s := u) hl (hret.trans hold.symm)
    rwa [hold] at hb

theorem AtHome.stores (h : AtHome s r e) (hk : r.kind = .store) :
    ∃ t, exec (.homeAccess r) s = .next t ∧ MemWrote s t (e.key r.ia) r.data ∧ Answered s t r [] := by
  obtain ⟨l, he⟩ := h.exec_eq (State.waitRead_of_ne_load (by simp [hk]) ..) List.mem_cons_self
  obtain ⟨-, -, -, -, -, -, -, -, -, hm, hi, -, hlen⟩ := h
  have hl : ¬ComesLate r e := by simp [ComesLate, hk]
  have ha := State.homeServe_answered (s := { s with held := l }) hl (by simp [hk])
  simp only [Req.returns, hk] at ha
  exact ⟨_, he, State.homeServe_wrote_store (s := { s with held := l }) hi hm hk (hlen (by simp [hk, ReqKind.writes])).1, ha⟩

theorem AtHome.modifies (h : AtHome s r e) {op : Rmw} {z : Bool} (hk : r.kind = .rmw op z)
    {i : Instr} (hi : i ∈ [Instr.homeAccess r, .arvPerform r, .counterSignalPerform r]) :
    let old := s.memRead (e.key r.ia) r.size
    ∃ t, exec i s = .next t ∧ MemWrote s t (e.key r.ia) ((rmwApply op z old r.data r.data2).1.take r.size)
      ∧ (op ≠ .arv → op ≠ .csig → (e.loc ≠ 3 → Answered s t r old)
        ∧ (e.loc = 3 → ∃ q, .readCompletionReturns q ∈ t.pending ∧ q.op = r.op ∧ q.lane = r.lane ∧ q.pos = r.pos ∧ q.data = old))
      ∧ Faded t r := by
  intro old
  obtain ⟨l, he⟩ := h.exec_eq (State.waitRead_of_ne_load (by simp [hk]) ..) hi
  obtain ⟨-, -, -, -, -, -, -, -, -, hm, hil, -, hlen⟩ := h
  let u : State := { s with held := l }
  have hold : u.reqRead e r = old := State.reqRead_of_linear (s := u) hil
  have hlate : ComesLate r e ↔ e.loc = 3 := by simp [ComesLate, hk]
  refine ⟨_, he, State.homeServe_wrote_rmw (s := u) hil hm hk (hlen (by simp [hk, ReqKind.writes])).2, fun h1 h2 => ?_,
    State.homeServe_faded hil hk⟩
  have hret : r.returns (u.reqRead e r) = old := by
    rw [hold]
    cases op <;> simp_all [Req.returns]
  refine ⟨fun h3 => ?_, fun h3 => ?_⟩
  · have ha := State.homeServe_answered (s := u) (hlate.not.2 h3) (by simp [hk, h1, h2])
    rwa [hret] at ha
  · have hb := State.homeServe_back (s := u) (hlate.2 h3) (hret.trans hold.symm)
    rwa [hold] at hb

end

/-- Settles O33: at a home each kind of request is the one service of its frame, at a scratchpad the one service of its block. -/
theorem homesPerform : Obligations.HomesPerform := by
  unfold Obligations.HomesPerform
  intro s r
  constructor
  · intro e h key old back
    refine ⟨fun hk hw => ?_, fun n hk => ?_, h.stores, fun op z hk i hi => h.modifies hk hi⟩
    · obtain ⟨t, he, hmem, hanswered, hback⟩ := h.reads (.inl hk) hw
      refine ⟨t, he, hmem, fun h1 => hanswered ?_, fun h2 => hback ?_⟩ <;> simp_all [ComesLate, or_comm]
    · obtain ⟨t, he, hmem, hanswered, hback⟩ := h.reads (.inr ⟨n, hk⟩) (State.waitRead_of_ne_load (by simp [hk]) ..)
      refine ⟨t, he, hmem, fun h1 => hanswered ?_, fun h2 => hback ?_⟩ <;> simp_all [ComesLate]
  intro b hstack htarget hblk hn hlapsed hover hprog hsame hsib hrings hlen old holds
  have h : AtPad s r b := ⟨hstack, htarget, hblk, hn, hlapsed, hover, hprog, hsame, hsib, hrings⟩
  refine ⟨fun hk hw => ?_, fun n hk => ?_, fun hk => ?_, fun op z hk i hi => ?_⟩
  · obtain ⟨t, he, hwrote, ha⟩ := h.performs hw List.mem_cons_self
    simp only [hk, ReqKind.writes, Req.returns, Bool.false_eq_true, if_false] at hwrote ha
    exact ⟨t, he, hwrote, ha (by simp)⟩
  · obtain ⟨t, he, hwrote, ha⟩ := h.performs (State.waitRead_of_ne_load (by simp [hk]) ..) List.mem_cons_self
    simp only [hk, ReqKind.writes, Req.returns, Bool.false_eq_true, if_false] at hwrote ha
    exact ⟨t, he, hwrote, ha (by simp)⟩
  · obtain ⟨t, he, hwrote, ha⟩ := h.performs (State.waitRead_of_ne_load (by simp [hk]) ..) List.mem_cons_self
    simp only [hk, ReqKind.writes, Req.returns, reqApply, if_true] at hwrote ha
    exact ⟨t, he, hwrote, ha (by simp)⟩
  · obtain ⟨t, he, hwrote, ha⟩ := h.performs (State.waitRead_of_ne_load (by simp [hk]) ..) hi
    simp only [hk, ReqKind.writes, reqApply, if_true] at hwrote ha
    refine ⟨t, he, hwrote, fun h1 h2 => ?_⟩
    have hret : r.returns (b.scrRead r.ia r.size) = old := by cases op <;> simp_all [Req.returns, old]
    exact hret ▸ ha (by simp [h1, h2])

end Sys2Proof.Machine

/-! ## Home commands (O52) -/

namespace Sys2Proof.Machine

/-! ### What a write of the Hub may change -/

/-- A page operation but for the accesses it holds and the old bytes it keeps. -/
def PageOp.bare (p : PageOp) : PageOp := { p with reqs := [], back := [] }

/-- A home but for the accesses that its rows hold. -/
def Home.bare (x : Home) : Home := { x with rows := x.rows.map fun y => { y with held := [] } }

/-- A function's number, partition and home map. -/
def Fn.part (f : Fn) : Nat × BitVec 576 × List (Nat × Nat) := (f.num, f.fpart, f.hmap)

/-- t is s after the Hub has written its structures: bytes at their homes or accesses that these hold, what leaves by a port, and the ring
indices of functions. -/
structure HubWrote (s t : State) : Prop where
  frame : t = { s with mem := t.mem, poison := t.poison, pageops := t.pageops, homes := t.homes, fns := t.fns, outbox := t.outbox }
  pageops : t.pageops.map PageOp.bare = s.pageops.map PageOp.bare
  homes : t.homes.map Home.bare = s.homes.map Home.bare
  fns : t.fns.map Fn.part = s.fns.map Fn.part
  outbox : s.outbox ⊆ t.outbox
  poison : ∀ k ∈ s.poison, s.failing k = true → k ∈ t.poison

section
variable {s t u : State}

theorem HubWrote.entries (h : HubWrote s t) : t.entries = s.entries := by rw [h.frame]
theorem HubWrote.pending (h : HubWrote s t) : t.pending = s.pending := by rw [h.frame]
theorem HubWrote.blks (h : HubWrote s t) : t.blks = s.blks := by rw [h.frame]

theorem HubWrote.failing (h : HubWrote s t) (k : Nat) : t.failing k = s.failing k := by
  have hf (v : State) : v.failing k = (v.homes.map Home.bare).any fun x => x.failing.contains k := by rw [List.any_map]; rfl
  rw [hf, hf, h.homes]

theorem HubWrote.refl (s : State) : HubWrote s s := ⟨rfl, rfl, rfl, rfl, fun _ => id, fun _ h _ => h⟩

theorem HubWrote.trans (h : HubWrote s t) (k : HubWrote t u) : HubWrote s u where
  frame := k.frame.trans (congrArg (fun x : State => { x with
    mem := u.mem, poison := u.poison, pageops := u.pageops, homes := u.homes, fns := u.fns, outbox := u.outbox }) h.frame)
  pageops := k.pageops.trans h.pageops
  homes := k.homes.trans h.homes
  fns := k.fns.trans h.fns
  outbox := List.Subset.trans h.outbox k.outbox
  poison n hn hf := k.poison n (h.poison n hn hf) ((h.failing n).trans hf)

theorem HubWrote.foldl {α : Type} {f : State → α → State} (hf : ∀ s a, HubWrote s (f s a)) (l : List α) (s : State) :
    HubWrote s (l.foldl f s) := by
  induction l generalizing s with
  | nil => exact .refl s
  | cons a r ih => exact (hf s a).trans (ih _)

theorem HubWrote.modFn (h : HubWrote s t) (n : Nat) {f : Fn → Fn} (hf : ∀ x, (f x).part = x.part) : HubWrote s (t.modFn n f) :=
  h.trans ⟨rfl, rfl, rfl, map_updFirst hf _, fun _ => id, fun _ h _ => h⟩

theorem State.noteReuse_hubWrote (s : State) (e : Entry) (k n : Nat) : HubWrote s (s.noteReuse e k n) := by
  refine ⟨rfl, ?_, rfl, rfl, fun _ => id, fun _ h _ => h⟩
  unfold State.noteReuse
  extract_lets note
  rw [List.map_map]
  refine List.map_congr_left fun p _ => ?_
  simp only [Function.comp, note]
  split
  · rfl
  · split <;> rfl

theorem State.freshSectors_hubWrote (s : State) (k n : Nat) : HubWrote s (s.freshSectors k n) :=
  ⟨rfl, rfl, rfl, rfl, fun _ => id, fun x hx hf => List.mem_filter.2 ⟨hx, by rw [hf, Bool.or_true]⟩⟩

theorem State.memWrite_hubWrote (s : State) (k : Nat) (bs : List Byte) : HubWrote s (s.memWrite k bs) :=
  ⟨rfl, rfl, rfl, rfl, fun _ => id, fun _ h _ => h⟩

theorem State.egress_hubWrote (s : State) (e : Entry) (ia n : Nat) (w : Option (List Byte)) : HubWrote s (s.egress e ia n w) := by
  have ho (x : Sent) : HubWrote s { s with outbox := s.outbox ++ [x] } :=
    ⟨rfl, rfl, rfl, rfl, List.subset_append_left .., fun _ h _ => h⟩
  unfold State.egress
  split
  · exact ho _
  · exact ho _
  · exact ho _
  · exact .refl s

theorem State.frameSet_hubWrote (s : State) (e : Entry) (ia : Nat) (bs : List Byte) : HubWrote s (s.frameSet e ia bs) := by
  have h := ((s.noteReuse_hubWrote e (e.key ia) bs.length).trans (State.freshSectors_hubWrote _ (e.key ia) bs.length)).trans
    (State.memWrite_hubWrote _ (e.key ia) bs)
  unfold State.frameSet
  dsimp only
  split
  · exact h.trans (State.memWrite_hubWrote ..)
  · exact h

theorem State.framePut_hubWrote (s : State) (e : Entry) (ia : Nat) (bs : List Byte) : HubWrote s (s.framePut e ia bs) := by
  have h := (s.frameSet_hubWrote e ia bs).trans (State.egress_hubWrote _ e ia bs.length (some bs))
  unfold State.framePut
  dsimp only
  split
  · exact h.trans (State.egress_hubWrote ..)
  · exact h

theorem RowOp.map_held_updFirst (p : RowOp → Bool) (r : Req) (l : List RowOp) :
    (updFirst p (fun y => { y with held := y.held ++ [r] }) l).map (fun y => { y with held := [] }) = l.map fun y => { y with held := [] } :=
  map_updFirst (g := fun y : RowOp => { y with held := [] }) (fun _ => by rfl) l

theorem State.holdReq_hubWrote (s : State) (e : Entry) (r : Req) : HubWrote s (s.holdReq e r) := by
  unfold State.holdReq
  split
  · exact ⟨rfl, map_updFirst (fun _ => by rfl) _, rfl, rfl, fun _ => id, fun _ h _ => h⟩
  · refine ⟨rfl, rfl, map_updFirst (fun x => ?_) _, rfl, fun _ => id, fun _ h _ => h⟩
    simp only [Home.bare, RowOp.map_held_updFirst]

theorem State.devWrite_hubWrote {fn ia : Nat} {bs : List Byte} (h : s.devWrite fn ia bs = some t) : HubWrote s t := by
  obtain ⟨e, -, rfl⟩ := Option.map_eq_some_iff.1 h
  split
  · exact s.holdReq_hubWrote ..
  · exact s.framePut_hubWrote ..

theorem State.devWrite_getD_hubWrote (s : State) (fn ia : Nat) (bs : List Byte) : HubWrote s ((s.devWrite fn ia bs).getD s) := by
  cases h : s.devWrite fn ia bs with
  | none => exact .refl s
  | some t => exact State.devWrite_hubWrote h

theorem State.ringPut_hubWrote {fn : Nat} {reg pi ci : W64} {ws : List W64} (h : s.ringPut fn reg pi ci ws = some t) : HubWrote s t := by
  unfold State.ringPut at h
  dsimp only at h
  split at h
  · cases h
    exact s.devWrite_getD_hubWrote ..
  · cases h

theorem State.hccFlush_hubWrote (s : State) (n fn : Nat) : HubWrote s (s.hccFlush n fn) := by
  induction n generalizing s with
  | zero => exact .refl s
  | succ k ih =>
    unfold State.hccFlush
    split
    · exact .refl s
    split
    · exact .refl s
    split
    · next h => exact ((State.ringPut_hubWrote h).modFn fn fun _ => by rfl).trans (ih _)
    · exact .refl s

theorem State.prqFlush_hubWrote (s : State) (n fn : Nat) : HubWrote s (s.prqFlush n fn) := by
  induction n generalizing s with
  | zero => exact .refl s
  | succ k ih =>
    unfold State.prqFlush
    split
    · exact .refl s
    split
    · exact .refl s
    split
    · next h => exact ((State.ringPut_hubWrote h).modFn fn fun _ => by rfl).trans (ih _)
    · exact .refl s

theorem State.cmdEnd_hubWrote (s : State) (c : HomeCmd) (st n : Nat) (w : W64) : HubWrote s (s.cmdEnd c st n w) := by
  unfold State.cmdEnd
  exact ((HubWrote.refl s).modFn c.fn fun _ => by rfl).trans (State.hccFlush_hubWrote ..)

theorem State.prqPost_hubWrote (s : State) (fn : Nat) (ws : List W64) : HubWrote s (s.prqPost fn ws) := by
  unfold State.prqPost
  exact ((HubWrote.refl s).modFn fn fun _ => by rfl).trans (State.prqFlush_hubWrote ..)

theorem State.bufWrite_hubWrote (s : State) (fn ia : Nat) (bs : List Byte) : HubWrote s (s.bufWrite fn ia bs) := by
  unfold State.bufWrite
  exact .foldl (fun t p => t.devWrite_getD_hubWrote ..) _ s

/-! What is found after it -/

theorem HubWrote.entry? (h : HubWrote s t) (g : HomeId) (a : Nat) : t.entry? g a = s.entry? g a := State.entry?_congr h.entries g a

theorem HubWrote.devEntry? (h : HubWrote s t) (fn a : Nat) : t.devEntry? fn a = s.devEntry? fn a := by
  rw [State.devEntry?, h.entries, State.devEntry?]

theorem HubWrote.home? (h : HubWrote s t) (g : HomeId) : (t.home? g).map Home.bare = (s.home? g).map Home.bare :=
  find?_map_congr h.homes (q := fun x => decide (x.id = g)) fun _ => rfl

theorem HubWrote.home?_some (h : HubWrote s t) {g : HomeId} {x : Home} (hx : s.home? g = some x) :
    ∃ y, t.home? g = some y ∧ y.bare = x.bare := by
  have hm := h.home? g
  rw [hx, Option.map_some] at hm
  exact Option.map_eq_some_iff.1 hm

theorem HubWrote.fn? (h : HubWrote s t) (n : Nat) : (t.fn? n).map Fn.part = (s.fn? n).map Fn.part :=
  find?_map_congr h.fns (q := fun x => x.1 == n) fun _ => rfl

theorem HubWrote.pages (h : HubWrote s t) : t.pages = s.pages := by
  have ho (v : State) : v.pageops.map PageOp.outline = (v.pageops.map PageOp.bare).map PageOp.outline := by rw [List.map_map]; rfl
  rw [State.pages, State.pages, ho, ho, h.pageops, h.entries]

theorem HubWrote.copyTarget (h : HubWrote s t) (e : Entry) : t.copyTarget e = s.copyTarget e := State.copyTarget_congr h.pages e

theorem State.rowAt_eq (s : State) (e : Entry) (ia n : Nat) : s.rowAt e ia n = ((s.home? e.home).map Home.bare).bind fun x =>
    if e.loc != 1 then none
    else (x.rows.find? fun x => (secsOf ia n).any fun p => Config.inRow x.row ((e.faddr + (p.1 - e.ia)) / 64)).map fun x => x.row := by
  unfold State.rowAt
  cases s.home? e.home with
  | none => rfl
  | some x => simp only [Option.map_some, Option.bind_some, Home.bare, List.find?_map, Option.map_map]; rfl

theorem HubWrote.pageHeld (h : HubWrote s t) (e : Entry) (ia n : Nat) : t.pageHeld e ia n = s.pageHeld e ia n := by
  rw [State.pageHeld, State.pageHeld, State.rowAt_eq, State.rowAt_eq, h.home?]

/-! ### Completion records (R66) -/

/-- What R66 says of a completion record is of these records alone. -/
def State.hub (s : State) : List Host.Cell × List Entry × List PageOp × List Home × List Fn := (s.mem, s.entries, s.pageops, s.homes, s.fns)

theorem Reported.congr {c : HomeCmd} {st n : Nat} {w : W64} {t' : State} (h : Reported s t c st n w) (hs : u.fn? c.fn = s.fn? c.fn)
    (ht : t'.hub = t.hub) : Reported u t' c st n w := by
  simp only [State.hub, Prod.mk.injEq] at ht
  obtain ⟨hm, he, hp, hh, hf⟩ := ht
  simp only [Reported, State.fn?, State.devEntry?, State.pageHeld, State.rowAt, State.home?, State.copyTarget, State.memRead, hm, he, hp, hh,
    hf] at h hs ⊢
  rwa [hs]

theorem State.egress_fns (s : State) (e : Entry) (ia n : Nat) (w : Option (List Byte)) : (s.egress e ia n w).fns = s.fns := by
  unfold State.egress
  split <;> rfl

theorem State.framePut_fns (s : State) (e : Entry) (ia : Nat) (bs : List Byte) : (s.framePut e ia bs).fns = s.fns := by
  have h : (s.frameSet e ia bs).fns = s.fns := by
    unfold State.frameSet
    dsimp only
    split <;> rfl
  unfold State.framePut
  dsimp only
  split <;> simp only [State.egress_fns, h]

theorem State.devWrite_getD_fns (s : State) (fn ia : Nat) (bs : List Byte) : ((s.devWrite fn ia bs).getD s).fns = s.fns := by
  unfold State.devWrite
  cases s.devEntry? fn ia with
  | none => rfl
  | some e =>
    simp only [Option.map_some, Option.getD_some]
    split
    · unfold State.holdReq
      split <;> rfl
    · exact s.framePut_fns ..

/-- A write of the Hub to a page with a frame whose home holds no accesses, and that is not being migrated, is performed. -/
theorem State.devWrite_mem {fn ia : Nat} {bs : List Byte} {e : Entry} (he : s.devEntry? fn ia = some e)
    (hh : s.pageHeld e ia bs.length = false) (hc : s.copyTarget e = none) :
    ((s.devWrite fn ia bs).getD s).mem = writeBytes s.mem (e.key ia) bs := by
  simp only [State.devWrite, he, Option.map_some, hh, Bool.false_eq_true, if_false, Option.getD_some, State.mem_framePut hc]

/-- Every end of a command is reported (R66). -/
theorem State.cmdEnd_reported (s : State) (c : HomeCmd) (st n : Nat) (w : W64) : Reported s (s.cmdEnd c st n w) c st n w := by
  intro f hf hon hwait hroom a
  let ws := [c.tag, BitVec.ofNat 64 (st + n % 2 ^ 16 * 2 ^ 16), w, 0]
  let s1 := s.modFn c.fn fun f => { f with hccWait := f.hccWait ++ [ws] }
  let u := (s1.devWrite c.fn a (bytesOf ws)).getD s1
  let written := fun f : Fn => { f with hccpi := f.hccpi + 1, hccWait := [] }
  have h1 : s1.fn? c.fn = some { f with hccWait := [ws] } := by
    refine (State.fn?_modFn_some hf (fun f => { f with hccWait := f.hccWait ++ [ws] }) fun _ => rfl).trans ?_
    rw [hwait, List.nil_append]
  have hput : s1.ringPut c.fn f.hcc f.hccpi f.hccci ws = some u := by
    simp only [State.ringPut, hon, hroom, decide_true, Bool.and_self, if_true]
    rfl
  have hu : u.fn? c.fn = some { f with hccWait := [ws] } := by
    rw [State.fn?, s1.devWrite_getD_fns]
    exact h1
  have hend : s.cmdEnd c st n w = u.modFn c.fn written := by
    show s1.hccFlush (65536 + 1) c.fn = _
    rw [State.hccFlush]
    simp only [h1, hput]
    exact State.hccFlush_modFn hu 65536 written (fun _ => rfl) rfl
  rw [hend]
  refine ⟨(State.fn?_modFn_some hu written fun _ => rfl).trans (by simp only [written, hwait]), fun e he hheld hcopy => ?_⟩
  have hw : HubWrote s1 u := s1.devWrite_getD_hubWrote ..
  have hlen : (bytesOf ws).length = 32 := by simp [bytesOf, ws, leBytes_length]
  have hmem : u.mem = writeBytes s1.mem (e.key a) (bytesOf ws) :=
    State.devWrite_mem ((hw.devEntry? ..).symm.trans he) (hlen ▸ (hw.pageHeld ..).symm.trans hheld) ((hw.copyTarget _).symm.trans hcopy)
  have hread := memRead_memWrite s1 (e.key a) (bytesOf ws)
  rw [hlen] at hread
  show readBytes u.mem (e.key a) 32 = _
  rw [hmem]
  exact hread

/-- A record that finds no slot changes no memory. -/
theorem State.mem_cmdEnd_of_full {c : HomeCmd} {f : Fn} (hf : s.fn? c.fn = some f)
    (hfull : ringOn f.hcc = false ∨ 2 ^ ringLog f.hcc ≤ f.hccpi.toNat - f.hccci.toNat) (st n : Nat) (w : W64) :
    (s.cmdEnd c st n w).mem = s.mem := by
  have hput (t : State) (ws : List W64) : t.ringPut c.fn f.hcc f.hccpi f.hccci ws = none := by
    unfold State.ringPut
    refine if_neg ?_
    rcases hfull with h | h
    · simp [h]
    · simp [Nat.not_lt.2 h]
  have hw := State.fn?_modFn_some hf
    (fun f => { f with hccWait := f.hccWait ++ [[c.tag, BitVec.ofNat 64 (st + n % 2 ^ 16 * 2 ^ 16), w, 0]] }) fun _ => rfl
  unfold State.cmdEnd
  rw [State.hccFlush]
  simp only [hw, hput]
  split <;> rfl

end

/-! ### A command at its turn (R64, R66) -/

section
variable {s : State} {c : HomeCmd} {e : Entry}

/-- No older command of the function for a page of c is still to run, and c keeps R64. -/
def AtTurn (s : State) (c : HomeCmd) : Prop := s.cmdBehind c = false ∧ s.cmdBad c = none

theorem State.runCmd_behind (h : s.cmdBehind c = true) (i : Instr) (f : State → HomeId → State) : s.runCmd i c f = s.due [i] := by
  simp [State.runCmd, h]

theorem State.runCmd_bad (h : s.cmdBehind c = false) {st : Nat} (hb : s.cmdBad c = some st) (i : Instr) (f : State → HomeId → State) :
    s.runCmd i c f = s.cmdEnd c st 0 0 := by
  simp [State.runCmd, h, hb]

theorem AtTurn.runCmd (h : AtTurn s c) (i : Instr) (f : State → HomeId → State) : s.runCmd i c f = f s (s.cmdHome c) := by
  simp [State.runCmd, h.1, h.2]

/-- Every home command but a reserved opcode takes its turn. -/
theorem exec_homeEvents (s : State) {i : Instr} (hi : i ∈ homeEvents c) : ∃ f, exec i s = .next (s.runCmd i c f) := by
  simp only [homeEvents, List.mem_cons, List.not_mem_nil, or_false] at hi
  rcases hi with rfl | rfl | rfl | rfl | rfl | rfl | rfl | rfl | rfl <;> exact ⟨_, rfl⟩

theorem exec_badcmdOpcode (s : State) (c : HomeCmd) :
    exec (.badcmdOpcode c) s = .next (if s.cmdBehind c then s.due [.badcmdOpcode c] else s.cmdEnd c 11 0 0) := rfl

/-- A command that has come to nothing is reported. -/
theorem reported_of_exec {i : Instr} {st n : Nat} {w : W64} (h : exec i s = .next (s.cmdEnd c st n w)) :
    ∃ t, exec i s = .next t ∧ Reported s t c st n w := ⟨_, h, s.cmdEnd_reported c st n w⟩

/-- A command that has left functions alone is reported. -/
theorem State.cmdEnd_reported_of_fns {u : State} (h : u.fns = s.fns) (c : HomeCmd) (st n : Nat) (w : W64) :
    Reported s (u.cmdEnd c st n w) c st n w :=
  (u.cmdEnd_reported c st n w).congr (by rw [State.fn?, State.fn?, h]) rfl

/-- R64: a command names a page by its first byte. -/
theorem pageOf_of_cmdBad (h : s.cmdBad c = none) : pageOf c.ia = c.ia := by
  have hm : c.ia % pageSize c.ia = 0 := by
    by_contra hm
    simp [State.cmdBad, hm] at h
  exact Nat.div_mul_cancel (Nat.dvd_of_mod_eq_zero hm)

theorem State.cmdEntry_some (h : s.cmdEntry c (s.cmdHome c) = some e) : s.entry? (s.cmdHome c) c.ia = some e ∧ e.owner = c.ctx := by
  unfold State.cmdEntry at h
  split at h
  · split at h
    · next he ho => exact ⟨he.trans h, Option.some.inj h ▸ ho⟩
    · cases h
  · cases h

/-! ### The doorbell (R64) -/

/-- The events of k descriptors of a function's queue. -/
def State.descriptors (s : State) (fn : Nat) (f : Fn) (k : Nat) : List Instr := (List.range k).map fun i =>
  homeCmdEvent (parseHomeCmd fn (f.hcqci.toNat + i)
    ((s.devRead fn (ringIa f.hcq + 64 * ((f.hcqci.toNat + i) % 2 ^ ringLog f.hcq)) 64).getD []))

/-- A queue's indices once its descriptors before ci have been taken. -/
def Fn.taken (pi ci : Nat) (g : Fn) : Fn := { g with hcqpi := BitVec.ofNat 64 (max g.hcqpi.toNat pi), hcqci := BitVec.ofNat 64 ci }

/-- The descriptors that a doorbell of producer index pi has the Hub take. -/
def Fn.offered (f : Fn) (pi : Nat) : Nat := if ringOn f.hcq then min (pi - f.hcqci.toNat) (2 ^ ringLog f.hcq) else 0

theorem exec_homeCommandDoorbell {fn : Nat} {f : Fn} (hf : s.fn? fn = some f) (pi : Nat) :
    exec (.homeCommandDoorbell fn pi) s = .next (
      if f.offered pi = 0 ∨ s.devHeld fn (ringIa f.hcq) (64 * 2 ^ ringLog f.hcq) = false then
        (s.modFn fn (Fn.taken pi (f.hcqci.toNat + f.offered pi))).due (s.descriptors fn f (f.offered pi))
      else s.due [.homeCommandDoorbell fn pi]) := by
  have hx : exec (.homeCommandDoorbell fn pi) s = execHomeCommandDoorbell fn pi s := rfl
  have hlen : (s.descriptors fn f (f.offered pi)).length = f.offered pi := by rw [State.descriptors, List.length_map, List.length_range]
  have hemp : (s.descriptors fn f (f.offered pi)).isEmpty = true ↔ f.offered pi = 0 := by rw [List.isEmpty_iff_length_eq_zero, hlen]
  simp only [State.descriptors, Fn.offered] at hlen hemp
  simp only [hx, execHomeCommandDoorbell, hf, hlen, hemp, State.descriptors, Fn.offered, Bool.or_eq_true, Bool.not_eq_true']
  rfl

/-- The Hub takes the descriptors of a queue and delivers each. -/
theorem homeCommandDoorbell_takes {fn : Nat} {f : Fn} (hf : s.fn? fn = some f) (pi : Nat)
    (h : f.offered pi = 0 ∨ s.devHeld fn (ringIa f.hcq) (64 * 2 ^ ringLog f.hcq) = false) :
    ∃ t, exec (.homeCommandDoorbell fn pi) s = .next t ∧ t.mem = s.mem
      ∧ t.fn? fn = some (f.taken pi (f.hcqci.toNat + f.offered pi))
      ∧ ∀ i < f.offered pi, ∀ bs, s.devRead fn (ringIa f.hcq + 64 * ((f.hcqci.toNat + i) % 2 ^ ringLog f.hcq)) 64 = some bs →
          homeCmdEvent (parseHomeCmd fn (f.hcqci.toNat + i) bs) ∈ t.pending := by
  refine ⟨(s.modFn fn (Fn.taken pi (f.hcqci.toNat + f.offered pi))).due (s.descriptors fn f (f.offered pi)),
    (exec_homeCommandDoorbell hf pi).trans (by rw [if_pos h]), rfl, State.fn?_modFn_some hf _ fun _ => rfl, fun i hi bs hbs => ?_⟩
  refine List.mem_append_right _ (List.mem_map.2 ⟨i, List.mem_range.2 hi, ?_⟩)
  rw [hbs, Option.getD_some]

/-- It waits where the queue's home holds accesses. -/
theorem homeCommandDoorbell_waits {fn : Nat} {f : Fn} (hf : s.fn? fn = some f) (pi : Nat) (hk : f.offered pi ≠ 0)
    (h : s.devHeld fn (ringIa f.hcq) (64 * 2 ^ ringLog f.hcq) = true) :
    exec (.homeCommandDoorbell fn pi) s = .next { s with pending := s.pending ++ [.homeCommandDoorbell fn pi] } := by
  rw [exec_homeCommandDoorbell hf, if_neg (not_or.2 ⟨hk, by rw [h]; nofun⟩)]
  rfl

/-! ### MAP (R65) -/

theorem State.entry?_append (h : s.entry? e.home e.ia = none) (hp : pageOf e.ia = e.ia) :
    ({ s with entries := s.entries ++ [e] } : State).entry? e.home e.ia = some e := by
  refine (find?_append_of_forall_not (List.find?_eq_none.1 h) [e]).trans ?_
  simp [hp]

/-- The entry that a MAP makes. -/
def mapped (c : HomeCmd) (h : HomeId) : Entry :=
  { home := h, ia := c.ia, loc := frLoc c.fra, shr := c.fra.getLsbD 2, faddr := frAddr c.fra, acc := 0, d := false, rpf := 0,
    mst := 0, owner := c.ctx, lcnt := 0, heat := 0, swc := c.swc }

theorem exec_map_badFrame (h : AtTurn s c) (he : s.entry? (s.cmdHome c) c.ia = none) (hf : s.frameOk (s.cmdHome c) c.fra c.ia = false) :
    exec (.map c) s = .next (s.cmdEnd c 5 0 0) := by
  simp [exec, execMap, h.runCmd, he, hf]

theorem exec_map_taken (h : AtTurn s c) (he : s.entry? (s.cmdHome c) c.ia = some e) : exec (.map c) s = .next (s.cmdEnd c 2 0 0) := by
  simp [exec, execMap, h.runCmd, he]

theorem exec_map_full (h : AtTurn s c) (he : s.entry? (s.cmdHome c) c.ia = none) (hf : s.frameOk (s.cmdHome c) c.fra c.ia = true) {x : Home}
    (hx : s.home? (s.cmdHome c) = some x) (hcap : x.cap ≤ (s.entries.filter fun e => decide (e.home = s.cmdHome c)).length) :
    exec (.map c) s = .next (s.cmdEnd c 6 0 0) := by
  simp [exec, execMap, h.runCmd, he, hf, hx, hcap]

theorem exec_map (h : AtTurn s c) (he : s.entry? (s.cmdHome c) c.ia = none) (hf : s.frameOk (s.cmdHome c) c.fra c.ia = true) {x : Home}
    (hx : s.home? (s.cmdHome c) = some x) (hcap : (s.entries.filter fun e => decide (e.home = s.cmdHome c)).length < x.cap) :
    exec (.map c) s = .next (State.cmdEnd { s with entries := s.entries ++ [mapped c (s.cmdHome c)] } c 0 1 0) := by
  simp [exec, execMap, h.runCmd, he, hf, hx, hcap, mapped]

/-! ### UNMAP, EVICT, RESETACC (R62, R70, R71) -/

/-- A shoot-down of a page that no page operation runs on makes one (R62). -/
theorem State.shoot_shootsDown_fresh {h : HomeId} {ia : Nat} (he : s.entry? h ia = some e) (ho : s.pageop? h ia = none) (w : ShootFor) :
    ShootsDown s (s.shoot e (some c) w) h ia e c w := by
  let o : PageOp := { PageOp.fresh h (pageOf ia) (some c) with acks := s.flushDies e, shoot := some w }
  let u := s.modEntry h ia fun e => { e with mst := 5 }
  have hs : s.shoot e (some c) w
      = State.due { u with pageops := u.pageops ++ [o] } ((s.flushDies e).map fun d => .pageFlush h (pageOf ia) d.1 d.2) := by
    obtain ⟨h1, h2⟩ := State.entry?_place he
    have hu : u.pageop? h ia = none := ho
    simp only [State.shoot, State.modEntry_self he, State.pageop?_self he]
    rw [hu, h1, h2]
  rw [hs]
  refine ⟨rfl, State.entry?_modEntry (f := fun e => { e with mst := 5 }) he fun _ => ⟨rfl, rfl⟩, fun d hd => ?_, o, ?_, rfl, rfl, rfl⟩
  · exact List.mem_append_right _ (List.mem_map_of_mem (f := fun d : Nat × Nat => Instr.pageFlush h (pageOf ia) d.1 d.2) hd)
  · refine (find?_append_of_forall_not (List.find?_eq_none.1 ho) [o]).trans ?_
    simp [o, PageOp.fresh, pageOf_pageOf]

theorem State.unmapOrEvict_free (h : e.lcnt = 0) (w : ShootFor) : s.unmapOrEvict e c w = s.shoot e (some c) w := if_pos h

/-- A page that is leased waits for its leases (R71 step 1). -/
theorem State.unmapOrEvict_leased {h : HomeId} {ia : Nat} (he : s.entry? h ia = some e) (hl : e.lcnt ≠ 0) (w : ShootFor) :
    (s.unmapOrEvict e c w).mem = s.mem
      ∧ (s.unmapOrEvict e c w).entry? h ia = some { e with mst := if w = .unmap then 3 else 4 } := by
  have hm := State.entry?_modEntry (f := fun e => { e with mst := if w = .unmap then 3 else 4 }) he fun _ => ⟨rfl, rfl⟩
  unfold State.unmapOrEvict
  rw [if_neg hl, State.modEntry_self he]
  dsimp only
  split <;> exact ⟨rfl, hm⟩

theorem exec_unmap_free (h : AtTurn s c) (he : s.cmdEntry c (s.cmdHome c) = some e) (hm : e.mst = 0) :
    exec (.unmap c) s = .next (s.unmapOrEvict e c .unmap) := by
  simp [exec, execUnmap, h.runCmd, he, hm]

theorem exec_evict_free (h : AtTurn s c) (he : s.cmdEntry c (s.cmdHome c) = some e) (hm : e.mst = 0) (hl : e.loc ≠ 0) :
    exec (.evict c) s = .next (s.unmapOrEvict e c .evict) := by
  simp [exec, execEvict, h.runCmd, he, hm, hl]

theorem exec_evict_absent (h : AtTurn s c) (he : s.cmdEntry c (s.cmdHome c) = some e) (hm : e.mst = 0) (hl : e.loc = 0) :
    exec (.evict c) s = .next (s.cmdEnd c 4 0 0) := by
  simp [exec, execEvict, h.runCmd, he, hm, hl]

theorem exec_resetacc_free (h : AtTurn s c) (he : s.cmdEntry c (s.cmdHome c) = some e) (hm : e.mst = 0) :
    exec (.resetacc c) s = .next (s.shoot e (some c) .resetacc) := by
  simp [exec, execResetacc, h.runCmd, he, hm]

/-- A page that something is done to already takes no EVICT, MIGRATE or RESETACC (R70). -/
theorem exec_of_busy (h : AtTurn s c) (he : s.cmdEntry c (s.cmdHome c) = some e) (hm : e.mst ≠ 0) {i : Instr}
    (hi : i ∈ [Instr.evict c, .migrate c, .resetacc c]) : exec i s = .next (s.cmdEnd c 3 0 0) := by
  simp only [List.mem_cons, List.not_mem_nil, or_false] at hi
  rcases hi with rfl | rfl | rfl
  · simp [exec, execEvict, h.runCmd, he, hm]
  · simp [exec, execMigrate, h.runCmd, he, hm]
  · simp [exec, execResetacc, h.runCmd, he, hm]

/-- A command that finds no entry of its context is answered so. -/
theorem exec_of_noEntry (h : AtTurn s c) (he : s.cmdEntry c (s.cmdHome c) = none) {i : Instr}
    (hi : i ∈ [Instr.unmap c, .evict c, .migrate c, .resetacc c, .fill c, .refuse c]) : exec i s = .next (s.cmdEnd c 1 0 0) := by
  simp only [List.mem_cons, List.not_mem_nil, or_false] at hi
  rcases hi with rfl | rfl | rfl | rfl | rfl | rfl
  · simp [exec, execUnmap, h.runCmd, he]
  · simp [exec, execEvict, h.runCmd, he]
  · simp [exec, execMigrate, h.runCmd, he]
  · simp [exec, execResetacc, h.runCmd, he]
  · simp [exec, execFill, h.runCmd, State.awaitsFill, he]
  · simp [exec, execRefuse, h.runCmd, State.awaitsFill, he]

/-! ### MIGRATE (R68) -/

theorem exec_migrate (h : AtTurn s c) (he : s.cmdEntry c (s.cmdHome c) = some e) (hm : e.mst = 0) (hl : e.loc = 1 ∨ e.loc = 2)
    (hl' : frLoc c.fra = 1 ∨ frLoc c.fra = 2) (hf : s.frameOk (s.cmdHome c) c.fra c.ia = true) (hn : s.copies (s.cmdHome c) < 64) :
    exec (.migrate c) s = .next (State.startCopy
      { s with pageops := s.pageops ++ [{ PageOp.fresh (s.cmdHome c) c.ia (some c) with wait := true }] } (s.cmdHome c) c.ia) := by
  let o : PageOp := { PageOp.fresh (s.cmdHome c) c.ia (some c) with wait := true }
  have hc : State.copies { s with pageops := s.pageops ++ [o] } (s.cmdHome c) = s.copies (s.cmdHome c) := by
    simp [State.copies, List.filter_append, o]
  have hb : ∀ l, l = 1 ∨ l = 2 → (l == 0 || l == 3) = false := by rintro l (rfl | rfl) <;> rfl
  simp only [exec, execMigrate, h.runCmd, he, hm, hb _ hl, hb _ hl', hf, ne_eq, not_true_eq_false, if_false, Bool.or_self, Bool.false_eq_true,
    Bool.not_true, hc, hn, if_true, o]

/-- A copy that begins marks its entry, and its first sector is due. -/
theorem State.startCopy_starts {h : HomeId} {ia : Nat} (he : s.entry? h ia = some e) :
    (s.startCopy h ia).mem = s.mem ∧ (s.startCopy h ia).entry? h ia = some { e with mst := 1 }
      ∧ .migrationSectorCopy h (pageOf ia) ∈ (s.startCopy h ia).pending :=
  ⟨rfl, State.entry?_modEntry (f := fun e => { e with mst := 1 }) he fun _ => ⟨rfl, rfl⟩, List.mem_append_right _ List.mem_cons_self⟩

theorem State.pageop?_startCopy {h : HomeId} {ia : Nat} {o : PageOp} (ho : s.pageop? h ia = some o) :
    (s.startCopy h ia).pageop? h ia = some { o with copy := some 0, wait := false, behind := [] } :=
  State.pageop?_modPageop (f := fun p => { p with copy := some 0, wait := false, behind := [] }) ho fun _ => ⟨rfl, rfl⟩

theorem migrate_starts (h : AtTurn s c) (ho : s.pageop? (s.cmdHome c) c.ia = none) (he : s.cmdEntry c (s.cmdHome c) = some e) (hm : e.mst = 0)
    (hl : e.loc = 1 ∨ e.loc = 2) (hl' : frLoc c.fra = 1 ∨ frLoc c.fra = 2) (hf : s.frameOk (s.cmdHome c) c.fra c.ia = true)
    (hn : s.copies (s.cmdHome c) < 64) :
    ∃ t p, exec (.migrate c) s = .next t ∧ t.mem = s.mem ∧ t.entry? (s.cmdHome c) c.ia = some { e with mst := 1 }
      ∧ t.pageop? (s.cmdHome c) c.ia = some p ∧ p.cmd = some c ∧ p.copy = some 0 ∧ p.wait = false
      ∧ .migrationSectorCopy (s.cmdHome c) (pageOf c.ia) ∈ t.pending := by
  let o : PageOp := { PageOp.fresh (s.cmdHome c) c.ia (some c) with wait := true }
  let u : State := { s with pageops := s.pageops ++ [o] }
  have hu : u.pageop? (s.cmdHome c) c.ia = some o := by
    refine (find?_append_of_forall_not (List.find?_eq_none.1 ho) [o]).trans ?_
    simp [o, PageOp.fresh]
  obtain ⟨h1, h2, h3⟩ := State.startCopy_starts (s := u) (State.cmdEntry_some he).1
  exact ⟨_, _, exec_migrate h he hm hl hl' hf hn, h1, h2, State.pageop?_startCopy hu, rfl, rfl, rfl, h3⟩

end

/-! ### Buffers of PROBE and HEATREAD (R65) -/

section
variable {s : State} {c : HomeCmd} {e d : Entry}

theorem State.bufWrite_fns (s : State) (fn ia : Nat) (bs : List Byte) : (s.bufWrite fn ia bs).fns = s.fns := by
  unfold State.bufWrite
  induction secsOf ia bs.length generalizing s with
  | nil => rfl
  | cons p l ih => rw [List.foldl_cons, ih, s.devWrite_getD_fns]

/-- Bytes that lie in one sector. -/
theorem secsOf_of_sector {ia n : Nat} (h0 : 0 < n) (h : ia % 64 + n ≤ 64) : secsOf ia n = [(ia, n)] := by
  have hmin : min n (64 - ia % 64) = n := by omega
  simp [secsOf, sectors, hmin, Nat.ne_of_gt h0]

/-- A buffer in one sector of a page whose home holds no accesses, and that is not being migrated, is written. -/
theorem State.mem_bufWrite {fn ia : Nat} {bs : List Byte} (h0 : 0 < bs.length) (h : ia % 64 + bs.length ≤ 64)
    (hd : s.devEntry? fn ia = some d) (hm : d.mst ≠ 1) (hh : s.pageHeld d ia bs.length = false) :
    (s.bufWrite fn ia bs).mem = writeBytes s.mem (d.key ia) bs := by
  simp only [State.bufWrite, secsOf_of_sector h0 h, List.foldl_cons, List.foldl_nil, Nat.sub_self, List.drop_zero, List.take_length]
  exact State.devWrite_mem hd hh (State.copyTarget_of_mst hm)

/-! ### PROBE (R65) -/

/-- The buffer of c. -/
def cmdBuf (c : HomeCmd) : Nat := (c.frb.extractLsb' 0 56).toNat

theorem exec_probe_noBuffer (h : AtTurn s c) (hb : s.bufOk c.fn (cmdBuf c) 32 = false) : exec (.probe c) s = .next (s.cmdEnd c 12 0 0) := by
  simp only [cmdBuf] at hb
  simp only [exec, execProbe, h.runCmd, hb, Bool.not_false, if_true]

theorem exec_probe_held (h : AtTurn s c) (hb : s.bufOk c.fn (cmdBuf c) 32 = true) (hh : s.devHeld c.fn (cmdBuf c) 32 = true) :
    exec (.probe c) s = .next { s with pending := s.pending ++ [.probe c] } := by
  simp only [cmdBuf] at hb hh
  simp only [exec, execProbe, h.runCmd, hb, hh, State.due, Bool.not_true, Bool.false_eq_true, if_false, if_true]

theorem exec_probe_noEntry (h : AtTurn s c) (hb : s.bufOk c.fn (cmdBuf c) 32 = true) (hh : s.devHeld c.fn (cmdBuf c) 32 = false)
    (he : s.cmdEntry c (s.cmdHome c) = none) : exec (.probe c) s = .next (s.cmdEnd c 1 0 0) := by
  simp only [cmdBuf] at hb hh
  simp only [exec, execProbe, h.runCmd, hb, hh, he, Bool.not_true, Bool.false_eq_true, if_false]

theorem exec_probe (h : AtTurn s c) (hb : s.bufOk c.fn (cmdBuf c) 32 = true) (hh : s.devHeld c.fn (cmdBuf c) 32 = false)
    (he : s.cmdEntry c (s.cmdHome c) = some e) (hm : e.mst ≠ 5) :
    exec (.probe c) s = .next ((s.bufWrite c.fn (cmdBuf c) (bytesOf e.words)).cmdEnd c 0 1 0) := by
  simp only [cmdBuf] at hb hh ⊢
  simp only [exec, execProbe, h.runCmd, hb, hh, he, hm, Bool.not_true, Bool.false_eq_true, if_false]

theorem Entry.length_words (e : Entry) : (bytesOf e.words).length = 32 := by simp [bytesOf, Entry.words, leBytes_length]

/-! ### HEATREAD (R65) -/

/-- What a HEATREAD leaves of an entry. -/
def cooled (c : HomeCmd) (e : Entry) : Entry := { e with heat := if c.clr then 0 else if c.halve then e.heat / 2 else e.heat }

theorem exec_heatread_noBuffer (h : AtTurn s c) (hb : s.bufOk c.fn (cmdBuf c) (4 * c.cnt) = false) :
    exec (.heatread c) s = .next (s.cmdEnd c 12 0 0) := by
  simp only [cmdBuf] at hb
  simp only [exec, execHeatread, h.runCmd, hb, Bool.not_false, if_true]

theorem exec_heatread_held (h : AtTurn s c) (hb : s.bufOk c.fn (cmdBuf c) (4 * c.cnt) = true) (hh : s.devHeld c.fn (cmdBuf c) (4 * c.cnt) = true) :
    exec (.heatread c) s = .next { s with pending := s.pending ++ [.heatread c] } := by
  simp only [cmdBuf] at hb hh
  simp only [exec, execHeatread, h.runCmd, hb, hh, State.due, Bool.not_true, Bool.false_eq_true, if_false, if_true]

theorem exec_heatread (h : AtTurn s c) (hn : c.cnt = 1) (hb : s.bufOk c.fn (cmdBuf c) 4 = true) (hh : s.devHeld c.fn (cmdBuf c) 4 = false)
    (he : s.fnEntry c.fn c.ia = some e) (hm : e.mst ≠ 5) :
    exec (.heatread c) s
      = .next (((s.modEntry e.home c.ia (cooled c)).bufWrite c.fn (cmdBuf c) (leBytes 4 (heatRecord (some e)))).cmdEnd c 0 1 0) := by
  simp only [cmdBuf] at hb hh ⊢
  simp only [exec, execHeatread, h.runCmd, hn, Nat.mul_one, hb, hh, List.range_one, List.map_cons, List.map_nil, Nat.zero_mul, Nat.add_zero,
    State.shootOf, List.findSome?_cons, List.findSome?_nil, he, hm, if_false, Bool.not_true, Bool.false_eq_true, List.flatMap_cons,
    List.flatMap_nil, List.append_nil, List.foldl_cons, List.foldl_nil]
  rfl

/-- The first record of one kind, changed, is the first of another whose first record it is. -/
theorem find?_updFirst_of_found {α : Type} {p q : α → Bool} {f : α → α} {l : List α} {a : α} (hp : l.find? p = some a)
    (hq : l.find? q = some a) (hf : q (f a) = true) : (updFirst p f l).find? q = some (f a) := by
  induction l with
  | nil => cases hp
  | cons b r ih =>
    by_cases hb : p b = true
    · rw [List.find?_cons_of_pos hb, Option.some_inj] at hp
      subst hp
      rw [updFirst, if_pos hb, List.find?_cons_of_pos hf]
    · have hbq : ¬ q b = true := fun h => hb (by
        rw [List.find?_cons_of_pos h, Option.some_inj] at hq
        exact hq ▸ List.find?_some hp)
      rw [List.find?_cons_of_neg hb] at hp
      rw [List.find?_cons_of_neg hbq] at hq
      rw [updFirst, if_neg hb, List.find?_cons_of_neg hbq, ih hp hq]

/-- A change that a search does not see leaves it its record, changed or not. -/
theorem find?_updFirst_cases {α : Type} {p q : α → Bool} {f : α → α} (hf : ∀ a, q (f a) = q a) {l : List α} {a : α}
    (ha : l.find? q = some a) : (updFirst p f l).find? q = some a ∨ (updFirst p f l).find? q = some (f a) := by
  induction l with
  | nil => cases ha
  | cons b r ih =>
    by_cases hq : q b = true
    · rw [List.find?_cons_of_pos hq, Option.some_inj] at ha
      subst ha
      unfold updFirst
      split
      · exact .inr (List.find?_cons_of_pos ((hf b).trans hq))
      · exact .inl (List.find?_cons_of_pos hq)
    · rw [List.find?_cons_of_neg hq] at ha
      unfold updFirst
      split
      · exact .inl ((List.find?_cons_of_neg (by rwa [hf])).trans ha)
      · rw [List.find?_cons_of_neg hq]
        exact ih ha

theorem State.fnEntry_cool {h : HomeId} (he : s.fnEntry c.fn c.ia = some e) (hh : s.entry? h c.ia = some e) :
    (s.modEntry h c.ia (cooled c)).fnEntry c.fn c.ia = some (cooled c e) :=
  find?_updFirst_of_found hh he (List.find?_some he :)

/-- A cooled page is as writable as it was, in the same frame. -/
theorem State.mem_bufWrite_cool {h : HomeId} {ia : Nat} {bs : List Byte} (h0 : 0 < bs.length) (hs : (cmdBuf c) % 64 + bs.length ≤ 64)
    (hd : s.devEntry? c.fn (cmdBuf c) = some d) (hm : d.mst ≠ 1) (hh : s.pageHeld d (cmdBuf c) bs.length = false) :
    ((s.modEntry h ia (cooled c)).bufWrite c.fn (cmdBuf c) bs).mem = writeBytes s.mem (d.key (cmdBuf c)) bs := by
  rcases find?_updFirst_cases (p := fun e => decide (e.home = h) && e.ia == pageOf ia) (f := cooled c) (fun _ => by rfl) hd with hd | hd
  · exact State.mem_bufWrite (s := s.modEntry h ia (cooled c)) h0 hs hd hm hh
  · exact State.mem_bufWrite (s := s.modEntry h ia (cooled c)) (d := cooled c d) h0 hs hd hm hh

/-! ### A page that waits for FILL or REFUSE (R67) -/

section
variable {p : PageOp}

theorem State.awaitsFill_of (he : s.cmdEntry c (s.cmdHome c) = some e) (hp : s.pageop? (s.cmdHome c) c.ia = some p) (hm : e.mst = 2)
    (hc : p.cmd = none) : s.awaitsFill c (s.cmdHome c) = some e := by
  simp [State.awaitsFill, he, hp, hm, hc]

theorem fill_starts (h : AtTurn s c) (hw : s.awaitsFill c (s.cmdHome c) = some e) (hp : s.pageop? (s.cmdHome c) c.ia = some p)
    (hf : s.frameOk (s.cmdHome c) c.fra c.ia = true) (hl : frLoc c.fra ≠ 0)
    (hs : c.zero = true ∨ (s.frameOk (s.cmdHome c) c.frb c.ia = true ∧ frLoc c.frb ≠ 0)) :
    ∃ t, exec (.fill c) s = .next t ∧ t.mem = s.mem ∧ t.pageop? (s.cmdHome c) c.ia = some { p with cmd := some c, copy := some 0 }
      ∧ .fillCopyDone (s.cmdHome c) c.ia ∈ t.pending := by
  have hx : exec (.fill c) s = .next ((s.modPageop (s.cmdHome c) c.ia fun p => { p with cmd := some c, copy := some 0 }).due
      [.fillCopyDone (s.cmdHome c) c.ia]) := by
    rcases hs with hs | ⟨hs, hs'⟩
    · simp [exec, execFill, h.runCmd, hw, hf, hl, hs]
    · simp [exec, execFill, h.runCmd, hw, hf, hl, hs, hs']
  exact ⟨_, hx, rfl, State.pageop?_modPageop (f := fun p => { p with cmd := some c, copy := some 0 }) hp fun _ => ⟨rfl, rfl⟩,
    List.mem_append_right _ List.mem_cons_self⟩

/-- What a page's refusal leaves: its entry without a page operation, and the answers to the requests it held (R67 step 4). -/
theorem State.refuseHeld_refuses {h : HomeId} {ia : Nat} (he : s.entry? h ia = some e) (hp : s.pageop? h ia = some p) :
    (s.refuseHeld h ia).entry? h ia = some { e with mst := 0 } ∧ (s.refuseHeld h ia).fns = s.fns
      ∧ ∀ l ∈ p.held, .leaseRefused l ∈ (s.refuseHeld h ia).pending := by
  simp only [State.refuseHeld, hp]
  exact ⟨State.entry?_modEntry (s := s.dropPageop h ia) (f := fun e => { e with mst := 0 }) he fun _ => ⟨rfl, rfl⟩, rfl,
    fun l hl => List.mem_append_right _ (List.mem_append_left _ (List.mem_map_of_mem hl))⟩

theorem refuse_refuses (h : AtTurn s c) (hw : s.awaitsFill c (s.cmdHome c) = some e) (he : s.entry? (s.cmdHome c) c.ia = some e)
    (hp : s.pageop? (s.cmdHome c) c.ia = some p) :
    ∃ t, exec (.refuse c) s = .next t ∧ Reported s t c 0 1 0 ∧ t.entry? (s.cmdHome c) c.ia = some { e with mst := 0 }
      ∧ ∀ l ∈ p.held, .leaseRefused l ∈ t.pending := by
  obtain ⟨h1, h2, h3⟩ := State.refuseHeld_refuses he hp
  have hx : exec (.refuse c) s = .next ((s.refuseHeld (s.cmdHome c) c.ia).cmdEnd c 0 1 0) := by
    simp [exec, execRefuse, h.runCmd, hw]
  have hw := (s.refuseHeld (s.cmdHome c) c.ia).cmdEnd_hubWrote c 0 1 0
  exact ⟨_, hx, State.cmdEnd_reported_of_fns h2 c 0 1 0, (hw.entry? ..).trans h1, fun l hl => hw.pending ▸ h3 l hl⟩

end

end

/-! ### The statement -/

section
variable {s : State} {c : HomeCmd} {f : Fn} {e : Entry}

theorem map_maps (h : AtTurn s c) {x : Home} (hx : s.home? (s.cmdHome c) = some x) (he : s.entry? (s.cmdHome c) c.ia = none)
    (hf : s.frameOk (s.cmdHome c) c.fra c.ia = true) (hcap : (s.entries.filter fun e => decide (e.home = s.cmdHome c)).length < x.cap) :
    ∃ t, exec (.map c) s = .next t ∧ Reported s t c 0 1 0 ∧ t.entry? (s.cmdHome c) c.ia = some (mapped c (s.cmdHome c)) := by
  let u : State := { s with entries := s.entries ++ [mapped c (s.cmdHome c)] }
  have hu : u.entry? (s.cmdHome c) c.ia = some (mapped c (s.cmdHome c)) :=
    State.entry?_append (e := mapped c (s.cmdHome c)) he (pageOf_of_cmdBad h.2)
  exact ⟨_, exec_map h he hf hx hcap, State.cmdEnd_reported_of_fns (by rfl) c 0 1 0, ((u.cmdEnd_hubWrote ..).entry? ..).trans hu⟩

/-- Where its record finds no slot, what a command has written before is all it writes. -/
theorem memWrote_cmdEnd {v : State} {k : Nat} {bs : List Byte} (hf : s.fn? c.fn = some f) (hv : v.fns = s.fns)
    (hfull : ringOn f.hcc = false ∨ 2 ^ ringLog f.hcc ≤ f.hccpi.toNat - f.hccci.toNat) (hm : v.mem = writeBytes s.mem k bs)
    (st n : Nat) (w : W64) : MemWrote s (v.cmdEnd c st n w) k bs :=
  memWrote_writeBytes ((State.mem_cmdEnd_of_full ((congrArg (List.find? fun x : Fn => x.num == c.fn) hv).trans hf) hfull st n w).trans hm)

theorem probe_records (h : AtTurn s c) (hf : s.fn? c.fn = some f) (he : s.cmdEntry c (s.cmdHome c) = some e) (hm : e.mst ≠ 5)
    (hb : s.bufOk c.fn (cmdBuf c) 32 = true) (hh : s.devHeld c.fn (cmdBuf c) 32 = false) :
    (∃ t, exec (.probe c) s = .next t ∧ Reported s t c 0 1 0)
      ∧ ∀ d, s.devEntry? c.fn (cmdBuf c) = some d → d.mst ≠ 1 → s.pageHeld d (cmdBuf c) 32 = false →
        ringOn f.hcc = false ∨ 2 ^ ringLog f.hcc ≤ f.hccpi.toNat - f.hccci.toNat → cmdBuf c % 64 ≤ 32 →
        ∃ t, exec (.probe c) s = .next t ∧ MemWrote s t (d.key (cmdBuf c)) (bytesOf e.words) := by
  have hx := exec_probe h hb hh he hm
  have hfns := s.bufWrite_fns c.fn (cmdBuf c) (bytesOf e.words)
  have hlen := e.length_words
  refine ⟨⟨_, hx, State.cmdEnd_reported_of_fns hfns c 0 1 0⟩, fun d hd h1 hp hfull hs => ⟨_, hx, ?_⟩⟩
  exact memWrote_cmdEnd hf hfns hfull (State.mem_bufWrite (by omega) (by omega) hd h1 (hlen ▸ hp)) 0 1 0

theorem heatread_records (h : AtTurn s c) (hf : s.fn? c.fn = some f) (hn : c.cnt = 1) (he : s.fnEntry c.fn c.ia = some e)
    (hh : s.entry? e.home c.ia = some e) (hm : e.mst ≠ 5) (hb : s.bufOk c.fn (cmdBuf c) 4 = true)
    (hheld : s.devHeld c.fn (cmdBuf c) 4 = false) :
    (∃ t, exec (.heatread c) s = .next t ∧ Reported s t c 0 1 0)
      ∧ (∃ t, exec (.heatread c) s = .next t ∧ t.fnEntry c.fn c.ia = some (cooled c e))
      ∧ ∀ d, s.devEntry? c.fn (cmdBuf c) = some d → d.mst ≠ 1 → s.pageHeld d (cmdBuf c) 4 = false →
        ringOn f.hcc = false ∨ 2 ^ ringLog f.hcc ≤ f.hccpi.toNat - f.hccci.toNat → cmdBuf c % 64 ≤ 60 →
        ∃ t, exec (.heatread c) s = .next t ∧ MemWrote s t (d.key (cmdBuf c)) (leBytes 4 (heatRecord (some e))) := by
  let u := s.modEntry e.home c.ia (cooled c)
  let v := u.bufWrite c.fn (cmdBuf c) (leBytes 4 (heatRecord (some e)))
  have hx : exec (.heatread c) s = .next (v.cmdEnd c 0 1 0) := exec_heatread h hn hb hheld he hm
  have hw : HubWrote u (v.cmdEnd c 0 1 0) := (u.bufWrite_hubWrote ..).trans (v.cmdEnd_hubWrote ..)
  have hfns : v.fns = s.fns := u.bufWrite_fns ..
  have hlen := leBytes_length 4 (heatRecord (some e))
  refine ⟨⟨_, hx, State.cmdEnd_reported_of_fns hfns c 0 1 0⟩, ⟨_, hx, ?_⟩, fun d hd h1 hp hfull hs => ⟨_, hx, ?_⟩⟩
  · rw [State.fnEntry, hw.entries]
    exact State.fnEntry_cool he hh
  · exact memWrote_cmdEnd hf hfns hfull (State.mem_bufWrite_cool (by omega) (by omega) hd h1 (hlen ▸ hp)) 0 1 0

end

/-- Settles O52: each command is run at its turn, and what it finds at its home says which of its ends it takes. -/
theorem homeCommands : Obligations.HomeCommands := by
  unfold Obligations.HomeCommands
  intro s c f hf h ends full buf
  refine ⟨fun pi => ⟨homeCommandDoorbell_waits hf pi, homeCommandDoorbell_takes hf pi⟩, fun hb => ⟨fun st hst i hi => ?_, ?_⟩,
    fun hb i hi => ?_, fun ⟨hb, hbad, ho⟩ => ?_, fun e p hb hbad he hp => ?_⟩
  · obtain ⟨run, hx⟩ := exec_homeEvents s hi
    exact reported_of_exec (hx.trans (by rw [State.runCmd_bad hb hst]))
  · exact reported_of_exec ((exec_badcmdOpcode s c).trans (by rw [hb]; rfl))
  · rcases List.mem_cons.1 hi with rfl | hi
    · exact (exec_badcmdOpcode s c).trans (by rw [hb]; rfl)
    · obtain ⟨run, hx⟩ := exec_homeEvents s hi
      exact hx.trans (by rw [State.runCmd_behind hb]; rfl)
  · have ht : AtTurn s c := ⟨hb, hbad⟩
    refine ⟨fun x hx he hfr hcap => reported_of_exec (exec_map_full ht he hfr hx hcap), fun x hx he hfr hcap => ?_,
      fun e he => reported_of_exec (exec_map_taken ht he), fun he hfr => reported_of_exec (exec_map_badFrame ht he hfr),
      fun he i hi => reported_of_exec (exec_of_noEntry ht he hi), fun hbuf => reported_of_exec (exec_probe_noBuffer ht hbuf),
      fun he hbuf hh => reported_of_exec (exec_probe_noEntry ht hbuf hh he), fun hbuf => reported_of_exec (exec_heatread_noBuffer ht hbuf),
      exec_probe_held ht, exec_heatread_held ht, fun e he => ?_, fun e hn he hh hm hbuf hheld => heatread_records ht hf hn he hh hm hbuf hheld⟩
    · obtain ⟨t, hx, hr, ht⟩ := map_maps ht hx he hfr hcap
      exact ⟨t, _, hx, hr, ht, rfl, rfl, rfl, rfl, rfl, rfl, rfl, rfl, rfl, rfl, rfl, rfl, rfl⟩
    · have hent := (State.cmdEntry_some he).1
      refine ⟨fun hm hl => ⟨⟨_, exec_unmap_free ht he hm, ?_⟩, fun hloc => ⟨_, exec_evict_free ht he hm hloc, ?_⟩⟩,
        fun hm => ⟨_, exec_resetacc_free ht he hm, State.shoot_shootsDown_fresh hent ho _⟩,
        fun hm hl => ⟨⟨_, exec_unmap_free ht he hm, State.unmapOrEvict_leased hent hl .unmap⟩,
          fun hloc => ⟨_, exec_evict_free ht he hm hloc, State.unmapOrEvict_leased hent hl .evict⟩⟩,
        fun hm hl => reported_of_exec (exec_evict_absent ht he hm hl), migrate_starts ht ho he, probe_records ht hf he⟩
      · rw [State.unmapOrEvict_free hl]
        exact State.shoot_shootsDown_fresh hent ho _
      · rw [State.unmapOrEvict_free hl]
        exact State.shoot_shootsDown_fresh hent ho _
  · have ht : AtTurn s c := ⟨hb, hbad⟩
    have busy (hm : e.mst ≠ 0) (i : Instr) (hi : i ∈ [Instr.evict c, .migrate c, .resetacc c]) : ends i 3 0 0 :=
      reported_of_exec (exec_of_busy ht he hm hi)
    refine ⟨fun hm => ⟨busy hm _ (by simp), busy hm _ (by simp), busy hm _ (by simp)⟩, fun hm hc => ?_⟩
    have hw := State.awaitsFill_of he hp hm hc
    exact ⟨fill_starts ht hw hp, refuse_refuses ht hw (State.cmdEntry_some he).1 hp⟩

end Sys2Proof.Machine

/-! ## Pages are copied, flushed and shot down, rows retired (O53) -/

namespace Sys2Proof.Machine

/-! ### Memory that is copied and cleared (R67, R68) -/

theorem Tab.le_of_sortedFrom {α : Type} {lo : Nat} {t : Tab α} (h : t.sortedFrom lo = true) {p : Nat × α} (hp : p ∈ t) : lo ≤ p.1 := by
  induction t generalizing lo with
  | nil => cases hp
  | cons q r ih =>
    simp only [Tab.sortedFrom, Bool.and_eq_true, decide_eq_true_eq] at h
    rcases List.mem_cons.1 hp with rfl | hp
    · exact h.1
    · have := ih h.2 hp
      omega

theorem Tab.nodup_keys {α : Type} {lo : Nat} {t : Tab α} (h : t.sortedFrom lo = true) : (t.map Prod.fst).Nodup := by
  induction t generalizing lo with
  | nil => exact List.nodup_nil
  | cons q r ih =>
    simp only [Tab.sortedFrom, Bool.and_eq_true] at h
    refine List.nodup_cons.2 ⟨fun hq => ?_, ih h.2⟩
    obtain ⟨p, hp, hpq⟩ := List.mem_map.1 hq
    have := Tab.le_of_sortedFrom h.2 hp
    omega

theorem Tab.get_of_not_mem {α : Type} {d : α} {t : Tab α} {k : Nat} (h : k ∉ t.map Prod.fst) : t.get d k = d := by
  induction t with
  | nil => rfl
  | cons p r ih =>
    rw [List.map_cons, List.mem_cons, not_or] at h
    rw [Tab.get, if_neg (Ne.symm h.1), ih h.2]

/-- Bytes listed from key a on, written from key b on. -/
theorem Tab.get_foldl_shift (a b x : Nat) (l t : Tab Byte) (hn : (l.map Prod.fst).Nodup) (ha : ∀ p ∈ l, a ≤ p.1) :
    Tab.get 0 ((l.map fun p => (b + (p.1 - a), p.2)).foldl (fun (m : Tab Byte) p => m.set 0 p.1 p.2) t) x
      = if b ≤ x ∧ a + (x - b) ∈ l.map Prod.fst then l.get 0 (a + (x - b)) else t.get 0 x := by
  induction l generalizing t with
  | nil => simp
  | cons p r ih =>
    obtain ⟨k, v⟩ := p
    rw [List.map_cons, List.nodup_cons] at hn
    have hk : a ≤ k := ha _ List.mem_cons_self
    have hx : x = b + (k - a) ↔ b ≤ x ∧ k = a + (x - b) := by omega
    rw [List.map_cons, List.foldl_cons, ih _ hn.2 fun p hp => ha p (List.mem_cons_of_mem _ hp), Tab.get_set, Tab.get, List.map_cons]
    by_cases hxk : b ≤ x ∧ k = a + (x - b)
    · rw [if_neg (fun h => hn.1 (hxk.2 ▸ h.2)), if_pos (hx.2 hxk), if_pos ⟨hxk.1, hxk.2 ▸ List.mem_cons_self⟩, if_pos hxk.2]
    · rw [if_neg (hx.not.2 hxk)]
      by_cases hb : b ≤ x
      · have hne : ¬ k = a + (x - b) := fun h => hxk ⟨hb, h⟩
        simp only [hb, true_and, List.mem_cons, Ne.symm hne, false_or, if_neg hne]
      · simp only [hb, false_and, if_false]

theorem get_copyBytes {m : Tab Byte} (hm : Memory.wf m = true) (a b n x : Nat) :
    (copyBytes m a b n).get 0 x = if b ≤ x ∧ x < b + n then m.get 0 (a + (x - b)) else m.get 0 x := by
  let src : Tab Byte := m.filter fun p => decide (a ≤ p.1) && decide (p.1 < a + n)
  have hs := ((Tab.wf_iff _ m).1 hm).1
  have hn : (src.map Prod.fst).Nodup := Tab.nodup_keys (Tab.sortedFrom_filter _ hs)
  have hin : ∀ p ∈ src, a ≤ p.1 ∧ p.1 < a + n := fun p hp => by simpa using (List.mem_filter.1 hp).2
  have hget (y : Nat) : src.get 0 y = if a ≤ y ∧ y < a + n then m.get 0 y else 0 := by
    simpa using Tab.get_filter_keys (fun k => decide (a ≤ k) && decide (k < a + n)) 0 m y
  have hbase : Tab.get 0 (m.filter fun p => !(decide (b ≤ p.1) && decide (p.1 < b + n))) x = if b ≤ x ∧ x < b + n then 0 else m.get 0 x := by
    rw [Tab.get_filter_keys (fun k => !(decide (b ≤ k) && decide (k < b + n)))]
    by_cases h : b ≤ x ∧ x < b + n <;> simp [h]
  have hcopy := Tab.get_foldl_shift a b x src (m.filter fun p => !(decide (b ≤ p.1) && decide (p.1 < b + n))) hn fun p hp => (hin p hp).1
  refine hcopy.trans ?_
  rw [hbase]
  by_cases hx : b ≤ x ∧ x < b + n
  · have hy : a ≤ a + (x - b) ∧ a + (x - b) < a + n := by omega
    rw [if_pos hx, if_pos hx]
    split
    · rw [hget, if_pos hy]
    · next hno =>
      have h0 := Tab.get_of_not_mem (d := (0 : Byte)) fun h => hno ⟨hx.1, h⟩
      rwa [hget, if_pos hy, eq_comm] at h0
  · rw [if_neg hx, if_neg hx, if_neg fun h => ?_]
    obtain ⟨p, hp, hpx⟩ := List.mem_map.1 h.2
    have := hin p hp
    omega

theorem get_zeroBytes (m : Tab Byte) (b n x : Nat) : (zeroBytes m b n).get 0 x = if b ≤ x ∧ x < b + n then 0 else m.get 0 x := by
  rw [zeroBytes, Tab.get_filter_keys (fun k => !(decide (b ≤ k) && decide (k < b + n)))]
  by_cases h : b ≤ x ∧ x < b + n <;> simp [h]

section
variable {s t : State} {h : HomeId} {ia : Nat} {e : Entry} {p : PageOp} {c : HomeCmd}

theorem State.getD_memRead (s : State) {n i : Nat} (hi : i < n) (k : Nat) : (s.memRead k n).getD i 0 = s.memByte (k + i) := by
  simp [State.memRead, readBytes, State.memByte, memDefault, hi]

/-! ### The migration engine's copies (R67, R68) -/

theorem State.mem_copyFrame (s : State) (src : Option Entry) (dst : Entry) (ia n : Nat) :
    (s.copyFrame src dst ia n).mem = src.elim (zeroBytes s.mem (dst.key ia) n) fun e => copyBytes s.mem (e.key ia) (dst.key ia) n := by
  cases src <;> simp only [State.copyFrame, State.egress_mem, State.freshSectors_mem, State.noteReuse_mem, Option.elim_none, Option.elim_some]

theorem State.copyFrame_fns (s : State) (src : Option Entry) (dst : Entry) (ia n : Nat) : (s.copyFrame src dst ia n).fns = s.fns := by
  cases src <;> simp only [State.copyFrame, State.egress_fns] <;> rfl

theorem State.egress_pageops (s : State) (e : Entry) (ia n : Nat) (w : Option (List Byte)) : (s.egress e ia n w).pageops = s.pageops := by
  unfold State.egress
  split <;> rfl

theorem State.copyFrame_hubWrote (s : State) (src : Option Entry) (dst : Entry) (ia n : Nat) : HubWrote s (s.copyFrame src dst ia n) := by
  have hw := (s.noteReuse_hubWrote dst (dst.key ia) n).trans (State.freshSectors_hubWrote _ (dst.key ia) n)
  have hm (u : State) (m : List Host.Cell) : HubWrote u { u with mem := m } := ⟨rfl, rfl, rfl, rfl, fun _ => id, fun _ h _ => h⟩
  unfold State.copyFrame
  extract_lets k u v
  refine HubWrote.trans ?_ (State.egress_hubWrote ..)
  dsimp only [v]
  split
  · exact (hw.trans (hm u _)).trans (State.egress_hubWrote ..)
  · exact hw.trans (hm u _)

theorem State.pageop?_place (hp : s.pageop? h ia = some p) : p.home = h ∧ p.ia = pageOf ia := by
  simpa using List.find?_some hp

/-- A page that is copied keeps its own page operation: its frame's reuse is not noted there (R71). -/
theorem State.pageop?_copyFrame (hp : s.pageop? h ia = some p) (he : s.entry? h ia = some e) (src : Option Entry) {dst : Entry}
    (hh : dst.home = e.home) (hi : dst.ia = e.ia) (a n : Nat) : (s.copyFrame src dst a n).pageop? h ia = some p := by
  obtain ⟨h1, h2⟩ := State.pageop?_place hp
  have hent : s.entry? p.home p.ia = some e := by
    rw [h1, h2]
    simpa only [State.entry?, pageOf_pageOf] using he
  have hops : (s.copyFrame src dst a n).pageops = (s.noteReuse dst (dst.key a) n).pageops := by
    cases src <;> simp only [State.copyFrame, State.egress_pageops] <;> rfl
  rw [State.pageop?, hops]
  unfold State.noteReuse
  extract_lets note
  have hnote : note p = p := by
    simp [note, hent, hh, hi]
  have hq (q : PageOp) : (note q).home = q.home ∧ (note q).ia = q.ia := by
    simp only [note]
    split
    · exact ⟨rfl, rfl⟩
    · split <;> exact ⟨rfl, rfl⟩
  have hfun : (fun q : PageOp => decide (q.home = h) && q.ia == pageOf ia) ∘ note = fun q => decide (q.home = h) && q.ia == pageOf ia :=
    funext fun q => by simp only [Function.comp, hq]
  rw [List.find?_map, hfun]
  exact (congrArg (Option.map note) hp).trans (congrArg some hnote)

theorem memWrote_copyFrame (hs : s.Inv) {dst : Entry} {n : Nat} (h : t.mem = (s.copyFrame (some e) dst ia n).mem) :
    MemWrote s t (dst.key ia) (s.memRead (e.key ia) n) := fun a => by
  rw [State.memByte, h, State.mem_copyFrame, s.length_memRead]
  refine (get_copyBytes hs ..).trans ?_
  split
  · next ha => exact (s.getD_memRead (by omega) _).symm
  · rfl

/-! ### What a page's operations leave of the Hub's structures -/

theorem Woken.hub (h : Woken s t) : t.hub = s.hub := by
  rw [State.hub, h.mem, h.entries, h.pageops, h.homes, h.fns, State.hub]

theorem Woken.entry? (hw : Woken s t) (g : HomeId) (a : Nat) : t.entry? g a = s.entry? g a := State.entry?_congr hw.entries g a

/-- What ends a command and then lets other work go on reports it. -/
theorem Woken.reported {u : State} {st n : Nat} {w : W64} (hw : Woken (u.cmdEnd c st n w) t) (hf : u.fns = s.fns) : Reported s t c st n w :=
  (State.cmdEnd_reported_of_fns hf c st n w).congr rfl hw.hub

theorem State.ringMoved_woken (s : State) (e : Entry) : Woken s (s.ringMoved e) := by
  have hlost (t : State) (c : Ctx) (lpkg a : Nat) : Woken t (t.logLost c lpkg a) := ((Woken.refl t).modCtx ..).due _
  unfold State.ringMoved
  exact .foldl (fun t c => .foldl (fun t r => (hlost ..).ite (.refl t)) _ t) _ s

theorem State.saveMoved_woken (s : State) (e : Entry) : Woken s (s.saveMoved e) := ⟨rfl, rfl, fun _ => id⟩

theorem State.entry?_modEntry_to (he : s.entry? h ia = some e) {d : Entry} (hh : d.home = e.home) (hi : d.ia = e.ia) :
    (s.modEntry h ia fun _ => d).entry? h ia = some d := by
  obtain ⟨h1, h2⟩ := State.entry?_place he
  rw [← Option.map_some (f := fun _ : Entry => d), ← he]
  exact find?_updFirst (fun _ _ => by simp [hh, hi, h1, h2]) _

/-! ### MIGRATE: its sectors and the flip (R68) -/

theorem migrationSlot_starts {x : Home} (hx : s.home? h = some x) (hp : (s.pageops.find? fun p => decide (p.home = h) && p.wait) = some p)
    (hn : s.copies h < 64) (hi : p.ia = pageOf p.ia) (he : s.entry? h p.ia = some e) :
    ∃ t, exec (.migrationSlotStart h) s = .next t ∧ t.mem = s.mem ∧ t.entry? h p.ia = some { e with mst := 1 }
      ∧ .migrationSectorCopy h p.ia ∈ t.pending := by
  obtain ⟨h1, h2, h3⟩ := State.startCopy_starts he
  rw [← hi] at h3
  exact ⟨_, by simp [exec, execMigrationSlotStart, hx, hp, hn], h1, h2, h3⟩

/-- A copy of the page of entry e is under way for command c, k sectors of it done. -/
structure Copying (s : State) (h : HomeId) (ia : Nat) (p : PageOp) (e : Entry) (c : HomeCmd) (k : Nat) : Prop where
  home : (s.home? h).isNone = false
  op : s.pageop? h ia = some p
  entry : s.entry? h ia = some e
  cmd : p.cmd = some c
  copy : p.copy = some k

variable {k : Nat}

theorem Copying.held (hc : Copying s h ia p e c k) (hm : e.mst = 1) (hw : p.wait = false) (hk : 64 * k < pageSize ia)
    (hh : s.copyHeld e (e.inFrame c.fra) (e.ia + 64 * k) 64 = true) :
    exec (.migrationSectorCopy h ia) s = .next { s with pending := s.pending ++ [.migrationSectorCopy h ia] } := by
  simp [exec, execMigrationSectorCopy, hc.home, hc.op, hc.entry, hc.cmd, hc.copy, hm, hw, hk, hh, State.due]

theorem Copying.copies (hc : Copying s h ia p e c k) (hs : s.Inv) (hm : e.mst = 1) (hw : p.wait = false) (hk : 64 * k < pageSize ia)
    (hh : s.copyHeld e (e.inFrame c.fra) (e.ia + 64 * k) 64 = false) (hb : s.poison.contains (e.key (e.ia + 64 * k) / 64) = false) :
    ∃ t, exec (.migrationSectorCopy h ia) s = .next t
      ∧ MemWrote s t ((e.inFrame c.fra).key (e.ia + 64 * k)) (s.memRead (e.key (e.ia + 64 * k)) 64)
      ∧ t.pageop? h ia = some { p with copy := some (k + 1) } ∧ .migrationSectorCopy h ia ∈ t.pending := by
  let u := s.copyFrame (some e) (e.inFrame c.fra) (e.ia + 64 * k) 64
  have hx : exec (.migrationSectorCopy h ia) s
      = .next ((u.modPageop h ia fun p => { p with copy := some (k + 1) }).due [.migrationSectorCopy h ia]) := by
    simp only [exec, execMigrationSectorCopy, hc.home, hc.op, hc.entry, hc.cmd, hc.copy, hm, hw, hk, hh, hb, Bool.false_eq_true, if_false,
      if_true, ne_eq, not_true_eq_false, Bool.or_self, decide_false]
    rfl
  refine ⟨_, hx, memWrote_copyFrame hs rfl, ?_, List.mem_append_right _ List.mem_cons_self⟩
  exact State.pageop?_modPageop (s := u) (f := fun p => { p with copy := some (k + 1) })
    (State.pageop?_copyFrame (dst := e.inFrame c.fra) hc.op hc.entry _ rfl rfl ..) fun _ => ⟨rfl, rfl⟩

/-- The page in the frame that a command has it moved to. -/
def Entry.moved (e : Entry) (c : HomeCmd) : Entry := { e.inFrame c.fra with mst := 0 }

theorem Copying.flips (hc : Copying s h ia p e c k) (hm : e.mst = 1) (hw : p.wait = false) (hk : pageSize ia ≤ 64 * k) :
    ∃ t, exec (.migrationSectorCopy h ia) s = .next t ∧ t.entry? h ia = some (e.moved c) ∧ Reported s t c 0 1 e.frame
      ∧ .migrationSlotStart h ∈ t.pending := by
  let u := (s.dropPageop h ia).modEntry h ia fun e => e.moved c
  let v := (u.ringMoved e).saveMoved e
  have hx : exec (.migrationSectorCopy h ia) s = .next ((v.cmdEnd c 0 1 e.frame).due (.migrationSlotStart h :: p.behind)) := by
    simp only [exec, execMigrationSectorCopy, hc.home, hc.op, hc.entry, hc.cmd, hc.copy, hm, hw, Nat.not_lt.2 hk, Bool.false_eq_true,
      if_false, ne_eq, not_true_eq_false, Bool.or_self, decide_false]
    rfl
  have hv : Woken u v := (u.ringMoved_woken e).trans (State.saveMoved_woken _ e)
  have hu : u.entry? h ia = some (e.moved c) :=
    State.entry?_modEntry (s := s.dropPageop h ia) (f := fun e => e.moved c) hc.entry fun _ => ⟨rfl, rfl⟩
  refine ⟨_, hx, ((v.cmdEnd_hubWrote ..).entry? ..).trans ((hv.entry? ..).trans hu), ?_, List.mem_append_right _ List.mem_cons_self⟩
  exact ((Woken.refl _).due _).reported (u := v) hv.fns

/-! ### FILL (R67) -/

theorem State.resumePage_of_unheld (hp : p.held = []) : Woken s (s.resumePage p) := by
  unfold State.resumePage
  rw [hp, List.foldl_nil]
  exact ((Woken.refl s).due _).trans (State.retryHeld_woken _)

/-- What a page operation held is due when it goes on. -/
theorem State.resumePage_of_held {l : LeaseReq} (hp : p.held = [l]) : Woken (s.leaseAsk l) (s.resumePage p) := by
  unfold State.resumePage
  rw [hp, List.foldl_cons, List.foldl_nil]
  exact ((Woken.refl _).due _).trans (State.retryHeld_woken _)

/-- The page of entry e with its source in its new frame. -/
def State.filled (s : State) (h : HomeId) (ia : Nat) (e : Entry) (c : HomeCmd) : State :=
  ((s.copyFrame (if c.zero then none else some (e.inFrame c.frb)) (e.inFrame c.fra) e.ia (pageSize ia)).dropPageop h ia).modEntry h ia
    fun _ => e.moved c

theorem Copying.fill_held (hc : Copying s h ia p e c k) (hm : e.mst = 2)
    (hh : s.copyHeld (if c.zero then e.inFrame c.fra else e.inFrame c.frb) (e.inFrame c.fra) e.ia (pageSize ia) = true) :
    exec (.fillCopyDone h ia) s = .next { s with pending := s.pending ++ [.fillCopyDone h ia] } := by
  simp only [exec, execFillCopyDone, hc.home, hc.op, hc.entry, hc.cmd, hc.copy, hm, hh, Bool.false_eq_true, if_false, if_true, ne_eq,
    not_true_eq_false, State.due]

theorem Copying.exec_fill (hc : Copying s h ia p e c k) (hm : e.mst = 2)
    (hh : s.copyHeld (if c.zero then e.inFrame c.fra else e.inFrame c.frb) (e.inFrame c.fra) e.ia (pageSize ia) = false)
    (hb : c.zero = true ∨ ∀ q ∈ s.poison, inSpan q ((e.inFrame c.frb).key e.ia) (pageSize ia) = false) :
    exec (.fillCopyDone h ia) s = .next (((s.filled h ia e c).cmdEnd c 0 1 0).resumePage p) := by
  have hbad : (if c.zero = true then none else s.poison.find? fun k => inSpan k ((e.inFrame c.frb).key e.ia) (pageSize ia)) = none := by
    rcases hb with hb | hb
    · rw [if_pos hb]
    · rw [List.find?_eq_none.2 fun q hq => by rw [hb q hq]; nofun, ite_self]
  simp only [exec, execFillCopyDone, hc.home, hc.op, hc.entry, hc.cmd, hc.copy, hm, hh, hbad, Bool.false_eq_true, if_false, ne_eq,
    not_true_eq_false]
  rfl

theorem Copying.filled_entry (hc : Copying s h ia p e c k) : (s.filled h ia e c).entry? h ia = some (e.moved c) :=
  State.entry?_modEntry_to (s := State.dropPageop _ h ia) (((s.copyFrame_hubWrote ..).entry? ..).trans hc.entry) rfl rfl

theorem State.filled_fns : (s.filled h ia e c).fns = s.fns := s.copyFrame_fns ..

theorem State.memByte_filled (hs : s.Inv) {i : Nat} (hi : i < pageSize ia) :
    (s.filled h ia e c).memByte ((e.inFrame c.fra).key e.ia + i) = if c.zero then 0 else s.memByte ((e.inFrame c.frb).key e.ia + i) := by
  have hin : (e.inFrame c.fra).key e.ia ≤ (e.inFrame c.fra).key e.ia + i
      ∧ (e.inFrame c.fra).key e.ia + i < (e.inFrame c.fra).key e.ia + pageSize ia := by omega
  have hmem : (s.filled h ia e c).mem = _ := s.mem_copyFrame ..
  rw [State.memByte, hmem]
  cases c.zero
  · exact (get_copyBytes hs ..).trans (by rw [if_pos hin, Nat.add_sub_cancel_left]; rfl)
  · exact (get_zeroBytes ..).trans (by rw [if_pos hin]; rfl)

theorem Copying.fills (hc : Copying s h ia p e c k) (hs : s.Inv) (hm : e.mst = 2)
    (hh : s.copyHeld (if c.zero then e.inFrame c.fra else e.inFrame c.frb) (e.inFrame c.fra) e.ia (pageSize ia) = false)
    (hb : c.zero = true ∨ ∀ q ∈ s.poison, inSpan q ((e.inFrame c.frb).key e.ia) (pageSize ia) = false) (hp : p.held = []) :
    ∃ t, exec (.fillCopyDone h ia) s = .next t ∧ t.entry? h ia = some (e.moved c) ∧ Reported s t c 0 1 0
      ∧ ∀ f, s.fn? c.fn = some f → ringOn f.hcc = false ∨ 2 ^ ringLog f.hcc ≤ f.hccpi.toNat - f.hccci.toNat → ∀ i < pageSize ia,
          t.memByte ((e.inFrame c.fra).key e.ia + i) = if c.zero then 0 else s.memByte ((e.inFrame c.frb).key e.ia + i) := by
  let u := s.filled h ia e c
  have hw : Woken (u.cmdEnd c 0 1 0) ((u.cmdEnd c 0 1 0).resumePage p) := State.resumePage_of_unheld hp
  have hfns : u.fns = s.fns := State.filled_fns
  refine ⟨_, hc.exec_fill hm hh hb, (hw.entry? ..).trans (((u.cmdEnd_hubWrote ..).entry? ..).trans hc.filled_entry), hw.reported hfns,
    fun f hf hfull i hi => ?_⟩
  have hfu : u.fn? c.fn = some f := (congrArg (List.find? fun x : Fn => x.num == c.fn) hfns).trans hf
  rw [State.memByte, hw.mem, State.mem_cmdEnd_of_full hfu hfull]
  exact State.memByte_filled hs hi

/-- The one page a request asks for is granted, where the request may be. -/
theorem State.leaseAsk_grants {l : LeaseReq} {x : Home} (ha : AsksOne l h ia) (hx : s.home? h = some x) (hd : l.blk.ctx ∉ x.dead)
    (he : s.entry? h ia = some e) (hserves : e.serves l.blk.ctx = true) (hm : e.mst = 0) (hl : e.loc ≠ 0) (hb : s.blkPins l ≤ pinMax)
    (hpins : x.pins < pinMax) : .leaseGrantReceived l ∈ (s.leaseAsk l).pending := by
  obtain ⟨rfl, hpages, hint⟩ := ha
  have hent : s.entry? l.home (pageOf ia) = some e := by simpa only [State.entry?, pageOf_pageOf] using he
  have hlook : ∀ p ∈ l.pages, s.leaseLook l p = .grant := by
    intro p hp
    rw [hpages, List.mem_singleton] at hp
    simp [hp, State.leaseLook, hent, hserves, hm, hl]
  have hnew : s.newPins l ≤ 1 := (List.length_filter_le ..).trans (by rw [hpages]; rfl)
  have hgrant := exec_leaseRequest_of_grants hx hd hint hlook hb
  rw [exec_leaseRequest hx, if_neg (by omega), Host.Outcome.next.injEq] at hgrant
  rw [hgrant]
  exact List.mem_append_right _ List.mem_cons_self

theorem Copying.fill_grants (hc : Copying s h ia p e c k) (hm : e.mst = 2)
    (hh : s.copyHeld (if c.zero then e.inFrame c.fra else e.inFrame c.frb) (e.inFrame c.fra) e.ia (pageSize ia) = false)
    (hb : c.zero = true ∨ ∀ q ∈ s.poison, inSpan q ((e.inFrame c.frb).key e.ia) (pageSize ia) = false) {l : LeaseReq} (hp : p.held = [l])
    (ha : AsksOne l h ia) {x : Home} (hx : s.home? h = some x) (hd : l.blk.ctx ∉ x.dead) (hserves : e.serves l.blk.ctx = true)
    (hl : frLoc c.fra ≠ 0) (hpins : s.blkPins l ≤ pinMax) (hfree : x.pins < pinMax) :
    ∃ t, exec (.fillCopyDone h ia) s = .next t ∧ .leaseGrantReceived l ∈ t.pending := by
  let u := s.filled h ia e c
  have hcopy : HubWrote s _ := s.copyFrame_hubWrote (if c.zero then none else some (e.inFrame c.frb)) (e.inFrame c.fra) e.ia (pageSize ia)
  have hend := u.cmdEnd_hubWrote c 0 1 0
  obtain ⟨y, hy, hybare⟩ := hcopy.home?_some hx
  obtain ⟨x', hx', hbare⟩ := hend.home?_some (show u.home? h = some y from hy)
  rw [hybare] at hbare
  have hdead : x'.dead = x.dead := (congrArg Home.dead hbare :)
  have hpin : x'.pins = x.pins := (congrArg Home.pins hbare :)
  have hblks : (u.cmdEnd c 0 1 0).blks = s.blks := hend.blks.trans hcopy.blks
  have hbp : (u.cmdEnd c 0 1 0).blkPins l = s.blkPins l := by simp only [State.blkPins, State.blk?, hblks]
  refine ⟨_, hc.exec_fill hm hh hb, (State.resumePage_of_held hp).pending ?_⟩
  exact State.leaseAsk_grants (e := e.moved c) ha hx' (hdead ▸ hd) ((hend.entry? ..).trans hc.filled_entry) hserves rfl hl (hbp ▸ hpins)
    (hpin ▸ hfree)

end

section
variable {s t : State} {h : HomeId} {ia : Nat} {e : Entry} {p : PageOp} {c : HomeCmd}

/-! ### PAGE_FLUSH (R62 step 3) -/

/-- The core without the lines of the page of ia. -/
def Core.flushed (ia : Nat) (k : Core) : Core := { k with l1 := k.l1.filter fun x => !(pageOf x.ia == pageOf ia) }

/-- The die without the copies and pins of the page of ia. -/
def Die.flushed (ia : Nat) (d : Die) : Die :=
  { d with
    l2 := d.l2.filter fun x => !(pageOf x.ia == pageOf ia)
    pins := d.pins.filter fun x => !(pageOf x.1 == pageOf ia)
    migs := d.migs.filter fun m => !(pageOf m.ia == pageOf ia)
    fwd := d.fwd.filter fun f => !(pageOf f.1 == pageOf ia) }

theorem ne_of_mem_flushed {α : Type} {f : α → Nat} {l : List α} {y : α} (hy : y ∈ l.filter fun x => !(pageOf (f x) == pageOf ia)) :
    pageOf (f y) ≠ pageOf ia := by
  simpa using (List.mem_filter.1 hy).2

theorem pageFlush_drops {pkg die : Nat} {d : Die} (hp : s.pageop? h ia = some p) (hd : s.die? pkg die = some d) (ha : (pkg, die) ∈ p.acks) :
    ∃ t d', exec (.pageFlush h ia pkg die) s = .next t ∧ t.mem = s.mem ∧ .shootDownAck h ia pkg die ∈ t.pending
      ∧ t.die? pkg die = some d' ∧ (∀ y ∈ d'.l2, pageOf y.ia ≠ pageOf ia) ∧ (∀ y ∈ d'.pins, pageOf y.1 ≠ pageOf ia)
      ∧ ∀ k ∈ t.cores, k.id.pkg = pkg → k.id.die = die → ∀ y ∈ k.l1, pageOf y.ia ≠ pageOf ia := by
  let u : State := { s with cores := s.cores.map fun k => if k.id.pkg = pkg ∧ k.id.die = die then k.flushed ia else k }
  have hx : exec (.pageFlush h ia pkg die) s = .next ((u.modDie pkg die (Die.flushed ia)).due [.shootDownAck h ia pkg die]) := by
    have hc : p.acks.contains (pkg, die) = true := List.contains_iff_mem.2 ha
    simp only [exec, execPageFlush, hd, hp, hc, Bool.not_true, Bool.false_eq_true, if_false]
    rfl
  refine ⟨_, d.flushed ia, hx, rfl, List.mem_append_right _ List.mem_cons_self, ?_, fun y => ne_of_mem_flushed,
    fun y => ne_of_mem_flushed, fun k hk h1 h2 y hy => ?_⟩
  · exact (State.die?_modDie (s := u) (f := Die.flushed ia) fun _ => ⟨rfl, rfl⟩).trans (congrArg (Option.map (Die.flushed ia)) hd)
  · obtain ⟨k', -, rfl⟩ := List.mem_map.1 hk
    by_cases hn : k'.id.pkg = pkg ∧ k'.id.die = die
    · rw [if_pos hn] at hy
      exact ne_of_mem_flushed hy
    · rw [if_neg hn] at h1 h2
      exact absurd ⟨h1, h2⟩ hn

/-! ### SHOOT_DOWN_ACK (R62 step 4, R71) -/

/-- A shoot-down whose dies have all acknowledged, before its entry changes: its page operation is gone, old bytes are back in its frame,
and logs and save areas in the page are lost. -/
def State.shotDown (s : State) (p : PageOp) (e : Entry) : State :=
  let s := (s.dropPageop p.home p.ia).landBack p.back
  let s := if p.shoot = some .resetacc then s else s.ringMoved e
  if p.shoot = some .evict then s.saveMoved e else s

/-- The page's entry with no access counted. -/
def Entry.uncounted (e : Entry) : Entry := { e with acc := 0, d := false, rpf := 0, mst := 0 }

/-- What a shoot-down's end makes of its entry. -/
def State.shotEntry (s : State) (p : PageOp) : State :=
  match p.shoot with
  | some .unmap => { s with entries := s.entries.filter fun x => !(decide (x.home = p.home) && x.ia == p.ia) }
  | some .evict => s.modEntry p.home p.ia fun e => { e.uncounted with loc := 0, faddr := 0 }
  | _ => s.modEntry p.home p.ia Entry.uncounted

/-- The frame that a shoot-down's completion record names. -/
def PageOp.freed (p : PageOp) (e : Entry) : W64 := match p.shoot with | some .unmap | some .evict => e.frame | _ => 0

/-- The end of a shoot-down for a command (R62 step 4, R71 step 4). -/
theorem State.shootEnd_eq (hc : p.cmd = some c) (s : State) (e : Entry) :
    s.shootEnd p e = (((s.shotDown p e).shotEntry p).cmdEnd c 0 1 (p.freed e)).resumePage p := by
  rcases hs : p.shoot with _ | _ | _ | _ <;> simp only [State.shootEnd, State.shotDown, State.shotEntry, PageOp.freed, hc, hs] <;> rfl

/-- Old bytes that land in a frame change memory, by a free choice. -/
theorem State.landBack_frame (s : State) (l : List (Nat × List Byte)) : ∃ m n, s.landBack l = { s with mem := m, free := n } := by
  have hf (put : Nat × List Byte → Bool) (l : List (Nat × List Byte)) (u : State) :
      ∃ m, l.foldl (fun s b => if put b then s.memWrite b.1 b.2 else s) u = { u with mem := m } := by
    induction l generalizing u with
    | nil => exact ⟨u.mem, rfl⟩
    | cons b r ih =>
      obtain ⟨m, hm⟩ := ih (if put b then u.memWrite b.1 b.2 else u)
      refine ⟨m, hm.trans ?_⟩
      split <;> rfl
  let x := s.pick (l.map fun b => b.1)
  obtain ⟨m, hm⟩ := hf (fun b => x.1.contains b.1) l x.2
  exact ⟨m, x.2.free, hm⟩

/-- Of the Hub's structures a shoot-down's end changes memory and its page operation alone. -/
theorem State.shotDown_entries (s : State) (p : PageOp) (e : Entry) :
    (s.shotDown p e).entries = s.entries ∧ (s.shotDown p e).homes = s.homes ∧ (s.shotDown p e).fns = s.fns := by
  let u := (s.dropPageop p.home p.ia).landBack p.back
  obtain ⟨m, n, hu⟩ : ∃ m n, u = { s.dropPageop p.home p.ia with mem := m, free := n } := State.landBack_frame ..
  have h1 : Woken u (if p.shoot = some .resetacc then u else u.ringMoved e) := (Woken.refl u).ite (u.ringMoved_woken e)
  have h2 : Woken u (s.shotDown p e) := (h1.trans (State.saveMoved_woken _ e)).ite h1
  exact ⟨h2.entries.trans (by rw [hu]; rfl), h2.homes.trans (by rw [hu]; rfl), h2.fns.trans (by rw [hu]; rfl)⟩

theorem State.shotEntry_homes (s : State) (p : PageOp) : (s.shotEntry p).homes = s.homes ∧ (s.shotEntry p).fns = s.fns := by
  unfold State.shotEntry
  split <;> exact ⟨rfl, rfl⟩

/-- The entry of a page that has been shot down: gone, without a frame, or with no access counted. -/
theorem State.entry?_shotEntry (hh : p.home = h) (hi : p.ia = pageOf ia) (he : s.entry? h ia = some e) :
    (p.shoot = some .unmap → (s.shotEntry p).entry? h ia = none)
      ∧ (p.shoot = some .evict → (s.shotEntry p).entry? h ia = some { e.uncounted with loc := 0, faddr := 0 })
      ∧ (p.shoot = some .resetacc → (s.shotEntry p).entry? h ia = some e.uncounted) := by
  have hmod (f : Entry → Entry) : s.modEntry p.home p.ia f = s.modEntry h ia f := by simp only [State.modEntry, hh, hi, pageOf_pageOf]
  unfold State.shotEntry
  refine ⟨fun hs => ?_, fun hs => ?_, fun hs => ?_⟩ <;> rw [hs]
  · refine List.find?_eq_none.2 fun x hx hq => ?_
    have hx := (List.mem_filter.1 hx).2
    rw [hh, hi, hq] at hx
    cases hx
  · exact (congrArg (State.entry? · h ia) (hmod _)).trans
      (State.entry?_modEntry (f := fun e => { e.uncounted with loc := 0, faddr := 0 }) he fun _ => ⟨rfl, rfl⟩)
  · exact (congrArg (State.entry? · h ia) (hmod _)).trans (State.entry?_modEntry (f := Entry.uncounted) he fun _ => ⟨rfl, rfl⟩)

/-- The dies of a page operation still to acknowledge once d has. -/
def PageOp.rest (p : PageOp) (d : Nat × Nat) : List (Nat × Nat) := p.acks.filter fun y => y != d

theorem exec_shootDownAck (hp : s.pageop? h ia = some p) (he : s.entry? h ia = some e) {d : Nat × Nat} (hd : d ∈ p.acks) :
    exec (.shootDownAck h ia d.1 d.2) s = .next (
      let u := s.modPageop h ia fun q => { q with acks := p.rest d }
      if (p.rest d).isEmpty then u.shootEnd { p with acks := [] } e else u) := by
  have hc : p.acks.contains (d.1, d.2) = true := List.contains_iff_mem.2 hd
  simp only [exec, execShootDownAck, hp, he, hc, Bool.not_true, Bool.false_eq_true, if_false]
  rfl

theorem shootDownAck_waits (hp : s.pageop? h ia = some p) (he : s.entry? h ia = some e) {d : Nat × Nat} (hd : d ∈ p.acks)
    (hr : p.rest d ≠ []) : ∃ t, exec (.shootDownAck h ia d.1 d.2) s = .next t ∧ t.mem = s.mem ∧ t.entries = s.entries
      ∧ t.pageop? h ia = some { p with acks := p.rest d } := by
  refine ⟨_, (exec_shootDownAck hp he hd).trans (congrArg _ (if_neg (by simpa using hr))), rfl, rfl, ?_⟩
  exact State.pageop?_modPageop (f := fun q => { q with acks := p.rest d }) hp fun _ => ⟨rfl, rfl⟩

/-- The state in which the last acknowledgement of a page has changed its entry. -/
def State.acked (s : State) (h : HomeId) (ia : Nat) (p : PageOp) (e : Entry) : State :=
  ((s.modPageop h ia fun q => { q with acks := [] }).shotDown { p with acks := [] } e).shotEntry p

theorem exec_shootDownAck_last (hp : s.pageop? h ia = some p) (he : s.entry? h ia = some e) (hc : p.cmd = some c) {d : Nat × Nat}
    (hd : d ∈ p.acks) (hr : p.rest d = []) : exec (.shootDownAck h ia d.1 d.2) s
      = .next (((s.acked h ia p e).cmdEnd c 0 1 (p.freed e)).resumePage { p with acks := [] }) := by
  have hx := exec_shootDownAck hp he hd
  rw [hr] at hx
  exact hx.trans (congrArg _ (State.shootEnd_eq (p := { p with acks := [] }) hc ..))

theorem State.acked_homes (s : State) (h : HomeId) (ia : Nat) (p : PageOp) (e : Entry) :
    (s.acked h ia p e).homes = s.homes ∧ (s.acked h ia p e).fns = s.fns := by
  let u := s.modPageop h ia fun q => { q with acks := [] }
  obtain ⟨-, h1, h2⟩ := u.shotDown_entries { p with acks := [] } e
  obtain ⟨h3, h4⟩ := State.shotEntry_homes (u.shotDown { p with acks := [] } e) p
  exact ⟨h3.trans h1, h4.trans h2⟩

theorem State.entry?_acked (hp : s.pageop? h ia = some p) (he : s.entry? h ia = some e) :
    (p.shoot = some .unmap → (s.acked h ia p e).entry? h ia = none)
      ∧ (p.shoot = some .evict → (s.acked h ia p e).entry? h ia = some { e.uncounted with loc := 0, faddr := 0 })
      ∧ (p.shoot = some .resetacc → (s.acked h ia p e).entry? h ia = some e.uncounted) := by
  obtain ⟨hh, hi⟩ := State.pageop?_place hp
  let u := s.modPageop h ia fun q => { q with acks := [] }
  have hu := State.entry?_congr (u.shotDown_entries { p with acks := [] } e).1 h ia
  exact State.entry?_shotEntry hh hi (hu.trans he)

/-- A page without an entry is leased to no one. -/
theorem State.leaseAsk_refuses {l : LeaseReq} {x : Home} (ha : AsksOne l h ia) (hx : s.home? h = some x) (hd : l.blk.ctx ∉ x.dead)
    (he : s.entry? h ia = none) : .leaseRefused l ∈ (s.leaseAsk l).pending := by
  obtain ⟨rfl, hpages, hint⟩ := ha
  have hlook : s.leaseLook l (pageOf ia) = .refuse := by
    have hent : s.entry? l.home (pageOf ia) = none := by simpa only [State.entry?, pageOf_pageOf] using he
    simp [State.leaseLook, hent]
  have hr := leaseRefusal hx hd hint (.inl ⟨_, by rw [hpages]; exact List.mem_cons_self, hlook⟩)
  rw [exec_leaseRequest hx, Host.Outcome.next.injEq] at hr
  rw [hr]
  exact List.mem_append_right _ List.mem_cons_self

/-- The accesses that a page operation held go to their home. -/
theorem State.resumePage_reqs (s : State) {r : Req} (hr : r ∈ p.reqs) : r.atHome ∈ (s.resumePage p).pending :=
  (State.retryHeld_woken _).pending (List.mem_append_right _ (List.mem_append_left _ (List.mem_map_of_mem hr)))

theorem shootDownAck_resumes (hp : s.pageop? h ia = some p) (he : s.entry? h ia = some e) (hc : p.cmd = some c) {d : Nat × Nat}
    (hd : d ∈ p.acks) (hr : p.rest d = []) {x : Home} (hx : s.home? h = some x) :
    ∃ t, exec (.shootDownAck h ia d.1 d.2) s = .next t ∧ (∀ r ∈ p.reqs, r.atHome ∈ t.pending)
      ∧ ∀ l, p.shoot = some .unmap → p.held = [l] → AsksOne l h ia → l.blk.ctx ∉ x.dead → .leaseRefused l ∈ t.pending := by
  let u := s.acked h ia p e
  have hend := u.cmdEnd_hubWrote c 0 1 (p.freed e)
  obtain ⟨hhomes, -⟩ := s.acked_homes h ia p e
  refine ⟨_, exec_shootDownAck_last hp he hc hd hr, fun r hm => State.resumePage_reqs (p := { p with acks := [] }) _ hm,
    fun l hs hl ha hdead => (State.resumePage_of_held (p := { p with acks := [] }) hl).pending ?_⟩
  have hu : u.home? h = some x := (congrArg (List.find? fun y : Home => decide (y.id = h)) hhomes).trans hx
  obtain ⟨x', hx', hbare⟩ := hend.home?_some hu
  have hd' : x'.dead = x.dead := (congrArg Home.dead hbare :)
  exact State.leaseAsk_refuses ha hx' (hd' ▸ hdead) ((hend.entry? ..).trans ((State.entry?_acked hp he).1 hs))

theorem shootDownAck_ends (hp : s.pageop? h ia = some p) (he : s.entry? h ia = some e) (hc : p.cmd = some c) {d : Nat × Nat}
    (hd : d ∈ p.acks) (hr : p.rest d = []) (hl : p.held = []) :
    ∃ t, exec (.shootDownAck h ia d.1 d.2) s = .next t
      ∧ (p.shoot = some .unmap → t.entry? h ia = none ∧ Reported s t c 0 1 e.frame)
      ∧ (p.shoot = some .evict → t.entry? h ia = some { e.uncounted with loc := 0, faddr := 0 } ∧ Reported s t c 0 1 e.frame)
      ∧ (p.shoot = some .resetacc → t.entry? h ia = some e.uncounted ∧ Reported s t c 0 1 0) := by
  let u := s.acked h ia p e
  have hw := State.resumePage_of_unheld (s := u.cmdEnd c 0 1 (p.freed e)) (p := { p with acks := [] }) hl
  have hent := (hw.entry? h ia).trans ((u.cmdEnd_hubWrote ..).entry? ..)
  have hrep := hw.reported (s.acked_homes h ia p e).2
  obtain ⟨h1, h2, h3⟩ := State.entry?_acked hp he
  refine ⟨_, exec_shootDownAck_last hp he hc hd hr, fun hs => ⟨hent.trans (h1 hs), ?_⟩, fun hs => ⟨hent.trans (h2 hs), ?_⟩,
    fun hs => ⟨hent.trans (h3 hs), ?_⟩⟩ <;> simpa only [PageOp.freed, hs] using hrep

/-! ### PRQCI_WRITE (R67) -/

theorem prqciWrite_of_unheld {fn : Nat} {f : Fn} (hf : s.fn? fn = some f) (hw : f.prqWait = []) (ci : Nat) :
    ∃ t, exec (.prqciWrite fn ci) s = .next t ∧ t.mem = s.mem ∧ t.fn? fn = some { f with prqci := BitVec.ofNat 64 ci } := by
  let put := fun f : Fn => { f with prqci := BitVec.ofNat 64 ci }
  have hx : exec (.prqciWrite fn ci) s = .next (s.prqciSet fn (BitVec.ofNat 64 ci)) := by simp [exec, execPrqciWrite, hf]
  refine ⟨s.modFn fn put, hx.trans (congrArg _ ?_), rfl, State.fn?_modFn_some hf put fun _ => rfl⟩
  exact State.prqFlush_modFn hf 65537 put (fun _ => rfl) hw

/-! ### Rows that are retired (R74 to R76) -/

variable {r : RowId} {x : Home}

theorem exec_rowRetirementOrder_again (hx : s.home? r.home = some x) (hr : ∃ y ∈ x.rows, y.row = r) (bad : List Nat) :
    exec (.rowRetirementOrder r bad) s = .next s := by
  simp [exec, execRowRetirementOrder, hx, hr]

theorem rowRetirementOrder_starts (hx : s.home? r.home = some x) (hr : ∀ y ∈ x.rows, y.row ≠ r) (h1 : x.bankSpares r < 8)
    (h2 : x.remap.length + x.rows.length < 4096) (bad : List Nat) :
    ∃ t, exec (.rowRetirementOrder r bad) s = .next t ∧ t.mem = s.mem
      ∧ t.home? r.home = some { x with rows := x.rows ++ [⟨r, bad, []⟩] } ∧ .rowRemapSwitch r ∈ t.pending := by
  let add := fun y : Home => { y with rows := y.rows ++ [(⟨r, bad, []⟩ : RowOp)] }
  have he : exec (.rowRetirementOrder r bad) s = .next ((s.modHome r.home add).due [.rowRemapSwitch r]) := by
    have hr' : ¬ ∃ y ∈ x.rows, y.row = r := fun ⟨y, hy, h⟩ => hr y hy h
    simp [exec, execRowRetirementOrder, hx, hr', h1, h2, add]
  exact ⟨_, he, rfl, State.home?_modHome_some hx add fun _ => rfl, List.mem_append_right _ List.mem_cons_self⟩

theorem Fn.logical_congr {f g : Fn} (h : f.part = g.part) (p : Nat) : f.logical p = g.logical p := by
  obtain ⟨-, hpart, hmap⟩ : f.num = g.num ∧ f.fpart = g.fpart ∧ f.hmap = g.hmap := by simpa only [Fn.part, Prod.mk.injEq] using h
  simp only [Fn.logical, Fn.dies, Fn.members, Fn.phys, hpart, hmap]

/-- The logical index of a package for a function. -/
def State.logicalOf (s : State) (fn pkg : Nat) : Nat := match s.fn? fn with | some f => f.logical pkg | none => 0

theorem HubWrote.logicalOf (hw : HubWrote s t) (fn pkg : Nat) : t.logicalOf fn pkg = s.logicalOf fn pkg := by
  have h := hw.fn? fn
  unfold State.logicalOf
  cases hs : s.fn? fn with
  | none => rw [hs, Option.map_none, Option.map_eq_none_iff] at h; rw [h]
  | some f =>
    rw [hs, Option.map_some] at h
    obtain ⟨g, hg, hp⟩ := Option.map_eq_some_iff.1 h
    rw [hg]
    exact Fn.logical_congr hp pkg

/-- The frame-retire record of an entry (R75). -/
def State.retireRecord (s : State) (e : Entry) : Sent :=
  .retire e.home.pkg [BitVec.ofNat 64 e.ia, e.swc,
    BitVec.ofNat 64 (e.owner + e.home.stack * 2 ^ 16 + s.logicalOf (fnOf e.owner) e.home.pkg * 2 ^ 20 + 2 * 2 ^ 32), e.frame]

theorem State.frameRetire_hubWrote (s : State) (e : Entry) : HubWrote s (s.frameRetire e) := by
  have hp := s.prqPost_hubWrote (fnOf e.owner) [BitVec.ofNat 64 e.ia, e.swc,
    BitVec.ofNat 64 (e.owner + e.home.stack * 2 ^ 16 + s.logicalOf (fnOf e.owner) e.home.pkg * 2 ^ 20 + 2 * 2 ^ 32), e.frame]
  exact hp.trans ⟨rfl, rfl, rfl, rfl, List.subset_append_left .., fun _ h _ => h⟩

theorem State.retireRecord_mem (s : State) (e : Entry) : s.retireRecord e ∈ (s.frameRetire e).outbox :=
  List.mem_append_right _ List.mem_cons_self

/-- Every entry of a list is reported. -/
theorem State.retireRecord_mem_foldl {l : List Entry} (he : e ∈ l) (s : State) : s.retireRecord e ∈ (l.foldl State.frameRetire s).outbox := by
  induction l generalizing s with
  | nil => cases he
  | cons a r ih =>
    rcases List.mem_cons.1 he with rfl | he
    · exact (HubWrote.foldl State.frameRetire_hubWrote r _).outbox (s.retireRecord_mem e)
    · have h := ih he (s.frameRetire a)
      rwa [State.retireRecord, (s.frameRetire_hubWrote a).logicalOf] at h

/-- A row without a spare: its bad sectors are poisoned and go on failing, and each user of its frames is told (R75). -/
theorem rowRetirementOrder_fails (hx : s.home? r.home = some x) (hr : ∀ y ∈ x.rows, y.row ≠ r)
    (hn : 8 ≤ x.bankSpares r ∨ 4096 ≤ x.remap.length + x.rows.length) (bad : List Nat) :
    ∃ t y, exec (.rowRetirementOrder r bad) s = .next t ∧ t.home? r.home = some y
      ∧ (∀ k ∈ stackSectors r.home bad, k ∈ t.poison ∧ k ∈ y.failing)
      ∧ y.remap = x.remap ∧ (y.rows.map fun z => z.row) = x.rows.map (fun z => z.row)
      ∧ ∀ e ∈ s.entries, e.touchesRow r = true → s.retireRecord e ∈ t.outbox := by
  let ks := stackSectors r.home bad
  let fail := fun y : Home => { y with failing := y.failing ++ ks.filter fun k => !y.failing.contains k }
  let u := ({ s with poison := s.poison ++ ks.filter fun k => !s.poison.contains k } : State).modHome r.home fail
  have he : exec (.rowRetirementOrder r bad) s = .next ((s.entries.filter fun e => e.touchesRow r).foldl State.frameRetire u) := by
    have hr' : ¬ ∃ y ∈ x.rows, y.row = r := fun ⟨y, hy, h⟩ => hr y hy h
    have hn' : ¬(x.bankSpares r < 8 ∧ x.remap.length + x.rows.length < 4096) := by omega
    simp only [exec, execRowRetirementOrder, hx, List.any_eq_true, decide_eq_true_eq, hr', hn', if_false]
    rfl
  have hw := HubWrote.foldl State.frameRetire_hubWrote (s.entries.filter fun e => e.touchesRow r) u
  have hu : u.home? r.home = some (fail x) :=
    State.home?_modHome_some (s := { s with poison := s.poison ++ ks.filter fun k => !s.poison.contains k }) hx fail fun _ => rfl
  obtain ⟨y, hy, hbare⟩ := hw.home?_some hu
  have hfail : y.failing = (fail x).failing := (congrArg Home.failing hbare :)
  have hrows (z : Home) : z.bare.rows.map (fun z => z.row) = z.rows.map fun z => z.row := by
    simp only [Home.bare, List.map_map]
    rfl
  have hadd (l : List Nat) {k : Nat} (hk : k ∈ ks) : k ∈ l ++ ks.filter fun k => !l.contains k := by
    by_cases hl : k ∈ l <;> simp [hl, hk]
  have hfailing {k : Nat} (hk : k ∈ ks) : u.failing k = true :=
    List.any_eq_true.2 ⟨_, List.mem_of_find?_eq_some hu, List.contains_iff_mem.2 (hadd x.failing hk)⟩
  exact ⟨_, y, he, hy, fun k hk => ⟨hw.poison k (hadd s.poison hk) (hfailing hk), hfail ▸ hadd x.failing hk⟩,
    (congrArg Home.remap hbare :), (hrows y).symm.trans (hbare ▸ hrows (fail x)),
    fun e he ht => State.retireRecord_mem_foldl (List.mem_filter.2 ⟨he, ht⟩) u⟩

theorem rowRemapSwitch_switches (hx : s.home? r.home = some x) {o : RowOp} {i : Nat} (ho : (x.rows.find? fun y => decide (y.row = r)) = some o)
    (hi : x.freeSpare = some i) :
    ∃ t y, exec (.rowRemapSwitch r) s = .next t ∧ t.mem = s.mem ∧ t.home? r.home = some y ∧ y.remap = (r, i) :: x.remap
      ∧ y.rows = delFirst (fun z => decide (z.row = r)) x.rows ∧ (∀ q ∈ o.held, q.atHome ∈ t.pending)
      ∧ .retiredRowPersist r.home.pkg r ∈ t.pending := by
  let put := fun y : Home => { y with rows := delFirst (fun z => decide (z.row = r)) y.rows, remap := (r, i) :: y.remap }
  let u : State := { s with poison := s.poison ++ (stackSectors r.home o.bad).filter fun k => !s.poison.contains k }
  let v := (u.modHome r.home put).due ((o.held.map fun q => q.atHome) ++ [.retiredRowPersist r.home.pkg r])
  have he : exec (.rowRemapSwitch r) s = .next v.retryHeld := by
    simp only [exec, execRowRemapSwitch, hx, ho, hi]
    rfl
  have hw := v.retryHeld_woken
  refine ⟨_, put x, he, hw.mem, ?_, rfl, rfl, fun q hq => hw.pending ?_, hw.pending ?_⟩
  · rw [State.home?, hw.homes]
    exact State.home?_modHome_some (s := u) hx put fun _ => rfl
  · exact List.mem_append_right _ (List.mem_append_left _ (List.mem_map_of_mem hq))
  · exact List.mem_append_right _ (List.mem_append_right _ List.mem_cons_self)

theorem listValid_signList (pkg : Nat) (l : RowList) : listValid pkg (signList pkg l) = true := by
  simp [listValid, signList, rowBytes]

/-- The list of a switched row is written over the older copy, and again where it does not verify (R76). -/
theorem retiredRowPersist_writes {pkg : Nat} {p : Pkg} {y : RowId × Nat} (hp : s.pkg? pkg = some p) (hx : s.home? r.home = some x)
    (hy : (x.remap.find? fun z => decide (z.1 = r)) = some y) :
    let other := if p.writesA then p.listB else p.listA
    ∃ t v, let new : RowList := ⟨other.seq + 1, y :: other.entries.filter (fun z => z != y), v⟩
      exec (.retiredRowPersist pkg r) s = .next t ∧ t.mem = s.mem
      ∧ t.pkg? pkg = some (if p.writesA then { p with listA := new } else { p with listB := new })
      ∧ (v ≠ none → listValid pkg new = true) ∧ (v = none → .retiredRowPersist pkg r ∈ t.pending) := by
  intro other
  let made : RowList := ⟨other.seq + 1, y :: other.entries.filter (fun z => z != y), none⟩
  let put := fun (l : RowList) (p : Pkg) => if p.writesA then { p with listA := l } else { p with listB := l }
  have hput (u : State) (hu : u.pkg? pkg = some p) (l : RowList) : (u.modPkg pkg (put l)).pkg? pkg = some (put l p) :=
    State.pkg?_modPkg_some hu (put l) fun p => by simp only [put]; split <;> rfl
  have he : exec (.retiredRowPersist pkg r) s = .next (
      if (s.choose 2).1 = 0 then (s.choose 2).2.modPkg pkg (put (signList pkg made))
      else ((s.choose 2).2.modPkg pkg (put made)).due [.retiredRowPersist pkg r]) := by
    simp only [exec, execRetiredRowPersist, hp, hx, Option.bind_some, hy]
    split <;> rfl
  by_cases hc : (s.choose 2).1 = 0
  · refine ⟨(s.choose 2).2.modPkg pkg (put (signList pkg made)), some (pkg, rowBytes made), he.trans (by rw [if_pos hc]), rfl,
      hput _ hp _, fun _ => listValid_signList pkg made, nofun⟩
  · refine ⟨((s.choose 2).2.modPkg pkg (put made)).due [.retiredRowPersist pkg r], none, he.trans (by rw [if_neg hc]), rfl,
      hput _ hp _, fun h => absurd rfl h, fun _ => List.mem_append_right _ List.mem_cons_self⟩

end

/-- Settles O53: each step of a page operation, and each of a row's retirement, is one of the steps above. -/
theorem pagesMove : Obligations.PagesMove := by
  unfold Obligations.PagesMove
  intro s h x ia hs hx
  refine ⟨fun p e hp hn hi he => migrationSlot_starts hx hp hn hi he, fun p e c k hp he hcmd hcopy => ?_,
    fun p pkg die d hp hd ha => pageFlush_drops hp hd ha, fun p e c d hp he hc hd => ?_, fun fn f ci hf hw => prqciWrite_of_unheld hf hw ci,
    fun r bad hr => ?_⟩
  · have hc : Copying s h ia p e c k := ⟨by rw [hx]; rfl, hp, he, hcmd, hcopy⟩
    exact ⟨fun hm hw => ⟨hc.held hm hw, hc.copies hs hm hw, hc.flips hm hw⟩, hc.fill_held, fun hm hh hb =>
      ⟨hc.fills hs hm hh hb, fun l hl ha hd hserves hloc hpins hfree => hc.fill_grants hm hh hb hl ha hx hd hserves hloc hpins hfree⟩⟩
  · exact ⟨shootDownAck_waits hp he hd, fun hr => shootDownAck_resumes hp he hc hd hr hx, shootDownAck_ends hp he hc hd⟩
  · subst hr
    refine ⟨fun hy => exec_rowRetirementOrder_again hx hy bad, fun hy h1 h2 => rowRetirementOrder_starts hx hy h1 h2 bad, fun hy hn => ?_,
      fun o i ho hi => rowRemapSwitch_switches hx ho hi, fun p y hp hy => retiredRowPersist_writes hp hx hy⟩
    obtain ⟨t, y, he, hy, hk, hremap, hrows, hout⟩ := rowRetirementOrder_fails hx hy hn bad
    refine ⟨t, y, he, hy, hk, hremap, hrows, fun e hmem ht => ?_⟩
    have hhome : e.home = r.home := by
      simp only [Entry.touchesRow, Bool.and_eq_true, decide_eq_true_eq] at ht
      exact ht.1.2
    exact hhome ▸ hout e hmem ht

end Sys2Proof.Machine

/-! ## An L2 slice whose forwarding entry names no line (O32) -/

namespace Sys2Proof.Machine

/-- The copy of the line at IA 0 that the store should update. -/
def strayLine : Line := ⟨0, 0, 0, [], none, false, false⟩

/-- A die with n pins in slice 8, whose one forwarding entry names IA 1, where no line begins, and where `run` requests of region 1 for
the line at IA 0 have come in a row (R88). -/
def strayDie (n run : Nat) : Die :=
  { Die.new 0 0 with l2 := [strayLine], pins := List.replicate n (512, 0), migs := [⟨0, 1, run⟩], fwd := [(1, 1)] }

def strayState (n run seq : Nat) : State := { State.reset with dies := [strayDie n run], seq := seq }

/-- A weak store of core 8, the first of region 1, to the line at IA 0. -/
def strayStore : Req :=
  ⟨0, ⟨⟨0, false, 0, 0⟩, 0⟩, 0, 0, .store, 0, ⟨0, 0, 8⟩, ⟨0, 0⟩, 0, 4, 0, [1, 2, 3, 4], [], false, .keep, 0, 0, false, 0, 0⟩

theorem strayDie_isPinned (n run : Nat) : (strayDie n run).isPinned 0 = false := by
  simp [Die.isPinned, strayDie, strayLine, lineOf]

/-- The fourth request of the region moves the line. -/
theorem strayDie_route (n : Nat) : (strayDie n 3).route 0 1 = (true, strayDie n 4) := by
  have hp : (strayDie n 3).place 0 = 0 := rfl
  simp only [Die.route, strayDie_isPinned, hp]
  rfl

theorem strayDie_used (n run : Nat) : n ≤ (strayDie n run).used 8 := by
  have h : hslice 512 = 8 := by decide
  simp only [Die.used, strayDie, List.filter_replicate, h]
  simp
  omega

theorem strayDie_victims (n run : Nat) : (strayDie n run).victims 8 [0] = [1] := rfl

theorem strayState_die? (n run seq : Nat) : (strayState n run seq).die? 0 0 = some (strayDie n run) := rfl

/-- A full slice takes the entry at IA 1 for the line at IA 0. -/
theorem strayState_makeRoom {n : Nat} (hn : sliceLines ≤ n) (run seq : Nat) :
    (strayState n run seq).makeRoom 0 0 8 [0] = ({ strayState n run seq with free := 1 }).modDie 0 0 fun d => d.drop 1 := by
  have hu : ¬(strayDie n run).used 8 < sliceLines := Nat.not_lt.mpr (hn.trans (strayDie_used n run))
  simp only [State.makeRoom, strayState_die?, hu, if_false, strayDie_victims]
  simp [State.choose, Nat.mod_one, strayState, State.reset]

/-- The run is counted in the die. -/
theorem strayState_counts (n seq : Nat) :
    ((strayState n 3 seq).modDie 0 0 fun _ => strayDie n 4) = strayState n 4 seq := rfl

theorem strayDie_returns (n run : Nat) : (strayDie n run).returns 0 = none := rfl

/-- So the move takes the copy of the line itself. -/
theorem strayState_routeLine {n : Nat} (hn : sliceLines ≤ n) (seq : Nat) :
    ((strayState n 3 seq).routeLine ⟨0, 0, 8⟩ 0).die? 0 0 = some (((strayDie n 4).drop 1).moveTo 0 1) := by
  have hnear : nearSlice 1 0 = 8 := rfl
  have hline : lineOf 0 = 0 := rfl
  simp only [State.routeLine, strayState_die?, Nat.reduceDiv, strayDie_route, if_true, strayState_counts, State.moveLine,
    Option.bind_some, strayDie_returns, hnear, hline, strayState_makeRoom hn]
  rfl

/-- The store as its die has taken it on. -/
def strayTaken (n : Nat) : Req := ((strayState n 3 0).receive strayStore).1

theorem strayState_receive (n : Nat) :
    ((strayState n 3 0).receive strayStore).2 = (strayState n 3 1).routeLine ⟨0, 0, 8⟩ 0 := rfl

/-- The store is taken on, and finds what the move has left. -/
theorem exec_strayStore (n : Nat) :
    exec (.l2Request strayStore) (strayState n 3 0) = .next
      ((((strayState n 3 1).routeLine ⟨0, 0, 8⟩ 0).updCopies (strayTaken n) [1, 2, 3, 4]).due [(strayTaken n).atHome]) := by
  have hk : strayStore.kind = .store := rfl
  have hl : (strayState n 3 0).lapsed strayStore = false := rfl
  have hw : ((strayState n 3 0).overlapWait strayStore || (strayState n 3 0).progWait strayStore) = false := rfl
  simp only [exec, execL2Request, hk, hl, hw, Bool.false_eq_true, if_false, strayState_receive]
  rfl

/-- A die without a copy has none after a store. -/
theorem State.updCopies_l2 {s : State} {d : Die} (r : Req) (bs : List Byte) (hd : s.die? r.src.pkg r.src.die = some d) (hl : d.l2 = []) :
    ((s.updCopies r bs).die? r.src.pkg r.src.die).map (·.l2) = some [] := by
  have hnil (ps : List (Nat × Nat × Nat)) :
      ps.foldl (fun ls p => updLines ls p.2.1 ((bs.drop p.1).take p.2.2)) [] = [] := by
    induction ps with
    | nil => rfl
    | cons p ps ih => exact ih
  have hcore (f : Core → Core) : (s.modCore r.src f).die? r.src.pkg r.src.die = some d := hd
  have hdie : (s.updCopies r bs).die? r.src.pkg r.src.die = some _ :=
    (State.die?_modDie (by exact fun _ => ⟨rfl, rfl⟩)).trans (by rw [hcore, Option.map_some])
  simp only [hdie, Option.map_some, hl, hnil]

/-- Refutes O32: nothing in the state says that a forwarding entry names a line. Where the entry of IA 1 is the only thing that
replacement may take from a full slice, the move that makes room by it drops the copy of the line at IA 0, and the store finds none. -/
theorem not_l2Slices : ¬ Obligations.L2Slices := by
  unfold Obligations.L2Slices
  intro h
  obtain ⟨n, hn⟩ : ∃ n, sliceLines ≤ n := ⟨_, le_rfl⟩
  obtain ⟨t, he, -, -, -, -, hstore, -⟩ := h (strayState n 3 0) strayStore (strayDie n 3) rfl rfl rfl rfl
  obtain rfl : _ = t := by simpa only [exec_strayStore, Host.Outcome.next.injEq] using he
  have hgone := State.updCopies_l2 (strayTaken n) [1, 2, 3, 4] (strayState_routeLine hn 1) rfl
  obtain ⟨d, hd, hl⟩ := Option.map_eq_some_iff.mp hgone
  have hin := (hstore rfl).2 rfl rfl d hd strayLine List.mem_cons_self rfl
  rw [hl] at hin
  exact List.not_mem_nil hin

end Sys2Proof.Machine

/-! ## What a write at a translated address leaves at its last sector (R378) -/

namespace Sys2Proof.Machine

theorem State.noteCode_homes (s : State) (e : Entry) (ia n : Nat) : (s.noteCode e ia n).homes = s.homes := by
  unfold State.noteCode
  dsimp only
  split <;> rfl

theorem State.frameWrite_pageHeld (s : State) (e : Entry) (ia : Nat) (bs : List Byte) (f : Entry) (a n : Nat) :
    (s.frameWrite e ia bs).pageHeld f a n = s.pageHeld f a n := by
  have hcode : (s.noteCode e ia bs.length).pageHeld f a n = s.pageHeld f a n := by
    simp only [State.pageHeld, State.rowAt, State.home?, State.noteCode_homes]
  exact ((State.framePut_hubWrote _ e ia bs).pageHeld f a n).trans hcode

/-- One sector of a write of the Hub: on its frame, or held by its home. -/
def State.sectorWrite (s : State) (e : Entry) (ia : Nat) (bs : List Byte) (n : Nat) : State :=
  if s.pageHeld e ia n then s.holdReq e (hubReq e ia bs s.seq) else s.frameWrite e ia bs

theorem State.sectorWrite_pageHeld (s : State) (e : Entry) (ia : Nat) (bs : List Byte) (k : Nat) (f : Entry) (a n : Nat) :
    (s.sectorWrite e ia bs k).pageHeld f a n = s.pageHeld f a n := by
  unfold State.sectorWrite
  split
  · exact (s.holdReq_hubWrote e _).pageHeld f a n
  · exact s.frameWrite_pageHeld e ia bs f a n

variable {s t : State} {ctx ia n : Nat} {x : Range × Nat} {off : Nat} {bs : List Byte} {e : Entry} {init : List (Nat × Nat × Entry)}

theorem State.hubWrite_eq (s : State) (ctx : Nat) (x : Range × Nat) (off : Nat) (bs : List Byte) :
    s.hubWrite ctx x off bs = (s.engFind ctx ⟨x.2 + off, x.1⟩ bs.length true 2).map fun l =>
      l.foldl (fun s p => s.sectorWrite p.2.2 p.1 ((bs.drop (p.1 - (x.2 + off))).take p.2.1) p.2.1) s := by
  unfold State.hubWrite
  split <;> next h => rw [h]; rfl

/-- A store at a VA of a context keeps what each of its sectors' writes keeps. -/
theorem State.ctxStore_keeps {β : Type} {g : State → β} (hg : ∀ u e ia bs n, g (State.sectorWrite u e ia bs n) = g u) {va : W64}
    (h : s.ctxStore ctx va bs = .ok t) : g t = g s := by
  unfold State.ctxStore at h
  split at h
  · cases h
  · next x _ =>
    rw [State.hubWrite_eq] at h
    cases hl : s.engFind ctx ⟨x.2 + 0, x.1⟩ bs.length true 2 with
    | error e => rw [hl] at h; cases h
    | ok l =>
      rw [hl] at h
      cases h
      exact foldl_keeps (g := g) (fun u p => hg u ..) l s

/-- The last sector's bytes are the ones written last. -/
theorem State.mem_hubWrite_last (hl : s.engFind ctx ⟨x.2 + off, x.1⟩ bs.length true 2 = .ok (init ++ [(ia, n, e)]))
    (hw : s.hubWrite ctx x off bs = .ok t) (hh : s.pageHeld e ia n = false) (hm : e.mst ≠ 1) :
    ∃ u : State, t.mem = writeBytes u.mem (e.key ia) ((bs.drop (ia - (x.2 + off))).take n) := by
  rw [State.hubWrite_eq, hl] at hw
  simp only [Except.map, List.foldl_append, List.foldl_cons, List.foldl_nil, Except.ok.injEq] at hw
  subst hw
  rw [State.sectorWrite, if_neg]
  · exact ⟨_, State.mem_frameWrite hm _ _⟩
  · rw [foldl_keeps (g := fun u : State => u.pageHeld e ia n) fun u p => u.sectorWrite_pageHeld .., hh]
    decide

/-- Where every sector's home has its page and no poison lies under it, the accesses of a span are those of its sectors. -/
theorem State.engFind_of_found {r : Xl} {write : Bool} {det : Nat} {E : Nat → Entry}
    (hf : ∀ p ∈ secsOf r.ia n, s.homeFind ctx (s.homeAt ctx r.rng p.1) p.1 = .ok (E p.1))
    (hp : ∀ p ∈ secsOf r.ia n, s.poison.contains ((E p.1).key p.1 / 64) = false) :
    s.engFind ctx r n write det = .ok ((secsOf r.ia n).map fun p => (p.1, p.2, E p.1)) := by
  unfold State.engFind
  suffices h : ∀ (ps : List (Nat × Nat)) (l : List (Nat × Nat × Entry)), (∀ p ∈ ps, p ∈ secsOf r.ia n) →
      ps.foldl _ (Except.ok l) = .ok (l ++ ps.map fun p => (p.1, p.2, E p.1)) from h _ [] fun _ => id
  intro ps
  induction ps with
  | nil => intro l _; simp
  | cons p ps ih =>
    intro l hmem
    have h1 := hmem p List.mem_cons_self
    rw [List.foldl_cons]
    simp only [hf p h1, hp p h1, Bool.false_and, Bool.false_eq_true, if_false]
    rw [ih _ fun q hq => hmem q (List.mem_cons_of_mem _ hq)]
    simp

/-- The sectors of whole sectors. -/
theorem sectors_of_aligned {ia : Nat} (h : ia % 64 = 0) (k fuel : Nat) :
    sectors (k + fuel + 1) ia (64 * k) = (List.range k).map fun i => (ia + 64 * i, 64) := by
  induction k generalizing ia with
  | zero => rfl
  | succ k ih =>
    have hs : k + 1 + fuel + 1 = (k + fuel + 1) + 1 := by omega
    have h1 : ¬64 * (k + 1) = 0 := by omega
    have h2 : min (64 * (k + 1)) (64 - ia % 64) = 64 := by omega
    have h3 : 64 * (k + 1) - 64 = 64 * k := by omega
    rw [hs, sectors, if_neg h1]
    simp only [h2, h3]
    rw [ih (by omega), List.range_succ_eq_map, List.map_cons, List.map_map]
    simp only [Nat.mul_zero, Nat.add_zero, List.cons.injEq, true_and]
    exact List.map_congr_left fun i _ => by simp only [Function.comp_apply, Prod.mk.injEq, and_true]; omega

theorem secsOf_of_aligned {ia : Nat} (h : ia % 64 = 0) (k : Nat) :
    secsOf ia (64 * k) = (List.range k).map fun i => (ia + 64 * i, 64) := by
  rw [secsOf, Nat.mul_div_cancel_left k (by decide)]
  exact sectors_of_aligned h k 1

/-- Nothing holds a span where no page is being shot down and no row retired. -/
theorem State.pageHeld_of_noRows (hrows : ∀ h x, s.home? h = some x → x.rows = []) {f : Entry} (hf : f.mst ≠ 5) (a k : Nat) :
    s.pageHeld f a k = false := by
  have hr : s.rowAt f a k = none := by
    rw [State.rowAt_eq]
    cases hx : s.home? f.home with
    | none => rfl
    | some x => simp [Home.bare, hrows _ x hx]
  simp [State.pageHeld, hr, hf]

end Sys2Proof.Machine

/-! ## Barriers looked at again, and the end of waves (O40) -/

namespace Sys2Proof.Machine

/-! ### Waves that leave a barrier -/

section
variable {s : State}

theorem State.wave?_modWave {f : Wave → Wave} (hid : ∀ w, (f w).id = w.id) (hidle : ∀ w, w ≠ Wave.idle → f w ≠ Wave.idle) (i : WaveId) :
    (s.modWave i f).wave? i = (s.wave? i).map f := by
  unfold State.modWave State.wave?
  by_cases h : s.wave.id = i ∧ s.wave ≠ Wave.idle
  · have hf : (f s.wave).id = i ∧ f s.wave ≠ Wave.idle := ⟨(hid _).trans h.1, hidle _ h.2⟩
    simp [h, hf]
  · simp only [if_neg h]
    exact find?_updFirst (fun w hw => by rw [hid, hw]) _

theorem State.wave?_modWave_of_ne {f : Wave → Wave} (hid : ∀ w, (f w).id = w.id) {i j : WaveId} (h : j ≠ i) :
    (s.modWave i f).wave? j = s.wave? j := by
  unfold State.modWave State.wave?
  by_cases hi : s.wave.id = i ∧ s.wave ≠ Wave.idle
  · have hj : s.wave.id ≠ j := fun hj => h (hj.symm.trans hi.1)
    rw [if_pos hi, if_neg fun hf => hj ((hid _).symm.trans hf.1), if_neg fun hf => hj hf.1]
  · rw [if_neg hi]
    refine if_congr Iff.rfl rfl (find?_updFirst_of_ne (fun w _ => by rw [hid]) (fun w hw => ?_) _)
    rw [of_decide_eq_true hw]
    exact decide_eq_false h.symm

/-- A wave leaves the barrier it waits at. -/
def Wave.leaveBar (x : Wave) : Wave := match x.run with | .barrier _ _ => { x with run := .run, waitC := 0 } | _ => x

theorem Wave.leaveBar_id (x : Wave) : x.leaveBar.id = x.id := by
  unfold Wave.leaveBar
  split <;> rfl

theorem Wave.leaveBar_ne_idle {x : Wave} (h : x ≠ Wave.idle) : x.leaveBar ≠ Wave.idle := by
  unfold Wave.leaveBar
  split
  · exact fun hx => Run.noConfusion (congrArg Wave.run hx : Run.run = Run.halted)
  · exact h

theorem Wave.leaveBar_leaveBar (x : Wave) : x.leaveBar.leaveBar = x.leaveBar := by
  cases h : x.run <;> simp [Wave.leaveBar, h]

theorem State.wave?_acquireBump (ctx : Nat) (c : CoreId) (sc : Scope) (i : WaveId) : (s.acquireBump ctx c sc).wave? i = s.wave? i := by
  cases sc <;> rfl

/-- One waiting wave's departure (R289, R290). -/
def State.departOne (s : State) (cb : Bool) (w : WaveId) : State :=
  (match s.wave? w with | some x => if cb then s.acquireBump w.blk.ctx x.core .die else s | none => s).modWave w Wave.leaveBar

theorem State.depart_cons (cb : Bool) (w : WaveId) (ws : List WaveId) : s.depart cb (w :: ws) = (s.departOne cb w).depart cb ws := rfl

/-- What a departure leaves. -/
theorem State.departOne_keeps (cb : Bool) (w : WaveId) :
    ((s.departOne cb w).mem, (s.departOne cb w).ops, (s.departOne cb w).pending, (s.departOne cb w).blks) = (s.mem, s.ops, s.pending, s.blks) := by
  have hm (t : State) : ((t.modWave w Wave.leaveBar).mem, (t.modWave w Wave.leaveBar).ops, (t.modWave w Wave.leaveBar).pending,
      (t.modWave w Wave.leaveBar).blks) = (t.mem, t.ops, t.pending, t.blks) := by
    unfold State.modWave
    split <;> rfl
  rw [State.departOne, hm]
  split
  · split <;> rfl
  · rfl

theorem State.depart_keeps (cb : Bool) (ws : List WaveId) :
    ((s.depart cb ws).mem, (s.depart cb ws).ops, (s.depart cb ws).pending, (s.depart cb ws).blks) = (s.mem, s.ops, s.pending, s.blks) :=
  foldl_keeps (g := fun t : State => (t.mem, t.ops, t.pending, t.blks)) (fun t w => t.departOne_keeps cb w) ws s

theorem State.wave?_departOne (cb : Bool) (w y : WaveId) :
    (s.departOne cb w).wave? y = if y = w then (s.wave? y).map Wave.leaveBar else s.wave? y := by
  have hb (t : State) (ht : t.wave? y = s.wave? y) :
      (t.modWave w Wave.leaveBar).wave? y = if y = w then (s.wave? y).map Wave.leaveBar else s.wave? y := by
    split
    · next h => rw [← ht, h, State.wave?_modWave Wave.leaveBar_id fun _ => Wave.leaveBar_ne_idle]
    · next h => rw [State.wave?_modWave_of_ne Wave.leaveBar_id h, ht]
  refine hb _ ?_
  split
  · split
    · exact State.wave?_acquireBump ..
    · rfl
  · rfl

/-- Every wave named departs; the others stay. -/
theorem State.wave?_depart (cb : Bool) (ws : List WaveId) (y : WaveId) :
    (s.depart cb ws).wave? y = if y ∈ ws then (s.wave? y).map Wave.leaveBar else s.wave? y := by
  induction ws generalizing s with
  | nil => rfl
  | cons w ws ih =>
    rw [State.depart_cons, ih, State.wave?_departOne]
    by_cases hw : y = w <;> by_cases hm : y ∈ ws <;>
      simp [hw, hm, Option.map_map, Function.comp_def, Wave.leaveBar_leaveBar]

end

theorem Blk.bar_setBar_same (b : Blk) (cb : Bool) (n : Nat) (x : Bar) : (b.setBar cb n x).bar cb n = x := by
  cases cb <;> exact Tab.get_set_self ..

theorem Blk.bar_setBar_of_ne (b : Blk) {cb cb' : Bool} {n j : Nat} (h : (cb', j) ≠ (cb, n)) (x : Bar) :
    (b.setBar cb n x).bar cb' j = b.bar cb' j := by
  by_cases hc : cb' = cb
  · have hj : j ≠ n := fun hj => h (by rw [hc, hj])
    subst hc
    cases cb' <;> exact Tab.get_set_ne _ _ _ _ _ hj
  · match cb, cb' with
    | false, true | true, false => rfl
    | false, false | true, true => exact absurd rfl hc

theorem Blk.setBar_frame (b : Blk) (cb : Bool) (n : Nat) (x : Bar) :
    b.setBar cb n x = { b with bars := (b.setBar cb n x).bars, cbars := (b.setBar cb n x).cbars } := by
  cases cb <;> rfl

/-! ### A phase looked at again (R289) -/

section
variable {s : State} {v : BlkId} {b hb : Blk} {cb : Bool} {k : Nat}

/-- The phase of hb is complete: its waves leave, and the next begins. -/
def State.completeBar (s : State) (hb : Blk) (cb : Bool) (k : Nat) : State :=
  (s.modBlk hb.id fun x => x.setBar cb k { Bar.zero with done := (hb.bar cb k).done + 1 }).depart cb (hb.bar cb k).wait

theorem exec_barMark_of_met (hv : s.blk? v = some b) (hh : s.blk? (b.barHome cb) = some hb) (ho : (hb.bar cb k).open_ = true)
    (hc : (hb.bar cb k).count = none) (hr : ∀ c, s.ctx? hb.id.ctx = some c → c.rings = [])
    (hm : s.liveWaves (b.barUsers cb) ≤ (hb.bar cb k).tally) :
    ∃ l, exec (.barrierArrivalRegister ⟨v, 99⟩ cb k none true) s = .next ({ s with held := l }.completeBar hb cb k) := by
  let lp := match s.ctx? v.ctx with | some c => c.logical hb.core.pkg | none => 0
  let opt := if cb then optId 3 lp hb.core.die (hb.core.core / 8) else optId 2 lp hb.core.die hb.core.core
  let pay := BitVec.ofNat 64 (k + (hb.bar cb k).done * 16)
  obtain ⟨l, hl⟩ := State.atPointLate_of_unlogged (s := s) (e := s.blkEv lp opt 0x02 hb.id pay) hr
    (.barrierArrivalRegister ⟨v, 99⟩ cb k none true)
  refine ⟨l, ?_⟩
  have hp := hl none fun u => ((u.completeBar hb cb k), pay)
  simp only [exec, execBarrierArrivalRegister, hv, hh, barMark, ho, hc, BEq.rfl, Bool.not_true, Bool.false_and,
    Option.isSome_none, Bool.or_false, Bool.false_eq_true, if_false, if_true, Option.getD_none, ge_iff_le, hm, Bool.and_false]
  exact congrArg _ hp

theorem exec_barMark_of_unmet (hv : s.blk? v = some b) (hh : s.blk? (b.barHome cb) = some hb) (ho : (hb.bar cb k).open_ = true)
    (hc : (hb.bar cb k).count = none) (hm : (hb.bar cb k).tally < s.liveWaves (b.barUsers cb)) :
    exec (.barrierArrivalRegister ⟨v, 99⟩ cb k none true) s
      = .next ((s.modBlk hb.id fun x => x.setBar cb k (hb.bar cb k)).modWave ⟨v, 99⟩ fun x => { x with run := .run, waitC := 0 }) := by
  simp [exec, execBarrierArrivalRegister, hv, hh, barMark, ho, hc, Nat.not_le.mpr hm]

theorem Blk.setBar_id (b : Blk) (cb : Bool) (n : Nat) (x : Bar) : (b.setBar cb n x).id = b.id := by
  cases cb <;> rfl

theorem State.blk?_setBar {t : State} (hh : t.blk? hb.id = some hb) (x : Bar) :
    (t.modBlk hb.id fun y => y.setBar cb k x).blk? hb.id = some (hb.setBar cb k x) := by
  rw [State.blk?_modBlk _ _ (fun y => y.setBar cb k x) fun y hy => (y.setBar_id cb k x).trans hy, hh, Option.map_some]

theorem State.blk?_setBar_of_ne {t : State} {j : BlkId} (h : j ≠ hb.id) (x : Bar) :
    (t.modBlk hb.id fun y => y.setBar cb k x).blk? j = t.blk? j :=
  State.blk?_modBlk_of_ne h fun y => y.setBar_id cb k x

theorem State.completeBar_keeps (t : State) :
    (t.completeBar hb cb k).mem = t.mem ∧ (t.completeBar hb cb k).ops = t.ops ∧ (t.completeBar hb cb k).pending = t.pending
    ∧ ∀ j, (t.completeBar hb cb k).blk? j
        = (t.modBlk hb.id fun x => x.setBar cb k { Bar.zero with done := (hb.bar cb k).done + 1 }).blk? j := by
  have h := (t.modBlk hb.id fun x => x.setBar cb k { Bar.zero with done := (hb.bar cb k).done + 1 }).depart_keeps cb (hb.bar cb k).wait
  simp only [Prod.mk.injEq] at h
  obtain ⟨hmem, hops, hpend, hblks⟩ := h
  exact ⟨hmem, hops, hpend, fun j => by rw [State.completeBar, State.blk?, hblks, ← State.blk?]⟩

/-- The waves that wait leave the phase. -/
theorem State.wave?_completeBar (t : State) {y : WaveId} (hy : y ∈ (hb.bar cb k).wait) {z : Wave} {cb' : Bool} {j : Nat}
    (hz : t.wave? y = some z) (hr : z.run = .barrier cb' j) :
    (t.completeBar hb cb k).wave? y = some { z with run := .run, waitC := 0 } := by
  have hw : (t.modBlk hb.id fun x => x.setBar cb k { Bar.zero with done := (hb.bar cb k).done + 1 }).wave? y = some z := hz
  rw [State.completeBar, State.wave?_depart, if_pos hy, hw, Option.map_some, Wave.leaveBar, hr]

theorem updFirst_of_none {α : Type} {p : α → Bool} {f : α → α} {l : List α} (h : l.find? p = none) : updFirst p f l = l := by
  induction l with
  | nil => rfl
  | cons a r ih =>
    obtain ⟨ha, hr⟩ := List.forall_mem_cons.mp (List.find?_eq_none.mp h)
    rw [updFirst, if_neg ha, ih (List.find?_eq_none.mpr hr)]

theorem State.modWave_of_none {t : State} {i : WaveId} (h : t.wave? i = none) (f : Wave → Wave) : t.modWave i f = t := by
  unfold State.wave? at h
  unfold State.modWave
  split at h
  · cases h
  · next hn =>
    rw [if_neg hn, updFirst_of_none h]

/-- A barrier phase that a wave's end has made worth looking at. -/
theorem barMark_phase (hv : s.blk? v = some b) (hh : s.blk? (b.barHome cb) = some hb) (hr : ∀ c, s.ctx? v.ctx = some c → c.rings = [])
    (hx : s.ctx? hb.id.ctx = s.ctx? v.ctx) (hw : s.wave? ⟨v, 99⟩ = none) (ho : (hb.bar cb k).open_ = true)
    (hc : (hb.bar cb k).count = none) :
    ∃ t hb', exec (.barrierArrivalRegister ⟨v, 99⟩ cb k none true) s = .next t ∧ t.mem = s.mem ∧ t.ops = s.ops ∧ t.pending = s.pending
      ∧ t.blk? hb.id = some hb' ∧ (∀ j, j ≠ hb.id → t.blk? j = s.blk? j)
      ∧ hb' = { hb with bars := hb'.bars, cbars := hb'.cbars } ∧ (∀ cb' j, (cb', j) ≠ (cb, k) → hb'.bar cb' j = hb.bar cb' j)
      ∧ (s.liveWaves (b.barUsers cb) ≤ (hb.bar cb k).tally → hb'.bar cb k = { Bar.zero with done := (hb.bar cb k).done + 1 }
          ∧ ∀ y ∈ (hb.bar cb k).wait, ∀ z cb' j, s.wave? y = some z → z.run = .barrier cb' j →
            t.wave? y = some { z with run := .run, waitC := 0 })
      ∧ ((hb.bar cb k).tally < s.liveWaves (b.barUsers cb) → hb'.bar cb k = hb.bar cb k ∧ ∀ y, t.wave? y = s.wave? y) := by
  have hself : s.blk? hb.id = some hb := by rw [State.blk?_id s hh]; exact hh
  by_cases hm : s.liveWaves (b.barUsers cb) ≤ (hb.bar cb k).tally
  · obtain ⟨l, he⟩ := exec_barMark_of_met hv hh ho hc (hx ▸ hr) hm
    obtain ⟨hmem, hops, hpend, hblk⟩ := State.completeBar_keeps (hb := hb) (cb := cb) (k := k) { s with held := l }
    refine ⟨_, _, he, hmem, hops, hpend, (hblk _).trans (State.blk?_setBar hself _), fun j hj => (hblk _).trans (State.blk?_setBar_of_ne hj _),
      Blk.setBar_frame .., fun cb' j hj => Blk.bar_setBar_of_ne _ hj _, fun _ => ⟨Blk.bar_setBar_same .., fun y hy z cb' j hz hrun => ?_⟩,
      fun hn => absurd hm (Nat.not_le.mpr hn)⟩
    exact State.wave?_completeBar { s with held := l } hy hz hrun
  · have hn := Nat.not_le.mp hm
    refine ⟨_, _, exec_barMark_of_unmet hv hh ho hc hn, ?_, ?_, ?_, ?_, fun j hj => ?_, Blk.setBar_frame .., fun cb' j hj => Blk.bar_setBar_of_ne _ hj _,
      fun h => absurd h hm, fun _ => ⟨Blk.bar_setBar_same .., fun y => ?_⟩⟩ <;> rw [State.modWave_of_none (t := s.modBlk hb.id fun x => x.setBar cb k (hb.bar cb k)) hw]
    · rfl
    · rfl
    · rfl
    · exact State.blk?_setBar hself _
    · exact State.blk?_setBar_of_ne hj _
    · rfl

end

end Sys2Proof.Machine

/-! ## What the end of a block leaves of its record (O40) -/

namespace Sys2Proof.Machine

/-- t has the blocks of s but for some that have not ended. -/
def KeepsOver (s t : State) : Prop := ∃ p : Blk → Bool, (∀ b, b.state = .over → p b = true) ∧ t.blks = s.blks.filter p

section
variable {s t u : State}

theorem KeepsOver.of_blks (h : t.blks = s.blks) : KeepsOver s t :=
  ⟨fun _ => true, fun _ _ => rfl, by rw [h, List.filter_true]⟩

theorem KeepsOver.refl (s : State) : KeepsOver s s := .of_blks rfl

theorem KeepsOver.trans (h : KeepsOver s t) (k : KeepsOver t u) : KeepsOver s u := by
  obtain ⟨p, hp, ht⟩ := h
  obtain ⟨q, hq, hu⟩ := k
  refine ⟨fun b => q b && p b, fun b hb => ?_, ?_⟩
  · simp only [hq b hb, hp b hb, Bool.and_self]
  · rw [hu, ht, List.filter_filter]

/-- A block that has ended is found as it was, and none appears. -/
theorem KeepsOver.blk? (h : KeepsOver s t) {i : BlkId} {P : Blk → Prop} (hs : ∀ x, s.blk? i = some x → x.state = .over ∧ P x) :
    ∀ x, t.blk? i = some x → x.state = .over ∧ P x := by
  obtain ⟨p, hp, ht⟩ := h
  intro x hx
  refine hs x ?_
  rw [State.blk?, ht] at hx
  rw [State.blk?] at hs ⊢
  clear ht
  generalize s.blks = l at hs hx ⊢
  induction l with
  | nil => exact hx
  | cons b r ih =>
    by_cases hb : b.id = i
    · obtain ⟨ho, -⟩ := hs b (List.find?_cons_of_pos (decide_eq_true hb))
      rw [List.filter_cons_of_pos (hp b ho)] at hx
      simpa [List.find?_cons, hb] using hx
    · simp only [List.find?_cons, hb, decide_false] at hs ⊢
      refine ih hs ?_
      by_cases hpb : p b = true
      · simpa [List.filter_cons, hpb, List.find?_cons, hb] using hx
      · simpa [List.filter_cons, hpb] using hx

/-! ### The pieces of a launch's end -/

theorem State.kickDie_blks (s : State) (p d : Nat) : (s.kickDie p d).blks = s.blks := by
  unfold State.kickDie
  (repeat' split) <;> rfl

theorem State.kickDies_blks (s : State) : s.kickDies.blks = s.blks := foldl_keeps (g := State.blks) (fun t _ => t.kickDie_blks ..) _ s

theorem State.noteCode_blks (s : State) (e : Entry) (ia n : Nat) : (s.noteCode e ia n).blks = s.blks := by
  unfold State.noteCode
  dsimp only
  split <;> rfl

theorem State.frameWrite_blks (s : State) (e : Entry) (ia : Nat) (bs : List Byte) : (s.frameWrite e ia bs).blks = s.blks :=
  (State.framePut_hubWrote _ e ia bs).blks.trans (s.noteCode_blks e ia bs.length)

theorem State.sectorWrite_blks (s : State) (e : Entry) (ia : Nat) (bs : List Byte) (n : Nat) : (s.sectorWrite e ia bs n).blks = s.blks := by
  unfold State.sectorWrite
  split
  · exact (s.holdReq_hubWrote e _).blks
  · exact s.frameWrite_blks e ia bs

theorem State.ctxStore_blks {ctx : Nat} {va : W64} {bs : List Byte} (h : s.ctxStore ctx va bs = .ok t) : t.blks = s.blks :=
  State.ctxStore_keeps State.sectorWrite_blks h

theorem State.ctxErr_blks (s : State) (ctx : Nat) (e : EngErr) : (s.ctxErr ctx e).blks = s.blks := by
  unfold State.ctxErr
  split <;> rfl

theorem State.writeStats_blks (s : State) (ctx : Nat) (l : Launch) : (s.writeStats ctx l).blks = s.blks := by
  unfold State.writeStats
  split
  · rfl
  split
  · next h => exact State.ctxStore_blks h
  · exact s.ctxErr_blks ctx _

theorem State.tagMet_blks (s : State) (i : Nat) (w : W64) : (s.tagMet i w).blks = s.blks := (State.finishOp_woken _ i).blks

theorem State.wakeFallback_blks (s : State) (ctx lid : Nat) : (s.wakeFallback ctx lid).blks = s.blks :=
  foldl_keeps (g := State.blks) (fun t _ => t.tagMet_blks ..) _ s

theorem State.fireSignals_blks (s : State) (ctx lid : Nat) : (s.fireSignals ctx lid).blks = s.blks := by
  unfold State.fireSignals
  dsimp only
  split <;> rfl

theorem State.endLaunch_blks (s : State) (ctx lid : Nat) : (s.endLaunch ctx lid).blks = s.blks := by
  unfold State.endLaunch
  split
  · rfl
  next l _ =>
  split
  · rfl
  split
  · split <;> rfl
  extract_lets s1 s2 free s3 s4 s5
  have h3 : s3.blks = s.blks := s.writeStats_blks ctx l
  have h4 : s4.blks = s.blks := (State.fireSignals_blks ..).trans ((s3.wakeFallback_blks ctx lid).trans h3)
  have h5 : s5.blks = s.blks := (State.kickDies_blks _).trans h4
  split
  · split <;> exact h5
  · exact h5

theorem State.purge_keepsOver (s : State) (ctx lid : Nat) : KeepsOver s (s.purge ctx lid) :=
  ⟨_, fun b hb => by simp [hb], rfl⟩

theorem State.failNext_keepsOver (s : State) (ctx lid : Nat) : KeepsOver s (s.failNext ctx lid) := by
  unfold State.failNext
  split
  · exact .refl s
  split
  · exact .refl s
  · exact (KeepsOver.of_blks (by rfl)).trans (State.purge_keepsOver ..)

theorem State.settleLaunch_keepsOver (s : State) (n ctx lid : Nat) : KeepsOver s (s.settleLaunch n ctx lid) := by
  induction n generalizing s lid with
  | zero => exact .refl s
  | succ k ih =>
    unfold State.settleLaunch
    split
    · exact .refl s
    next l _ =>
    extract_lets s1 s2
    have h1 : KeepsOver s s1 := by
      dsimp only [s1]
      split
      · exact (s.purge_keepsOver ctx lid).trans (State.failNext_keepsOver ..)
      · exact .refl s
    have h2 : KeepsOver s s2 := h1.trans (.of_blks (s1.endLaunch_blks ctx lid))
    split
    · split
      · exact h2.trans (ih ..)
      · exact h2
    · exact h2

/-! ### The pieces of a block's end -/

/-- What is left of block i has ended, without a tile entry or a command. -/
def State.BlkOver (s : State) (i : BlkId) : Prop := ∀ x, s.blk? i = some x → x.state = .over ∧ x.tiles = [] ∧ x.cmds = []

theorem State.BlkOver.of_blks {i : BlkId} (h : s.BlkOver i) (hb : t.blks = s.blks) : t.BlkOver i := by
  rwa [State.BlkOver, State.blk?, hb]

theorem State.BlkOver.keepsOver {i : BlkId} (h : s.BlkOver i) (k : KeepsOver s t) : t.BlkOver i := k.blk? h

theorem State.BlkOver.modBlk {i : BlkId} (h : s.BlkOver i) (j : BlkId) {f : Blk → Blk} (hid : ∀ x, (f x).id = x.id)
    (hf : ∀ x, (f x).state = x.state ∧ (f x).tiles = x.tiles ∧ (f x).cmds = x.cmds) : (s.modBlk j f).BlkOver i := by
  intro x hx
  by_cases hj : i = j
  · subst hj
    rw [State.blk?_modBlk _ _ f fun b hb => (hid b).trans hb, Option.map_eq_some_iff] at hx
    obtain ⟨y, hy, rfl⟩ := hx
    obtain ⟨hs, ht, hc⟩ := hf y
    rw [hs, ht, hc]
    exact h y hy
  · exact h x ((State.blk?_modBlk_of_ne hj hid).symm.trans hx)

theorem State.BlkOver.remove {i : BlkId} (h : s.BlkOver i) (j : BlkId) :
    ({ s with blks := s.blks.filter fun x => !decide (x.id = j) } : State).BlkOver i := by
  intro x hx
  refine h x ?_
  rw [State.blk?, List.find?_filter] at hx
  rw [State.blk?]
  by_cases hj : i = j
  · subst hj
    simpa using List.find?_some hx
  · refine Eq.trans (congrArg (fun p => List.find? p s.blks) (funext fun b => ?_)) hx
    by_cases hb : b.id = i <;> simp [hb, hj]

theorem State.reap_blkOver {i : BlkId} (h : s.BlkOver i) (j : BlkId) : (s.reap j).BlkOver i := by
  unfold State.reap
  split
  · exact h
  extract_lets clusterOver tree
  split
  · exact h
  split
  · exact h
  split
  · exact h.modBlk j (fun _ => rfl) fun _ => ⟨rfl, rfl, rfl⟩
  · exact (h.remove j).of_blks rfl

theorem State.reapAll_blkOver {i : BlkId} (h : s.BlkOver i) (ctx : Nat) : (s.reapAll ctx).BlkOver i := by
  unfold State.reapAll
  generalize (s.blks.filter fun b => b.id.ctx == ctx && b.state == .over).map (·.id) = l
  induction l generalizing s with
  | nil => exact h
  | cons j r ih => exact ih (State.reap_blkOver h j)

/-! Events that stay due -/

theorem State.due_pending_subset (s : State) (l : List Instr) : s.pending ⊆ (s.due l).pending := List.subset_append_left ..

theorem pending_subset_foldl {α : Type} {f : State → α → State} (hf : ∀ s a, s.pending ⊆ (f s a).pending) (l : List α) (s : State) :
    s.pending ⊆ (l.foldl f s).pending := by
  induction l generalizing s with
  | nil => exact List.Subset.refl _
  | cons a r ih => exact List.Subset.trans (hf s a) (ih _)

theorem State.freeLocks_pending_subset (s : State) (c : CoreId) (p : Lock → Bool) : s.pending ⊆ (s.freeLocks c p).pending := by
  unfold State.freeLocks
  split
  · exact State.due_pending_subset (s.modCore c _) _
  · exact List.Subset.refl _

theorem State.dropOps_pending_subset (s : State) (b : Blk) : s.pending ⊆ (s.dropOps b).pending := by
  unfold State.dropOps
  extract_lets mine ids mineK t
  exact List.Subset.trans (t.freeLocks_pending_subset b.core mineK) (pending_subset_foldl (fun u i => (u.unwait_unwinds i).pending) _ _)

theorem State.measure_pending (s : State) (b : Blk) : (s.measure b).pending = s.pending := by
  unfold State.measure
  split <;> rfl

theorem State.charge_pending_subset (s : State) (i : BlkId) (pkg cost : Nat) : s.pending ⊆ (s.charge i pkg cost).pending := by
  unfold State.charge
  split
  · exact s.due_pending_subset _
  · exact State.due_pending_subset { s with rack := _ } _

theorem State.reap_pending_subset (s : State) (i : BlkId) : s.pending ⊆ (s.reap i).pending := by
  unfold State.reap
  split
  · exact List.Subset.refl _
  extract_lets clusterOver tree
  split
  · exact List.Subset.refl _
  split
  · exact List.Subset.refl _
  split
  · exact List.Subset.refl _
  · exact State.due_pending_subset { s with blks := _ } _

theorem State.reapAll_pending_subset (s : State) (ctx : Nat) : s.pending ⊆ (s.reapAll ctx).pending :=
  pending_subset_foldl State.reap_pending_subset _ s

theorem State.kickDies_pending_subset (s : State) : s.pending ⊆ s.kickDies.pending :=
  pending_subset_foldl (fun t (d : Die) => (t.kickDie_unwinds d.pkg d.die).pending) _ s

/-! Where the tasks are -/

/-- What says whether a task of a tree has not ended. -/
def State.taskPlaces (s : State) : List (List TaskRec) × List (List TaskRec) × List (List Parked) × List (BlkState × Option TaskRec) :=
  (s.cores.map (·.deque), s.pkgs.map (·.ovfl), s.ctxs.map (·.parked), s.blks.map fun b => (b.state, b.task))

theorem State.treeAlive_congr (h : t.taskPlaces = s.taskPlaces) (ctx launch root : Nat) :
    t.treeAlive ctx launch root = s.treeAlive ctx launch root := by
  have hp (u : State) : u.treeAlive ctx launch root =
      let is := fun (t : TaskRec) => t.ctx == ctx && t.launch == launch && t.root == root
      (u.taskPlaces.1.any (fun d => d.any is) || u.taskPlaces.2.1.any (fun d => d.any is)
        || u.taskPlaces.2.2.1.any (fun d => d.any fun p => is p.task)
        || u.taskPlaces.2.2.2.any fun b => b.1 != .over && (match b.2 with | some t => is t | none => false)) := by
    simp only [State.treeAlive, State.taskPlaces, List.any_map, Function.comp_def] <;> rfl
  rw [hp, hp, h]

theorem State.freeLocks_taskPlaces (s : State) (c : CoreId) (p : Lock → Bool) : (s.freeLocks c p).taskPlaces = s.taskPlaces := by
  unfold State.freeLocks
  split
  · exact congrArg (fun d => (d, s.taskPlaces.2)) (map_updFirst (g := fun k : Core => k.deque) (by exact fun _ => rfl) s.cores)
  · rfl

theorem State.dropOps_taskPlaces (s : State) (b : Blk) : (s.dropOps b).taskPlaces = s.taskPlaces := by
  unfold State.dropOps
  extract_lets mine ids mineK t
  exact (foldl_keeps (g := State.taskPlaces) (by exact fun _ _ => rfl) _ _).trans (t.freeLocks_taskPlaces b.core mineK)

theorem State.measure_taskPlaces (s : State) (b : Blk) : (s.measure b).taskPlaces = s.taskPlaces := by
  unfold State.measure
  split
  · rfl
  · refine congrArg (fun d => (s.taskPlaces.1, d, s.taskPlaces.2.2)) (map_updFirst (g := fun p : Pkg => p.ovfl) (fun p => ?_) s.pkgs)
    dsimp only
    split <;> rfl

/-! The end itself -/

/-- The end of a block takes back no event; its record, if it stays, says that it has ended; its leases go back unless a task of its tree
still runs (R166, R52). -/
theorem State.closeBlk_ends {i : BlkId} {b : Blk} (h : s.blk? i = some b) :
    s.pending ⊆ (s.closeBlk i).pending ∧ (s.closeBlk i).BlkOver i
    ∧ (i.task = true ∨ s.treeAlive i.ctx i.launch i.idx = false → ∀ l ∈ b.leases, .leaseRelease l ∈ (s.closeBlk i).pending) := by
  unfold State.closeBlk
  split
  · next hn => exact absurd (h.symm.trans hn) nofun
  next b' hb' =>
  obtain rfl : b = b' := Option.some.inj (h.symm.trans hb')
  split
  next n s1 hs1 =>
  obtain rfl : (s.choose (2 ^ 40)).2 = s1 := congrArg Prod.snd hs1
  extract_lets s2 tree keep go s3 cost s4 s5 acc s6 s7
  have hplaces : s2.taskPlaces = s.taskPlaces := (State.measure_taskPlaces ..).trans (State.dropOps_taskPlaces _ b)
  have hp2 : s.pending ⊆ s2.pending := by
    rw [State.measure_pending]
    exact State.dropOps_pending_subset (s.choose (2 ^ 40)).2 b
  have hp4 : s.pending ⊆ s4.pending := List.Subset.trans hp2 (s3.charge_pending_subset ..)
  have hp6 : s5.pending ⊆ s6.pending := State.reapAll_pending_subset (s5.modCtx i.ctx fun c => c.modLaunch i.launch acc) i.ctx
  have hw7 : Woken s6 s7 := (s6.kickTask_woken b.core).trans (State.kickRefill_woken _ b.core)
  have hp7 : s5.pending ⊆ ((s7.settleLaunch 4096 i.ctx i.launch).kickDies).pending :=
    List.Subset.trans (List.Subset.trans hp6 hw7.pending)
      (List.Subset.trans (s7.settleLaunch_unwinds ..).pending (State.kickDies_pending_subset _))
  have ho3 : s3.BlkOver i := by
    intro x hx
    rw [State.blk?_modBlk _ _ _ (by exact fun _ h => h), Option.map_eq_some_iff] at hx
    obtain ⟨y, -, rfl⟩ := hx
    exact ⟨rfl, rfl, rfl⟩
  have ho5 : s5.BlkOver i := ho3.of_blks (by dsimp only [s5, s4]; unfold State.charge; split <;> rfl)
  have ho7 : s7.BlkOver i := (State.reapAll_blkOver (s := s5.modCtx i.ctx fun c => c.modLaunch i.launch acc) (ho5.of_blks rfl) i.ctx).of_blks hw7.blks
  refine ⟨?_, ?_, fun ht l hl => hp7 (List.mem_append_right _ (List.mem_map_of_mem ?_))⟩
  · exact List.Subset.trans hp4 (List.Subset.trans (State.due_pending_subset ..) hp7)
  · exact (ho7.keepsOver (s7.settleLaunch_keepsOver ..)).of_blks (State.kickDies_blks _)
  · have hno : tree = false := by
      dsimp only [tree]
      rw [State.treeAlive_congr hplaces]
      obtain ht | ht := ht <;> simp [ht]
    simp [go, hno, hl]

/-! ### A wave's end (R166) -/

theorem State.kickTask_ops (s : State) (c : CoreId) : (s.kickTask c).ops = s.ops := by
  unfold State.kickTask State.askThief
  (repeat' split) <;> rfl

theorem State.kickDies_ops (s : State) : s.kickDies.ops = s.ops :=
  foldl_keeps (g := State.ops) (fun t (d : Die) => by unfold State.kickDie; (repeat' split) <;> rfl) _ s

/-- Where one wave bears the number, dropping it leaves none that does. -/
theorem State.dropWave_allWaves {i : WaveId} {w : Wave} (h : (s.allWaves.filter fun v => decide (v.id = i)) = [w]) :
    ∀ v ∈ (s.dropWave i).allWaves, v.id ≠ i := by
  intro v hv
  unfold State.dropWave at hv
  split at hv
  · next hf =>
    have hall : s.allWaves = s.wave :: s.waves := if_neg hf.2
    simp only [hall, List.filter_cons, hf.1, decide_true, if_true, List.cons.injEq] at h
    obtain ⟨-, hnone⟩ := h
    have hin : v ∈ s.waves := by simpa [State.allWaves] using hv
    exact fun hi => by simpa using List.filter_eq_nil_iff.mp hnone v hin (decide_eq_true hi)
  · next hf =>
    have hrest {x : Wave} (hx : x ∈ s.waves.filter fun w => !decide (w.id = i)) : x.id ≠ i := by simpa using (List.mem_filter.mp hx).2
    unfold State.allWaves at hv
    dsimp only at hv
    split at hv
    · exact hrest hv
    · next hn =>
      rcases List.mem_cons.mp hv with rfl | hv
      · exact fun hi => hf ⟨hi, hn⟩
      · exact hrest hv

theorem State.dropWave_frame (s : State) (i : WaveId) : ∃ w l, s.dropWave i = { s with wave := w, waves := l } := by
  unfold State.dropWave
  split
  · exact ⟨_, _, rfl⟩
  · exact ⟨_, _, rfl⟩

/-- The wave has left, and its block counts it. -/
def State.waveOut (s : State) (i : WaveId) : State := (s.dropWave i).modBlk i.blk fun b => { b with ended := b.ended + 1 }

/-- An open phase without a count is in the table of phases. -/
theorem mem_opens {t : Tab Bar} {n : Nat} (ho : (t.get Bar.zero n).open_ = true) (hc : (t.get Bar.zero n).count = none) :
    n ∈ (t.filter fun p => p.2.open_ && p.2.count.isNone).map (·.1) := by
  induction t with
  | nil => exact Bool.noConfusion ho
  | cons p r ih =>
    obtain ⟨j, x⟩ := p
    rw [Tab.get] at ho hc
    by_cases hj : j = n
    · rw [if_pos hj] at ho hc
      simp [ho, hc, hj]
    · rw [if_neg hj] at ho hc
      have hin := ih ho hc
      rw [List.filter_cons]
      split
      · exact List.mem_cons_of_mem _ hin
      · exact hin

theorem State.mark_mem_barMarks {b : Blk} {n : Nat} (ho : (b.bar false n).open_ = true) (hc : (b.bar false n).count = none) :
    .barrierArrivalRegister ⟨b.id, 99⟩ false n none true ∈ s.barMarks b :=
  List.mem_append_left _ (List.mem_map_of_mem (mem_opens ho hc))

theorem State.mark_mem_barMarks_cluster {b hb : Blk} {n : Nat} (hh : s.blk? (b.barHome true) = some hb) (ho : (hb.bar true n).open_ = true)
    (hc : (hb.bar true n).count = none) : .barrierArrivalRegister ⟨b.id, 99⟩ true n none true ∈ s.barMarks b := by
  unfold State.barMarks
  rw [hh]
  exact List.mem_append_right _ (List.mem_map_of_mem (mem_opens ho hc))

/-- The block with one more wave ended, and its barriers to be looked at. -/
def State.waveCounted (s : State) (i : WaveId) (b : Blk) : State := (s.waveOut i).due ((s.waveOut i).barMarks b)

variable {i : WaveId} {w : Wave} {b : Blk}

theorem State.waveOut_blk? (hb : s.blk? i.blk = some b) : (s.waveOut i).blk? i.blk = some { b with ended := b.ended + 1 } := by
  obtain ⟨x, l, hd⟩ := s.dropWave_frame i
  have hbd : (s.dropWave i).blk? i.blk = some b := by rw [hd]; exact hb
  rw [State.waveOut, State.blk?_modBlk _ _ _ fun _ => by exact id, hbd, Option.map_some]

theorem State.waveOut_keeps (s : State) (i : WaveId) : (s.waveOut i).mem = s.mem ∧ (s.waveOut i).ops = s.ops ∧ (s.waveOut i).ctxs = s.ctxs
    ∧ (s.waveOut i).taskPlaces = s.taskPlaces := by
  obtain ⟨x, l, hd⟩ := s.dropWave_frame i
  rw [State.waveOut, hd]
  exact ⟨rfl, rfl, rfl, congrArg (fun d => (s.taskPlaces.1, s.taskPlaces.2.1, s.taskPlaces.2.2.1, d))
    (map_updFirst (g := fun b : Blk => (b.state, b.task)) (by exact fun _ => rfl) s.blks)⟩

/-- The block that keeps the cluster's barriers keeps them where it counts the wave itself. -/
theorem State.waveOut_barHome (hb : s.blk? i.blk = some b) {hb' : Blk} (hh : s.blk? (b.barHome true) = some hb') :
    ∃ y, (s.waveOut i).blk? (b.barHome true) = some y ∧ ∀ n, y.bar true n = hb'.bar true n := by
  by_cases hi : b.barHome true = i.blk
  · rw [hi] at hh ⊢
    obtain rfl : b = hb' := Option.some.inj (hb.symm.trans hh)
    exact ⟨_, State.waveOut_blk? hb, fun _ => rfl⟩
  · obtain ⟨x, l, hd⟩ := s.dropWave_frame i
    refine ⟨hb', ?_, fun _ => rfl⟩
    rw [State.waveOut, State.blk?_modBlk_of_ne hi fun _ => by rfl, hd]
    exact hh

theorem exec_waveEnd (hw : s.wave? i = some w) (hrun : w.run = .halted ∨ (w.run = .exiting ∧ ∀ f < 12, w.flag f = 0))
    (hb : s.blk? i.blk = some b) :
    exec (.waveEnd i) s = .next (
      let t := s.waveCounted i { b with ended := b.ended + 1 }
      if b.nwaves ≤ b.ended + 1 then t.endBlk i.blk else t.kickDies.kickTask b.core) := by
  have hgo : (w.run == .halted || (w.run == .exiting && (List.range 12).all fun f => w.flag f == 0)) = true := by
    rcases hrun with h | ⟨h, hf⟩
    · simp [h]
    · simpa [h, List.all_eq_true] using hf
  have hbo : ((s.dropWave i).modBlk i.blk fun b => { b with ended := b.ended + 1 }).blk? i.blk = some { b with ended := b.ended + 1 } :=
    State.waveOut_blk? hb
  simp only [exec, execWaveEnd, hw, hgo, if_true, hbo, ge_iff_le]
  rfl

/-- The last wave's end: a contribution is read first where the launch asks for one and no trap ended the block. -/
theorem State.endBlk_eq {j : BlkId} (hb : s.blk? j = some b) : s.endBlk j =
    if (((s.ctx? j.ctx).bind fun c => c.launch? j.launch).any (·.colv)) && !j.task && !b.failed then
      (s.modBlk j fun b => { b with state := .exitRead }).due [.exitFiredContribution j]
    else s.closeBlk j := by
  unfold State.endBlk
  rw [hb]
  cases (s.ctx? j.ctx).bind fun c => c.launch? j.launch <;> rfl

/-- Every open phase without a count is looked at again. -/
theorem State.waveCounted_marks (hb : s.blk? i.blk = some b) :
    (∀ n, (b.bar false n).open_ = true → (b.bar false n).count = none →
        .barrierArrivalRegister ⟨i.blk, 99⟩ false n none true ∈ (s.waveCounted i { b with ended := b.ended + 1 }).pending)
    ∧ ∀ n hb, s.blk? (b.barHome true) = some hb → (hb.bar true n).open_ = true → (hb.bar true n).count = none →
        .barrierArrivalRegister ⟨i.blk, 99⟩ true n none true ∈ (s.waveCounted i { b with ended := b.ended + 1 }).pending := by
  rw [← State.blk?_id s hb]
  refine ⟨fun n ho hc => List.mem_append_right _ ?_, fun n y hy ho hc => List.mem_append_right _ ?_⟩
  · exact State.mark_mem_barMarks (b := { b with ended := b.ended + 1 }) ho hc
  · obtain ⟨z, hz, hbar⟩ := State.waveOut_barHome hb hy
    exact State.mark_mem_barMarks_cluster (b := { b with ended := b.ended + 1 }) hz (by rw [hbar, ho]) (by rw [hbar, hc])

theorem State.waveCounted_allWaves (h : (s.allWaves.filter fun v => decide (v.id = i)) = [w]) {b' : Blk} (ht : SameOutline (s.waveCounted i b') t) :
    ∀ v ∈ t.allWaves, v.id ≠ i := by
  intro v hv
  obtain ⟨x, hx, hxv⟩ := ht.waves v hv
  have hid : x.id = v.id := congrArg Prod.fst hxv
  exact hid ▸ State.dropWave_allWaves h x hx

end

/-- Settles O40: what has left with the wave is told apart from what its block does then, which goes on, waits for its exit-fired
contribution, or ends; a phase looked at again is complete or goes on. -/
theorem wavesEnd : Obligations.WavesEnd := by
  unfold Obligations.WavesEnd
  refine ⟨fun s id w b hw hone hrun hb => ?_, fun s v b hb cb k hv hh hr hx hw => ?_⟩
  · intro mark contributes
    obtain ⟨hmem, hops, hctxs, hplaces⟩ := s.waveOut_keeps id
    obtain ⟨hmarks, hcluster⟩ := State.waveCounted_marks hb
    have he := exec_waveEnd hw hrun hb
    have hblk : (s.waveCounted id { b with ended := b.ended + 1 }).blk? id.blk = some { b with ended := b.ended + 1 } :=
      State.waveOut_blk? hb
    have hctx : (s.waveCounted id { b with ended := b.ended + 1 }).ctx? id.blk.ctx = s.ctx? id.blk.ctx := by
      rw [State.ctx?, State.ctx?, ← hctxs]
      rfl
    generalize hu : s.waveCounted id { b with ended := b.ended + 1 } = u at *
    have humem : u.mem = s.mem := by rw [← hu]; exact hmem
    have huops : u.ops = s.ops := by rw [← hu]; exact hops
    have huplaces : u.taskPlaces = s.taskPlaces := by rw [← hu]; exact hplaces
    have hgone {t : State} (ht : SameOutline u t) : ∀ v ∈ t.allWaves, v.id ≠ id := State.waveCounted_allWaves hone (hu ▸ ht)
    have hkeep {t : State} (ht : u.pending ⊆ t.pending) :
        (∀ n, (b.bar false n).open_ = true → (b.bar false n).count = none → mark false n ∈ t.pending)
        ∧ ∀ n hb, s.blk? (b.barHome true) = some hb → (hb.bar true n).open_ = true → (hb.bar true n).count = none → mark true n ∈ t.pending :=
      ⟨fun n ho hc => ht (hmarks n ho hc), fun n y hy ho hc => ht (hcluster n y hy ho hc)⟩
    by_cases hlast : b.nwaves ≤ b.ended + 1
    · rw [if_pos hlast, State.endBlk_eq hblk, hctx] at he
      by_cases hcol : contributes = true
      · rw [if_pos hcol] at he
        have hk := u.due_pending_subset [.exitFiredContribution id.blk]
        refine ⟨_, he, hgone (.of_eq rfl), (hkeep hk).1, (hkeep hk).2, fun h => absurd h (Nat.not_lt.mpr hlast),
          fun _ _ => ⟨humem, huops, List.mem_append_right _ List.mem_cons_self, ?_⟩, fun _ h => absurd hcol (by simp [h])⟩
        rw [State.blk?, State.due_blks, ← State.blk?, State.blk?_modBlk _ _ _ fun _ => by exact fun h => h, hblk]
        rfl
      · rw [if_neg hcol] at he
        obtain ⟨hpend, hover, hlease⟩ := State.closeBlk_ends hblk
        exact ⟨_, he, hgone (u.closeBlk_outline id.blk), (hkeep hpend).1, (hkeep hpend).2, fun h => absurd h (Nat.not_lt.mpr hlast),
          fun _ h => absurd h hcol, fun _ _ => ⟨hover, by rwa [State.treeAlive_congr huplaces] at hlease⟩⟩
    · rw [if_neg hlast] at he
      have hw : Woken u.kickDies (u.kickDies.kickTask b.core) := State.kickTask_woken _ _
      have hk := List.Subset.trans u.kickDies_pending_subset hw.pending
      refine ⟨_, he, hgone ((State.kickDies_outline _).trans (State.kickTask_outline ..)), (hkeep hk).1, (hkeep hk).2, fun _ => ⟨?_, ?_, ?_⟩,
        fun h => absurd h hlast, fun h => absurd h hlast⟩
      · rw [State.kickTask_mem, State.kickDies_mem, humem]
      · rw [State.blk?, hw.blks, State.kickDies_blks]
        exact hblk
      · rw [State.kickTask_ops, State.kickDies_ops, huops]
  · exact fun ho hc => barMark_phase hv hh hr hx hw ho hc

end Sys2Proof.Machine

/-! ## Fences, prefetches and cache control (O29) -/

namespace Sys2Proof.Machine

section
variable {s t : State}

/-! ### A word that waits at issue -/

/-- A word that waits for landing is not performed; its wave's wait counter runs. -/
theorem State.await_waited (s : State) : Waited s s.await_ := by
  have hidle (n : Nat) : ({ s.wave with waitC := s.wave.waitC + n + 1 } : Wave) ≠ Wave.idle :=
    fun h => absurd (congrArg Wave.waitC h : s.wave.waitC + n + 1 = 0) (Nat.succ_ne_zero _)
  have hhalt (n : Nat) : ({ s.wave with waitC := s.wave.waitC + n + 1, run := .halted, clause := none } : Wave) ≠ Wave.idle :=
    fun h => absurd (congrArg Wave.waitC h : s.wave.waitC + n + 1 = 0) (Nat.succ_ne_zero _)
  have hlt (n : Nat) : s.wave.waitC < s.wave.waitC + n + 1 := by omega
  have hdead (u : State) (hb : u.blks = s.blks) (i : WaveId) : u.blkDead i = s.blkDead i := by
    simp only [State.blkDead, State.blk?, hb]
  let n := (s.choose (2 ^ 16)).1
  let u : State := { (s.choose (2 ^ 16)).2 with
    wave := { s.wave with waitC := s.wave.waitC + n + 1 }, pending := s.pending ++ s.drainsOf s.wave.core }
  have hu : s.await_ = u.stall := rfl
  have hd : u.blkDead u.wave.id = s.blkDead s.wave.id := hdead u rfl _
  rw [hu, State.stall, hd]
  by_cases hb : s.blkDead s.wave.id = true
  · have hend : ∃ l, u.haltFocus = { u with
        wave := { s.wave with waitC := s.wave.waitC + n + 1, run := .halted, clause := none }, pending := l } := by
      unfold State.haltFocus State.dueEnd
      split
      · exact ⟨_, rfl⟩
      · exact ⟨_, rfl⟩
    obtain ⟨l, hl⟩ := hend
    rw [if_pos hb, hl, State.unfocus, if_neg (hhalt n)]
    exact ⟨rfl, rfl, _, List.mem_append_right _ List.mem_cons_self, hlt n, by rw [if_pos hb]⟩
  · rw [if_neg hb, State.unfocus, if_neg (hidle n)]
    exact ⟨rfl, rfl, _, List.mem_append_right _ List.mem_cons_self, hlt n, by rw [if_neg hb]⟩

theorem exec_fence_of_unsettled {w : MW} (hn : ¬(s.wave.part w.g).isEmpty = true) (hs : s.settled s.wave = false) :
    exec (.fence w) s = .next s.await_ := by
  simp only [exec, execFence, if_neg hn, hs, Bool.not_false, if_true]

theorem exec_fence_of_settled {w : MW} (hn : ¬(s.wave.part w.g).isEmpty = true) (hs : s.settled s.wave = true) :
    exec (.fence w) s = .next (if w.order = .rel then s else s.acquireBump s.wave.id.blk.ctx s.wave.core w.scope) := by
  simp only [exec, execFence, if_neg hn, hs, Bool.not_true, Bool.false_eq_true, if_false]

/-! ### The bumps of an acquire (R94, R95) -/

/-- Only copies in cores and dies differ. -/
def OnlyCopies (s t : State) : Prop := t = { s with cores := t.cores, dies := t.dies }

/-- The generation of core c for the context is the next one, and that of its die where `die` says so. -/
def Bumped (s t : State) (c : CoreId) (ctx : Nat) (die : Bool) : Prop :=
  OnlyCopies s t
  ∧ (∀ k, s.core? c = some k → ∃ k', t.core? c = some k' ∧ k'.gl.get 0 ctx = (k.gl.get 0 ctx + 1) % 65536
      ∧ (k'.gl.get 0 ctx = 0 → ∀ x ∈ k'.l1, x.ctx ≠ ctx) ∧ (k'.gl.get 0 ctx ≠ 0 → k'.l1 = k.l1)
      ∧ ∀ x, x ≠ ctx → k'.gl.get 0 x = k.gl.get 0 x)
  ∧ (die = false → t.dies = s.dies)
  ∧ (die = true → ∀ d, s.die? c.pkg c.die = some d → ∃ d', t.die? c.pkg c.die = some d' ∧ d'.g.get 0 ctx = (d.g.get 0 ctx + 1) % 65536
      ∧ ∀ x, x ≠ ctx → d'.g.get 0 x = d.g.get 0 x)

theorem Core.bump_gl (k : Core) (ctx : Nat) : (k.bump ctx).gl.get 0 ctx = (k.gl.get 0 ctx + 1) % 65536 := Tab.get_set_self ..

theorem Core.bump_gl_of_ne (k : Core) {ctx x : Nat} (h : x ≠ ctx) : (k.bump ctx).gl.get 0 x = k.gl.get 0 x := Tab.get_set_ne _ _ _ _ _ h

theorem Core.bump_l1 (k : Core) (ctx : Nat) :
    (k.bump ctx).l1 = if (k.bump ctx).gl.get 0 ctx = 0 then k.l1.filter (fun x => x.ctx != ctx) else k.l1 := by
  rw [Core.bump_gl]
  rfl

/-- A core's bump. -/
theorem core_bumped {c : CoreId} {k : Core} (hk : s.core? c = some k) (ctx : Nat) : ∃ k', (s.modCore c fun x => x.bump ctx).core? c = some k'
    ∧ k'.gl.get 0 ctx = (k.gl.get 0 ctx + 1) % 65536
    ∧ (k'.gl.get 0 ctx = 0 → ∀ x ∈ k'.l1, x.ctx ≠ ctx) ∧ (k'.gl.get 0 ctx ≠ 0 → k'.l1 = k.l1)
    ∧ ∀ x, x ≠ ctx → k'.gl.get 0 x = k.gl.get 0 x := by
  refine ⟨_, State.core?_modCore hk fun _ => rfl, k.bump_gl ctx, fun h0 x hx => ?_, fun h0 => ?_, fun x hx => k.bump_gl_of_ne hx⟩
  · rw [Core.bump_l1, if_pos h0] at hx
    simpa using (List.mem_filter.mp hx).2
  · rw [Core.bump_l1, if_neg h0]

theorem bumped_core (s : State) (c : CoreId) (ctx : Nat) : Bumped s (s.modCore c fun x => x.bump ctx) c ctx false :=
  ⟨rfl, fun _ hk => core_bumped hk ctx, fun _ => rfl, nofun⟩

theorem State.die?_modDie_some {p i : Nat} {d : Die} (hd : s.die? p i = some d) (f : Die → Die)
    (hf : ∀ d, (f d).pkg = d.pkg ∧ (f d).die = d.die) : (s.modDie p i f).die? p i = some (f d) := by
  rw [State.die?_modDie hf, hd, Option.map_some]

theorem bumped_die (s : State) (c : CoreId) (ctx : Nat) :
    Bumped s ((s.modCore c fun x => x.bump ctx).modDie c.pkg c.die fun d => d.bump ctx) c ctx true := by
  refine ⟨rfl, fun _ hk => core_bumped hk ctx, nofun, fun _ d hd => ⟨d.bump ctx, ?_, Tab.get_set_self .., fun x hx => Tab.get_set_ne _ _ _ _ _ hx⟩⟩
  exact State.die?_modDie_some (s := s.modCore c fun x => x.bump ctx) hd (fun d => d.bump ctx) fun _ => ⟨rfl, rfl⟩

theorem acquireBump_bumped (s : State) (ctx : Nat) (c : CoreId) {sc : Scope} (h : sc ≠ .core) :
    Bumped s (s.acquireBump ctx c sc) c ctx (sc != .die) := by
  cases sc
  case core => exact absurd rfl h
  case die => exact bumped_core s c ctx
  all_goals exact bumped_die s c ctx

theorem exec_cctlInvl1 {w : MW} (hn : ¬(s.wave.part w.g).isEmpty = true) :
    exec (.cctlInvl1 w) s = .next (s.modCore s.wave.core fun x => x.bump s.wave.id.blk.ctx) :=
  congrArg Host.Outcome.next (if_neg hn)

theorem exec_cctlInvdie {w : MW} (hn : ¬(s.wave.part w.g).isEmpty = true) :
    exec (.cctlInvdie w) s = .next ((s.modCore s.wave.core fun x => x.bump s.wave.id.blk.ctx).modDie s.wave.core.pkg s.wave.core.die
      fun d => d.bump s.wave.id.blk.ctx) :=
  congrArg Host.Outcome.next (if_neg hn)

theorem exec_cctlIinv {w : MW} (hn : ¬(s.wave.part w.g).isEmpty = true) :
    exec (.cctlIinv w) s = .next { s.modCore s.wave.core (fun k => { k with iseq := s.seq + 1 }) with seq := s.seq + 1 } :=
  congrArg Host.Outcome.next (if_neg hn)

/-! ### Copies dropped by CCTL.inv (R295) -/

/-- The copies of every line named are invalidated. -/
def dropLines (ls : List Line) (ias : List Nat) : List Line := ias.foldl dropLine ls

theorem mem_dropLine_iff_of_ne {ls : List Line} {ia : Nat} {y : Line} (h : y.ia ≠ lineOf ia) : y ∈ dropLine ls ia ↔ y ∈ ls := by
  unfold dropLine
  constructor
  · intro hy
    obtain ⟨x, hx, rfl⟩ := List.mem_map.mp hy
    split at h
    · next hi => exact absurd hi h
    · next hi => rw [if_neg hi]; exact (List.mem_filter.mp hx).1
  · intro hy
    exact List.mem_map.mpr ⟨y, List.mem_filter.mpr ⟨hy, by simp [h]⟩, by rw [if_neg h]⟩

/-- What is invalidated stays so. -/
theorem stale_of_mem_dropLine {ls : List Line} {a ia : Nat} (h : ∀ y ∈ ls, y.ia = a → y.stale = true) :
    ∀ y ∈ dropLine ls ia, y.ia = a → y.stale = true := by
  intro y hy ha
  by_cases hi : y.ia = lineOf ia
  · exact mem_dropLine hy hi
  · exact h y ((mem_dropLine_iff_of_ne hi).mp hy) ha

theorem stale_of_mem_dropLines {ias : List Nat} {ls : List Line} {a : Nat} (h : ∀ y ∈ ls, y.ia = a → y.stale = true) :
    ∀ y ∈ dropLines ls ias, y.ia = a → y.stale = true := by
  induction ias generalizing ls with
  | nil => exact h
  | cons ia r ih => exact ih (stale_of_mem_dropLine h)

theorem mem_dropLines {ias : List Nat} {ls : List Line} {ia : Nat} (h : ia ∈ ias) : ∀ y ∈ dropLines ls ias, y.ia = lineOf ia → y.stale = true := by
  induction ias generalizing ls with
  | nil => cases h
  | cons j r ih =>
    rcases List.mem_cons.mp h with rfl | h
    · exact stale_of_mem_dropLines (ias := r) fun y hy => mem_dropLine hy
    · exact ih h

theorem mem_dropLines_iff_of_ne {ias : List Nat} {ls : List Line} {y : Line} (h : ∀ ia ∈ ias, y.ia ≠ lineOf ia) :
    y ∈ dropLines ls ias ↔ y ∈ ls := by
  induction ias generalizing ls with
  | nil => rfl
  | cons j r ih =>
    obtain ⟨hj, hr⟩ := List.forall_mem_cons.mp h
    exact (ih hr).trans (mem_dropLine_iff_of_ne hj)

/-- A pinned copy keeps its place, invalidated where its line is named (R93). -/
theorem pinned_mem_dropLine {ls : List Line} {y : Line} (hy : y ∈ ls) (hp : y.pin.isSome = true) (ia : Nat) :
    (if y.ia = lineOf ia then { y with stale := true } else y) ∈ dropLine ls ia :=
  List.mem_map.mpr ⟨y, List.mem_filter.mpr ⟨hy, by simp [hp]⟩, rfl⟩

theorem stale_mem_dropLines {ias : List Nat} {ls : List Line} {y : Line} (hy : { y with stale := true } ∈ ls) (hp : y.pin.isSome = true) :
    { y with stale := true } ∈ dropLines ls ias := by
  induction ias generalizing ls with
  | nil => exact hy
  | cons j r ih =>
    refine ih ?_
    have hj := pinned_mem_dropLine hy hp j
    split at hj <;> exact hj

theorem pinned_mem_dropLines {ias : List Nat} {ls : List Line} {y : Line} (hy : y ∈ ls) (hp : y.pin.isSome = true) {ia : Nat} (hi : ia ∈ ias)
    (ha : y.ia = lineOf ia) : { y with stale := true } ∈ dropLines ls ias := by
  induction ias generalizing ls with
  | nil => cases hi
  | cons j r ih =>
    have hj := pinned_mem_dropLine hy hp j
    by_cases h : y.ia = lineOf j
    · rw [if_pos h] at hj
      exact stale_mem_dropLines (ias := r) hj hp
    · rw [if_neg h] at hj
      rcases List.mem_cons.mp hi with rfl | hi
      · exact absurd ha h
      · exact ih hj hi

/-- One line's copies are dropped from a core and its die. -/
def State.invLine (s : State) (c : CoreId) (ia : Nat) : State :=
  (s.modCore c fun k => { k with l1 := dropLine k.l1 ia }).modDie c.pkg c.die fun d => { d with l2 := dropLine d.l2 ia }

theorem invLines_onlyCopies (s : State) (c : CoreId) (ias : List Nat) : OnlyCopies s (ias.foldl (fun s ia => s.invLine c ia) s) := by
  induction ias generalizing s with
  | nil => rfl
  | cons a r ih => exact ih (s.invLine c a)

theorem core?_invLines {c : CoreId} {k : Core} (hk : s.core? c = some k) (ias : List Nat) :
    (ias.foldl (fun s ia => s.invLine c ia) s).core? c = some { k with l1 := dropLines k.l1 ias } := by
  induction ias generalizing s k with
  | nil => exact hk
  | cons a r ih => exact ih (s := s.invLine c a) (State.core?_modCore (f := fun k => { k with l1 := dropLine k.l1 a }) hk fun _ => rfl)

theorem die?_invLines {c : CoreId} {d : Die} (hd : s.die? c.pkg c.die = some d) (ias : List Nat) :
    (ias.foldl (fun s ia => s.invLine c ia) s).die? c.pkg c.die = some { d with l2 := dropLines d.l2 ias } := by
  induction ias generalizing s d with
  | nil => exact hd
  | cons a r ih =>
    exact ih (s := s.invLine c a) (State.die?_modDie_some (s := s.modCore c fun k => { k with l1 := dropLine k.l1 a }) hd (fun d => { d with l2 := dropLine d.l2 a })
      fun _ => ⟨rfl, rfl⟩)

theorem exec_cctlInv (w : MW) (s : State) :
    exec (.cctlInv w) s = .next (((s.cctlIas w).map (·.2)).foldl (fun t ia => t.invLine s.wave.core ia) s) := by
  rw [List.foldl_map]
  rfl

/-! ### Pins taken off by CCTL.unpin (R93, R295) -/

/-- d' is d but for pins of the context that are gone. -/
def DieUnpinned (ctx : Nat) (d d' : Die) : Prop :=
  d' = { d with l2 := d'.l2, pins := d'.pins } ∧ (∀ q ∈ d.pins, q.2 ≠ ctx → q ∈ d'.pins) ∧ (∀ y ∈ d.l2, y.pin ≠ some ctx → y ∈ d'.l2)
  ∧ (∀ q ∈ d'.pins, q ∈ d.pins) ∧ ∀ y ∈ d'.l2, y.pin = some ctx → y ∈ d.l2

theorem DieUnpinned.refl (ctx : Nat) (d : Die) : DieUnpinned ctx d d :=
  ⟨rfl, fun _ h _ => h, fun _ h _ => h, fun _ h => h, fun _ h _ => h⟩

theorem DieUnpinned.trans {ctx : Nat} {d e f : Die} (h : DieUnpinned ctx d e) (k : DieUnpinned ctx e f) : DieUnpinned ctx d f := by
  obtain ⟨h1, h2, h3, h4, h5⟩ := h
  obtain ⟨k1, k2, k3, k4, k5⟩ := k
  refine ⟨?_, fun q hq hc => k2 q (h2 q hq hc) hc, fun y hy hc => k3 y (h3 y hy hc) hc, fun q hq => h4 q (k4 q hq), fun y hy hc => h5 y (k5 y hy hc) hc⟩
  rw [k1, h1]

/-- The dies of t are those of s but for pins of the context that are gone. -/
def Unpinned (ctx : Nat) (s t : State) : Prop :=
  ∀ p i, (s.die? p i = none ∧ t.die? p i = none) ∨ ∃ d d', s.die? p i = some d ∧ t.die? p i = some d' ∧ DieUnpinned ctx d d'

theorem Unpinned.refl (ctx : Nat) (s : State) : Unpinned ctx s s := fun p i => by
  cases h : s.die? p i with
  | none => exact .inl ⟨rfl, rfl⟩
  | some d => exact .inr ⟨d, d, rfl, rfl, .refl ctx d⟩

theorem Unpinned.trans {ctx : Nat} {u : State} (h : Unpinned ctx s t) (k : Unpinned ctx t u) : Unpinned ctx s u := by
  intro p i
  rcases h p i with ⟨hs, ht⟩ | ⟨d, e, hs, ht, hd⟩ <;> rcases k p i with ⟨kt, ku⟩ | ⟨e', f, kt, ku, kd⟩
  · exact .inl ⟨hs, ku⟩
  · exact absurd (ht.symm.trans kt) nofun
  · exact absurd (ht.symm.trans kt) nofun
  · obtain rfl : e = e' := Option.some.inj (ht.symm.trans kt)
    exact .inr ⟨d, f, hs, ku, hd.trans kd⟩

theorem Unpinned.modDie {ctx : Nat} (p i : Nat) {f : Die → Die} (hf : ∀ d, DieUnpinned ctx d (f d)) : Unpinned ctx s (s.modDie p i f) := by
  have hid (d : Die) : (f d).pkg = d.pkg ∧ (f d).die = d.die := by
    rw [(hf d).1]
    exact ⟨rfl, rfl⟩
  intro q j
  by_cases h : q = p ∧ j = i
  · obtain ⟨rfl, rfl⟩ := h
    rw [State.die?_modDie hid]
    cases hd : s.die? q j with
    | none => exact .inl ⟨rfl, rfl⟩
    | some d => exact .inr ⟨d, f d, rfl, rfl, hf d⟩
  · rw [State.die?_modDie_of_ne h hid]
    exact Unpinned.refl ctx s q j

/-- The home of a line named by the word. -/
def State.unpinHome (s : State) (ctx : Nat) (x : Range × Nat) : HomeId :=
  match s.ctx? ctx with | some k => homeOf k (s.saltOf k) x.1 x.2 | none => ⟨0, 0⟩

/-- The context's pins on a line go, at its home h and in the die of core c. -/
def State.unpinLine (s : State) (c : CoreId) (ctx : Nat) (h : HomeId) (ia : Nat) : State :=
  (s.modDie h.pkg (h.stack / 4) fun d => { d with pins := d.pins.filter fun p => p != (lineOf ia, ctx) }).modDie c.pkg c.die fun d =>
    { d with l2 := d.l2.map fun l => if l.ia = lineOf ia ∧ l.pin = some ctx then { l with pin := none } else l }

theorem dieUnpinned_pins (ctx ia : Nat) (d : Die) : DieUnpinned ctx d { d with pins := d.pins.filter fun p => p != (lineOf ia, ctx) } := by
  refine ⟨rfl, fun q hq hc => List.mem_filter.mpr ⟨hq, ?_⟩, fun _ h _ => h, fun q hq => (List.mem_filter.mp hq).1, fun _ h _ => h⟩
  rw [bne_iff_ne]
  exact fun he => hc (congrArg Prod.snd he)

theorem dieUnpinned_l2 (ctx ia : Nat) (d : Die) : DieUnpinned ctx d
    { d with l2 := d.l2.map fun l => if l.ia = lineOf ia ∧ l.pin = some ctx then { l with pin := none } else l } := by
  refine ⟨rfl, fun _ h _ => h, fun y hy hc => List.mem_map.mpr ⟨y, hy, if_neg fun h => hc h.2⟩, fun _ h => h, fun y hy hc => ?_⟩
  obtain ⟨z, hz, rfl⟩ := List.mem_map.mp hy
  split at hc
  · cases hc
  · next h => rw [if_neg h]; exact hz

theorem unpinLine_unpinned (s : State) (c : CoreId) (ctx : Nat) (h : HomeId) (ia : Nat) : Unpinned ctx s (s.unpinLine c ctx h ia) :=
  (Unpinned.modDie _ _ fun d => dieUnpinned_pins ctx ia d).trans (.modDie _ _ fun d => dieUnpinned_l2 ctx ia d)

theorem Unpinned.back {ctx : Nat} (h : Unpinned ctx s t) {p i : Nat} {d' : Die} (hd : t.die? p i = some d') :
    ∃ d, s.die? p i = some d ∧ DieUnpinned ctx d d' := by
  rcases h p i with ⟨-, h2⟩ | ⟨d, e, h1, h2, he⟩
  · exact absurd (hd.symm.trans h2) nofun
  · obtain rfl : e = d' := Option.some.inj (h2.symm.trans hd)
    exact ⟨d, h1, he⟩

/-- No copy of the line of ia in the die of core c has a pin of the context. -/
def NoCopyPin (t : State) (c : CoreId) (ctx ia : Nat) : Prop :=
  ∀ d', t.die? c.pkg c.die = some d' → ∀ y ∈ d'.l2, y.ia = lineOf ia → y.pin ≠ some ctx

/-- The context has no pin on the line of ia at home h. -/
def NoHomePin (t : State) (h : HomeId) (ctx ia : Nat) : Prop := ∀ d', t.die? h.pkg (h.stack / 4) = some d' → (lineOf ia, ctx) ∉ d'.pins

theorem NoCopyPin.unpinned {c : CoreId} {ctx ia : Nat} (hn : NoCopyPin s c ctx ia) (hu : Unpinned ctx s t) : NoCopyPin t c ctx ia := by
  intro d' hd y hy hi hp
  obtain ⟨d, h1, -, -, -, -, hl⟩ := hu.back hd
  exact hn d h1 y (hl y hy hp) hi hp

theorem NoHomePin.unpinned {h : HomeId} {ctx ia : Nat} (hn : NoHomePin s h ctx ia) (hu : Unpinned ctx s t) : NoHomePin t h ctx ia := by
  intro d' hd hq
  obtain ⟨d, h1, -, -, -, hq', -⟩ := hu.back hd
  exact hn d h1 (hq' _ hq)

theorem unpinLine_noCopyPin (s : State) (c : CoreId) (ctx : Nat) (h : HomeId) (ia : Nat) : NoCopyPin (s.unpinLine c ctx h ia) c ctx ia := by
  intro d' hd y hy hi hp
  rw [State.unpinLine, State.die?_modDie (by exact fun _ => ⟨rfl, rfl⟩), Option.map_eq_some_iff] at hd
  obtain ⟨d, -, rfl⟩ := hd
  obtain ⟨z, -, rfl⟩ := List.mem_map.mp hy
  split at hp
  · cases hp
  · next hz => rw [if_neg hz] at hi; exact hz ⟨hi, hp⟩

theorem unpinLine_noHomePin (s : State) (c : CoreId) (ctx : Nat) (h : HomeId) (ia : Nat) : NoHomePin (s.unpinLine c ctx h ia) h ctx ia := by
  refine NoHomePin.unpinned (s := s.modDie h.pkg (h.stack / 4) fun d => { d with pins := d.pins.filter fun p => p != (lineOf ia, ctx) })
    (fun d' hd hq => ?_) (.modDie _ _ fun d => dieUnpinned_l2 ctx ia d)
  rw [State.die?_modDie (by exact fun _ => ⟨rfl, rfl⟩), Option.map_eq_some_iff] at hd
  obtain ⟨d, -, rfl⟩ := hd
  simpa using (List.mem_filter.mp hq).2

/-- The context's pins on the lines named go. -/
def State.unpinLines (s : State) (c : CoreId) (ctx : Nat) (xs : List (Range × Nat)) : State :=
  xs.foldl (fun t x => t.unpinLine c ctx (t.unpinHome ctx x) x.2) s

theorem unpinLines_frame (s : State) (c : CoreId) (ctx : Nat) (xs : List (Range × Nat)) :
    s.unpinLines c ctx xs = { s with dies := (s.unpinLines c ctx xs).dies } := by
  induction xs generalizing s with
  | nil => rfl
  | cons x r ih => exact ih (s.unpinLine c ctx (s.unpinHome ctx x) x.2)

theorem unpinLines_unpinned (s : State) (c : CoreId) (ctx : Nat) (xs : List (Range × Nat)) : Unpinned ctx s (s.unpinLines c ctx xs) := by
  induction xs generalizing s with
  | nil => exact .refl ctx s
  | cons x r ih => exact (unpinLine_unpinned s c ctx _ x.2).trans (ih _)

theorem unpinLines_noPin (s : State) (c : CoreId) (ctx : Nat) {xs : List (Range × Nat)} {x : Range × Nat} (hx : x ∈ xs) :
    NoCopyPin (s.unpinLines c ctx xs) c ctx x.2 ∧ NoHomePin (s.unpinLines c ctx xs) (s.unpinHome ctx x) ctx x.2 := by
  induction xs generalizing s with
  | nil => cases hx
  | cons y r ih =>
    rcases List.mem_cons.mp hx with rfl | hx
    · have hr := unpinLines_unpinned (s.unpinLine c ctx (s.unpinHome ctx x) x.2) c ctx r
      exact ⟨NoCopyPin.unpinned (unpinLine_noCopyPin s c ctx _ x.2) hr, NoHomePin.unpinned (unpinLine_noHomePin s c ctx _ x.2) hr⟩
    · exact ih (s.unpinLine c ctx (s.unpinHome ctx y) y.2) hx

theorem exec_cctlUnpin (w : MW) (s : State) :
    exec (.cctlUnpin w) s = .next (s.unpinLines s.wave.core s.wave.id.blk.ctx (s.cctlIas w)) := rfl

/-! ### Prefetches (R294) -/

/-- What PREF asks for a lane: the pieces at homes, under a policy that allocates. -/
def State.prefLane (s : State) (w : MW) (l : Nat) : List Instr :=
  let m := weakSpec (.pref w) w .load .load false s
  match s.lanePieces s.wave w.sp .load false false false 1 (m.addr l) l with
  | .ok ps => ps.filterMap fun p => match p.spot with
      | .ia _ _ => (let r := s.pieceReq m 0 l p; if r.pol == .wc || r.pol == .uncached then none else some (.l2Request r))
      | .scr _ _ => none
  | .error _ => []

theorem exec_pref (w : MW) (s : State) : exec (.pref w) s = .next ((s.due ((s.wave.part w.g).flatMap (s.prefLane w))).postInc w true) := rfl

theorem mem_prefLane {w : MW} {l : Nat} {ps : List Piece} {p : Piece} {a : Nat} {g : Range}
    (hl : s.lanePieces s.wave w.sp .load false false false 1 (w.addr14 s l) l = .ok ps) (hp : p ∈ ps) (ha : p.spot = .ia a g)
    (hwc : effPolicy w.cp g.mt ≠ .wc) (hun : effPolicy w.cp g.mt ≠ .uncached) :
    ∃ r, .l2Request r ∈ s.prefLane w l ∧ r.kind = .load ∧ r.lane = l ∧ r.ia = a ∧ r.pol = effPolicy w.cp g.mt := by
  let m := weakSpec (.pref w) w .load .load false s
  obtain ⟨-, -, hlane, hia, -, -, -, -, -, -, hpol⟩ := State.pieceReq_ia (s := s) (m := m) (id := 0) (l := l) ha
  have hkind : (s.pieceReq m 0 l p).kind = .load := by
    simp only [State.pieceReq, ha]
    rfl
  refine ⟨s.pieceReq m 0 l p, ?_, hkind, hlane, hia, hpol⟩
  have hl' : s.lanePieces s.wave w.sp .load false false false 1 (m.addr l) l = .ok ps := hl
  have hpol' : (s.pieceReq m 0 l p).pol = effPolicy w.cp g.mt := hpol
  rw [State.prefLane, hl']
  refine List.mem_filterMap.mpr ⟨p, hp, ?_⟩
  simp only [ha]
  rw [if_neg]
  simp [m, hpol', hwc, hun]

theorem of_mem_prefLane {w : MW} {l : Nat} {e : Instr} (he : e ∈ s.prefLane w l) :
    ∃ r, e = .l2Request r ∧ r.kind = .load ∧ r.op = 0 ∧ r.strong = false ∧ r.pol ≠ .wc ∧ r.pol ≠ .uncached ∧ r.lane = l := by
  unfold State.prefLane at he
  extract_lets m at he
  split at he
  · obtain ⟨p, -, hp⟩ := List.mem_filterMap.mp he
    split at hp
    · next a g ha =>
      obtain ⟨hop, -, hlane, -, -, -, -, hstrong, -⟩ := State.pieceReq_ia (s := s) (m := m) (id := 0) (l := l) ha
      extract_lets r at hp
      split at hp
      · cases hp
      · next hpol =>
        simp only [Bool.or_eq_true, beq_iff_eq, not_or] at hpol
        have hkind : r.kind = .load := by
          simp only [r, State.pieceReq, ha]
          rfl
        exact ⟨r, (Option.some.inj hp).symm, hkind, hop, hstrong, hpol.1, hpol.2, hlane⟩
    · cases hp
  · cases he

end

/-- Settles O29: each word is the step its lemma above says, and nothing else. -/
theorem fencesAndCacheWords : Obligations.FencesAndCacheWords := by
  unfold Obligations.FencesAndCacheWords
  intro s w ctx c none_ copies bumped
  refine ⟨fun i hi hn => ?_, fun hn hs => ?_, fun hn hs => ?_, fun hn => ?_, fun hn => ?_, fun hn => ?_, ?_, ?_, fun t ht p i d hd => ?_, ?_⟩
  · have hz : s.wave.part w.g = [] := List.isEmpty_iff.mp hn
    simp only [List.mem_cons, List.not_mem_nil, or_false] at hi
    rcases hi with rfl | rfl | rfl | rfl <;>
      simp [exec, execFence, execCctlInvl1, execCctlInvdie, execCctlIinv, State.cctlWave, hz]
  · exact ⟨_, exec_fence_of_unsettled hn hs, s.await_waited⟩
  · refine ⟨_, exec_fence_of_settled hn hs, fun h => ?_, fun hr hc => ?_⟩
    · rcases h with h | h
      · rw [if_pos h]
      · rw [h]
        split <;> rfl
    · rw [if_neg hr]
      exact acquireBump_bumped s ctx c hc
  · exact ⟨_, exec_cctlInvl1 hn, bumped_core s c ctx⟩
  · exact ⟨_, exec_cctlInvdie hn, bumped_die s c ctx⟩
  · exact ⟨_, exec_cctlIinv hn, rfl, fun k hk => State.core?_modCore (f := fun k => { k with iseq := s.seq + 1 }) hk fun _ => rfl⟩
  · refine ⟨_, exec_cctlInv w s, invLines_onlyCopies s c _, fun k hk => ⟨_, core?_invLines hk _, rfl, fun x hx => ?_, fun y hy => ?_⟩,
      fun d hd => ⟨_, die?_invLines hd _, rfl, fun x hx => ?_, fun x hx y hy hi hp => ?_, fun y hy => ?_⟩⟩
    · exact mem_dropLines (List.mem_map_of_mem hx)
    · exact mem_dropLines_iff_of_ne (List.forall_mem_map.mpr hy)
    · exact mem_dropLines (List.mem_map_of_mem hx)
    · exact pinned_mem_dropLines hy hp (List.mem_map_of_mem hx) hi
    · exact mem_dropLines_iff_of_ne (List.forall_mem_map.mpr hy)
  · refine ⟨_, exec_cctlUnpin w s, unpinLines_frame s c ctx _, fun x hx => ?_⟩
    obtain ⟨hcopy, hhome⟩ := unpinLines_noPin s c ctx hx
    refine ⟨hcopy, fun k hk => ?_⟩
    have hh : s.unpinHome ctx x = homeOf k (s.saltOf k) x.1 x.2 := by simp only [State.unpinHome, hk]
    exact hh ▸ hhome
  · obtain rfl : _ = t := by simpa only [exec_cctlUnpin, Host.Outcome.next.injEq] using ht
    rcases unpinLines_unpinned s c ctx (s.cctlIas w) p i with ⟨h1, -⟩ | ⟨d1, d', h1, h2, hf, hq, hy, -⟩
    · exact absurd (hd.symm.trans h1) nofun
    · obtain rfl : d = d1 := Option.some.inj (hd.symm.trans h1)
      exact ⟨d', h2, hf, hq, hy⟩
  · let u := s.due ((s.wave.part w.g).flatMap (s.prefLane w))
    have hw : (u.postInc w true).wave = (s.postInc w true).wave := State.postInc_congr (s := s) (t := u) rfl w true
    refine ⟨_, (s.wave.part w.g).flatMap (s.prefLane w), exec_pref w s, u.postInc_frame w true,
      baseStepped_of_wave hw (baseStepped_postInc s w true), u.postInc_wave w true, fun l hl ps hps p hp a g ha hwc hun => ?_, fun e he => ?_⟩
    · obtain ⟨r, hr, hrest⟩ := mem_prefLane hps hp ha hwc hun
      exact ⟨r, List.mem_flatMap.mpr ⟨l, hl, hr⟩, hrest⟩
    · obtain ⟨l, hl, he⟩ := List.mem_flatMap.mp he
      obtain ⟨r, hr, hk, hop, hs, hwc, hun, hlane⟩ := of_mem_prefLane he
      exact ⟨r, hr, hk, hop, hs, hwc, hun, hlane ▸ hl⟩

end Sys2Proof.Machine

/-! ## Strong words at issue (O27) -/

namespace Sys2Proof.Machine

/-! ### What a scratchpad's access leaves of the contexts -/

section
variable {s t : State}

theorem State.modWave_ctxs (s : State) (i : WaveId) (f : Wave → Wave) : (s.modWave i f).ctxs = s.ctxs := by
  unfold State.modWave
  split <;> rfl

theorem State.writeEarly_ctxs (s : State) (i : Nat) : (s.writeEarly i).ctxs = s.ctxs := by
  unfold State.writeEarly
  split
  · rfl
  dsimp only
  split
  · rfl
  · exact State.modWave_ctxs { s with free := _ } _ _

theorem State.finishOp_ctxs (s : State) (i : Nat) : (s.finishOp i).ctxs = s.ctxs := by
  unfold State.finishOp
  split
  · rfl
  split
  · rfl
  split
  · rfl
  split
  · rfl
  split
  · exact State.writeEarly_ctxs (s.modOp i _) i
  · rfl

theorem State.answer_ctxs (s : State) (i l p : Nat) (bs : List Byte) : (s.answer i l p bs).ctxs = s.ctxs := State.finishOp_ctxs (s.modOp i _) i

theorem State.dueEnd_ctxs (s : State) (i : WaveId) : (s.dueEnd i).ctxs = s.ctxs := by
  unfold State.dueEnd
  split <;> rfl

theorem State.refusePiece_ctxs (s : State) (i l ia : Nat) (e : HomeErr) : (s.refusePiece i l ia e).ctxs = s.ctxs := by
  unfold State.refusePiece
  split
  · rfl
  split
  · exact (State.dueEnd_ctxs _ _).trans (s.modWave_ctxs _ _)
  · split
    · split <;> rfl
    · exact State.finishOp_ctxs ((s.endWatches i).modOp i _) i

theorem State.wakeAwaits_ctxs (s : State) (key : Nat) (w : W64) : (s.wakeAwaits key w).ctxs = s.ctxs := by
  refine foldl_keeps (g := State.ctxs) (fun t x => ?_) _ _
  unfold State.answerWatch
  split
  · exact t.answer_ctxs ..
  · exact t.answer_ctxs ..
  · rfl

theorem State.release_ctxs (s : State) (i : WaveId) (x : Nat) (evs : List Instr) : (s.release i x evs).ctxs = s.ctxs := by
  have hd (t : State) (ws : List Nat) : (t.defer i ws evs).ctxs = t.ctxs := by
    unfold State.defer
    split <;> rfl
  rw [State.release, hd, State.sendAll]
  split
  · next w _ => rw [s.sendBufs_frame w.core fun _ => true]
  · rfl

theorem State.scrStore_ctxs {b : BlkId} {off : Nat} {bs : List Byte} {w : WaveId} {ord : Nat} (h : s.scrStore b off bs w ord = .ok t) :
    t.ctxs = s.ctxs := by
  unfold State.scrStore at h
  split at h
  · cases h
    rfl
  extract_lets n mem v at h
  split at h
  · cases h
    rfl
  split at h
  · cases h
    unfold State.publish
    split
    · rfl
    · exact State.release_ctxs (State.modBlk _ _ _) ..
  · cases h

theorem State.reqDone_ctxs {r : Req} (hk : ∀ z, r.kind ≠ .rmw .csig z) (key : Nat) (old new : List Byte) (fl : Nat) :
    (s.reqDone r key old new fl).ctxs = s.ctxs := by
  have he (u : State) : (u.reqEffect r key old new fl).ctxs = u.ctxs := by
    have h1 (f : Op → Op) : (if fl = 0 then u else u.modOp r.op f).ctxs = u.ctxs := by split <;> rfl
    unfold State.reqEffect
    extract_lets w v
    split
    · exact (v.wakeAwaits_ctxs key w).trans (h1 _)
    · next z h => exact absurd h (hk z)
    · extract_lets met
      split
      · exact h1 _
      · exact h1 _
    · exact h1 _
  exact (State.answer_ctxs ..).trans (he _)

theorem State.waitRead_ctxs {r : Req} {key : Nat} {old : List Byte} (h : s.waitRead r key old = some t) : t.ctxs = s.ctxs := by
  unfold State.waitRead at h
  extract_lets w at h
  split at h
  · split at h
    · cases h
      split
      · exact s.answer_ctxs ..
      · rfl
    · cases h
      split
      · exact s.answer_ctxs ..
      · rfl
    · cases h
  · cases h

/-- No order point of the context is logged. -/
def State.Unlogged (s : State) (ctx : Nat) : Prop := ∀ c, s.ctx? ctx = some c → c.rings = []

/-- A request at a scratchpad changes neither memory nor a context's record, where its order point is not logged. -/
theorem State.scrAccess_keeps {r : Req} (hk : ∀ z, r.kind ≠ .rmw .csig z) (hr : s.Unlogged r.wave.blk.ctx) (ev : Instr) :
    (s.scrAccess ev r).mem = s.mem ∧ (s.scrAccess ev r).ctxs = s.ctxs := by
  unfold State.scrAccess
  split
  · exact ⟨State.refusePiece_mem .., s.refusePiece_ctxs ..⟩
  next b hb =>
  extract_lets lp old x perform
  have hp (u : State) : (perform u).1.mem = u.mem ∧ (perform u).1.ctxs = u.ctxs := by
    dsimp only [perform]
    split
    · next v hv =>
      have hv : v.mem = u.mem ∧ v.ctxs = u.ctxs := by
        split at hv
        · exact ⟨State.scrStore_mem _ _ _ _ _ _ _ hv, State.scrStore_ctxs hv⟩
        · cases hv
          exact ⟨rfl, rfl⟩
      exact ⟨(State.reqDone_mem ..).trans hv.1, (State.reqDone_ctxs hk ..).trans hv.2⟩
    · exact ⟨by simp, State.finishOp_ctxs (u.modOp r.op _) r.op⟩
  split
  · exact ⟨State.refusePiece_mem .., s.refusePiece_ctxs ..⟩
  · next u _ hu => exact ⟨State.waitRead_mem _ _ _ _ _ hu, State.waitRead_ctxs hu⟩
  · split
    · obtain ⟨l, hl⟩ := State.atPointLate_of_unlogged (s := s) (e := s.reqEv lp (optId 1 lp b.core.die b.core.core) r) hr ev
      rw [State.atPoint, hl]
      exact hp { s with held := l }
    · exact hp s

end

/-! ### A strong word's operation -/

/-- What the strong words of a memory word have in common. -/
structure IsStrongWord (w : MW) (s : State) (m : MemSpec) : Prop where
  runs : exec m.ins s = .next (s.memWord m)
  word : m.w = w
  strong : m.strong = true
  noSignal : ∀ z, m.req ≠ .rmw .csig z

theorem atomOp_ne_csig (n : Nat) : atomOp n ≠ .csig := by
  unfold atomOp
  split <;> nofun

theorem atomfOp_ne_csig (n : Nat) : atomfOp n ≠ .csig := by
  unfold atomfOp
  split <;> nofun

theorem redOp_ne_csig (n : Nat) : redOp n ≠ .csig := by
  unfold redOp
  split
  case h_6 => exact atomOp_ne_csig _
  all_goals nofun

theorem isStrongWord {w : MW} {s : State} {m : MemSpec} (hm : m ∈ strongWords w s) : IsStrongWord w s m := by
  have hop {o : Rmw} {y : Bool} (h : o ≠ .csig) : ∀ z, ReqKind.rmw o y ≠ .rmw .csig z := fun z he => h (ReqKind.rmw.inj he).1
  simp only [strongWords, List.mem_cons, List.not_mem_nil, or_false] at hm
  rcases hm with rfl | rfl | rfl | rfl | rfl | rfl | rfl | rfl
  · exact ⟨rfl, rfl, rfl, nofun⟩
  · exact ⟨rfl, rfl, rfl, nofun⟩
  · exact ⟨rfl, rfl, rfl, hop (atomOp_ne_csig _)⟩
  · exact ⟨rfl, rfl, rfl, nofun⟩
  · exact ⟨rfl, rfl, rfl, hop (atomfOp_ne_csig _)⟩
  · exact ⟨rfl, rfl, rfl, hop (redOp_ne_csig _)⟩
  · exact ⟨rfl, rfl, rfl, nofun⟩
  · refine ⟨rfl, rfl, rfl, fun z => ?_⟩
    dsimp only
    split <;> nofun

/-- The wave with the word counted on its flag (R206). -/
def Wave.counted (w : Wave) (i : Instr) : Wave := match w.flagOf i with | some f => w.flagUp f | none => w

/-- A strong word's operation in flight, with its word issued. -/
def State.strongIssued (s : State) (m : MemSpec) (ok bad : List Nat) (n : Nat) : State := (s.newOp m ok bad n .nc).2.issued m

section
variable {w : MW} {s t : State} {m : MemSpec} {ok bad : List Nat} {n : Nat}

theorem Wave.counted_frame (w : Wave) (i : Instr) : w.counted i = { w with flags := (w.counted i).flags } := by
  unfold Wave.counted
  split <;> rfl

theorem Wave.flag_counted (w : Wave) (i : Instr) (f : Nat) : (w.counted i).flag f = w.flag f + if w.flagOf i = some f then 1 else 0 := by
  unfold Wave.counted
  cases h : w.flagOf i with
  | none => rfl
  | some g =>
    dsimp only [Wave.flagUp, Wave.flag]
    rw [Tab.get_set]
    by_cases hg : f = g
    · simp [hg]
    · simp [hg, Ne.symm hg]

/-- A table filled from a function of the key holds its values. -/
theorem get_foldl_set {α : Type} [DecidableEq α] (d : α) (f : Nat → α) (ls : List Nat) (t : Tab α) (k : Nat) :
    (ls.foldl (fun t l => t.set d l (f l)) t).get d k = if k ∈ ls then f k else t.get d k := by
  induction ls generalizing t with
  | nil => rfl
  | cons l r ih =>
    rw [List.foldl_cons, ih, Tab.get_set]
    by_cases hk : k = l <;> by_cases hr : k ∈ r <;> simp [hk, hr]

/-- What a strong word has changed when it is issued: its flag, its base, and an operation more. -/
theorem State.strongIssued_frame (hm : IsStrongWord w s m) (ok bad : List Nat) (n : Nat) : ∃ o : Op,
    o.id = s.freshId ∧ o.ins = m.ins ∧ o.wave = s.wave.id ∧ o.flag = s.wave.flagOf m.ins ∧ o.left = n ∧ o.pol = .nc
    ∧ (∀ l ∈ m.lanes s, o.addr.get 0 l = m.addr l)
    ∧ s.strongIssued m ok bad n = { s with
        wave := (State.postInc { s with wave := s.wave.counted m.ins } w false).wave, seq := s.freshId, ops := s.ops ++ [o] } := by
  obtain ⟨o, hid, hins, hwave, hflag, hleft, hpol, haddr, hn⟩ : ∃ o : Op, o.id = s.freshId ∧ o.ins = m.ins ∧ o.wave = s.wave.id
      ∧ o.flag = s.wave.flagOf m.ins ∧ o.left = n ∧ o.pol = .nc
      ∧ o.addr = (m.lanes s).foldl (fun (t : Tab W64) l => t.set 0 l (m.addr l)) []
      ∧ (s.newOp m ok bad n .nc).2 = { s with seq := s.freshId, ops := s.ops ++ [o] } := ⟨_, rfl, rfl, rfl, rfl, rfl, rfl, rfl, rfl⟩
  refine ⟨o, hid, hins, hwave, hflag, hleft, hpol, fun l hl => ?_, ?_⟩
  · rw [haddr, get_foldl_set, if_pos hl]
  · let u : State := { s with wave := s.wave.counted m.ins, seq := s.freshId, ops := s.ops ++ [o] }
    have hu : s.strongIssued m ok bad n = u.postInc w false := by
      rw [State.strongIssued, hn, State.issued, hm.word, hm.strong]
      dsimp only [u, Wave.counted]
      cases s.wave.flagOf m.ins <;> rfl
    rw [hu, State.postInc_frame, State.postInc_congr (t := u) (s := { s with wave := s.wave.counted m.ins }) rfl]

theorem baseStepped_strongIssued (hm : IsStrongWord w s m) : BaseStepped w false s (s.strongIssued m ok bad n) := by
  obtain ⟨o, -, -, -, -, -, -, -, he⟩ := State.strongIssued_frame hm ok bad n
  have hb := baseStepped_postInc { s with wave := s.wave.counted m.ins } w false
  intro r hr
  have hbr := hb r hr
  rw [he]
  refine hbr.trans ?_
  dsimp only
  rw [Wave.counted_frame]
  rfl

theorem State.strongIssued_wave (hm : IsStrongWord w s m) :
    (s.strongIssued m ok bad n).wave = { s.wave with flags := (s.wave.counted m.ins).flags, a := (s.strongIssued m ok bad n).wave.a } := by
  obtain ⟨o, -, -, -, -, -, -, -, he⟩ := State.strongIssued_frame hm ok bad n
  rw [he]
  dsimp only
  rw [State.postInc_wave]
  dsimp only
  rw [Wave.counted_frame]

/-! ### A strong word's requests -/

variable {ps : List (Nat × Piece)}

theorem IsStrongWord.exec_of_none (hm : IsStrongWord w s m) (hl : m.lanes s = []) : exec m.ins s = .next (s.postInc w false) := by
  rw [hm.runs, State.memWord]
  simp only [hl, List.isEmpty_nil, if_true, hm.word, hm.strong, Bool.not_true]

theorem IsStrongWord.exec_of_some (hm : IsStrongWord w s m) (hf : m.faults (m.checks s) = []) (ha : m.misaligned s = [])
    (hp : okPieces (m.checks s) ≠ []) : ∃ bad, exec m.ins s = .next (s.strongAccess m (okLanes (m.checks s)) bad (okPieces (m.checks s))) := by
  have hl : m.lanes s ≠ [] := fun hl => hp (by simp only [MemSpec.checks, hl, List.map_nil, okPieces, List.flatMap_nil])
  refine ⟨(m.lanes s).filter fun l => !(okLanes (m.checks s)).contains l, ?_⟩
  rw [hm.runs, State.memWord]
  simp only [List.isEmpty_iff, hl, if_false, hf, ha, hm.strong, if_true]
  rfl

/-- The requests of a strong word, and the write-combining buffers of its core sent. -/
def State.strongAsks (s : State) (m : MemSpec) (ok bad : List Nat) (ps : List (Nat × Piece)) : List Req :=
  (s.strongIssued m ok bad ps.length).strongReqs m s.freshId (homesFirst ps)

def State.strongSent (s : State) (m : MemSpec) (ok bad : List Nat) (ps : List (Nat × Piece)) : State :=
  let u := s.strongIssued m ok bad ps.length
  ({ u with seq := u.seq + (s.strongAsks m ok bad ps).length } : State).sendAll s.wave.id

theorem State.strongAccess_eq (s : State) (m : MemSpec) (ok bad : List Nat) (ps : List (Nat × Piece)) :
    s.strongAccess m ok bad ps =
      let t := s.strongSent m ok bad ps
      let rs := s.strongAsks m ok bad ps
      let waits := t.relWaits s.wave.id s.freshId m.rel
      (if waits.isEmpty then rs.foldl State.sendStrong t else t.defer s.wave.id waits (rs.map reqSets)).settleOp s.freshId := rfl

/-- The operation that a strong word makes. -/
def MemSpec.makes (m : MemSpec) (s : State) (n : Nat) (o : Op) : Prop :=
  o.id = s.freshId ∧ o.ins = m.ins ∧ o.wave = s.wave.id ∧ o.flag = s.wave.flagOf m.ins ∧ o.left = n ∧ o.pol = .nc
  ∧ ∀ l ∈ m.lanes s, o.addr.get 0 l = m.addr l

/-- t is s with a strong word issued, its operation of n pieces in flight, and the write-combining buffers of its core sent. -/
structure StrongReady (w : MW) (s t : State) (m : MemSpec) (n : Nat) : Prop where
  frame : t = { s with wave := t.wave, seq := t.seq, ops := t.ops, cores := t.cores, pending := t.pending }
  wave : t.wave = { s.wave with flags := (s.wave.counted m.ins).flags, a := t.wave.a }
  base : BaseStepped w false s t
  ops : ∃ o, m.makes s n o ∧ t.ops = s.ops ++ [o]
  asks : t.cores.map Core.asks = s.cores.map Core.asks

theorem State.strongSent_ready (hm : IsStrongWord w s m) (ok bad : List Nat) (ps : List (Nat × Piece)) :
    StrongReady w s (s.strongSent m ok bad ps) m ps.length := by
  obtain ⟨o, hid, hins, hwave, hflag, hleft, hpol, haddr, he⟩ := State.strongIssued_frame hm ok bad ps.length
  have hw := State.strongIssued_wave (ok := ok) (bad := bad) (n := ps.length) hm
  have hb := baseStepped_strongIssued (ok := ok) (bad := bad) (n := ps.length) hm
  have hs (u : State) (i : WaveId) : u.sendAll i = u ∨ ∃ c, u.sendAll i = u.sendBufs c fun _ => true := by
    unfold State.sendAll
    split
    · exact .inr ⟨_, rfl⟩
    · exact .inl rfl
  unfold State.strongSent
  extract_lets u
  have hready (v : State) (hv : ∃ k cs es, v = { u with seq := k, cores := cs, pending := es })
      (ha : v.cores.map Core.asks = s.cores.map Core.asks) : StrongReady w s v m ps.length := by
    obtain ⟨k, cs, es, hv⟩ := hv
    have hvw : v.wave = u.wave := by rw [hv]
    refine ⟨?_, hvw ▸ hw, baseStepped_of_wave hvw hb, ⟨o, ⟨hid, hins, hwave, hflag, hleft, hpol, haddr⟩, ?_⟩, ha⟩
    · rw [hv]
      dsimp only [u]
      rw [he]
    · rw [hv]
      dsimp only [u]
      rw [he]
  have hcores : u.cores = s.cores := by
    dsimp only [u]
    rw [he]
  let v : State := { u with seq := u.seq + (s.strongAsks m ok bad ps).length }
  rcases hs v s.wave.id with h | ⟨c, h⟩
  · exact h ▸ hready v ⟨_, _, _, rfl⟩ (by rw [← hcores])
  · exact h ▸ hready (v.sendBufs c fun _ => true) ⟨_, _, _, v.sendBufs_frame c _⟩ (by rw [State.sendBufs_asks, ← hcores])

namespace StrongReady

variable (h : StrongReady w s t m n)
include h

theorem op? : ∃ o, m.makes s n o ∧ t.op? s.freshId = some o := by
  obtain ⟨o, ho, hops⟩ := h.ops
  have hid := ho.1
  refine ⟨o, ho, ?_⟩
  have hs : s.ops.find? (fun x => x.id == s.freshId) = none := s.op?_freshId
  rw [State.op?, hops, List.find?_append, hs]
  simp [hid]

theorem mem_eq : t.mem = s.mem := by rw [h.frame]

theorem ctxs_eq : t.ctxs = s.ctxs := by rw [h.frame]

theorem flag (f : Nat) : t.wave.flag f = s.wave.flag f + if s.wave.flagOf m.ins = some f then 1 else 0 := by
  rw [← Wave.flag_counted, h.wave]
  rfl

theorem ne_idle {c : Clause} (hc : s.wave.clause = some c) : t.wave ≠ Wave.idle :=
  State.wave_ne_idle (c := c) (by rw [h.wave]; exact hc)

/-- The core of a wave is the one it had. -/
theorem core_of_wave? {c : Clause} (hc : s.wave.clause = some c) {i : WaveId} {y : Wave} (hy : t.wave? i = some y) :
    ∃ x, s.wave? i = some x ∧ x.core = y.core := by
  have hid : t.wave.id = s.wave.id := by rw [h.wave]
  have hws : t.waves = s.waves := by rw [h.frame]
  unfold State.wave? at hy ⊢
  by_cases hi : s.wave.id = i
  · rw [if_pos ⟨hid.trans hi, h.ne_idle hc⟩] at hy
    rw [if_pos ⟨hi, State.wave_ne_idle hc⟩]
    refine ⟨_, rfl, ?_⟩
    rw [← Option.some.inj hy, h.wave]
  · rw [if_neg fun hn => hi (hid.symm.trans hn.1), hws] at hy
    rw [if_neg fun hn => hi hn.1]
    exact ⟨y, hy, rfl⟩

/-- An operation of t that the word may wait for is of s. -/
theorem mem_ops {o : Op} (ho : o ∈ t.ops) (hid : o.id ≠ s.freshId) : o ∈ s.ops := by
  obtain ⟨p, hp, hops⟩ := h.ops
  rw [hops, List.mem_append, List.mem_singleton] at ho
  rcases ho with ho | rfl
  · exact ho
  · exact absurd hp.1 hid

/-- A store in the core's buffers, or on its way from them, keeps them from being quiet. -/
theorem not_wcQuiet {c : Clause} (hc : s.wave.clause = some c) {core : CoreId} {i : Nat} (hi : i ∈ t.coreWc core) (hne : i ≠ s.freshId) :
    s.wcQuiet core = false := by
  obtain ⟨o, ho, rfl⟩ := List.mem_map.mp hi
  obtain ⟨hmem, hcond⟩ := List.mem_filter.mp ho
  simp only [Bool.and_eq_true, Bool.or_eq_true] at hcond
  obtain ⟨⟨hstore, hpol⟩, hwhere⟩ := hcond
  rw [State.wcQuiet, Bool.and_eq_false_iff]
  rcases hwhere with hbuf | hwave
  · left
    unfold State.buffered at hbuf
    split at hbuf
    · next k hk =>
      obtain ⟨f, hf, -⟩ := List.any_eq_true.mp hbuf
      obtain ⟨k', hk', hback⟩ := (asks_back h.asks).2 core k hk
      obtain ⟨f', hf', -⟩ := hback f hf
      rw [hk']
      exact List.isEmpty_eq_false_iff_exists_mem.mpr ⟨f', hf'⟩
    · cases hbuf
  · right
    have hin := h.mem_ops hmem hne
    simp only [Bool.not_eq_eq_eq_not, Bool.not_false, List.any_eq_true]
    refine ⟨o, hin, ?_⟩
    split at hwave
    · next y hy =>
      obtain ⟨x, hx, hxc⟩ := h.core_of_wave? hc hy
      simp only [hstore, hpol, hx, hxc, Bool.and_self, Bool.true_and]
      exact hwave
    · cases hwave

/-- What the word waits for: an earlier access of the wave, or a store in the core's buffers or on its way from them. -/
theorem waits_of {c : Clause} (hc : s.wave.clause = some c) {i : Nat} (hi : i ∈ t.relWaits s.wave.id s.freshId m.rel) :
    (m.rel = true ∧ ∃ o ∈ s.opsOf s.wave.id, o.awaited = true) ∨ s.wcQuiet s.wave.core = false := by
  obtain ⟨hi, hne⟩ := List.mem_filter.mp hi
  have hne : i ≠ s.freshId := by simpa using hne
  rw [List.mem_dedup, List.mem_append] at hi
  rcases hi with hown | hwc
  · left
    split at hown
    · next hrel =>
      obtain ⟨o, ho, rfl⟩ := List.mem_map.mp hown
      obtain ⟨ho, ha⟩ := List.mem_filter.mp ho
      obtain ⟨hmem, hw⟩ := List.mem_filter.mp ho
      exact ⟨hrel, o, List.mem_filter.mpr ⟨h.mem_ops hmem hne, hw⟩, ha⟩
    · cases hown
  · right
    split at hwc
    · next y hy =>
      obtain ⟨x, hx, hxc⟩ := h.core_of_wave? hc hy
      have hself : s.wave? s.wave.id = some s.wave := if_pos ⟨rfl, State.wave_ne_idle hc⟩
      obtain rfl : s.wave = x := Option.some.inj (hself.symm.trans hx)
      rw [hxc]
      exact h.not_wcQuiet hc hwc hne
    · cases hwc

end StrongReady

/-! ### The requests themselves -/

theorem exists_mem_zipIdx {α : Type} {l : List α} {a : α} (h : a ∈ l) (k : Nat) : ∃ i, (a, i) ∈ l.zipIdx k := by
  induction l generalizing k with
  | nil => cases h
  | cons b r ih =>
    rcases List.mem_cons.mp h with rfl | h
    · exact ⟨k, List.mem_cons_self⟩
    · obtain ⟨i, hi⟩ := ih h (k + 1)
      exact ⟨i, List.mem_cons_of_mem _ hi⟩

theorem mem_homesFirst {p : Nat × Piece} : p ∈ homesFirst ps ↔ p ∈ ps := by
  rw [homesFirst_eq, List.mem_append, List.mem_filter, List.mem_filter]
  cases atHome p <;> simp

/-- The request of a piece of the word, but for its place in the order. -/
def State.strongAsk (s : State) (m : MemSpec) (ok bad : List Nat) (n : Nat) (p : Nat × Piece) : Req :=
  (s.strongIssued m ok bad n).pieceReq m s.freshId p.1 p.2

theorem State.of_mem_strongAsks {r : Req} (hr : r ∈ s.strongAsks m ok bad ps) :
    ∃ p ∈ ps, ∃ k, r = { s.strongAsk m ok bad ps.length p with seq := k } := by
  obtain ⟨⟨p, i⟩, hx, rfl⟩ := List.mem_map.mp hr
  exact ⟨p, mem_homesFirst.mp (List.fst_mem_of_mem_zipIdx hx), _, rfl⟩

theorem State.mem_strongAsks {p : Nat × Piece} (hp : p ∈ ps) :
    ∃ k, { s.strongAsk m ok bad ps.length p with seq := k } ∈ s.strongAsks m ok bad ps := by
  obtain ⟨i, hi⟩ := exists_mem_zipIdx (mem_homesFirst.mpr hp) 0
  exact ⟨_, List.mem_map_of_mem hi⟩

theorem State.strongAsk_kind (hm : IsStrongWord w s m) (p : Nat × Piece) (z : Bool) : (s.strongAsk m ok bad n p).kind ≠ .rmw .csig z := by
  have hk : (s.strongAsk m ok bad n p).kind = match m.req with | .tryRead _ => .tryRead (m.arg p.1).toNat | k => k := by
    unfold State.strongAsk State.pieceReq
    dsimp only
    split <;> rfl
  rw [hk]
  split
  · nofun
  · exact hm.noSignal z

theorem State.strongAsk_wave (hm : IsStrongWord w s m) (p : Nat × Piece) : (s.strongAsk m ok bad n p).wave = s.wave.id := by
  have hw : (s.strongIssued m ok bad n).wave.id = s.wave.id := by rw [State.strongIssued_wave hm]
  rw [← hw]
  unfold State.strongAsk State.pieceReq
  dsimp only
  split <;> rfl

/-- What a request to a home asks. -/
theorem State.strongAsk_ia (hm : IsStrongWord w s m) {p : Nat × Piece} {a : Nat} {g : Range} (hp : p.2.spot = .ia a g) :
    let r := s.strongAsk m ok bad n p
    r.op = s.freshId ∧ r.lane = p.1 ∧ r.ia = a ∧ r.size = p.2.size ∧ r.pos = p.2.pos ∧ r.data = ((m.d1 p.1).drop p.2.pos).take p.2.size
      ∧ r.strong = true ∧ r.home = (s.pieceReq m 0 p.1 p.2).home := by
  obtain ⟨hop, -, hlane, hia, hsize, hpos, hdata, hstrong, -⟩ :=
    State.pieceReq_ia (s := s.strongIssued m ok bad n) (m := m) (id := s.freshId) (l := p.1) hp
  refine ⟨hop, hlane, hia, hsize, hpos, hdata, hstrong.trans hm.strong, ?_⟩
  obtain ⟨o, -, -, -, -, -, -, -, he⟩ := State.strongIssued_frame hm ok bad n
  have hw := State.strongIssued_wave (ok := ok) (bad := bad) (n := n) hm
  have hid : (s.strongIssued m ok bad n).wave.id = s.wave.id := by rw [hw]
  have hctx (i : Nat) : (s.strongIssued m ok bad n).ctx? i = s.ctx? i := by rw [he]; rfl
  have hsalt (x : Ctx) : (s.strongIssued m ok bad n).saltOf x = s.saltOf x := by rw [he]; rfl
  simp only [State.strongAsk, State.pieceReq, hp, hid, hctx, hsalt]

/-- Requests to homes set out as events of their own. -/
theorem State.foldl_sendStrong_of_homes {rs : List Req} (h : ∀ r ∈ rs, r.home.stack < 16) (t : State) :
    rs.foldl State.sendStrong t = t.due (rs.map .l2Request) := by
  induction rs generalizing t with
  | nil => simp [State.due]
  | cons r rs ih =>
    obtain ⟨hr, hrs⟩ := List.forall_mem_cons.mp h
    rw [List.foldl_cons, State.sendStrong, if_pos hr, ih hrs]
    simp [State.due]

/-- Requests that set out change neither memory nor a context's record, where no order point of the context is logged. -/
theorem State.foldl_sendStrong_keeps {ctx : Nat} {rs : List Req} (h : ∀ r ∈ rs, r.wave.blk.ctx = ctx ∧ ∀ z, r.kind ≠ .rmw .csig z) (t : State)
    (hu : t.Unlogged ctx) : (rs.foldl State.sendStrong t).mem = t.mem ∧ (rs.foldl State.sendStrong t).ctxs = t.ctxs := by
  induction rs generalizing t with
  | nil => exact ⟨rfl, rfl⟩
  | cons r rs ih =>
    obtain ⟨⟨hw, hk⟩, hrs⟩ := List.forall_mem_cons.mp h
    have h1 : (t.sendStrong r).mem = t.mem ∧ (t.sendStrong r).ctxs = t.ctxs := by
      unfold State.sendStrong
      split
      · exact ⟨rfl, rfl⟩
      split
      · exact ⟨rfl, rfl⟩
      · exact State.scrAccess_keeps hk (hw ▸ hu) _
    have hu' : (t.sendStrong r).Unlogged ctx := by rwa [State.Unlogged, State.ctx?, h1.2]
    obtain ⟨hmem, hctxs⟩ := ih hrs (t.sendStrong r) hu'
    exact ⟨hmem.trans h1.1, hctxs.trans h1.2⟩

/-! ### The word as a whole -/

theorem State.settleOp_of_left {i : Nat} {o : Op} (ho : s.op? i = some o) (hl : o.left ≠ 0) : s.settleOp i = s := by
  simp only [State.settleOp, ho, hl, ne_eq, not_false_eq_true, if_true]

/-- A word in flight in a state that has its wave and its operations. -/
theorem StrongReady.inFlight (h : StrongReady w s t m n) {u : State} (hw : u.wave = t.wave) (ho : u.ops = t.ops) : InFlight s u m := by
  obtain ⟨o, ⟨-, hins, hwave, hflag, -, -, haddr⟩, hop⟩ := h.op?
  exact ⟨o, by rw [State.op?, ho]; exact hop, hins, hwave, hflag, haddr, fun f => hw ▸ h.flag f⟩

/-- To homes the pieces of a strong word set out at once, or wait behind what the word must not pass. -/
theorem StrongReady.homes (h : StrongReady w s (s.strongSent m ok bad ps) m ps.length) (hm : IsStrongWord w s m) {c : Clause}
    (hc : s.wave.clause = some c) (hps : ps ≠ []) (hall : AllAtHomes ps)
    (hh : ∀ p ∈ ps, ∀ a g, p.2.spot = .ia a g → (s.pieceReq m 0 p.1 p.2).home.stack < 16) :
    let t := s.strongAccess m ok bad ps
    t.mem = s.mem ∧ InFlight s t m ∧ t.wave = (s.strongSent m ok bad ps).wave
      ∧ ∀ p ∈ ps, ∀ a g, p.2.spot = .ia a g → Asked s t m p.1 p.2 a ∨ AskedLater s t m p.1 p.2 a := by
  have hstack : ∀ r ∈ s.strongAsks m ok bad ps, r.home.stack < 16 := by
    intro r hr
    obtain ⟨p, hp, k, rfl⟩ := State.of_mem_strongAsks hr
    obtain ⟨a, g, hs⟩ := hall p hp
    obtain ⟨-, -, -, -, -, -, -, hhome⟩ := State.strongAsk_ia (ok := ok) (bad := bad) (n := ps.length) hm hs
    exact (congrArg HomeId.stack hhome).trans_lt (hh p hp a g hs)
  have hsettle (u : State) (ho : u.ops = (s.strongSent m ok bad ps).ops) : u.settleOp s.freshId = u := by
    obtain ⟨o, ⟨-, -, -, -, hleft, -⟩, hop⟩ := h.op?
    refine State.settleOp_of_left (o := o) (by rw [State.op?, ho]; exact hop) ?_
    rw [hleft]
    exact fun h0 => hps (List.eq_nil_of_length_eq_zero h0)
  intro t
  have ht : t = s.strongAccess m ok bad ps := rfl
  rw [State.strongAccess_eq] at ht
  extract_lets u rs waits at ht
  by_cases hw : waits.isEmpty = true
  · rw [if_pos hw, State.foldl_sendStrong_of_homes hstack, hsettle _ (by rfl)] at ht
    refine ⟨by rw [ht]; exact h.mem_eq, by rw [ht]; exact h.inFlight rfl rfl, by rw [ht]; rfl, fun p hp a g hs => .inl ?_⟩
    obtain ⟨k, hk⟩ := State.mem_strongAsks (m := m) (s := s) (ok := ok) (bad := bad) hp
    obtain ⟨hop, hlane, hia, hsize, hpos, hdata, hstrong, -⟩ := State.strongAsk_ia (ok := ok) (bad := bad) (n := ps.length) hm hs
    refine ⟨{ s.strongAsk m ok bad ps.length p with seq := k }, ?_, hop, State.strongAsk_wave hm p, hlane, hia, hsize, hpos, hdata, hstrong.trans hm.strong.symm⟩
    rw [ht]
    exact List.mem_append_right _ (List.mem_map_of_mem hk)
  · have hdefer : u.defer s.wave.id waits (rs.map reqSets) = { u with deferred := u.deferred ++ [⟨s.wave.id, waits, rs.map reqSets⟩] } :=
      if_neg hw
    rw [if_neg hw, hdefer, hsettle _ (by rfl)] at ht
    refine ⟨by rw [ht]; exact h.mem_eq, by rw [ht]; exact h.inFlight rfl rfl, by rw [ht], fun p hp a g hs => .inr ?_⟩
    have hne : waits ≠ [] := fun h0 => hw (by rw [h0]; rfl)
    obtain ⟨i, hi⟩ := List.exists_mem_of_ne_nil _ hne
    obtain ⟨k, hk⟩ := State.mem_strongAsks (m := m) (s := s) (ok := ok) (bad := bad) hp
    obtain ⟨hop, hlane, hia, hsize, hpos, hdata, hstrong, -⟩ := State.strongAsk_ia (ok := ok) (bad := bad) (n := ps.length) hm hs
    refine ⟨h.waits_of hc hi, ⟨s.wave.id, waits, rs.map reqSets⟩, ?_, rfl, hne, { s.strongAsk m ok bad ps.length p with seq := k }, ?_, hop, hlane, hia, hsize, hpos, hdata, hstrong⟩
    · rw [ht]
      exact List.mem_append_right _ List.mem_cons_self
    · exact List.mem_map.mpr ⟨_, hk, if_pos (hstack _ hk)⟩

/-- Where no order point of its context is logged, a strong word changes no memory as it is issued. -/
theorem StrongReady.mem_strongAccess (h : StrongReady w s (s.strongSent m ok bad ps) m ps.length) (hm : IsStrongWord w s m)
    (hu : s.Unlogged s.wave.id.blk.ctx) : (s.strongAccess m ok bad ps).mem = s.mem := by
  rw [State.strongAccess_eq]
  extract_lets u rs waits
  rw [State.settleOp_mem]
  split
  · have hrs : ∀ r ∈ rs, r.wave.blk.ctx = s.wave.id.blk.ctx ∧ ∀ z, r.kind ≠ .rmw .csig z := by
      intro r hr
      obtain ⟨p, -, k, rfl⟩ := State.of_mem_strongAsks hr
      exact ⟨congrArg (·.blk.ctx) (State.strongAsk_wave hm p), State.strongAsk_kind hm p⟩
    have huu : u.Unlogged s.wave.id.blk.ctx := by rwa [State.Unlogged, State.ctx?, h.ctxs_eq]
    exact (State.foldl_sendStrong_keeps hrs u huu).1.trans h.mem_eq
  · exact (State.defer_mem ..).trans h.mem_eq

end

/-- Settles O27: the word's operation is in flight once it is issued; its requests set out at once or wait, and none of them changes memory
as it does. -/
theorem strongWordsIssue : Obligations.StrongWordsIssue := by
  unfold Obligations.StrongWordsIssue
  intro s w c hc m hmem
  have hm := isStrongWord hmem
  refine ⟨fun hl => ⟨_, hm.exec_of_none hl, s.postInc_frame w false, baseStepped_postInc s w false, s.postInc_wave w false⟩, fun hf ha hp hh => ?_⟩
  obtain ⟨bad, he⟩ := hm.exec_of_some hf ha hp
  have hr := State.strongSent_ready hm (okLanes (m.checks s)) bad (okPieces (m.checks s))
  refine ⟨fun hall => ?_, fun hu => ⟨_, he, hr.mem_strongAccess hm hu⟩⟩
  obtain ⟨hmem, hfly, hwave, hasks⟩ := hr.homes hm hc hp hall hh
  refine ⟨_, he, hmem, hfly, baseStepped_of_wave hwave hr.base, ?_, hasks⟩
  rw [hwave, hr.wave]

end Sys2Proof.Machine

/-! ## Queues: what reading, advancing and holding one leave (O57) -/

namespace Sys2Proof.Machine

variable {s t u : State} {ctx q n : Nat} {c : Ctx} {x : Queue}

/-- The state with other contexts and due events. -/
def State.withCtxs (s : State) (cs : List Ctx) (ps : List Instr) : State := { s with ctxs := cs, pending := ps }

theorem State.egress_withCtxs (s : State) (cs : List Ctx) (ps : List Instr) (e : Entry) (ia n : Nat) (w : Option (List Byte)) :
    (s.withCtxs cs ps).egress e ia n w = (s.egress e ia n w).withCtxs cs ps := by
  unfold State.egress
  split <;> rfl

theorem State.frameSet_withCtxs (s : State) (cs : List Ctx) (ps : List Instr) (e : Entry) (ia : Nat) (bs : List Byte) :
    (s.withCtxs cs ps).frameSet e ia bs = (s.frameSet e ia bs).withCtxs cs ps := by
  have hc (u : State) : (u.withCtxs cs ps).copyTarget e = u.copyTarget e := rfl
  have hr : (((s.withCtxs cs ps).noteReuse e (e.key ia) bs.length).freshSectors (e.key ia) bs.length).memWrite (e.key ia) bs
    = (((s.noteReuse e (e.key ia) bs.length).freshSectors (e.key ia) bs.length).memWrite (e.key ia) bs).withCtxs cs ps := rfl
  unfold State.frameSet
  dsimp only
  rw [hr, hc]
  split <;> rfl

theorem State.framePut_withCtxs (s : State) (cs : List Ctx) (ps : List Instr) (e : Entry) (ia : Nat) (bs : List Byte) :
    (s.withCtxs cs ps).framePut e ia bs = (s.framePut e ia bs).withCtxs cs ps := by
  have hc : (s.withCtxs cs ps).copyTarget e = s.copyTarget e := rfl
  unfold State.framePut
  simp only [State.frameSet_withCtxs, State.egress_withCtxs, hc]
  split <;> rfl

theorem State.holdReq_withCtxs (s : State) (cs : List Ctx) (ps : List Instr) (e : Entry) (r : Req) :
    (s.withCtxs cs ps).holdReq e r = (s.holdReq e r).withCtxs cs ps := by
  unfold State.holdReq
  split <;> rfl

/-- Contexts and due events aside, a write of the Hub does the same. -/
theorem State.devPut_withCtxs (s : State) (cs : List Ctx) (ps : List Instr) (fn ia : Nat) (w : W64) :
    (s.withCtxs cs ps).devPut fn ia w = (s.devPut fn ia w).withCtxs cs ps := by
  unfold State.devPut State.devWrite
  have he : (s.withCtxs cs ps).devEntry? fn ia = s.devEntry? fn ia := rfl
  have hh (e : Entry) (k : Nat) : (s.withCtxs cs ps).pageHeld e ia k = s.pageHeld e ia k := rfl
  rw [he]
  cases s.devEntry? fn ia with
  | none => rfl
  | some e =>
    simp only [Option.map_some, Option.getD_some, hh, State.holdReq_withCtxs, State.framePut_withCtxs]
    split <;> rfl

theorem HubWrote.ctx? (h : HubWrote s t) (i : Nat) : t.ctx? i = s.ctx? i := by rw [State.ctx?, h.frame, State.ctx?]

/-- Reading a queue only makes events due. -/
theorem State.readQueue_eq (s : State) (ctx q : Nat) : ∃ l, s.readQueue ctx q = s.due l := by
  have h0 : ∃ l, s = s.due l := ⟨[], by simp [State.due]⟩
  unfold State.readQueue
  dsimp only
  split
  · exact h0
  split
  · exact h0
  split
  · exact h0
  split
  · split
    · exact ⟨_, rfl⟩
    · exact h0
  split
  · split
    · exact h0
    · exact ⟨_, rfl⟩
  split
  · exact ⟨_, rfl⟩
  split
  · exact ⟨_, rfl⟩
  split
  · exact h0
  split
  · exact ⟨_, rfl⟩
  · exact ⟨_, rfl⟩

theorem Ctx.queue?_modQueue (c : Ctx) (q : Nat) (f : Queue → Queue) (hf : ∀ x, (f x).num = x.num) :
    (c.modQueue q f).queue? q = (c.queue? q).map f :=
  find?_updFirst (fun x hx => by rw [hf]; exact hx) _

theorem Ctx.queue?_modQueue_some (hx : c.queue? q = some x) (f : Queue → Queue) (hf : ∀ x, (f x).num = x.num) :
    (c.modQueue q f).queue? q = some (f x) := by
  rw [Ctx.queue?_modQueue c q f hf, hx, Option.map_some]

/-! ### The queue goes on -/

theorem State.devPut_hubWrote (s : State) (fn ia : Nat) (w : W64) : HubWrote s (s.devPut fn ia w) := s.devWrite_getD_hubWrote ..

theorem State.devPut_modCtx (s : State) (i : Nat) (f : Ctx → Ctx) (fn ia : Nat) (w : W64) :
    (s.modCtx i f).devPut fn ia w = (s.devPut fn ia w).modCtx i f := by
  have h := s.devPut_hubWrote fn ia w
  have hc : (s.devPut fn ia w).ctxs = s.ctxs := by rw [h.frame]
  refine (s.devPut_withCtxs _ s.pending fn ia w).trans ?_
  rw [State.withCtxs, ← h.pending, State.modCtx, hc]

/-- The read index of a queue is written to its descriptor (R385). -/
def State.putRi (s : State) (ctx : Nat) (c : Ctx) (q ri : Nat) : State :=
  s.devPut (fnOf ctx) (c.desc + 640 + 32 * q + 16) (BitVec.ofNat 64 ri)

/-- The queue with its read index moved by n. -/
def Queue.past (x : Queue) (n : Nat) : Queue := { x with ri := (x.ri + n) % 2 ^ 32 }

/-- What advancing the queue by n leaves: the read index moved, in the descriptor too, and events due. -/
theorem State.advanceQueue_eq (hc : s.ctx? ctx = some c) (hx : c.queue? q = some x) (n : Nat) :
    ∃ l, s.advanceQueue ctx q n =
      ((s.putRi ctx c q (x.past n).ri).modQueue ctx q fun y => { y with ri := (x.past n).ri }).due l := by
  simp only [State.advanceQueue, hc, hx]
  obtain ⟨l, hl⟩ := State.readQueue_eq ((s.modQueue ctx q fun y => { y with ri := (x.past n).ri }).putRi ctx c q (x.past n).ri) ctx q
  refine ⟨l, hl.trans ?_⟩
  rw [State.modQueue, State.putRi, State.devPut_modCtx]
  rfl

theorem State.advanceQueue_ctx? (hc : s.ctx? ctx = some c) (hx : c.queue? q = some x) (n : Nat) :
    (s.advanceQueue ctx q n).ctx? ctx = some (c.modQueue q fun y => { y with ri := (x.past n).ri }) := by
  obtain ⟨l, hl⟩ := State.advanceQueue_eq hc hx n
  rw [hl]
  exact State.ctx?_modCtx_some (((s.devPut_hubWrote _ _ _).ctx? ctx).trans hc) _ fun _ => rfl

theorem State.advanceQueue_pending_subset (s : State) (ctx q n : Nat) : s.pending ⊆ (s.advanceQueue ctx q n).pending := by
  cases hc : s.ctx? ctx with
  | none => rw [State.advanceQueue, hc]; exact List.Subset.refl _
  | some c =>
    cases hx : c.queue? q with
    | none => simp only [State.advanceQueue, hc, hx]; exact List.Subset.refl _
    | some x =>
      obtain ⟨l, hl⟩ := State.advanceQueue_eq hc hx n
      rw [hl]
      exact fun e he => List.mem_append_left _ ((s.devPut_hubWrote _ _ _).pending.symm ▸ he)

/-- What an event of a queue leaves: the state, the context and the queue in it. -/
def Leaves (s t : State) (ctx q : Nat) (c : Ctx) (x : Queue) : Prop :=
  t.ctx? ctx = some c ∧ c.queue? q = some x ∧ s.pending ⊆ t.pending

/-- A queue that advances by n, from a state whose context has it. -/
theorem Leaves.advance (h : Leaves s t ctx q c x) (n : Nat) :
    Leaves s (t.advanceQueue ctx q n) ctx q (c.modQueue q fun y => { y with ri := (x.past n).ri }) (x.past n) := by
  obtain ⟨hc, hx, hp⟩ := h
  exact ⟨State.advanceQueue_ctx? hc hx n, Ctx.queue?_modQueue_some hx _ fun _ => rfl, List.Subset.trans hp (t.advanceQueue_pending_subset ctx q n)⟩

theorem Leaves.due (h : Leaves s t ctx q c x) (l : List Instr) : Leaves s (t.due l) ctx q c x :=
  ⟨h.1, h.2.1, List.Subset.trans h.2.2 (List.subset_append_left ..)⟩

theorem Leaves.read (h : Leaves s t ctx q c x) : Leaves s (t.readQueue ctx q) ctx q c x := by
  obtain ⟨l, hl⟩ := t.readQueue_eq ctx q
  rw [hl]
  exact h.due l

theorem Leaves.modQueue (h : Leaves s t ctx q c x) (f : Queue → Queue) (hf : ∀ x, (f x).num = x.num) :
    Leaves s (t.modQueue ctx q f) ctx q (c.modQueue q f) (f x) := by
  obtain ⟨hc, hx, hp⟩ := h
  exact ⟨State.ctx?_modCtx_some hc _ fun _ => rfl, Ctx.queue?_modQueue_some hx f hf, hp⟩

theorem Leaves.refl (hc : s.ctx? ctx = some c) (hx : c.queue? q = some x) : Leaves s s ctx q c x := ⟨hc, hx, List.Subset.refl _⟩

/-! ### Records -/

/-- A record of an invalid packet, with the type given, is due (R339, R340). -/
def Recorded (t : State) (ctx q typ : Nat) : Prop :=
  ∃ r, .trapRecordPost ctx r ∈ t.pending ∧ r.code = 0x17 ∧ r.sub = typ ∧ r.addr = BitVec.ofNat 64 q

theorem State.fromFirst_fields (s : State) (ctx : Nat) (r : TrapRec) :
    (s.fromFirst ctx r).code = r.code ∧ (s.fromFirst ctx r).sub = r.sub ∧ (s.fromFirst ctx r).addr = r.addr
      ∧ (s.fromFirst ctx r).lser = r.lser := by
  unfold State.fromFirst
  split <;> exact ⟨rfl, rfl, rfl, rfl⟩

theorem State.badPacket_recorded (s : State) (ctx q slot typ : Nat) : Recorded (s.badPacket ctx q slot typ) ctx q typ := by
  obtain ⟨hcode, hsub, haddr, -⟩ := s.fromFirst_fields ctx (ctxRecord 0x17 typ (BitVec.ofNat 64 q)
    (BitVec.ofNat 64 (slot % 2 ^ (match (s.ctx? ctx).bind fun c => c.queue? q with | some x => x.logs | none => 0))) 0 0)
  exact ⟨_, List.mem_append_right _ (List.mem_singleton.2 rfl), hcode, hsub, haddr⟩

theorem Recorded.mono {typ : Nat} (h : Recorded s ctx q typ) (hp : s.pending ⊆ t.pending) : Recorded t ctx q typ := by
  obtain ⟨r, hr, hf⟩ := h
  exact ⟨r, hp hr, hf⟩

theorem Leaves.badPacket (h : Leaves s t ctx q c x) (slot typ : Nat) : Leaves s (t.badPacket ctx q slot typ) ctx q c x := h.due _

/-! ### Conditions of a held queue -/

/-- The context is the same but for its queues. -/
def SameBut (c c' : Ctx) : Prop := ∃ qs, c' = { c with queues := qs }

section
variable {cs : List Ctx} {ps : List Instr} {c' : Ctx}

theorem State.homeAt_withCtxs (hc : s.ctx? ctx = some c) (hc' : (s.withCtxs cs ps).ctx? ctx = some c') (h : SameBut c c') (r : Range) (ia : Nat) :
    (s.withCtxs cs ps).homeAt ctx r ia = s.homeAt ctx r ia := by
  obtain ⟨qs, rfl⟩ := h
  simp only [State.homeAt, hc, hc']
  rfl

theorem State.ctxAt_withCtxs (hc : s.ctx? ctx = some c) (hc' : (s.withCtxs cs ps).ctx? ctx = some c') (h : SameBut c c')
    (va : W64) (n : Nat) (k : Kind) : (s.withCtxs cs ps).ctxAt ctx va n k = s.ctxAt ctx va n k := by
  obtain ⟨qs, rfl⟩ := h
  simp only [State.ctxAt, hc, hc']

theorem State.engFind_withCtxs (hc : s.ctx? ctx = some c) (hc' : (s.withCtxs cs ps).ctx? ctx = some c') (h : SameBut c c')
    (x : Xl) (n : Nat) (write : Bool) (det : Nat) : (s.withCtxs cs ps).engFind ctx x n write det = s.engFind ctx x n write det := by
  have hf (g : HomeId) (ia : Nat) : (s.withCtxs cs ps).homeFind ctx g ia = s.homeFind ctx g ia := rfl
  simp only [State.engFind, State.homeAt_withCtxs hc hc' h, hf]
  rfl

theorem State.condition_withCtxs (hc : s.ctx? ctx = some c) (hc' : (s.withCtxs cs ps).ctx? ctx = some c') (h : SameBut c c')
    (k : W64 × W64) : (s.withCtxs cs ps).condition ctx k = s.condition ctx k := by
  have hr (a n : Nat) : (s.withCtxs cs ps).memRead a n = s.memRead a n := rfl
  simp only [State.condition, State.ctxLoad, State.hubRead, State.ctxAt_withCtxs hc hc' h, State.engFind_withCtxs hc hc' h, hr]

theorem State.vaHeld_withCtxs (hc : s.ctx? ctx = some c) (hc' : (s.withCtxs cs ps).ctx? ctx = some c') (h : SameBut c c')
    (va : W64) (n : Nat) (k : Kind) : (s.withCtxs cs ps).vaHeld ctx va n k = s.vaHeld ctx va n k := by
  simp only [State.vaHeld, State.hubHeld, State.engHeld, State.ctxAt_withCtxs hc hc' h, State.homeAt_withCtxs hc hc' h]
  rfl

end

theorem HubWrote.homeAt (h : HubWrote s t) (i : Nat) (r : Range) (ia : Nat) : t.homeAt i r ia = s.homeAt i r ia := by
  rw [State.homeAt, h.ctx?, h.frame]
  rfl

theorem HubWrote.vaHeld (h : HubWrote s t) (i : Nat) (va : W64) (n : Nat) (k : Kind) : t.vaHeld i va n k = s.vaHeld i va n k := by
  simp only [State.vaHeld, State.hubHeld, State.engHeld, State.ctxAt, h.ctx?, h.homeAt, h.entry?, h.pageHeld]

/-! ### A held queue is read again (R340) -/

/-- The queue, no longer held. -/
def Queue.released (x : Queue) : Queue := { x with hold := [], met := false }

theorem Leaves.unhold (h : Leaves s t ctx q c x) :
    Leaves s (t.unholdQueue ctx q) ctx q (c.modQueue q Queue.released) x.released := (h.modQueue Queue.released fun _ => rfl).read

section
variable (hc : s.ctx? ctx = some c) (hx : c.queue? q = some x) (hlive : c.life = .live) (hhold : x.hold ≠ []) (hmet : x.met = false)
  (hva : ∀ h ∈ x.hold, s.vaHeld ctx h.1 8 .load = false)
include hc hx hlive hhold hmet hva

/-- What a look at the conditions comes to, by whether one's address fails and whether all are met. -/
theorem State.tryHold_eq : s.tryHold ctx q =
    if !(x.hold.any fun h => (s.condition ctx h).isNone) && !x.hold.all fun h => s.condition ctx h == some true then s
    else
      let t := if x.hold.any fun h => (s.condition ctx h).isNone then s.badPacket ctx q ((x.ri + 2 ^ 32 - 1) % 2 ^ 32) x.held else s
      if c.queuePkg ∈ c.off then
        (t.modQueue ctx q fun x => { x with met := true }).modCtx ctx fun c => { c with trig := c.trig ++ [(c.queuePkg, .event (.waitRecheck ctx q))] }
      else t.unholdQueue ctx q := by
  have hhold' : x.hold.isEmpty = false := by simpa [List.isEmpty_eq_false_iff] using hhold
  have hany : (x.hold.any fun h => s.vaHeld ctx h.1 8 .load) = false := by simpa using hva
  simp only [State.tryHold, hc, hx, hhold', hlive, hmet, hany, bne_self_eq_false, Bool.or_self, Bool.false_eq_true, if_false,
    List.contains_iff_mem]

theorem State.tryHold_of_met (hon : c.queuePkg ∉ c.off) (hall : ∀ h ∈ x.hold, s.condition ctx h = some true) :
    s.tryHold ctx q = s.unholdQueue ctx q := by
  have hbad : (x.hold.any fun h => (s.condition ctx h).isNone) = false := by
    simpa using fun a b h => by rw [hall _ h]; decide
  have hok : (x.hold.all fun h => s.condition ctx h == some true) = true := by simpa using hall
  rw [State.tryHold_eq hc hx hlive hhold hmet hva]
  simp only [hbad, hok, hon, Bool.not_true, Bool.not_false, Bool.and_false, Bool.false_eq_true, if_false]

theorem State.tryHold_of_met_off (hoff : c.queuePkg ∈ c.off) (hall : ∀ h ∈ x.hold, s.condition ctx h = some true) :
    s.tryHold ctx q = (s.modQueue ctx q fun x => { x with met := true }).modCtx ctx fun c =>
      { c with trig := c.trig ++ [(c.queuePkg, .event (.waitRecheck ctx q))] } := by
  have hbad : (x.hold.any fun h => (s.condition ctx h).isNone) = false := by
    simpa using fun a b h => by rw [hall _ h]; decide
  have hok : (x.hold.all fun h => s.condition ctx h == some true) = true := by simpa using hall
  rw [State.tryHold_eq hc hx hlive hhold hmet hva]
  simp only [hbad, hok, hoff, Bool.not_true, Bool.not_false, Bool.and_false, Bool.false_eq_true, if_false, if_true]

theorem State.tryHold_of_unmet (hsome : ∀ h ∈ x.hold, s.condition ctx h ≠ none) (hex : ∃ h ∈ x.hold, s.condition ctx h = some false) :
    s.tryHold ctx q = s := by
  have hbad : (x.hold.any fun h => (s.condition ctx h).isNone) = false := by
    simpa [Option.isSome_iff_ne_none] using fun a b h => hsome (a, b) h
  have hok : (x.hold.all fun h => s.condition ctx h == some true) = false := by
    obtain ⟨h, hm, hf⟩ := hex
    exact List.all_eq_false.2 ⟨h, hm, by rw [hf]; decide⟩
  rw [State.tryHold_eq hc hx hlive hhold hmet hva]
  simp only [hbad, hok, Bool.not_false, Bool.and_self, if_true]

theorem State.tryHold_of_bad (hon : c.queuePkg ∉ c.off) (hex : ∃ h ∈ x.hold, s.condition ctx h = none) :
    ∃ slot, s.tryHold ctx q = (s.badPacket ctx q slot x.held).unholdQueue ctx q := by
  have hbad : (x.hold.any fun h => (s.condition ctx h).isNone) = true := by
    obtain ⟨h, hm, hn⟩ := hex
    exact List.any_eq_true.2 ⟨h, hm, by rw [hn]; rfl⟩
  refine ⟨(x.ri + 2 ^ 32 - 1) % 2 ^ 32, ?_⟩
  rw [State.tryHold_eq hc hx hlive hhold hmet hva]
  simp only [hbad, hon, Bool.not_true, Bool.false_and, Bool.false_eq_true, if_false, if_true]

end

/-! ### A packet that holds its queue (R340) -/

/-- The queue past the packet and held by its conditions. -/
def Queue.heldBy (x : Queue) (p : Packet) (conds : List (W64 × W64)) : Queue := { x.past 1 with held := p.f 0 0 8, met := false, hold := conds }

theorem State.modQueue_modQueue_due (s : State) (ctx q : Nat) (f g : Queue → Queue) (l : List Instr) :
    ((s.modQueue ctx q f).modQueue ctx q g).due l = s.withCtxs ((s.modQueue ctx q f).modQueue ctx q g).ctxs (s.pending ++ l) := rfl

section
variable {p : Packet} {conds : List (W64 × W64)} (hc : s.ctx? p.ctx = some c) (hx : c.queue? p.q = some x)
include hc hx

/-- The state in which a held queue's conditions are read: but for contexts and due events, that of the written read index. -/
theorem State.held_leaves (conds : List (W64 × W64)) : ∃ u cs ps c', s.holdQueue p conds = u.tryHold p.ctx p.q
    ∧ u = (s.putRi p.ctx c p.q (x.past 1).ri).withCtxs cs ps ∧ SameBut c c' ∧ Leaves s u p.ctx p.q c' (x.heldBy p conds) := by
  let hold : Queue → Queue := fun y => { y with hold := conds, held := p.f 0 0 8, met := false }
  have h1 := ((Leaves.refl hc hx).modQueue hold fun _ => rfl)
  obtain ⟨l, hl⟩ := State.advanceQueue_eq h1.1 h1.2.1 1
  have hu : (s.modQueue p.ctx p.q hold).putRi p.ctx (c.modQueue p.q hold) p.q ((hold x).past 1).ri
      = (s.putRi p.ctx c p.q (x.past 1).ri).modQueue p.ctx p.q hold := s.devPut_modCtx _ _ _ _ _
  rw [hu, State.modQueue_modQueue_due] at hl
  exact ⟨_, _, _, _, rfl, hl, ⟨_, rfl⟩, h1.advance 1⟩

variable (hlive : c.life = .live) (hon : c.queuePkg ∉ c.off)
  (hva : ∀ h ∈ conds, s.vaHeld p.ctx h.1 8 .load = false)
include hlive hon hva

/-- The hypotheses of a look at the conditions hold where they are first read. -/
theorem State.holdQueue_look : ∃ u c', s.holdQueue p conds = u.tryHold p.ctx p.q ∧ Leaves s u p.ctx p.q c' (x.heldBy p conds)
    ∧ c'.life = .live ∧ c'.queuePkg ∉ c'.off ∧ (∀ h ∈ conds, u.vaHeld p.ctx h.1 8 .load = false)
    ∧ ∀ k, u.condition p.ctx k = (s.putRi p.ctx c p.q (x.past 1).ri).condition p.ctx k := by
  obtain ⟨u, cs, ps, c', ht, hu, hb, hl⟩ := State.held_leaves hc hx conds
  have hw := s.devPut_hubWrote (fnOf p.ctx) (c.desc + 640 + 32 * p.q + 16) (BitVec.ofNat 64 (x.past 1).ri)
  have hch : (s.putRi p.ctx c p.q (x.past 1).ri).ctx? p.ctx = some c := (hw.ctx? _).trans hc
  have hcu := hl.1
  rw [hu] at hcu
  refine ⟨u, c', ht, hl, ?_, ?_, fun h hm => ?_, fun k => ?_⟩
  · obtain ⟨qs, rfl⟩ := hb
    exact hlive
  · obtain ⟨qs, rfl⟩ := hb
    exact hon
  · rw [hu, State.vaHeld_withCtxs hch hcu hb]
    exact (hw.vaHeld _ _ _ _).trans (hva h hm)
  · rw [hu, State.condition_withCtxs hch hcu hb]

variable (hne : conds ≠ [])
include hne

theorem State.holdQueue_of_met (hall : ∀ k ∈ conds, (s.putRi p.ctx c p.q (x.past 1).ri).condition p.ctx k = some true) :
    ∃ c', Leaves s (s.holdQueue p conds) p.ctx p.q c' (x.heldBy p []) := by
  obtain ⟨u, c', ht, hl, hlive', hon', hva', hcond⟩ := State.holdQueue_look hc hx hlive hon hva
  rw [ht, State.tryHold_of_met hl.1 hl.2.1 hlive' hne rfl hva' hon' fun k hk => (hcond k).trans (hall k hk)]
  exact ⟨_, hl.unhold⟩

theorem State.holdQueue_of_unmet (hsome : ∀ k ∈ conds, (s.putRi p.ctx c p.q (x.past 1).ri).condition p.ctx k ≠ none)
    (hex : ∃ k ∈ conds, (s.putRi p.ctx c p.q (x.past 1).ri).condition p.ctx k = some false) :
    ∃ c', Leaves s (s.holdQueue p conds) p.ctx p.q c' (x.heldBy p conds) := by
  obtain ⟨u, c', ht, hl, hlive', hon', hva', hcond⟩ := State.holdQueue_look hc hx hlive hon hva
  rw [ht, State.tryHold_of_unmet hl.1 hl.2.1 hlive' hne rfl hva' (fun k hk => by rw [hcond]; exact hsome k hk)
    (by obtain ⟨k, hk, hf⟩ := hex; exact ⟨k, hk, (hcond k).trans hf⟩)]
  exact ⟨_, hl⟩

theorem State.holdQueue_of_bad (hex : ∃ k ∈ conds, (s.putRi p.ctx c p.q (x.past 1).ri).condition p.ctx k = none) :
    ∃ c', Leaves s (s.holdQueue p conds) p.ctx p.q c' (x.heldBy p []) ∧ Recorded (s.holdQueue p conds) p.ctx p.q (p.f 0 0 8) := by
  obtain ⟨u, c', ht, hl, hlive', hon', hva', hcond⟩ := State.holdQueue_look hc hx hlive hon hva
  obtain ⟨slot, hslot⟩ := State.tryHold_of_bad hl.1 hl.2.1 hlive' hne rfl hva' hon'
    (by obtain ⟨k, hk, hn⟩ := hex; exact ⟨k, hk, (hcond k).trans hn⟩)
  rw [ht, hslot]
  have hbad := hl.badPacket slot (x.heldBy p conds).held
  exact ⟨_, hbad.unhold, (State.badPacket_recorded ..).mono (Leaves.unhold ⟨hbad.1, hbad.2.1, List.Subset.refl _⟩).2.2⟩

end

end Sys2Proof.Machine

/-! ## Packets at their turn (O57) -/

namespace Sys2Proof.Machine

variable {s t u : State} {ctx q n : Nat} {p : Packet} {c : Ctx} {x : Queue}

/-- The event completes, and the queue of the packet is then as P says. -/
def QueueAfter (s : State) (p : Packet) (i : Instr) (P : State → Ctx → Queue → Prop) : Prop :=
  ∃ t c' x', exec i s = .next t ∧ t.ctx? p.ctx = some c' ∧ c'.queue? p.q = some x' ∧ P t c' x'

theorem Leaves.after {i : Instr} {P : State → Ctx → Queue → Prop} (he : exec i s = .next t) (h : Leaves u t p.ctx p.q c x) (hP : P t c x) :
    QueueAfter s p i P := ⟨t, c, x, he, h.1, h.2.1, hP⟩

/-! ### Doorbells (R386) -/

section
variable (hc : s.ctx? p.ctx = some c) (hx : c.queue? p.q = some x)
include hc hx

theorem queueDoorbell_sets {f : Fn} {wi : Nat} (hf : s.fn? (fnOf p.ctx) = some f)
    (hle : (wi % 2 ^ 32 + 2 ^ 32 - x.ri) % 2 ^ 32 ≤ 2 ^ x.logs) :
    QueueAfter s p (.queueDoorbell (fnOf p.ctx) (p.ctx % 1024) p.q wi) fun t _ x' => t.mem = s.mem ∧ x' = { x with wi := wi % 2 ^ 32 } := by
  have hid : fnOf p.ctx * 1024 + p.ctx % 1024 % 1024 = p.ctx := by unfold fnOf; omega
  refine (((Leaves.refl hc hx).modQueue (fun y => { y with wi := wi % 2 ^ 32 }) fun _ => rfl).read).after ?_ ⟨by simp, rfl⟩
  show execQueueDoorbell _ _ _ _ s = _
  simp only [execQueueDoorbell, hf, hid, hc, hx, gt_iff_lt, if_neg (Nat.not_lt.2 hle), Option.isNone_some, Bool.false_eq_true, if_false]

theorem queueDoorbell_refused {f : Fn} {wi : Nat} (hf : s.fn? (fnOf p.ctx) = some f)
    (hgt : 2 ^ x.logs < (wi % 2 ^ 32 + 2 ^ 32 - x.ri) % 2 ^ 32) :
    QueueAfter s p (.queueDoorbell (fnOf p.ctx) (p.ctx % 1024) p.q wi)
      fun t _ x' => t.mem = s.mem ∧ x' = x ∧ Recorded t p.ctx p.q 0 := by
  have hid : fnOf p.ctx * 1024 + p.ctx % 1024 % 1024 = p.ctx := by unfold fnOf; omega
  refine ((Leaves.refl hc hx).badPacket 0 0).after ?_ ⟨rfl, rfl, State.badPacket_recorded ..⟩
  show execQueueDoorbell _ _ _ _ s = _
  simp only [execQueueDoorbell, hf, hid, hc, hx, gt_iff_lt, if_pos hgt, Option.isNone_some, Bool.false_eq_true, if_false]

end

/-! ### Packets that the queue passes at once -/

section
variable (hc : s.ctx? p.ctx = some c) (hx : c.queue? p.q = some x) (hlive : c.life = .live) (hri : x.ri = p.slot) (hhold : x.hold = [])
include hc hx hlive hri hhold

/-- A packet at its turn is acted on. -/
theorem State.atPacket_eq (f : State → Ctx → Queue → State) : s.atPacket p f = f s c x := by
  simp only [State.atPacket, hc, hx, hlive, hri, hhold, bne_self_eq_false, List.isEmpty_nil, Bool.not_true, Bool.or_self,
    Bool.false_eq_true, if_false]

theorem invalidPacket_recorded :
    QueueAfter s p (.invalidPacket p) fun t _ x' => x' = x.past 1 ∧ Recorded t p.ctx p.q (p.f 0 0 8) := by
  have hl := (Leaves.refl hc hx).badPacket p.slot (p.f 0 0 8)
  refine (hl.advance 1).after ?_ ⟨rfl, (State.badPacket_recorded ..).mono (State.advanceQueue_pending_subset ..)⟩
  exact congrArg Host.Outcome.next (State.atPacket_eq hc hx hlive hri hhold _)

theorem phase_begins :
    QueueAfter s p (.phase p) fun _ _ x' => x' = { x.past 1 with phase := (x.phase + 1) % 2 ^ 32 } := by
  have hl := (Leaves.refl hc hx).modQueue (fun y => { y with phase := (y.phase + 1) % 2 ^ 32 }) fun _ => rfl
  exact (hl.advance 1).after (congrArg Host.Outcome.next (State.atPacket_eq hc hx hlive hri hhold _)) rfl

theorem leaseHint_asks :
    let iv : Interval := ⟨p.f 1 57 2, p.f 1 0 57, p.f 2 0 32, false⟩
    QueueAfter s p (.leaseHint p) fun t _ x' => x' = x.past 1
      ∧ (∀ ls, s.leaseReqs c ⟨c.id, false, 0, 0⟩ 0 0 iv = .ok ls → ∀ l ∈ ls, .leaseRequest { l with hint := true } ∈ t.pending)
      ∧ (∀ va, s.leaseReqs c ⟨c.id, false, 0, 0⟩ 0 0 iv = .error va → Recorded t p.ctx p.q 6) := by
  intro iv
  have he : exec (.leaseHint p) s = _ := congrArg Host.Outcome.next (State.atPacket_eq hc hx hlive hri hhold _)
  dsimp only at he
  cases hr : s.leaseReqs c ⟨c.id, false, 0, 0⟩ 0 0 iv with
  | error va =>
    rw [hr] at he
    refine (((Leaves.refl hc hx).badPacket p.slot 6).advance 1).after he ⟨rfl, nofun, fun _ _ => ?_⟩
    exact (State.badPacket_recorded ..).mono (State.advanceQueue_pending_subset ..)
  | ok ls =>
    rw [hr] at he
    refine (((Leaves.refl hc hx).due _).advance 1).after he ⟨rfl, fun ls' h l hl => ?_, nofun⟩
    cases h
    exact State.advanceQueue_pending_subset _ _ _ _ (List.mem_append_right _ (List.mem_map.2 ⟨l, hl, rfl⟩))

theorem signal_waits :
    let open_ := (c.launches.filter fun l => l.q == p.q && !l.ended).map (·.id)
    QueueAfter s p (.signal p) fun t _ x' => (open_ = [] → x' = x.past 1 ∧ .signalFire p ∈ t.pending)
      ∧ (open_ ≠ [] → x' = { x.past 1 with sigs := x.sigs ++ [(p, open_)] }) := by
  intro open_
  have he : exec (.signal p) s = _ := congrArg Host.Outcome.next (State.atPacket_eq hc hx hlive hri hhold _)
  dsimp only at he
  by_cases ho : open_ = []
  · rw [if_pos (List.isEmpty_iff.2 ho)] at he
    refine (((Leaves.refl hc hx).due _).advance 1).after he ⟨fun _ => ⟨rfl, ?_⟩, fun h => absurd ho h⟩
    exact State.advanceQueue_pending_subset _ _ _ _ (List.mem_append_right _ (List.mem_singleton.2 rfl))
  · rw [if_neg (mt List.isEmpty_iff.1 ho)] at he
    have hl := (Leaves.refl hc hx).modQueue (fun y => { y with sigs := y.sigs ++ [(p, open_)] }) fun _ => rfl
    exact (hl.advance 1).after he ⟨fun h => absurd h ho, fun _ => rfl⟩

/-! ### Bindings (R371, R372) -/

theorem bind_places :
    let b := s.bindingOf p
    QueueAfter s p (.bind p) fun t c' x' => x' = x.past 1 ∧ (s.bindOk c b = true → c'.binds = c.binds ++ [b])
      ∧ (s.bindOk c b = false → c'.binds = c.binds ∧ Recorded t p.ctx p.q 5) := by
  intro b
  have he : exec (.bind p) s = _ := congrArg Host.Outcome.next (State.atPacket_eq hc hx hlive hri hhold _)
  dsimp only at he
  cases hb : s.bindOk c b with
  | true =>
    rw [if_pos hb, State.ctx?_id s hc] at he
    have hl : Leaves s (s.modCtx p.ctx fun c => { c with binds := c.binds ++ [b] }) p.ctx p.q { c with binds := c.binds ++ [b] } x :=
      ⟨State.ctx?_modCtx_some hc _ fun _ => rfl, hx, List.Subset.refl _⟩
    exact (hl.advance 1).after he ⟨rfl, fun _ => rfl, nofun⟩
  | false =>
    rw [if_neg (by rw [hb]; decide)] at he
    refine (((Leaves.refl hc hx).badPacket p.slot 5).advance 1).after he ⟨rfl, nofun, fun _ => ⟨rfl, ?_⟩⟩
    exact (State.badPacket_recorded ..).mono (State.advanceQueue_pending_subset ..)

section
variable (h8 : p.f 0 8 8 = 0) (h32 : p.f 0 32 20 = 0) (h53 : p.f 0 53 11 = 0) (hz : p.zeros 1 8 = true)

theorem unbind_unknown (hb : c.bind? (p.f 0 16 16) = none) :
    QueueAfter s p (.unbind p) fun t c' x' => x' = x.past 1 ∧ c'.binds = c.binds ∧ Recorded t p.ctx p.q 5 := by
  have he : exec (.unbind p) s = _ := congrArg Host.Outcome.next (State.atPacket_eq hc hx hlive hri hhold _)
  simp only [hb] at he
  refine (((Leaves.refl hc hx).badPacket p.slot 5).advance 1).after he ⟨rfl, rfl, ?_⟩
  exact (State.badPacket_recorded ..).mono (State.advanceQueue_pending_subset ..)

include h8 h32 h53 hz

theorem unbind_removes {b : Binding} (hb : c.bind? (p.f 0 16 16) = some b) (hdone : b.failed = true ∨ s.bindIdle p.ctx b = true) :
    QueueAfter s p (.unbind p) fun _ c' x' => x' = x.past 1 ∧ c'.binds = c.binds.filter fun y => y.buf != p.f 0 16 16 := by
  have he : exec (.unbind p) s = _ := congrArg Host.Outcome.next (State.atPacket_eq hc hx hlive hri hhold _)
  have hd : (b.failed || s.bindIdle p.ctx b) = true := by simpa using hdone
  simp only [hb, h8, h32, h53, hz, hd, State.ctx?_id s hc, BEq.rfl, Bool.and_self, Bool.not_true, Bool.false_eq_true, if_false, if_true] at he
  have hl : Leaves s (s.modCtx p.ctx fun c => { c with binds := c.binds.filter fun y => y.buf != p.f 0 16 16 }) p.ctx p.q
      { c with binds := c.binds.filter fun y => y.buf != p.f 0 16 16 } x :=
    ⟨State.ctx?_modCtx_some hc _ fun _ => rfl, hx, List.Subset.refl _⟩
  exact (hl.advance 1).after he ⟨rfl, rfl⟩

theorem unbind_waits {b : Binding} (hb : c.bind? (p.f 0 16 16) = some b) (hf : b.failed = false) (hi : s.bindIdle p.ctx b = false) :
    exec (.unbind p) s = .next { s with pending := s.pending ++ [.unbind p] } := by
  have he : exec (.unbind p) s = _ := congrArg Host.Outcome.next (State.atPacket_eq hc hx hlive hri hhold _)
  simp only [hb, h8, h32, h53, hz, hf, hi, BEq.rfl, Bool.and_self, Bool.not_true, Bool.or_self, Bool.false_eq_true, if_false] at he
  exact he

end
end

end Sys2Proof.Machine

/-! ## Packets that hold their queue, and held queues (O57) -/

namespace Sys2Proof.Machine

variable {s t u : State} {ctx q n : Nat} {p : Packet} {c : Ctx} {x : Queue}

/-- A queue that no condition holds, past a WAIT or BARRIER-AND that is complete. -/
theorem Queue.heldBy_nil (hhold : x.hold = []) : x.heldBy p [] = { x with ri := (x.ri + 1) % 2 ^ 32, held := p.f 0 0 8, met := false } := by
  rw [Queue.heldBy, ← hhold]
  rfl

section
variable (hc : s.ctx? p.ctx = some c) (hx : c.queue? p.q = some x) (hlive : c.life = .live) (hri : x.ri = p.slot) (hhold : x.hold = [])
  (hon : c.queuePkg ∉ c.off)
include hc hx hlive hri hhold hon

/-- A packet that holds its queue by conditions whose homes hold nothing. -/
theorem hold_outcomes {i : Instr} {conds : List (W64 × W64)}
    (he : exec i s = .next (s.atPacket p fun s _ _ => s.holdQueue p conds)) (hne : conds ≠ [])
    (hva : ∀ h ∈ conds, s.vaHeld p.ctx h.1 8 .load = false) :
    let home := s.putRi p.ctx c p.q (x.past 1).ri
    let gone := { x with ri := (x.ri + 1) % 2 ^ 32, held := p.f 0 0 8, met := false }
    ((∀ k ∈ conds, home.condition p.ctx k = some true) → QueueAfter s p i fun _ _ x' => x' = gone)
    ∧ ((∀ k ∈ conds, home.condition p.ctx k ≠ none) → (∃ k ∈ conds, home.condition p.ctx k = some false) →
      QueueAfter s p i fun _ _ x' => x' = { gone with hold := conds })
    ∧ ((∃ k ∈ conds, home.condition p.ctx k = none) → QueueAfter s p i fun t _ x' => x' = gone ∧ Recorded t p.ctx p.q (p.f 0 0 8)) := by
  rw [State.atPacket_eq hc hx hlive hri hhold] at he
  refine ⟨fun hall => ?_, fun hsome hex => ?_, fun hex => ?_⟩
  · obtain ⟨c', hl⟩ := State.holdQueue_of_met hc hx hlive hon hva hne hall
    exact hl.after he (Queue.heldBy_nil hhold)
  · obtain ⟨c', hl⟩ := State.holdQueue_of_unmet hc hx hlive hon hva hne hsome hex
    exact hl.after he rfl
  · obtain ⟨c', hl, hr⟩ := State.holdQueue_of_bad hc hx hlive hon hva hne hex
    exact hl.after he ⟨Queue.heldBy_nil hhold, hr⟩

end

/-! ### Held queues (R340, R357) -/

section
variable (hc : s.ctx? p.ctx = some c) (hx : c.queue? p.q = some x) (hlive : c.life = .live) (hhold : x.hold ≠ [])
include hc hx hlive hhold

omit hlive in
theorem waitRecheck_eq : exec (.waitRecheck p.ctx p.q) s = .next (s.tryHold p.ctx p.q) := by
  show execWaitRecheck p.ctx p.q s = _
  simp only [execWaitRecheck, hc, hx, Option.bind_some, List.isEmpty_iff, if_neg hhold]

theorem waitRecheck_of_met (hon : c.queuePkg ∉ c.off) (hmet : x.met = true) :
    QueueAfter s p (.waitRecheck p.ctx p.q) fun t _ x' => t.mem = s.mem ∧ x' = { x with hold := [], met := false } := by
  have ht : s.tryHold p.ctx p.q = s.unholdQueue p.ctx p.q := by
    have hhold' : x.hold.isEmpty = false := by simpa [List.isEmpty_eq_false_iff] using hhold
    simp only [State.tryHold, hc, hx, hlive, hmet, hhold', bne_self_eq_false, Bool.or_self, Bool.false_eq_true, if_false, if_true,
      List.contains_iff_mem, hon]
  exact (Leaves.refl hc hx).unhold.after ((waitRecheck_eq hc hx hhold).trans (by rw [ht])) ⟨by simp [State.unholdQueue], rfl⟩

variable (hmet : x.met = false) (hva : ∀ h ∈ x.hold, s.vaHeld p.ctx h.1 8 .load = false)
include hmet hva

theorem waitRecheck_goesOn (hon : c.queuePkg ∉ c.off) (hall : ∀ h ∈ x.hold, s.condition p.ctx h = some true) :
    QueueAfter s p (.waitRecheck p.ctx p.q) fun t _ x' => t.mem = s.mem ∧ x' = { x with hold := [], met := false } :=
  (Leaves.refl hc hx).unhold.after
    ((waitRecheck_eq hc hx hhold).trans (by rw [State.tryHold_of_met hc hx hlive hhold hmet hva hon hall])) ⟨by simp [State.unholdQueue], rfl⟩

theorem waitRecheck_holds (hsome : ∀ h ∈ x.hold, s.condition p.ctx h ≠ none) (hex : ∃ h ∈ x.hold, s.condition p.ctx h = some false) :
    QueueAfter s p (.waitRecheck p.ctx p.q) fun t _ x' => t.mem = s.mem ∧ x' = x :=
  (Leaves.refl hc hx).after
    ((waitRecheck_eq hc hx hhold).trans (by rw [State.tryHold_of_unmet hc hx hlive hhold hmet hva hsome hex])) ⟨rfl, rfl⟩

theorem waitRecheck_records (hon : c.queuePkg ∉ c.off) (hex : ∃ h ∈ x.hold, s.condition p.ctx h = none) :
    QueueAfter s p (.waitRecheck p.ctx p.q)
      fun t _ x' => t.mem = s.mem ∧ x' = { x with hold := [], met := false } ∧ Recorded t p.ctx p.q x.held := by
  obtain ⟨slot, hslot⟩ := State.tryHold_of_bad hc hx hlive hhold hmet hva hon hex
  have hl := (Leaves.refl hc hx).badPacket slot x.held
  refine hl.unhold.after ((waitRecheck_eq hc hx hhold).trans (by rw [hslot])) ⟨by simp [State.unholdQueue], rfl, ?_⟩
  exact (State.badPacket_recorded ..).mono (Leaves.unhold ⟨hl.1, hl.2.1, List.Subset.refl _⟩).2.2

/-- While the context is switched off, the completion is recorded. -/
theorem waitRecheck_off (hoff : c.queuePkg ∈ c.off) (hall : ∀ h ∈ x.hold, s.condition p.ctx h = some true) :
    QueueAfter s p (.waitRecheck p.ctx p.q) fun t c' x' => t.mem = s.mem ∧ x' = { x with met := true }
      ∧ c'.trig = c.trig ++ [(c.queuePkg, .event (.waitRecheck p.ctx p.q))] := by
  have hl := (Leaves.refl hc hx).modQueue (fun y => { y with met := true }) fun _ => rfl
  have ht := State.ctx?_modCtx_some hl.1 (fun c => { c with trig := c.trig ++ [(c.queuePkg, .event (.waitRecheck p.ctx p.q))] }) fun _ => rfl
  exact ⟨_, _, _, (waitRecheck_eq hc hx hhold).trans (by rw [State.tryHold_of_met_off hc hx hlive hhold hmet hva hoff hall]), ht, hl.2.1,
    rfl, rfl, rfl⟩

end

end Sys2Proof.Machine

/-! ## SIGNAL_FIRE (O57) -/

namespace Sys2Proof.Machine

variable {s t u : State} {ctx q n : Nat} {p : Packet} {c : Ctx} {x : Queue}

/-! ### What the homes of a span answer -/

theorem State.entry?_of_homeFind {g : HomeId} {ia : Nat} {e : Entry} (h : s.homeFind ctx g ia = .ok e) : s.entry? g ia = some e := by
  unfold State.homeFind at h
  cases he : s.entry? g ia with
  | none =>
    rw [he] at h
    split_ifs at h
  | some e' =>
    rw [he] at h
    dsimp only at h
    split_ifs at h
    cases h
    rfl

/-- What the homes answer for a span are the entries of its sectors. -/
theorem State.engFind_mem {r : Xl} {write : Bool} {det : Nat} {l : List (Nat × Nat × Entry)} (h : s.engFind ctx r n write det = .ok l) :
    ∀ y ∈ l, (y.1, y.2.1) ∈ secsOf r.ia n ∧ s.homeFind ctx (s.homeAt ctx r.rng y.1) y.1 = .ok y.2.2 := by
  unfold State.engFind at h
  suffices hf : ∀ (ps : List (Nat × Nat)) (acc : Except EngErr (List (Nat × Nat × Entry))), (∀ q ∈ ps, q ∈ secsOf r.ia n) →
      (∀ l, acc = .ok l → ∀ y ∈ l, (y.1, y.2.1) ∈ secsOf r.ia n ∧ s.homeFind ctx (s.homeAt ctx r.rng y.1) y.1 = .ok y.2.2) →
      ∀ l, ps.foldl _ acc = .ok l → ∀ y ∈ l, (y.1, y.2.1) ∈ secsOf r.ia n ∧ s.homeFind ctx (s.homeAt ctx r.rng y.1) y.1 = .ok y.2.2 from
    hf _ _ (fun _ => id) (fun l hl => by cases hl; exact nofun) l h
  intro ps
  induction ps with
  | nil => exact fun acc _ hacc l hl => hacc l hl
  | cons q ps ih =>
    intro acc hq hacc l hl
    refine ih _ (fun y hy => hq y (List.mem_cons_of_mem _ hy)) ?_ l hl
    intro l' hl'
    cases acc with
    | error e => cases hl'
    | ok l0 =>
      dsimp only at hl'
      split at hl'
      · cases hl'
      · cases hl'
      · next e he =>
        split at hl'
        · cases hl'
        · cases hl'
          intro y hy
          rcases List.mem_append.1 hy with hy | hy
          · exact hacc l0 rfl y hy
          · cases List.mem_singleton.1 hy
            exact ⟨hq q List.mem_cons_self, he⟩

/-- Where the home holds nothing of a span, it holds none of its sectors. -/
theorem State.pageHeld_of_engHeld {r : Xl} {write : Bool} {det : Nat} {l : List (Nat × Nat × Entry)} (hl : s.engFind ctx r n write det = .ok l)
    (hh : s.engHeld ctx r n = false) : ∀ y ∈ l, s.pageHeld y.2.2 y.1 y.2.1 = false := by
  intro y hy
  obtain ⟨hsec, hfind⟩ := State.engFind_mem hl y hy
  have hs := List.any_eq_false.1 hh _ hsec
  simpa only [State.entry?_of_homeFind hfind, Bool.not_eq_true] using hs

/-- A write of one sector that no home holds is performed, and nothing but its frame's memory and what that sets off changes. -/
theorem State.hubWrite_of_sector {r : Range} {ia : Nat} {bs : List Byte} {e : Entry}
    (hl : s.engFind ctx ⟨ia, r⟩ bs.length true 2 = .ok [(ia, bs.length, e)]) (hh : s.engHeld ctx ⟨ia, r⟩ bs.length = false) :
    s.hubWrite ctx (r, ia) 0 bs = .ok (s.frameWrite e ia bs) := by
  have hp := State.pageHeld_of_engHeld hl hh _ List.mem_cons_self
  have hd : (bs.drop (ia - (ia + 0))).take bs.length = bs := by simp
  rw [State.hubWrite_eq]
  simp only [Nat.add_zero, hl, Except.map, List.foldl_cons, List.foldl_nil, Nat.sub_self, List.drop_zero, List.take_length]
  rw [State.sectorWrite, if_neg (by rw [hp]; decide)]

/-! ### The interrupt -/

/-- The vector of the packet's interrupt is raised, where it asks for one (R340). -/
def Raised (s t : State) (p : Packet) : Prop :=
  ∀ f, s.fn? (fnOf p.ctx) = some f → p.f 0 28 1 = 1 →
    (f.masked (p.f 0 18 10) = false → .msix (fnOf p.ctx) (p.f 0 18 10) ∈ t.outbox)
    ∧ (f.masked (p.f 0 18 10) = true → ∃ g, t.fn? (fnOf p.ctx) = some g ∧ p.f 0 18 10 ∈ g.pba)

/-- The state after a firing's interrupt. -/
def State.fired (t : State) (p : Packet) : State := if p.f 0 28 1 = 1 then t.raise (fnOf p.ctx) (p.f 0 18 10) else t

theorem State.fired_mem (t : State) (p : Packet) : (t.fired p).mem = t.mem := by
  unfold State.fired
  split
  · exact t.raise_mem ..
  · rfl

theorem State.fired_raised (h : t.fns = s.fns) : Raised s (t.fired p) p := by
  intro f hf h1
  have hft : t.fn? (fnOf p.ctx) = some f := by rw [State.fn?, h]; exact hf
  rw [State.fired, if_pos h1, State.raise, hft]
  dsimp only
  refine ⟨fun hm => ?_, fun hm => ?_⟩
  · rw [if_neg (by rw [hm]; decide)]
    exact List.mem_append_right _ (List.mem_singleton.2 rfl)
  · rw [if_pos hm]
    refine ⟨_, State.fn?_modFn_some hft _ fun _ => rfl, ?_⟩
    dsimp only
    split
    · next hc => simpa using hc
    · simp

/-! ### The write and the addition -/

theorem State.sendAtomic_fns (s : State) (e : Entry) (ia k : Nat) (d d2 bs : List Byte) (changes : Bool) :
    (s.sendAtomic e ia k d d2 bs changes).fns = s.fns := by
  have hc : (s.noteCode e ia bs.length).fns = s.fns := by
    unfold State.noteCode
    dsimp only
    split <;> rfl
  have hs (u : State) : (u.frameSet e ia bs).fns = u.fns := by
    unfold State.frameSet
    dsimp only
    split <;> rfl
  cases changes
  · rfl
  · exact (hs _).trans hc

/-- A read-modify-write of an engine at a page that its home finds sound, and that is not being migrated: the location and no function. -/
theorem State.engRmw_of_found {core : CoreId} {r : Range} {ia : Nat} {op : Rmw} {d : List Byte} {e : Entry}
    (hcut : s.cut core.pkg (s.homeAt ctx r ia).pkg = false) (he : s.homeFind ctx (s.homeAt ctx r ia) ia = .ok e)
    (hp : s.poison.contains (e.key ia / 64) = false) (hm : e.mst ≠ 1) :
    ∃ t, s.engRmw ctx core r ia op false d = .ok (t, (rmwApply op false (s.memRead (e.key ia) d.length) d []).1, s.homeAt ctx r ia)
      ∧ t.mem = writeBytes s.mem (e.key ia) (rmwApply op false (s.memRead (e.key ia) d.length) d []).1 ∧ t.fns = s.fns := by
  simp only [State.engRmw, hcut, he, hp, Bool.false_eq_true, if_false]
  refine ⟨_, rfl, ?_, ?_⟩
  · simp only [State.modDie_mem, State.modCore_mem, State.modEntry_mem]
    split
    · exact (State.mem_sendAtomic hm _ _ _ _ _ _).trans (if_pos rfl)
    · rw [State.mem_frameWrite hm, State.portRead, State.egress_mem]
  · show State.fns (match s.atomicCode e op d.length with | some k => _ | none => _) = s.fns
    split
    · exact s.sendAtomic_fns ..
    · rw [State.frameWrite_fns, State.portRead, State.egress_fns]

section
variable (hc : s.ctx? p.ctx = some c) (hlive : c.life = .live) (hon : c.queuePkg ∉ c.off)
include hc hlive hon

theorem signalFire_waits (hh : s.vaHeld p.ctx (p.w 1) 8 .store = true) :
    exec (.signalFire p) s = .next { s with pending := s.pending ++ [.signalFire p] } := by
  show execSignalFire p s = _
  simp only [execSignalFire, hc, hlive, hh, bne_self_eq_false, Bool.false_eq_true, if_false, List.contains_iff_mem, hon, if_true]
  rfl

theorem signalFire_writes {r : Range} {ia : Nat} {e : Entry} (hh : s.vaHeld p.ctx (p.w 1) 8 .store = false) (h16 : p.f 0 16 1 = 0)
    (ha : s.ctxAt p.ctx (p.w 1) 8 .store = .ok (r, ia)) (hf : s.engFind p.ctx ⟨ia, r⟩ 8 true 2 = .ok [(ia, 8, e)]) (hm : e.mst ≠ 1) :
    ∃ t, exec (.signalFire p) s = .next t ∧ MemWrote s t (e.key ia) (leBytes 8 (p.w 2).toNat) ∧ Raised s t p := by
  have hlen := leBytes_length 8 (p.w 2).toNat
  have heng : s.engHeld p.ctx ⟨ia, r⟩ 8 = false := by
    have h := hh
    rw [State.vaHeld, ha] at h
    exact h
  have hw : s.hubWrite p.ctx (r, ia) 0 (leBytes 8 (p.w 2).toNat) = .ok (s.frameWrite e ia (leBytes 8 (p.w 2).toNat)) :=
    State.hubWrite_of_sector (by rw [hlen]; exact hf) (by rw [hlen]; exact heng)
  have hst : s.ctxStore p.ctx (p.w 1) (leBytes 8 (p.w 2).toNat) = .ok (s.frameWrite e ia (leBytes 8 (p.w 2).toNat)) := by
    simp only [State.ctxStore, hlen, ha, hw]
  refine ⟨(s.frameWrite e ia (leBytes 8 (p.w 2).toNat)).fired p, ?_, ?_, State.fired_raised (s.frameWrite_fns ..)⟩
  · show execSignalFire p s = _
    simp only [execSignalFire, hc, hlive, hh, h16, hst, bne_self_eq_false, Bool.false_eq_true, if_false, List.contains_iff_mem, hon,
      Nat.zero_ne_one]
    rfl
  · exact memWrote_writeBytes ((State.fired_mem ..).trans (State.mem_frameWrite hm _ _))

theorem signalFire_adds {r : Range} {ia : Nat} {e : Entry} (hh : s.vaHeld p.ctx (p.w 1) 8 .store = false) (h16 : p.f 0 16 1 = 1)
    (ha : s.ctxAt p.ctx (p.w 1) 8 .atomic = .ok (r, ia)) (hf : s.homeFind p.ctx (s.homeAt p.ctx r ia) ia = .ok e)
    (hp : s.poison.contains (e.key ia / 64) = false) (hm : e.mst ≠ 1) :
    ∃ t, exec (.signalFire p) s = .next t
      ∧ MemWrote s t (e.key ia) (leBytes 8 (leVal (s.memRead (e.key ia) 8) + (p.w 2).toNat)) ∧ Raised s t p := by
  have hlen := leBytes_length 8 (p.w 2).toNat
  have hcut : s.cut (hubCore (s.homeAt p.ctx r ia)).pkg (s.homeAt p.ctx r ia).pkg = false := by simp [State.cut, hubCore]
  obtain ⟨t, ht, hmem, hfns⟩ := State.engRmw_of_found (op := .csig) (d := leBytes 8 (p.w 2).toNat) hcut hf hp hm
  have hval : (rmwApply .csig false (s.memRead (e.key ia) (leBytes 8 (p.w 2).toNat).length) (leBytes 8 (p.w 2).toNat) []).1
      = leBytes 8 (leVal (s.memRead (e.key ia) 8) + (p.w 2).toNat) := by
    have h2 : (p.w 2).toNat % 256 ^ 8 = (p.w 2).toNat := Nat.mod_eq_of_lt (p.w 2).isLt
    simp only [rmwApply, hlen, State.memRead, readBytes_length, leVal_leBytes, h2]
  refine ⟨t.fired p, ?_, ?_, State.fired_raised hfns⟩
  · show execSignalFire p s = _
    simp only [execSignalFire, hc, hlive, hh, h16, ha, ht, Except.map, bne_self_eq_false, Bool.false_eq_true, if_false,
      List.contains_iff_mem, hon, if_true]
    rfl
  · exact memWrote_writeBytes ((State.fired_mem ..).trans (by rw [hmem, hval]))

end

end Sys2Proof.Machine

/-! ## LAUNCH, and queue packets settled (O57) -/

namespace Sys2Proof.Machine

variable {s t u : State} {ctx q n : Nat} {p : Packet} {c : Ctx} {x : Queue}

/-- The context with a launch entered (R341). -/
def Ctx.entered (c : Ctx) (q : Nat) (l : Launch) : Ctx :=
  { c.modQueue q (fun x => { x with nread := x.nread + 1 }) with launches := c.launches ++ [l], nlaunch := c.nlaunch + 1 }

/-- The queue with its launch read. -/
def Queue.launched (x : Queue) : Queue := { x with nread := x.nread + 1 }

theorem Leaves.enter (hc : s.ctx? p.ctx = some c) (hx : c.queue? p.q = some x) (l : Launch) :
    Leaves s (s.modCtx p.ctx fun c => c.entered p.q l) p.ctx p.q (c.entered p.q l) x.launched :=
  ⟨State.ctx?_modCtx_some hc _ fun _ => rfl, Ctx.queue?_modQueue_some hx Queue.launched fun _ => rfl, List.Subset.refl _⟩

theorem State.kickRack_eq (s : State) : ∃ l, s.kickRack = s.due l := by
  unfold State.kickRack
  split
  · exact ⟨_, rfl⟩
  · exact ⟨[], by simp [State.due]⟩

theorem State.drrRound_mem_kickRack (h : s.backlogged = true) : .drrRound ∈ s.kickRack.pending := by
  unfold State.kickRack
  split
  · exact List.mem_append_right _ (List.mem_singleton.2 rfl)
  · next hn => simpa [h] using hn

theorem Leaves.kickRack (h : Leaves s t ctx q c x) : Leaves s t.kickRack ctx q c x := by
  obtain ⟨l, hl⟩ := t.kickRack_eq
  rw [hl]
  exact h.due l

/-- A launch with blocks left to hand down keeps its queue's distributor awake. -/
theorem State.backlogged_of_launch {l : Launch} (hc : s.ctx? ctx = some c) (hx : c.queue? q = some x) (hlive : c.life = .live)
    (hpre : c.preempting = false) (hl : l ∈ c.launches) (hq : l.q = q) (hbad : l.bad = false) (hleft : l.nblk - l.next ≠ 0) :
    s.backlogged = true := by
  have hmem : l ∈ c.launches.filter fun l => l.q == q && !l.bad := by simp [hl, hq, hbad]
  have hb : c.backlog q ≠ 0 := fun h => hleft (List.sum_eq_zero_iff.1 h _ (List.mem_map.2 ⟨l, hmem, rfl⟩))
  have hnum : x.num = q := by simpa using List.find?_some hx
  refine List.any_eq_true.2 ⟨c, List.mem_of_find?_eq_some hc, ?_⟩
  simp only [hlive, hpre, BEq.rfl, Bool.not_false, Bool.and_self, Bool.true_and]
  exact List.any_eq_true.2 ⟨x, List.mem_of_find?_eq_some hx, by simpa [hnum] using hb⟩

/-- Without a wait on a tag nothing looks again. -/
theorem State.tagRelook_of_none (h : ∀ o ∈ s.ops, o.ctx = ctx → ∀ w, o.ins ≠ .tagwait w) (lo k : Nat) : s.tagRelook ctx lo k = s := by
  unfold State.tagRelook
  dsimp only
  rw [List.filter_eq_nil_iff.2, List.foldl_nil]
  intro o ho hm
  simp only [Bool.and_eq_true, beq_iff_eq, decide_eq_true_eq] at hm
  obtain ⟨⟨⟨⟨hctx, -⟩, hins⟩, -⟩, -⟩ := hm
  split at hins
  · next w hw => exact h o ho hctx w hw
  · cases hins

theorem State.launchBadRecord_recorded (s : State) (ctx : Nat) (l : Launch) (sub : Nat) :
    ∃ r, .trapRecordPost ctx r ∈ (s.launchBadRecord ctx l sub).pending ∧ r.code = 0x18 ∧ r.sub = sub ∧ r.lser = l.lser := by
  obtain ⟨hcode, hsub, -, hser⟩ := s.fromFirst_fields ctx (ctxRecord 0x18 sub (BitVec.ofNat 64 l.q) (BitVec.ofNat 64 l.slot) 0 l.lser)
  exact ⟨_, List.mem_append_right _ (List.mem_singleton.2 rfl), hcode, hsub, hser⟩

/-- What a reservation leaves: the launch with its fallback told, and the packages' reservations. -/
theorem Leaves.reserve {l : Launch} (h : Leaves s t ctx q c x) (hl : l ∈ c.launches) (c0 : Ctx) (h0 : c0.id = ctx) :
    ∃ c', Leaves s (t.reserve c0 l) ctx q c' x ∧ c'.nlaunch = c.nlaunch ∧ c'.life = c.life ∧ c'.preempting = c.preempting
      ∧ (∃ l', l' ∈ c'.launches ∧ l' = { l with fallback := l'.fallback }) ∧ (t.reserve c0 l).ops = t.ops := by
  obtain ⟨hc, hx, hp⟩ := h
  have hsame : ∃ l', l' ∈ c.launches ∧ l' = { l with fallback := l'.fallback } := ⟨l, hl, rfl⟩
  unfold State.reserve
  split
  · exact ⟨c, ⟨hc, hx, hp⟩, rfl, rfl, rfl, hsame, rfl⟩
  dsimp only
  split
  · rw [h0]
    refine ⟨_, ⟨State.ctx?_modCtx_some hc (fun c => c.modLaunch l.id fun l => { l with fallback := true }) fun _ => rfl, hx, hp⟩, rfl, rfl, rfl,
      ?_, rfl⟩
    rcases mem_updFirst_of_mem (p := fun l' => l'.id == l.id) (f := fun l => { l with fallback := true }) hl with hm | ⟨-, hm⟩
    · exact ⟨l, hm, rfl⟩
    · exact ⟨_, hm, rfl⟩
  · exact ⟨c, ⟨hc, hx, hp⟩, rfl, rfl, rfl, hsame, rfl⟩

/-- The state in which the launch of a packet has entered, its producer range reserved. -/
def State.entering (s : State) (p : Packet) (c : Ctx) (x : Queue) : State :=
  State.reserve (s.modCtx p.ctx fun c' => c'.entered p.q (Launch.ofPacket c x p)) c (Launch.ofPacket c x p)

section
variable (hc : s.ctx? p.ctx = some c) (hx : c.queue? p.q = some x) (hlive : c.life = .live) (hri : x.ri = p.slot) (hhold : x.hold = [])
  (hcov : 4 ≤ x.unread)
include hc hx hlive hri hhold hcov

/-- A LAUNCH whose record is valid and waits for no launch enters, and the rack distributor is awake (R341). -/
theorem launch_enters (hv : (Launch.ofPacket c x p).valid c = true) (hdep : (Launch.ofPacket c x p).dep = 0) (hpre : c.preempting = false)
    (htag : ∀ o ∈ s.ops, o.ctx = p.ctx → ∀ w, o.ins ≠ .tagwait w) :
    QueueAfter s p (.launch p) fun t c' x' => x' = x.launched.past 4 ∧ c'.nlaunch = c.nlaunch + 1
      ∧ (∃ l', l' ∈ c'.launches ∧ l' = { Launch.ofPacket c x p with fallback := l'.fallback }) ∧ .drrRound ∈ t.pending := by
  have he : exec (.launch p) s = _ := congrArg Host.Outcome.next (State.atPacket_eq hc hx hlive hri hhold _)
  have hid := State.ctx?_id s hc
  have hent := Leaves.enter hc hx (Launch.ofPacket c x p)
  obtain ⟨c1, hl1, hn1, hlife1, hpre1, ⟨l', hmem, hl'⟩, hops⟩ :=
    hent.reserve (List.mem_append_right _ (List.mem_singleton.2 rfl)) c hid
  have hgrid : (Launch.ofPacket c x p).grid ≠ 0 := by
    intro h0
    simp [Launch.valid, h0] at hv
  have hback : (s.entering p c x).backlogged = true :=
    State.backlogged_of_launch hl1.1 hl1.2.1 (hlife1.trans hlive) (hpre1.trans hpre) hmem (by rw [hl']; rfl) (by rw [hl']; rfl)
      (by rw [hl']; exact hgrid)
  have hdrr := State.drrRound_mem_kickRack hback
  have hlk := hl1.kickRack
  have htag' := State.tagRelook_of_none (s := (s.entering p c x).kickRack) (ctx := p.ctx) ?_ (Launch.ofPacket c x p).tlo (Launch.ofPacket c x p).tn
  · have hstep : exec (.launch p) s = .next ((s.entering p c x).kickRack.advanceQueue p.ctx p.q 4) := by
      rw [← htag', he, if_neg (Nat.not_lt.2 hcov)]
      simp only [hv, hdep, hid, bne_self_eq_false, Bool.false_and, Bool.not_true, Bool.false_eq_true, if_false]
      rfl
    exact (hlk.advance 4).after hstep ⟨rfl, hn1, ⟨l', hmem, hl'⟩, State.advanceQueue_pending_subset _ _ _ _ hdrr⟩
  · obtain ⟨k, hk⟩ := (s.entering p c x).kickRack_eq
    rw [hk]
    exact hops ▸ htag

/-- One whose record is invalid enters as ended, with its record (R342). -/
theorem launch_invalid (hv : (Launch.ofPacket c x p).valid c = false) :
    QueueAfter s p (.launch p) fun t c' x' => x' = x.launched.past 4
      ∧ c'.launches = c.launches ++ [{ Launch.ofPacket c x p with nblk := 0, bad := true, ended := true }]
      ∧ ∃ r, .trapRecordPost p.ctx r ∈ t.pending ∧ r.code = 0x18 ∧ r.sub = 0 ∧ r.lser = (Launch.ofPacket c x p).lser := by
  have he : exec (.launch p) s = _ := congrArg Host.Outcome.next (State.atPacket_eq hc hx hlive hri hhold _)
  simp only [if_neg (Nat.not_lt.2 hcov), hv, State.ctx?_id s hc, Bool.not_false, if_true] at he
  have hl := Leaves.enter hc hx { Launch.ofPacket c x p with nblk := 0, bad := true, ended := true }
  obtain ⟨r, hr, hfields⟩ := State.launchBadRecord_recorded _ p.ctx (Launch.ofPacket c x p) 0
  exact ((hl.due _).advance 4).after he ⟨rfl, rfl, r, State.advanceQueue_pending_subset _ _ _ _ hr, hfields⟩

/-- One whose producer has failed fails too, with its record (R353). -/
theorem launch_failed (hv : (Launch.ofPacket c x p).valid c = true) (hdep : (Launch.ofPacket c x p).dep ≠ 0) {k : Launch}
    (hk : (Launch.ofPacket c x p).prev.bind c.launch? = some k) (hbad : k.bad = true) :
    ∃ t r, exec (.launch p) s = .next t ∧ .trapRecordPost p.ctx r ∈ t.pending ∧ r.code = 0x18 ∧ r.sub = 1
      ∧ r.lser = (Launch.ofPacket c x p).lser := by
  have he : exec (.launch p) s = _ := congrArg Host.Outcome.next (State.atPacket_eq hc hx hlive hri hhold _)
  have hd : ((Launch.ofPacket c x p).dep != 0) = true := by simpa using hdep
  simp only [if_neg (Nat.not_lt.2 hcov), hv, State.ctx?_id s hc, hk, hbad, hd, Bool.and_self, Bool.not_true, Bool.false_eq_true, if_false,
    if_true] at he
  obtain ⟨r, hr, hfields⟩ := State.launchBadRecord_recorded _ p.ctx (Launch.ofPacket c x p) 1
  exact ⟨_, r, he, State.advanceQueue_pending_subset _ _ _ _ ((State.settleLaunch_unwinds _ _ _ _).pending hr), hfields⟩

end

/-! ### Settled -/

section
variable (hc : s.ctx? p.ctx = some c) (hx : c.queue? p.q = some x) (hlive : c.life = .live) (hri : x.ri = p.slot) (hhold : x.hold = [])
include hc hx hlive hri hhold

/-- WAIT and BARRIER-AND, by their conditions. -/
theorem waits_hold (hon : c.queuePkg ∉ c.off) (hva : ∀ k < 3, s.vaHeld p.ctx (p.w (1 + 2 * k)) 8 .load = false) :
    let cond := fun (k : Nat) => (p.w (1 + 2 * k), p.w (2 + 2 * k))
    let home := s.putRi p.ctx c p.q (x.past 1).ri
    let gone := { x with ri := (x.ri + 1) % 2 ^ 32, held := p.f 0 0 8, met := false }
    (home.condition p.ctx (cond 0) = some true → QueueAfter s p (.wait p) fun _ _ x' => x' = gone)
    ∧ (home.condition p.ctx (cond 0) = some false → QueueAfter s p (.wait p) fun _ _ x' => x' = { gone with hold := [cond 0] })
    ∧ (home.condition p.ctx (cond 0) = none → QueueAfter s p (.wait p) fun t _ x' => x' = gone ∧ Recorded t p.ctx p.q (p.f 0 0 8))
    ∧ ((∀ k < p.f 0 16 2, home.condition p.ctx (cond k) = some true) → 0 < p.f 0 16 2 →
        QueueAfter s p (.barrierAnd p) fun _ _ x' => x' = gone)
    ∧ ((∀ k < p.f 0 16 2, home.condition p.ctx (cond k) ≠ none) → (∃ k < p.f 0 16 2, home.condition p.ctx (cond k) = some false) →
        QueueAfter s p (.barrierAnd p) fun _ _ x' => x' = { gone with hold := (List.range (p.f 0 16 2)).map cond })
    ∧ ((∃ k < p.f 0 16 2, home.condition p.ctx (cond k) = none) →
        QueueAfter s p (.barrierAnd p) fun t _ x' => x' = gone ∧ Recorded t p.ctx p.q (p.f 0 0 8)) := by
  intro cond home gone
  have hcount : p.f 0 16 2 < 4 := Nat.mod_lt _ (by decide)
  obtain ⟨hw1, hw2, hw3⟩ := hold_outcomes hc hx hlive hri hhold hon (i := .wait p) (conds := [cond 0]) rfl (List.cons_ne_nil _ _)
    fun h hm => by rw [List.mem_singleton.1 hm]; exact hva 0 (by decide)
  have hb (hpos : 0 < p.f 0 16 2) := hold_outcomes hc hx hlive hri hhold hon (i := .barrierAnd p) (conds := (List.range (p.f 0 16 2)).map cond) rfl
    (by rw [ne_eq, List.map_eq_nil_iff, List.range_eq_nil]; exact Nat.ne_of_gt hpos) fun h hm => by
      obtain ⟨k, hk, rfl⟩ := List.mem_map.1 hm
      exact hva k (by have := List.mem_range.1 hk; omega)
  have hall {P : W64 × W64 → Prop} (h : ∀ k < p.f 0 16 2, P (cond k)) : ∀ y ∈ (List.range (p.f 0 16 2)).map cond, P y := by
    intro y hy
    obtain ⟨k, hk, rfl⟩ := List.mem_map.1 hy
    exact h k (List.mem_range.1 hk)
  have hex {P : W64 × W64 → Prop} : (∃ k < p.f 0 16 2, P (cond k)) → ∃ y ∈ (List.range (p.f 0 16 2)).map cond, P y := fun ⟨k, hk, h⟩ =>
    ⟨cond k, List.mem_map.2 ⟨k, List.mem_range.2 hk, rfl⟩, h⟩
  refine ⟨fun h => hw1 fun k hk => ?_, fun h => hw2 (fun k hk => ?_) ⟨cond 0, List.mem_singleton.2 rfl, h⟩,
    fun h => hw3 ⟨cond 0, List.mem_singleton.2 rfl, h⟩, fun h hpos => (hb hpos).1 (hall h), fun h he => ?_, fun he => ?_⟩
  · rw [List.mem_singleton.1 hk]
    exact h
  · rw [List.mem_singleton.1 hk]
    exact fun hn => nomatch h.symm.trans hn
  · obtain ⟨k, hk, -⟩ := id he
    exact (hb (by omega)).2.1 (hall h) (hex he)
  · obtain ⟨k, hk, -⟩ := id he
    exact (hb (by omega)).2.2 (hex he)

end

/-- Settles O57, packet by packet: each is acted on at its turn (`State.atPacket_eq`), and what its queue does next only makes events
due (`Leaves`). -/
theorem queuePackets : Obligations.QueuePackets := by
  unfold Obligations.QueuePackets
  intro s p c x hc hx fn ri home after recorded cond raised
  refine ⟨fun f wi hf hlive => ⟨queueDoorbell_sets hc hx hf, queueDoorbell_refused hc hx hf⟩, fun hlive hri hhold => ?_,
    fun hlive hon => ?_, fun hlive hoff hhold hva hmet hall => waitRecheck_off hc hx hlive hhold hmet hva hoff hall⟩
  · refine ⟨invalidPacket_recorded hc hx hlive hri hhold, phase_begins hc hx hlive hri hhold, leaseHint_asks hc hx hlive hri hhold,
      signal_waits hc hx hlive hri hhold, fun hon hva => waits_hold hc hx hlive hri hhold hon hva, bind_places hc hx hlive hri hhold,
      fun h8 h32 h53 hz => ⟨fun b hb => ⟨unbind_removes hc hx hlive hri hhold h8 h32 h53 hz hb,
        unbind_waits hc hx hlive hri hhold h8 h32 h53 hz hb⟩, unbind_unknown hc hx hlive hri hhold⟩, fun hcov => ?_⟩
    exact ⟨launch_enters hc hx hlive hri hhold hcov, launch_invalid hc hx hlive hri hhold hcov,
      fun hv ⟨hdep, k, hk, hbad⟩ => launch_failed hc hx hlive hri hhold hcov hv hdep hk hbad⟩
  · refine ⟨signalFire_waits hc hlive hon, fun r ia e hh h16 ha hf hm => signalFire_writes hc hlive hon hh h16 ha hf hm,
      fun r ia e hh h16 ha hf hp hm => signalFire_adds hc hlive hon hh h16 ha hf hp hm,
      fun hhold hmet => waitRecheck_of_met hc hx hlive hhold hon hmet, fun hhold hmet hva => ?_⟩
    exact ⟨waitRecheck_goesOn hc hx hlive hhold hmet hva hon, waitRecheck_holds hc hx hlive hhold hmet hva,
      waitRecheck_records hc hx hlive hhold hmet hva hon⟩

end Sys2Proof.Machine

/-! ## A round of the rack distributor (R345, O58) -/

namespace Sys2Proof.Machine

variable {s t u : State} {i q : Nat} {c : Ctx} {x : Queue} {l : Launch}

/-! ### Turns of queues with nothing to hand down -/

/-- Turns of queues other than q of context i, none with blocks to hand down, leave all but the queues as it was, and that queue. -/
structure Idled (i q : Nat) (s t : State) : Prop where
  frame : t = { s with ctxs := t.ctxs }
  ctx : ∀ j, Option.Rel (fun y y' => SameBut y y' ∧ (j = i → y'.queue? q = y.queue? q)) (s.ctx? j) (t.ctx? j)

theorem SameBut.refl (c : Ctx) : SameBut c c := ⟨c.queues, rfl⟩

theorem SameBut.trans {c' c'' : Ctx} (h : SameBut c c') (k : SameBut c' c'') : SameBut c c'' := by
  obtain ⟨qs, rfl⟩ := h
  obtain ⟨ps, rfl⟩ := k
  exact ⟨ps, rfl⟩

theorem SameBut.launches {c' : Ctx} (h : SameBut c c') : c'.launches = c.launches := by
  obtain ⟨qs, rfl⟩ := h
  rfl

theorem SameBut.backlog {c' : Ctx} (h : SameBut c c') (k : Nat) : c'.backlog k = c.backlog k := by
  rw [Ctx.backlog, h.launches, Ctx.backlog]

theorem Idled.refl (s : State) : Idled i q s s := by
  refine ⟨rfl, fun j => ?_⟩
  cases s.ctx? j with
  | none => exact .none
  | some y => exact .some ⟨.refl y, fun _ => rfl⟩

theorem Idled.trans (h : Idled i q s t) (k : Idled i q t u) : Idled i q s u := by
  refine ⟨k.frame.trans (congrArg (fun z : State => { z with ctxs := u.ctxs }) h.frame), fun j => ?_⟩
  have hj := h.ctx j
  have kj := k.ctx j
  revert hj kj
  generalize s.ctx? j = a
  generalize t.ctx? j = b
  generalize u.ctx? j = d
  rintro (⟨hb, hq⟩ | _) (⟨kb, kq⟩ | _)
  · exact .some ⟨hb.trans kb, fun e => (kq e).trans (hq e)⟩
  · exact .none

theorem State.ctx?_modCtx_of_ne {j : Nat} (s : State) (f : Ctx → Ctx) (hf : ∀ c, (f c).id = c.id) (h : j ≠ i) :
    (s.modCtx i f).ctx? j = s.ctx? j :=
  find?_updFirst_of_ne (fun a _ => by rw [hf]) (fun a ha => by simp only [beq_iff_eq] at ha; simp [ha, Ne.symm h]) _

theorem Ctx.queue?_modQueue_of_ne {k : Nat} (c : Ctx) (f : Queue → Queue) (hf : ∀ x, (f x).num = x.num) (h : k ≠ q) :
    (c.modQueue q f).queue? k = c.queue? k :=
  find?_updFirst_of_ne (fun a _ => by rw [hf]) (fun a ha => by simp only [beq_iff_eq] at ha; simp [ha, Ne.symm h]) _

theorem Idled.modQueue {j k : Nat} (hne : (j, k) ≠ (i, q)) (f : Queue → Queue) (hf : ∀ x, (f x).num = x.num) :
    Idled i q s (s.modQueue j k f) := by
  refine ⟨rfl, fun m => ?_⟩
  by_cases hm : m = j
  · subst hm
    rw [State.modQueue, State.ctx?_modCtx s m (fun c => c.modQueue k f) fun _ h => h]
    cases s.ctx? m with
    | none => exact .none
    | some y =>
      refine .some ⟨⟨_, rfl⟩, fun hi => Ctx.queue?_modQueue_of_ne y f hf ?_⟩
      rintro rfl
      exact hne (by rw [hi])
  · rw [State.modQueue, State.ctx?_modCtx_of_ne s (fun c => c.modQueue k f) (fun _ => rfl) hm]
    exact (Idled.refl s).ctx m

/-- The turn of another queue, without a backlog. -/
theorem State.drrQueue_idled {k : Nat × Nat} (hne : k ≠ (i, q)) (h0 : ∀ y, s.ctx? k.1 = some y → y.backlog k.2 = 0) :
    Idled i q s (s.drrQueue k.1 k.2) := by
  unfold State.drrQueue
  split
  · exact .refl s
  next y hy =>
  split
  · exact .refl s
  split
  · exact .refl s
  rw [if_pos (h0 y hy)]
  exact .modQueue hne _ fun _ => rfl

theorem State.drrQueues_idled (K : List (Nat × Nat)) (hK : ∀ k ∈ K, k ≠ (i, q) ∧ ∀ y, s.ctx? k.1 = some y → y.backlog k.2 = 0) :
    Idled i q s (K.foldl (fun s k => s.drrQueue k.1 k.2) s) := by
  induction K generalizing s with
  | nil => exact .refl s
  | cons k K ih =>
    obtain ⟨hne, h0⟩ := hK k List.mem_cons_self
    have h1 := State.drrQueue_idled hne h0
    refine h1.trans (ih fun k' hk' => ?_)
    obtain ⟨hne', h0'⟩ := hK k' (List.mem_cons_of_mem _ hk')
    refine ⟨hne', fun y' hy' => ?_⟩
    have hr := h1.ctx k'.1
    rw [hy'] at hr
    cases hs : s.ctx? k'.1 with
    | none => rw [hs] at hr; cases hr
    | some y =>
      rw [hs] at hr
      obtain ⟨hb, -⟩ | _ := hr
      exact (hb.backlog _).trans (h0' y hs)

/-- The context with the queue whose turn is still to come, or has been. -/
theorem Idled.found (h : Idled i q s t) (hc : s.ctx? i = some c) :
    ∃ c', t.ctx? i = some c' ∧ SameBut c c' ∧ c'.queue? q = c.queue? q := by
  have hr := h.ctx i
  rw [hc] at hr
  cases ht : t.ctx? i with
  | none => rw [ht] at hr; cases hr
  | some c' =>
    rw [ht] at hr
    obtain ⟨hb, hq⟩ | _ := hr
    exact ⟨c', rfl, hb, hq rfl⟩

end Sys2Proof.Machine

/-! ## Blocks handed down (R345, R347, O58) -/

namespace Sys2Proof.Machine

variable {s t u : State} {i q : Nat} {c : Ctx} {x : Queue} {l : Launch}

/-- With the keys all apart, the first record of a key is every one of it. -/
theorem updFirst_eq_map {α : Type} {key : α → Nat} {k : Nat} {f : α → α} {l : List α} (hn : (l.map key).Nodup) :
    updFirst (fun a => key a == k) f l = l.map fun a => if key a = k then f a else a := by
  induction l with
  | nil => rfl
  | cons a r ih =>
    obtain ⟨ha, hr⟩ := List.nodup_cons.1 hn
    by_cases hk : key a = k
    · have hid : r.map (fun b => if key b = k then f b else b) = r := by
        refine (List.map_congr_left fun b hb => if_neg fun hbk => ha ?_).trans (List.map_id r)
        exact (hk.trans hbk.symm) ▸ List.mem_map_of_mem hb
      simp [updFirst, hk, hid]
    · simp [updFirst, hk, ih hr]

/-- What handing down blocks of queue q does to a launch: more of it is handed down, where it is of that queue. -/
structure HandsDown (q : Nat) (g : Launch → Launch) : Prop where
  id : ∀ a, (g a).id = a.id
  queue : ∀ a, (g a).q = a.q
  bad : ∀ a, (g a).bad = a.bad
  nblk : ∀ a, (g a).nblk = a.nblk
  fits : ∀ a, (g a).neverFits = a.neverFits
  next : ∀ a, a.next ≤ (g a).next
  others : ∀ a, a.q ≠ q → g a = a

theorem HandsDown.refl (q : Nat) : HandsDown q fun a => a :=
  ⟨fun _ => rfl, fun _ => rfl, fun _ => rfl, fun _ => rfl, fun _ => rfl, fun _ => Nat.le_refl _, fun _ _ => rfl⟩

theorem HandsDown.comp {g h : Launch → Launch} (hg : HandsDown q g) (hh : HandsDown q h) : HandsDown q (h ∘ g) where
  id a := (hh.id _).trans (hg.id a)
  queue a := (hh.queue _).trans (hg.queue a)
  bad a := (hh.bad _).trans (hg.bad a)
  nblk a := (hh.nblk _).trans (hg.nblk a)
  fits a := (hh.fits _).trans (hg.fits a)
  next a := Nat.le_trans (hg.next a) (hh.next _)
  others a ha := by rw [Function.comp_apply, hg.others a ha, hh.others a ha]

/-- The context with its launches handed down, and its queues charged. -/
def Ctx.handed (c : Ctx) (g : Launch → Launch) (qs : List Queue) : Ctx := { c with launches := c.launches.map g, queues := qs }

theorem HandsDown.launch? {g : Launch → Launch} (hg : HandsDown q g) (c : Ctx) (qs : List Queue) (k : Nat) :
    (c.handed g qs).launch? k = (c.launch? k).map g := by
  simp only [Ctx.launch?, Ctx.handed, List.find?_map]
  congr 2
  funext a
  simp [hg.id a]

/-- Other queues have what they had to hand down. -/
theorem HandsDown.backlog {g : Launch → Launch} (hg : HandsDown q g) (c : Ctx) (qs : List Queue) {k : Nat} (hk : k ≠ q) :
    (c.handed g qs).backlog k = c.backlog k := by
  have hf : (c.launches.map g).filter (fun l => l.q == k && !l.bad) = (c.launches.filter fun l => l.q == k && !l.bad).map g := by
    rw [List.filter_map]
    congr 2
    funext a
    simp [hg.queue a, hg.bad a]
  simp only [Ctx.backlog, Ctx.handed, hf, List.map_map]
  congr 1
  refine List.map_congr_left fun a ha => ?_
  have hq : a.q = k := by
    have h := (List.mem_filter.1 ha).2
    simp only [Bool.and_eq_true, beq_iff_eq] at h
    exact h.1
  rw [Function.comp_apply, hg.others a (hq.trans_ne hk)]

/-! ### One chunk -/

/-- The chunk's launch, with n more blocks handed down at the estimate given. -/
def Launch.handed (l : Launch) (n est : Nat) : Launch := { l with next := l.next + n, out := l.out + n, ests := l.ests.set 0 (l.next / 64) est }

/-- The launch of one chunk. -/
def chunkOf (l : Launch) (est : Nat) (a : Launch) : Launch :=
  if a.id = l.id ∧ a.q = l.q then a.handed (min 64 (l.nblk - l.next)) est else a

theorem chunkOf_handsDown (l : Launch) (est : Nat) : HandsDown l.q (chunkOf l est) := by
  constructor <;> intro a
  case others => exact fun ha => if_neg fun h => ha h.2
  case next =>
    unfold chunkOf
    split
    · exact Nat.le_add_right ..
    · exact Nat.le_refl _
  all_goals
    unfold chunkOf
    split <;> rfl

theorem chunkOf_self (l : Launch) (est : Nat) : chunkOf l est l = l.handed (min 64 (l.nblk - l.next)) est := if_pos ⟨rfl, rfl⟩

/-- Blocks of queue q of context i handed down: the launches, the queues and the chunks due. -/
structure Spent (i q : Nat) (s t : State) : Prop where
  frame : t = { s with ctxs := t.ctxs, pending := t.pending }
  pending : s.pending ⊆ t.pending
  others : ∀ j, j ≠ i → t.ctx? j = s.ctx? j
  ctx : ∀ c, s.ctx? i = some c → ∃ g qs, HandsDown q g ∧ t.ctx? i = some (c.handed g qs)
    ∧ ∀ k, (c.queue? k).isSome = true → ((c.handed g qs).queue? k).isSome = true

theorem Spent.refl (s : State) : Spent i q s s :=
  ⟨rfl, List.Subset.refl _, fun _ _ => rfl, fun c hc => ⟨id, c.queues, .refl q, by rw [Ctx.handed, List.map_id]; exact hc, fun _ => id⟩⟩

theorem Spent.trans (h : Spent i q s t) (k : Spent i q t u) : Spent i q s u := by
  refine ⟨k.frame.trans (congrArg (fun z : State => { z with ctxs := u.ctxs, pending := u.pending }) h.frame), List.Subset.trans h.pending k.pending,
    fun j hj => (k.others j hj).trans (h.others j hj), fun c hc => ?_⟩
  obtain ⟨g, qs, hg, ht, hq⟩ := h.ctx c hc
  obtain ⟨g', qs', hg', hu, hq'⟩ := k.ctx _ ht
  exact ⟨g' ∘ g, qs', hg.comp hg', by rw [hu]; simp only [Ctx.handed, List.map_map], fun m hm => hq' m (hq m hm)⟩

/-- The packages a chunk goes to (R347). -/
def State.chunks (s : State) (c : Ctx) (l : Launch) : List Instr :=
  let keyed := (List.range (min 64 (l.nblk - l.next))).map fun i => ((s.placeKey c l (l.next + i)).1, l.next + i)
  (c.dies.map (·.1)).dedup.filterMap fun lp =>
    let mine := (keyed.filter fun k => k.1 == lp).map (·.2)
    if mine.isEmpty then none else some (Instr.chunkAppend c.id l.id (c.phys lp) mine)

/-- Every block of a chunk whose key is of the partition goes to a package distributor. -/
theorem State.mem_chunks {k : Nat} (hk : k < min 64 (l.nblk - l.next)) (hd : (s.placeKey c l (l.next + k)).1 ∈ c.dies.map (·.1)) :
    ∃ idxs pk, .chunkAppend c.id l.id pk idxs ∈ s.chunks c l ∧ l.next + k ∈ idxs := by
  let keyed := (List.range (min 64 (l.nblk - l.next))).map fun i => ((s.placeKey c l (l.next + i)).1, l.next + i)
  let mine := (keyed.filter fun y => y.1 == (s.placeKey c l (l.next + k)).1).map (·.2)
  have hm : l.next + k ∈ mine := List.mem_map.2 ⟨((s.placeKey c l (l.next + k)).1, l.next + k),
    List.mem_filter.2 ⟨List.mem_map.2 ⟨k, List.mem_range.2 hk, rfl⟩, beq_self_eq_true _⟩, rfl⟩
  refine ⟨mine, _, List.mem_filterMap.2 ⟨_, List.mem_dedup.2 hd, if_neg ?_⟩, hm⟩
  rw [List.isEmpty_iff]
  exact List.ne_nil_of_mem hm

/-- The charge of a chunk to its queue. -/
def Queue.charged (n est : Nat) (y : Queue) : Queue := { y with def_ := y.def_ - Int.ofNat (n * est) }

theorem State.handDown_eq (s : State) (c : Ctx) (l : Launch) : s.handDown c l =
    (s.modCtx c.id fun c' => (c'.modLaunch l.id fun a => a.handed (min 64 (l.nblk - l.next)) (s.est c.id l.entry)).modQueue l.q
      (Queue.charged (min 64 (l.nblk - l.next)) (s.est c.id l.entry))).due (s.chunks c l) := rfl

/-- The launch of a chunk is the only one of its id. -/
theorem map_chunkOf {L : List Launch} (hn : (L.map (·.id)).Nodup) (hl : l ∈ L) (est : Nat) :
    updFirst (fun a => a.id == l.id) (fun a => a.handed (min 64 (l.nblk - l.next)) est) L = L.map (chunkOf l est) := by
  rw [updFirst_eq_map hn]
  refine List.map_congr_left fun a ha => ?_
  by_cases hid : a.id = l.id
  · rw [List.inj_on_of_nodup_map hn ha hl hid, chunkOf_self, if_pos rfl]
  · rw [chunkOf, if_neg hid, if_neg fun h => hid h.1]

theorem State.ctx?_handDown (hc : s.ctx? i = some c) (hl : l ∈ c.launches) (hn : (c.launches.map (·.id)).Nodup) :
    (s.handDown c l).ctx? i = some (c.handed (chunkOf l (s.est i l.entry))
      (c.modQueue l.q (Queue.charged (min 64 (l.nblk - l.next)) (s.est i l.entry))).queues) := by
  have hid := State.ctx?_id s hc
  rw [State.handDown_eq, hid]
  refine (State.ctx?_modCtx_some hc (fun c' => (c'.modLaunch l.id fun a => a.handed (min 64 (l.nblk - l.next)) (s.est i l.entry)).modQueue l.q
      (Queue.charged (min 64 (l.nblk - l.next)) (s.est i l.entry))) fun _ => rfl).trans (congrArg some ?_)
  rw [Ctx.handed, ← map_chunkOf hn hl]
  rfl

theorem Ctx.queue?_modQueue_isSome (c : Ctx) (q : Nat) (f : Queue → Queue) (hf : ∀ y, (f y).num = y.num) {k : Nat}
    (hk : (c.queue? k).isSome = true) : ((c.modQueue q f).queue? k).isSome = true := by
  by_cases hkq : k = q
  · subst hkq
    rwa [Ctx.queue?_modQueue c k f hf, Option.isSome_map]
  · rwa [Ctx.queue?_modQueue_of_ne c f hf hkq]

theorem State.handDown_spent (hc : s.ctx? i = some c) (hl : l ∈ c.launches) (hn : (c.launches.map (·.id)).Nodup) :
    Spent i l.q s (s.handDown c l) := by
  have hid := State.ctx?_id s hc
  refine ⟨rfl, List.subset_append_left .., fun j hj => ?_, fun c' hc' => ?_⟩
  · rw [State.handDown_eq, hid]
    exact State.ctx?_modCtx_of_ne s _ (fun _ => by rfl) hj
  · cases hc.symm.trans hc'
    refine ⟨_, _, chunkOf_handsDown l _, State.ctx?_handDown hc hl hn, fun k hk => ?_⟩
    exact Ctx.queue?_modQueue_isSome c l.q _ (fun _ => by rfl) hk

/-! ### A queue spends its deficit -/

/-- What a queue hands down next. -/
def Ctx.nextLaunch (c : Ctx) (q : Nat) : Option Launch := c.launches.find? fun l => l.q == q && decide (l.next < l.nblk) && !l.bad

theorem State.spend_succ (hc : s.ctx? i = some c) (hx : c.queue? q = some x) (n : Nat) : s.spend (n + 1) i q none =
    match c.nextLaunch q with
    | none => s
    | some l => if x.def_ ≤ 0 then s else if l.neverFits then s.voidLaunch i l else (s.handDown c l).spend n i q none := by
  have hf : (c.launches.find? fun l => l.q == q && decide (l.next < l.nblk) && !l.bad && ((none : Option Nat) == none || none == some l.id))
      = c.nextLaunch q := by
    simp [Ctx.nextLaunch]
  rw [State.spend]
  simp only [hc, hx]
  rw [hf]
  cases c.nextLaunch q with
  | none => rfl
  | some l => simp only [BEq.rfl, Bool.true_and, decide_eq_true_eq]

theorem Ctx.nextLaunch_spec (h : c.nextLaunch q = some l) : l ∈ c.launches ∧ l.q = q ∧ l.next < l.nblk ∧ l.bad = false := by
  have hp := List.find?_some h
  simp only [Bool.and_eq_true, beq_iff_eq, decide_eq_true_eq, Bool.not_eq_true'] at hp
  exact ⟨List.mem_of_find?_eq_some h, hp.1.1, hp.1.2, hp.2⟩

theorem HandsDown.nodup {g : Launch → Launch} (hg : HandsDown q g) (qs : List Queue) (hn : (c.launches.map (·.id)).Nodup) :
    ((c.handed g qs).launches.map (·.id)).Nodup := by
  have h : (c.handed g qs).launches.map (·.id) = c.launches.map (·.id) := by
    rw [Ctx.handed, List.map_map]
    exact List.map_congr_left fun a _ => hg.id a
  rwa [h]

theorem HandsDown.neverFits {g : Launch → Launch} (hg : HandsDown q g) (qs : List Queue) (hf : ∀ y ∈ c.launches, y.neverFits = false) :
    ∀ y ∈ (c.handed g qs).launches, y.neverFits = false := by
  intro y hy
  obtain ⟨a, ha, rfl⟩ := List.mem_map.1 hy
  exact (hg.fits a).trans (hf a ha)

/-- Spending, where every launch fits, hands blocks down and does nothing else. -/
theorem State.spend_spent (n : Nat) (hc : s.ctx? i = some c) (hx : (c.queue? q).isSome = true) (hn : (c.launches.map (·.id)).Nodup)
    (hf : ∀ y ∈ c.launches, y.neverFits = false) : Spent i q s (s.spend n i q none) := by
  induction n generalizing s c with
  | zero => exact .refl s
  | succ n ih =>
    obtain ⟨x, hx'⟩ := Option.isSome_iff_exists.1 hx
    rw [State.spend_succ hc hx']
    cases hl : c.nextLaunch q with
    | none => exact .refl s
    | some l =>
      obtain ⟨hmem, rfl, -, -⟩ := Ctx.nextLaunch_spec hl
      dsimp only
      rw [hf l hmem]
      split
      · exact .refl s
      · have h1 := State.handDown_spent hc hmem hn
        obtain ⟨g, qs, hg, ht, hq⟩ := h1.ctx c hc
        exact h1.trans (ih ht (hq _ hx) (hg.nodup qs hn) (hg.neverFits qs hf))

end Sys2Proof.Machine

/-! ## The round of one queue with a backlog (R345, O58) -/

namespace Sys2Proof.Machine

variable {s t u : State} {i q : Nat} {c : Ctx} {x : Queue} {l : Launch}

/-! ### The other queues' turns -/

/-- Turns of other queues, which have nothing to hand down. -/
def Elsewhere (i q : Nat) (s : State) (K : List (Nat × Nat)) : Prop :=
  ∀ k ∈ K, k ≠ (i, q) ∧ ∀ y, s.ctx? k.1 = some y → y.backlog k.2 = 0

section
variable {K : List (Nat × Nat)}

/-- Contexts whose launches of other queues are as they were have nothing more to hand down there. -/
theorem Elsewhere.congr (h : Elsewhere i q s K)
    (hb : ∀ j k y', (j, k) ≠ (i, q) → t.ctx? j = some y' → ∃ y, s.ctx? j = some y ∧ y'.backlog k = y.backlog k) : Elsewhere i q t K := by
  intro k hk
  obtain ⟨hne, h0⟩ := h k hk
  refine ⟨hne, fun y' hy' => ?_⟩
  obtain ⟨y, hy, he⟩ := hb k.1 k.2 y' hne hy'
  exact he.trans (h0 y hy)

theorem Idled.found_of (h : Idled i q s t) {j : Nat} {y' : Ctx} (hy : t.ctx? j = some y') : ∃ y, s.ctx? j = some y ∧ SameBut y y' := by
  have hr := h.ctx j
  rw [hy] at hr
  cases hs : s.ctx? j with
  | none => rw [hs] at hr; cases hr
  | some y =>
    rw [hs] at hr
    obtain ⟨hb, -⟩ | _ := hr
    exact ⟨y, rfl, hb⟩

theorem Elsewhere.idled (h : Elsewhere i q s K) (hi : Idled i q s t) : Elsewhere i q t K :=
  h.congr fun _ k _ _ hy => let ⟨y, hs, hb⟩ := hi.found_of hy; ⟨y, hs, hb.backlog k⟩

theorem Elsewhere.spent (h : Elsewhere i q s K) (hp : Spent i q s t) (hc : s.ctx? i = some c) : Elsewhere i q t K := by
  refine h.congr fun j k y' hne hy => ?_
  by_cases hj : j = i
  · subst hj
    obtain ⟨g, qs, hg, ht, -⟩ := hp.ctx c hc
    cases ht.symm.trans hy
    exact ⟨c, hc, hg.backlog c qs fun hk => hne (by rw [hk])⟩
  · exact ⟨y', (hp.others j hj).symm.trans hy, rfl⟩

theorem Elsewhere.modQueue (h : Elsewhere i q s K) (f : Queue → Queue) : Elsewhere i q (s.modQueue i q f) K := by
  refine h.congr fun j k y' _ hy => ?_
  by_cases hj : j = i
  · subst hj
    rw [State.modQueue, State.ctx?_modCtx s j (fun c => c.modQueue q f) fun _ h => h] at hy
    obtain ⟨y, hs, rfl⟩ := Option.map_eq_some_iff.1 hy
    exact ⟨y, hs, rfl⟩
  · rw [State.modQueue, State.ctx?_modCtx_of_ne s (fun c => c.modQueue q f) (fun _ => rfl) hj] at hy
    exact ⟨y', hy, rfl⟩

end

/-! ### The round -/

theorem Idled.mem (h : Idled i q s t) : t.mem = s.mem := by rw [h.frame]
theorem Idled.pending (h : Idled i q s t) : t.pending = s.pending := by rw [h.frame]

/-- A round from the turns given on. -/
def State.restOfRound (s : State) (K : List (Nat × Nat)) : State := (K.foldl (fun s k => s.drrQueue k.1 k.2) s).kickRack

/-- The queues in the order of a round. -/
def State.turns (s : State) : List (Nat × Nat) := s.ctxs.flatMap fun c => c.queues.map fun q => (c.id, q.num)

theorem State.settleComplete_of_none (h : ∀ y ∈ s.ctxs, ∀ l ∈ y.launches, l.complete = false) : s.settleComplete = s := by
  have hn : (s.ctxs.flatMap fun c => (c.launches.filter Launch.complete).map fun l => (c.id, l.id)) = [] := by
    refine List.flatMap_eq_nil_iff.2 fun y hy => ?_
    rw [List.filter_eq_nil_iff.2 fun l hl => by rw [h y hy l hl]; decide, List.map_nil]
  rw [State.settleComplete, hn, List.foldl_nil]

/-- A record with a key that no other of the list has. -/
theorem exists_split_of_key {α : Type} {key : α → Nat} {l : List α} {a : α} (hn : (l.map key).Nodup) (ha : a ∈ l) :
    ∃ b r, l = b ++ a :: r ∧ ∀ y ∈ b ++ r, key y ≠ key a := by
  obtain ⟨b, r, rfl⟩ := List.append_of_mem ha
  refine ⟨b, r, rfl, fun y hy he => ?_⟩
  rw [List.map_append, List.map_cons, List.nodup_middle, List.nodup_cons, ← List.map_append] at hn
  exact hn.1 (he ▸ List.mem_map_of_mem hy)

section
variable (hc : s.ctx? c.id = some c) (hx : c.queue? x.num = some x) (hid : (s.ctxs.map (·.id)).Nodup) (hnum : (c.queues.map (·.num)).Nodup)
  (hother : ∀ y ∈ s.ctxs, ∀ z ∈ y.queues, (y.id, z.num) = (c.id, x.num) ∨ y.backlog z.num = 0)
include hc hx hid hnum hother

/-- The queue's turn comes once, among turns of queues with nothing to hand down. -/
theorem State.turns_split : ∃ A B, s.turns = A ++ (c.id, x.num) :: B ∧ Elsewhere c.id x.num s (A ++ B) := by
  obtain ⟨A, B, hs, hA⟩ := exists_split_of_key hid (List.mem_of_find?_eq_some hc)
  obtain ⟨P, Q, hq, hP⟩ := exists_split_of_key hnum (List.mem_of_find?_eq_some hx)
  let pairs : Ctx → List (Nat × Nat) := fun y => y.queues.map fun z => (y.id, z.num)
  refine ⟨A.flatMap pairs ++ P.map fun z => (c.id, z.num), (Q.map fun z => (c.id, z.num)) ++ B.flatMap pairs, ?_, ?_⟩
  · rw [State.turns, hs, List.flatMap_append, List.flatMap_cons, hq]
    simp only [List.map_append, List.map_cons, List.append_assoc, List.cons_append, pairs]
  · have hmem {k : Nat × Nat} (hne : k ≠ (c.id, x.num)) {y : Ctx} (hy : y ∈ s.ctxs) {z : Queue} (hz : z ∈ y.queues) (hk : k = (y.id, z.num)) :
        k ≠ (c.id, x.num) ∧ ∀ y, s.ctx? k.1 = some y → y.backlog k.2 = 0 := by
      refine ⟨hne, fun y' hy' => ?_⟩
      subst hk
      have hyy : y' = y := List.inj_on_of_nodup_map hid (List.mem_of_find?_eq_some hy') hy (State.ctx?_id s hy')
      rw [hyy]
      exact (hother y hy z hz).resolve_left hne
    have hout {y : Ctx} (hy : y ∈ A ++ B) {k : Nat × Nat} (hk : k ∈ pairs y) : k ≠ (c.id, x.num) ∧ ∀ y, s.ctx? k.1 = some y → y.backlog k.2 = 0 := by
      obtain ⟨z, hz, rfl⟩ := List.mem_map.1 hk
      refine hmem (fun he => hA y hy (Prod.mk.inj he).1) ?_ hz rfl
      rw [hs]
      simp only [List.mem_append, List.mem_cons] at hy ⊢
      tauto
    have hin {z : Queue} (hz : z ∈ P ++ Q) : ((c.id, z.num) : Nat × Nat) ≠ (c.id, x.num) ∧ ∀ y, s.ctx? c.id = some y → y.backlog z.num = 0 := by
      refine hmem (k := (c.id, z.num)) (fun he => hP z hz (Prod.mk.inj he).2) (List.mem_of_find?_eq_some hc) ?_ rfl
      rw [hq]
      simp only [List.mem_append, List.mem_cons] at hz ⊢
      tauto
    intro k hk
    simp only [List.mem_append, List.mem_flatMap, List.mem_map] at hk
    rcases hk with (⟨y, hy, hk⟩ | ⟨z, hz, rfl⟩) | (⟨z, hz, rfl⟩ | ⟨y, hy, hk⟩)
    · exact hout (List.mem_append_left _ hy) hk
    · exact hin (List.mem_append_left _ hz)
    · exact hin (List.mem_append_right _ hz)
    · exact hout (List.mem_append_right _ hy) hk

/-- The round, up to the queue's turn and after it. -/
theorem State.drrRound_split (hdone : ∀ y ∈ s.ctxs, ∀ l ∈ y.launches, l.complete = false) : ∃ u B, Idled c.id x.num s u
    ∧ Elsewhere c.id x.num u B
    ∧ exec .drrRound s = .next ((u.drrQueue c.id x.num).restOfRound B) := by
  obtain ⟨A, B, hK, hAB⟩ := State.turns_split hc hx hid hnum hother
  have hA := State.drrQueues_idled A fun k hk => hAB k (List.mem_append_left _ hk)
  refine ⟨_, B, hA, Elsewhere.idled (fun k hk => hAB k (List.mem_append_right _ hk)) hA, ?_⟩
  show execDrrRound s = _
  simp only [execDrrRound, State.settleComplete_of_none hdone]
  rw [← State.turns, hK, List.foldl_append, List.foldl_cons]
  rfl

end

/-- What follows the queue's turn leaves the queue, the launches and memory as the turn did. -/
theorem Elsewhere.rest {K : List (Nat × Nat)} (h : Elsewhere i q t K) (hc : t.ctx? i = some c) :
    ∃ c', (t.restOfRound K).mem = t.mem ∧ (t.restOfRound K).ctx? i = some c' ∧ SameBut c c' ∧ c'.queue? q = c.queue? q
      ∧ t.pending ⊆ (t.restOfRound K).pending := by
  have hi := State.drrQueues_idled K h
  obtain ⟨c', hc', hb, hq⟩ := hi.found hc
  obtain ⟨m, hm⟩ := State.kickRack_eq (K.foldl (fun s k => s.drrQueue k.1 k.2) t)
  rw [State.restOfRound, hm]
  refine ⟨c', hi.mem, hc', hb, hq, ?_⟩
  rw [State.due_pending, hi.pending]
  exact List.subset_append_left ..

/-! ### The queue's turn -/

/-- The deficit of the queue after its quantum, up to the limit (R345). -/
def State.deficit (s : State) (c : Ctx) (x : Queue) : Int := min (x.def_ + Int.ofNat (s.quantum c x)) (Int.ofNat (8 * s.quantum c x))

/-- The state in which the queue's deficit has been topped up. -/
def State.toppedUp (s : State) (i q : Nat) (c : Ctx) (x : Queue) : State :=
  (if Int.ofNat (8 * s.quantum c x) < x.def_ + Int.ofNat (s.quantum c x) then s.clamp else s).modQueue i q fun y => { y with def_ := s.deficit c x }

theorem State.drrQueue_eq (hc : s.ctx? i = some c) (hx : c.queue? q = some x) (hlive : c.life = .live) (hpre : c.preempting = false) :
    s.drrQueue i q = if c.backlog q = 0 then s.modQueue i q fun y => { y with def_ := 0 } else
      (s.toppedUp i q c x).spend (c.backlog q) i q none := by
  simp only [State.drrQueue, hc, hx, hlive, hpre, bne_self_eq_false, Bool.or_self, Bool.false_eq_true, if_false]
  rfl

theorem State.toppedUp_frame (s : State) (i q : Nat) (c : Ctx) (x : Queue) : ∃ n,
    s.toppedUp i q c x = ({ s with rack := { s.rack with clamps := n } } : State).modQueue i q fun y => { y with def_ := s.deficit c x } := by
  unfold State.toppedUp
  split
  · exact ⟨_, rfl⟩
  · exact ⟨s.rack.clamps, rfl⟩

/-- The queue, topped up. -/
theorem State.ctx?_toppedUp (hc : s.ctx? i = some c) :
    (s.toppedUp i q c x).ctx? i = some (c.modQueue q fun y => { y with def_ := s.deficit c x }) := by
  obtain ⟨n, hn⟩ := s.toppedUp_frame i q c x
  rw [hn]
  exact State.ctx?_modCtx_some (s := { s with rack := { s.rack with clamps := n } }) hc _ fun _ => rfl

theorem Ctx.queue?_deficit (hx : c.queue? q = some x) (v : Int) :
    (c.modQueue q fun y => { y with def_ := v }).queue? q = some { x with def_ := v } :=
  Ctx.queue?_modQueue_some hx (fun y => { y with def_ := v }) fun _ => rfl

theorem State.toppedUp_mem (s : State) (i q : Nat) (c : Ctx) (x : Queue) : (s.toppedUp i q c x).mem = s.mem := by
  obtain ⟨n, hn⟩ := s.toppedUp_frame i q c x
  rw [hn]
  rfl

theorem Elsewhere.toppedUp {K : List (Nat × Nat)} (h : Elsewhere i q s K) (c : Ctx) (x : Queue) : Elsewhere i q (s.toppedUp i q c x) K := by
  obtain ⟨n, hn⟩ := s.toppedUp_frame i q c x
  rw [hn]
  exact Elsewhere.modQueue (s := { s with rack := { s.rack with clamps := n } }) h _

/-! ### Events stay due -/

theorem State.voidLaunch_pending_subset (s : State) (i : Nat) (l : Launch) : s.pending ⊆ (s.voidLaunch i l).pending :=
  fun _ he => (State.settleLaunch_unwinds _ _ _ _).pending (List.mem_append_left _ he)

theorem State.spend_pending_subset (s : State) (n i q : Nat) (dry : Option Nat) : s.pending ⊆ (s.spend n i q dry).pending := by
  induction n generalizing s with
  | zero => exact List.Subset.refl _
  | succ n ih =>
    unfold State.spend
    split
    · exact List.Subset.refl _
    split
    · split
      · exact List.Subset.refl _
      split
      · exact s.voidLaunch_pending_subset ..
      · exact fun _ he => ih _ (List.mem_append_left _ he)
    · exact List.Subset.refl _

theorem State.drrQueue_pending_subset (s : State) (i q : Nat) : s.pending ⊆ (s.drrQueue i q).pending := by
  unfold State.drrQueue
  split
  · exact List.Subset.refl _
  split
  · exact List.Subset.refl _
  split
  · exact List.Subset.refl _
  split
  · exact List.Subset.refl _
  · refine List.Subset.trans ?_ (State.spend_pending_subset _ _ _ _ _)
    split <;> exact List.Subset.refl _

theorem State.restOfRound_pending_subset (s : State) (K : List (Nat × Nat)) : s.pending ⊆ (s.restOfRound K).pending := by
  obtain ⟨m, hm⟩ := State.kickRack_eq (K.foldl (fun s k => s.drrQueue k.1 k.2) s)
  rw [State.restOfRound, hm]
  exact List.Subset.trans (pending_subset_foldl (fun t k => t.drrQueue_pending_subset ..) K s) (List.subset_append_left ..)

end Sys2Proof.Machine

/-! ## What a round does for a queue (R345, O58) -/

namespace Sys2Proof.Machine

variable {s t u : State} {i q : Nat} {c : Ctx} {x : Queue} {l : Launch}

/-- The round completes with memory as it was, and the queue is then as P says. -/
def RoundAfter (s : State) (c : Ctx) (x : Queue) (P : State → Ctx → Queue → Prop) : Prop :=
  ∃ t c' x', exec .drrRound s = .next t ∧ t.mem = s.mem ∧ t.ctx? c.id = some c' ∧ c'.queue? x.num = some x' ∧ P t c' x'

theorem SameBut.nextLaunch {c' : Ctx} (h : SameBut c c') (q : Nat) : c'.nextLaunch q = c.nextLaunch q := by
  rw [Ctx.nextLaunch, h.launches, Ctx.nextLaunch]

theorem SameBut.kept {c' : Ctx} (h : SameBut c c') : c'.life = c.life ∧ c'.preempting = c.preempting ∧ c'.id = c.id := by
  obtain ⟨qs, rfl⟩ := h
  exact ⟨rfl, rfl, rfl⟩

theorem Idled.deficit {c' : Ctx} (h : Idled i q s u) (hb : SameBut c c') (x : Queue) : u.deficit c' x = s.deficit c x := by
  have hf (n : Nat) : u.fn? n = s.fn? n := by rw [State.fn?, h.frame, State.fn?]
  simp only [State.deficit, State.quantum, hb.kept.2.2, hf]

theorem Ctx.backlog_ne_zero (h : c.nextLaunch q = some l) : c.backlog q ≠ 0 := by
  obtain ⟨hmem, hq, hlt, hbad⟩ := Ctx.nextLaunch_spec h
  have hm : l ∈ c.launches.filter fun l => l.q == q && !l.bad := by simp [hmem, hq, hbad]
  intro h0
  have := List.sum_eq_zero_iff.1 h0 _ (List.mem_map.2 ⟨l, hm, rfl⟩)
  omega

/-- The chunk of a launch is the same wherever the context's queues and the round's clamps alone differ. -/
theorem State.chunks_congr {c' : Ctx} (hb : SameBut c c') (hw : ∃ n cs, t = { s with ctxs := cs, rack := { s.rack with clamps := n } }) (l : Launch) :
    t.chunks c' l = s.chunks c l := by
  obtain ⟨qs, rfl⟩ := hb
  obtain ⟨n, cs, rfl⟩ := hw
  rfl

theorem Spent.mem (h : Spent i q s t) : t.mem = s.mem := by rw [h.frame]

theorem Ctx.launch?_of_mem (hn : (c.launches.map (·.id)).Nodup) (hl : l ∈ c.launches) : c.launch? l.id = some l := by
  have hs : (c.launches.find? fun a => a.id == l.id).isSome = true := List.find?_isSome.2 ⟨l, hl, beq_self_eq_true _⟩
  obtain ⟨a, ha⟩ := Option.isSome_iff_exists.1 hs
  have hid : a.id = l.id := by simpa using List.find?_some ha
  rw [← List.inj_on_of_nodup_map hn (List.mem_of_find?_eq_some ha) hl hid]
  exact hid ▸ ha

/-- A queue with credit hands down a chunk of its next launch, then goes on. -/
theorem State.handDown_spend (n : Nat) (hc : s.ctx? i = some c) (hq : (c.queue? q).isSome = true) (hl : c.nextLaunch q = some l)
    (hn : (c.launches.map (·.id)).Nodup) (hf : ∀ y ∈ c.launches, y.neverFits = false) :
    Spent i q s ((s.handDown c l).spend n i q none) ∧ s.chunks c l ⊆ ((s.handDown c l).spend n i q none).pending
      ∧ ∃ c', ((s.handDown c l).spend n i q none).ctx? i = some c' ∧ (c'.queue? q).isSome = true
        ∧ ∃ l', c'.launch? l.id = some l' ∧ l.next + min 64 (l.nblk - l.next) ≤ l'.next := by
  obtain ⟨hmem, hlq, -, -⟩ := Ctx.nextLaunch_spec hl
  have h1 : Spent i q s (s.handDown c l) := hlq ▸ State.handDown_spent hc hmem hn
  have hg1 : HandsDown q (chunkOf l (s.est i l.entry)) := hlq ▸ chunkOf_handsDown l _
  have hc1 := State.ctx?_handDown hc hmem hn
  have hq1 : ((c.handed (chunkOf l (s.est i l.entry))
      (c.modQueue l.q (Queue.charged (min 64 (l.nblk - l.next)) (s.est i l.entry))).queues).queue? q).isSome = true :=
    Ctx.queue?_modQueue_isSome c l.q _ (fun _ => by rfl) hq
  have h2 := State.spend_spent n hc1 hq1 (hg1.nodup _ hn) (hg1.neverFits _ hf)
  refine ⟨h1.trans h2, List.Subset.trans (List.subset_append_right ..) h2.pending, ?_⟩
  obtain ⟨g, qs, hg, ht, hkept⟩ := h2.ctx _ hc1
  have hfind : c.launch? l.id = some l := Ctx.launch?_of_mem hn hmem
  refine ⟨_, ht, hkept q hq1, g (chunkOf l (s.est i l.entry) l), ?_, ?_⟩
  · rw [hg.launch?, hg1.launch?, hfind]
    rfl
  · rw [chunkOf_self]
    exact hg.next (l.handed _ _)

section
variable (hc : s.ctx? c.id = some c) (hx : c.queue? x.num = some x) (hlive : c.life = .live) (hpre : c.preempting = false)
  (hid : (s.ctxs.map (·.id)).Nodup) (hnum : (c.queues.map (·.num)).Nodup)
  (hother : ∀ y ∈ s.ctxs, ∀ z ∈ y.queues, (y.id, z.num) = (c.id, x.num) ∨ y.backlog z.num = 0)
  (hdone : ∀ y ∈ s.ctxs, ∀ l ∈ y.launches, l.complete = false)
include hc hx hlive hpre hid hnum hother hdone

/-- The queue's turn, and the state that the round makes of what the turn leaves. -/
theorem drrRound_turn : ∃ u c' B, Idled c.id x.num s u ∧ u.ctx? c.id = some c' ∧ SameBut c c' ∧ c'.queue? x.num = some x
    ∧ Elsewhere c.id x.num u B
    ∧ exec .drrRound s = .next ((if c.backlog x.num = 0 then u.modQueue c.id x.num fun y => { y with def_ := 0 }
      else (u.toppedUp c.id x.num c' x).spend (c.backlog x.num) c.id x.num none).restOfRound B) := by
  obtain ⟨u, B, hA, hB, he⟩ := State.drrRound_split hc hx hid hnum hother hdone
  obtain ⟨c', hc', hb, hq⟩ := hA.found hc
  refine ⟨u, c', B, hA, hc', hb, hq.trans hx, hB, ?_⟩
  obtain ⟨hlife, hpre', -⟩ := hb.kept
  rw [he, State.drrQueue_eq hc' (hq.trans hx) (hlife.trans hlive) (hpre'.trans hpre), hb.backlog]

theorem drrRound_of_empty (h0 : c.backlog x.num = 0) :
    RoundAfter s c x fun _ c' x' => x'.def_ = 0 ∧ c'.launches = c.launches := by
  obtain ⟨u, c', B, hA, hc', hb, hq, hB, he⟩ := drrRound_turn hc hx hlive hpre hid hnum hother hdone
  rw [if_pos h0] at he
  obtain ⟨c1, hm, hc1, hb1, hq1, -⟩ := (hB.modQueue fun y => { y with def_ := 0 }).rest
    (State.ctx?_modCtx_some hc' (fun c => c.modQueue x.num fun y => { y with def_ := 0 }) fun _ => rfl)
  exact ⟨_, c1, _, he, hm.trans hA.mem, hc1, hq1.trans (Ctx.queue?_modQueue_some hq (fun y => { y with def_ := 0 }) fun _ => rfl), rfl,
    hb1.launches.trans hb.launches⟩

theorem drrRound_of_debt (h0 : c.backlog x.num ≠ 0) (hv : s.deficit c x ≤ 0) :
    RoundAfter s c x fun _ c' x' => x'.def_ = s.deficit c x ∧ c'.launches = c.launches := by
  obtain ⟨u, c', B, hA, hc', hb, hq, hB, he⟩ := drrRound_turn hc hx hlive hpre hid hnum hother hdone
  have hd := hA.deficit hb x
  have hct := State.ctx?_toppedUp (q := x.num) (x := x) hc'
  have hqt := Ctx.queue?_deficit hq (u.deficit c' x)
  have hspend : (u.toppedUp c.id x.num c' x).spend (c.backlog x.num) c.id x.num none = u.toppedUp c.id x.num c' x := by
    obtain ⟨n, hn⟩ := Nat.exists_eq_succ_of_ne_zero h0
    rw [hn, State.spend_succ hct hqt]
    split
    · rfl
    · exact if_pos (hd.symm ▸ hv)
  rw [if_neg h0, hspend] at he
  obtain ⟨c1, hm, hc1, hb1, hq1, -⟩ := (hB.toppedUp c' x).rest hct
  exact ⟨_, c1, _, he, hm.trans ((u.toppedUp_mem ..).trans hA.mem), hc1, hq1.trans hqt, hd, hb1.launches.trans hb.launches⟩

variable (hv : 0 < s.deficit c x) (hl : c.nextLaunch x.num = some l)
include hv hl

/-- The turn of a queue with credit: its next launch is voided, or hands down a chunk and the queue goes on. -/
theorem drrRound_turn_of_credit : ∃ u c' B n, Idled c.id x.num s u ∧ u.ctx? c.id = some c' ∧ SameBut c c' ∧ c'.queue? x.num = some x
    ∧ Elsewhere c.id x.num u B ∧ exec .drrRound s = .next
      ((if l.neverFits then (u.toppedUp c.id x.num c' x).voidLaunch c.id l
        else ((u.toppedUp c.id x.num c' x).handDown (c'.modQueue x.num fun y => { y with def_ := s.deficit c x }) l).spend n c.id x.num none).restOfRound
          B) := by
  obtain ⟨u, c', B, hA, hc', hb, hq, hB, he⟩ := drrRound_turn hc hx hlive hpre hid hnum hother hdone
  have hd := hA.deficit hb x
  obtain ⟨n, hn⟩ := Nat.exists_eq_succ_of_ne_zero (Ctx.backlog_ne_zero hl)
  have hnext : (c'.modQueue x.num fun y => { y with def_ := u.deficit c' x }).nextLaunch x.num = some l :=
    (hb.nextLaunch x.num).trans hl
  refine ⟨u, c', B, n, hA, hc', hb, hq, hB, ?_⟩
  rw [he, if_neg (Ctx.backlog_ne_zero hl), hn, State.spend_succ (State.ctx?_toppedUp hc') (Ctx.queue?_deficit hq _), hnext, ← hd]
  dsimp only
  rw [if_neg (by rw [hd]; omega)]

theorem drrRound_voids (hnf : l.neverFits = true) :
    ∃ t r, exec .drrRound s = .next t ∧ .trapRecordPost c.id r ∈ t.pending ∧ r.code = 0x18 ∧ r.sub = 0 ∧ r.lser = l.lser := by
  obtain ⟨u, c', B, n, -, -, -, -, -, he⟩ := drrRound_turn_of_credit hc hx hlive hpre hid hnum hother hdone hv hl
  rw [if_pos hnf] at he
  obtain ⟨r, hr, hfields⟩ := State.launchBadRecord_recorded _ c.id l 0
  exact ⟨_, r, he, State.restOfRound_pending_subset _ _ ((State.settleLaunch_unwinds _ _ _ _).pending hr), hfields⟩

theorem drrRound_hands (hn : (c.launches.map (·.id)).Nodup) (hf : ∀ y ∈ c.launches, y.neverFits = false) :
    RoundAfter s c x fun t c' _ => (∃ l', c'.launch? l.id = some l' ∧ l.next + min 64 (l.nblk - l.next) ≤ l'.next)
      ∧ ∀ i < min 64 (l.nblk - l.next), (s.placeKey c l (l.next + i)).1 ∈ c.dies.map (·.1) →
          ∃ idxs pk, .chunkAppend c.id l.id pk idxs ∈ t.pending ∧ l.next + i ∈ idxs := by
  obtain ⟨u, c', B, n, hA, hc', hb, hq, hB, he⟩ := drrRound_turn_of_credit hc hx hlive hpre hid hnum hother hdone hv hl
  obtain ⟨hmem, -, -, -⟩ := Ctx.nextLaunch_spec hl
  rw [if_neg (by rw [hf l hmem]; decide)] at he
  have hct := State.ctx?_toppedUp (q := x.num) (x := x) hc'
  rw [hA.deficit hb x] at hct
  have hbw : SameBut c (c'.modQueue x.num fun y => { y with def_ := s.deficit c x }) := hb.trans ⟨_, rfl⟩
  have hqw : ((c'.modQueue x.num fun y => { y with def_ := s.deficit c x }).queue? x.num).isSome = true := by
    rw [Ctx.queue?_deficit hq]
    rfl
  obtain ⟨hspent, hchunks, c1, hc1, hq1, l', hl', hle⟩ := State.handDown_spend n hct hqw ((hbw.nextLaunch _).trans hl)
    (by rwa [hbw.launches]) (by rwa [hbw.launches])
  obtain ⟨c2, hm, hc2, hb2, hq2, hp2⟩ := ((hB.toppedUp c' x).spent hspent hct).rest hc1
  obtain ⟨x', hx'⟩ := Option.isSome_iff_exists.1 hq1
  refine ⟨_, c2, x', he, hm.trans (hspent.mem.trans ((u.toppedUp_mem ..).trans hA.mem)), hc2, hq2.trans hx', ?_, ?_⟩
  · refine ⟨l', ?_, hle⟩
    rw [Ctx.launch?, hb2.launches]
    exact hl'
  · intro k hk hd
    obtain ⟨idxs, pk, hmemc, hidx⟩ := State.mem_chunks hk hd
    refine ⟨idxs, pk, hp2 (hchunks ?_), hidx⟩
    have hw : ∃ n cs, u.toppedUp c.id x.num c' x = { s with ctxs := cs, rack := { s.rack with clamps := n } } := by
      obtain ⟨m, hm⟩ := u.toppedUp_frame c.id x.num c' x
      rw [hm, hA.frame]
      exact ⟨m, _, rfl⟩
    rwa [State.chunks_congr hbw hw]

end

end Sys2Proof.Machine

/-! ## Costs, chunks, phase cleans, steals and the tray distributor (O58) -/

namespace Sys2Proof.Machine

variable {s t u : State} {c : Ctx} {x : Queue} {l : Launch} {pkg die : Nat} {d : Die}

theorem State.kickRack_ctxs (s : State) : s.kickRack.ctxs = s.ctxs := by
  obtain ⟨m, hm⟩ := s.kickRack_eq
  rw [hm]
  rfl

theorem State.kickRack_pending_subset (s : State) : s.pending ⊆ s.kickRack.pending := by
  obtain ⟨m, hm⟩ := s.kickRack_eq
  rw [hm]
  exact s.due_pending_subset m

/-! ### Costs (R345) -/

/-- The deficit of the queue of a block or task, its cost charged for the estimate, down to the limit. -/
def State.costed (s : State) (c : Ctx) (l : Launch) (x : Queue) (b : BlkId) (cost : Nat) : Int :=
  max (x.def_ + Int.ofNat (if b.task then 0 else l.ests.get 0 (b.idx / 64)) - Int.ofNat cost) (-Int.ofNat (8 * s.quantum c x))

theorem State.ctx?_costCharge {b : BlkId} (hb : b.ctx = c.id) (hc : s.ctx? c.id = some c) (hl : c.launch? b.launch = some l)
    (hx : c.queue? l.q = some x) (cost : Nat) :
    (s.costCharge b cost).ctx? c.id = some (c.modQueue l.q fun y => { y with def_ := s.costed c l x b cost }) := by
  have hm (u : State) (hu : u.ctx? c.id = some c) :=
    State.ctx?_modCtx_some hu (fun c' => c'.modQueue l.q fun y => { y with def_ := s.costed c l x b cost }) fun _ => rfl
  cases ht : b.task
  all_goals
    simp only [State.costCharge, State.costed, hb, hc, hl, hx, ht, if_true, if_false, Bool.false_eq_true] at hm ⊢
    split
    · exact hm s.clamp hc
    · exact hm s hc

theorem blockCostCharge_charges {b : BlkId} (hb : b.ctx = c.id) (hc : s.ctx? c.id = some c) (hl : c.launch? b.launch = some l)
    (hx : c.queue? l.q = some x) (cost : Nat) :
    ∃ t c' x', exec (.blockCostCharge b cost) s = .next t ∧ t.mem = s.mem ∧ t.ctx? c.id = some c' ∧ c'.queue? l.q = some x'
      ∧ x'.def_ = s.costed c l x b cost := by
  refine ⟨_, _, _, rfl, ?_, ?_, Ctx.queue?_deficit hx _, rfl⟩
  · rw [State.kickRack_mem, State.costCharge_mem]
  · rw [State.ctx?, State.kickRack_ctxs]
    exact State.ctx?_costCharge hb hc hl hx cost

/-! ### Chunks (R347) -/

theorem State.kickDie_dies (s : State) (p d : Nat) : (s.kickDie p d).dies = s.dies := by
  unfold State.kickDie
  (repeat' split) <;> rfl

theorem State.kickDies_dies (s : State) : s.kickDies.dies = s.dies := foldl_keeps (g := State.dies) (fun t _ => t.kickDie_dies ..) _ s

/-- One block joins the list of its key's die. -/
def State.addBlk (c : Ctx) (l : Launch) (pkg : Nat) (s : State) (i : Nat) : State :=
  let key := s.placeKey c l i
  let b := l.blk c.id i key (pkg, key.2)
  ({ s with blks := s.blks ++ [b] }).modDie pkg key.2 fun d => { d with list := listPut b.id d.list }

theorem State.placeKey_congr (hc : t.pkgs = s.pkgs) (hr : t.rack = s.rack) (c : Ctx) (l : Launch) (i : Nat) : t.placeKey c l i = s.placeKey c l i := by
  have hh (n : Nat) : t.hsalt n = s.hsalt n := by rw [State.hsalt, State.pkg?, hc, hr, State.hsalt, State.pkg?]
  simp only [State.placeKey, State.saltOf, hh]

/-- What a chunk's blocks leave. -/
theorem State.addBlks_frame (c : Ctx) (l : Launch) (pkg : Nat) (idxs : List Nat) (s : State) :
    ∃ ds, idxs.foldl (State.addBlk c l pkg) s = { s with
      dies := ds, blks := s.blks ++ idxs.map fun i => l.blk c.id i (s.placeKey c l i) (pkg, (s.placeKey c l i).2) } := by
  induction idxs generalizing s with
  | nil => exact ⟨s.dies, by simp⟩
  | cons i r ih =>
    obtain ⟨ds, hds⟩ := ih (State.addBlk c l pkg s i)
    refine ⟨ds, ?_⟩
    rw [List.foldl_cons, hds]
    have hk (j : Nat) : (State.addBlk c l pkg s i).placeKey c l j = s.placeKey c l j := State.placeKey_congr rfl rfl c l j
    simp only [hk]
    simp only [State.addBlk, State.modDie, List.map_cons, List.append_assoc, List.cons_append, List.nil_append]

theorem chunkAppend_eq {launch : Nat} {idxs : List Nat} (hc : s.ctx? c.id = some c) (hlive : c.life = .live) (hl : c.launch? launch = some l)
    (hb : l.bad = false) : exec (.chunkAppend c.id launch pkg idxs) s = .next (idxs.foldl (State.addBlk c l pkg) s).kickDies := by
  show execChunkAppend c.id launch pkg idxs s = _
  simp only [execChunkAppend, hc, hl, hb, hlive, bne_self_eq_false, Bool.or_self, Bool.false_eq_true, if_false]
  rfl

theorem chunkAppend_joins {launch : Nat} {idxs : List Nat} (hc : s.ctx? c.id = some c) (hlive : c.life = .live) (hl : c.launch? launch = some l)
    (hb : l.bad = false) :
    ∃ t, exec (.chunkAppend c.id launch pkg idxs) s = .next t ∧ t.mem = s.mem
      ∧ t.blks = s.blks ++ idxs.map (fun i => l.blk c.id i (s.placeKey c l i) (pkg, (s.placeKey c l i).2))
      ∧ ∀ i d, idxs = [i] → s.die? pkg (s.placeKey c l i).2 = some d →
          t.die? pkg (s.placeKey c l i).2 = some { d with list := listPut ⟨c.id, false, launch, i⟩ d.list } := by
  obtain ⟨ds, hds⟩ := State.addBlks_frame c l pkg idxs s
  refine ⟨_, chunkAppend_eq hc hlive hl hb, ?_, ?_, ?_⟩
  · rw [State.kickDies_mem, hds]
  · rw [State.kickDies_blks, hds]
  · rintro i d rfl hd
    have hid : l.id = launch := by simpa using List.find?_some hl
    rw [State.die?, State.kickDies_dies]
    refine (State.die?_modDie_some (s := { s with blks := _ }) hd (fun d => { d with list := listPut _ d.list }) (by exact fun _ => ⟨rfl, rfl⟩)).trans ?_
    rw [← hid]
    rfl

/-! ### Phase cleans (R97) -/

theorem phaseClean_cleans (hd : s.die? pkg die = some d) {ctx : Nat} (q ph : Nat)
    (hbufs : ∀ k ∈ s.cores, k.id.pkg = pkg → k.id.die = die → ∀ b ∈ k.wc, b.ctx ≠ ctx) (hops : ∀ o ∈ s.ops, o.ctx = ctx → o.store = false)
    (hway : ∀ r ∈ s.onWay, r.ctx = ctx → r.kind ≠ .store) :
    ∃ t d', exec (.phaseClean pkg die ctx q ph) s = .next t ∧ t.mem = s.mem ∧ t.die? pkg die = some d'
      ∧ d'.phase.get 0 (phaseKey ctx q) = ph ∧ d'.g.get 0 ctx = (d.g.get 0 ctx + 1) % 65536 := by
  let here := fun (c : CoreId) => c.pkg == pkg && c.die == die
  let bumped : State := { s with cores := s.cores.map fun k => if here k.id then k.bump ctx else k }
  let rec_ := fun (d : Die) => { d.bump ctx with phase := d.phase.set 0 (phaseKey ctx q) ph }
  have he : exec (.phaseClean pkg die ctx q ph) s = .next ((bumped.modDie pkg die rec_).kickDie pkg die) := by
    show execPhaseClean pkg die ctx q ph s = _
    simp only [execPhaseClean, hd]
    rw [if_neg]
    simp only [Bool.or_eq_true, not_or]
    refine ⟨fun h => ?_, fun h => ?_, fun h => ?_⟩
    · rw [Bool.not_eq_true', List.isEmpty_eq_false_iff] at h
      refine h (List.flatMap_eq_nil_iff.2 fun k hk => ?_)
      split
      · next hh =>
        simp only [Bool.and_eq_true, beq_iff_eq] at hh
        rw [List.filter_eq_nil_iff.2 fun b hb => by simpa using hbufs k hk hh.1 hh.2 b hb, List.map_nil]
      · rfl
    · obtain ⟨o, ho, hp⟩ := List.any_eq_true.1 h
      simp only [Bool.and_eq_true, beq_iff_eq] at hp
      rw [hops o ho hp.1.2] at hp
      exact Bool.false_ne_true hp.1.1
    · obtain ⟨r, hr, hp⟩ := List.any_eq_true.1 h
      simp only [Bool.and_eq_true, beq_iff_eq] at hp
      exact hway r hr hp.1.2 hp.1.1
  refine ⟨_, rec_ d, he, by rw [State.kickDie_mem]; rfl, ?_, Tab.get_set_self .., Tab.get_set_self ..⟩
  rw [State.die?, State.kickDie_dies]
  exact State.die?_modDie_some (s := bumped) hd rec_ fun _ => ⟨rfl, rfl⟩

/-! ### The tray distributor (R352) -/

section
variable {tray : Nat} (hp : s.trayPkgs tray ≠ [])
include hp

theorem trayPkgs_isEmpty : (s.trayPkgs tray).isEmpty = false := List.isEmpty_eq_false_iff.2 hp

theorem trayStandbyTakeover_takes (hup : s.trayUp tray = false) (hs : tray ∉ s.rack.slot1) :
    ∃ t, exec (.trayStandbyTakeover tray) s = .next t ∧ t.mem = s.mem ∧ tray ∈ t.rack.slot1 ∧ .trayCostForward tray ∈ t.pending := by
  have hs' : s.rack.slot1.contains tray = false := by simpa using hs
  have he : exec (.trayStandbyTakeover tray) s = _ :=
    (if_neg (by rw [trayPkgs_isEmpty hp]; decide)).trans (if_neg (by rw [hup, hs']; decide))
  exact ⟨_, he, rfl, List.mem_append_right _ (List.mem_singleton.2 rfl), List.mem_append_right _ (List.mem_singleton.2 rfl)⟩

variable (hup : s.trayUp tray = true)
include hup

theorem trayLengthCollect_collects (hc : c ∈ s.ctxs) :
    ∃ t, exec (.trayLengthCollect tray) s = .next t ∧ t.mem = s.mem ∧ (∀ d ∈ s.dies, d.pkg / 4 = tray →
        (c.id, d.pkg, d.die, (d.list.filter fun i => i.ctx == c.id).length) ∈ t.rack.lens)
      ∧ ∀ x ∈ s.rack.lens, inTray tray x = false → x ∈ t.rack.lens := by
  have he : exec (.trayLengthCollect tray) s = _ := (if_neg (by rw [trayPkgs_isEmpty hp]; decide)).trans (if_neg (by rw [hup]; decide))
  refine ⟨_, he, rfl, fun d hd ht => ?_, fun x hx hi => ?_⟩
  · refine List.mem_append_right _ (List.mem_flatMap.2 ⟨c, hc, List.mem_map.2 ⟨d, List.mem_filter.2 ⟨hd, ?_⟩, rfl⟩⟩)
    exact beq_iff_eq.2 ht
  · exact List.mem_append_left _ (List.mem_filter.2 ⟨hx, by rw [hi]; rfl⟩)

theorem trayCostForward_forwards :
    ∃ t, exec (.trayCostForward tray) s = .next t ∧ t.mem = s.mem ∧ (∀ x ∈ t.rack.costs, x.1 ≠ tray)
      ∧ ∀ x ∈ s.rack.costs, x.1 = tray → .blockCostCharge x.2.1 x.2.2 ∈ t.pending := by
  have he : exec (.trayCostForward tray) s = _ := (if_neg (by rw [trayPkgs_isEmpty hp]; decide)).trans (if_neg (by rw [hup]; decide))
  have hr (u : State) : u.kickRack.rack = u.rack := by
    obtain ⟨m, hm⟩ := u.kickRack_eq
    rw [hm]
    rfl
  refine ⟨_, he, State.kickRack_mem _, fun x hx => ?_, fun x hx ht => ?_⟩
  · rw [hr] at hx
    simpa using (List.mem_filter.1 hx).2
  · exact State.kickRack_pending_subset _ (List.mem_append_right _ (List.mem_map.2 ⟨x, List.mem_filter.2 ⟨hx, beq_iff_eq.2 ht⟩, rfl⟩))

theorem trayStandbyRefresh_copies :
    ∃ t, exec (.trayStandbyRefresh tray) s = .next t ∧ t.mem = s.mem ∧ (tray, s.rack.lens.filter (inTray tray)) ∈ t.rack.standby := by
  have he : exec (.trayStandbyRefresh tray) s = _ := (if_neg (by rw [trayPkgs_isEmpty hp]; decide)).trans (if_neg (by rw [hup]; decide))
  exact ⟨_, he, rfl, List.mem_append_right _ (List.mem_singleton.2 rfl)⟩

end

end Sys2Proof.Machine

/-! ## Steals (R351, R352, O58) -/

namespace Sys2Proof.Machine

variable {s t u : State} {c : Ctx} {pkg die : Nat} {d v : Die}

theorem findSome?_of_unique {α β : Type} {f : α → Option β} {l : List α} {a : α} {b : β} (ha : a ∈ l) (hf : f a = some b)
    (ho : ∀ y ∈ l, y = a ∨ f y = none) : l.findSome? f = some b := by
  induction l with
  | nil => cases ha
  | cons y r ih =>
    rcases ho y List.mem_cons_self with rfl | hn
    · rw [List.findSome?_cons, hf]
    · rw [List.findSome?_cons, hn]
      rcases List.mem_cons.1 ha with rfl | ha
      · exact absurd (hn.symm.trans hf) nofun
      · exact ih ha fun y hy => ho y (List.mem_cons_of_mem _ hy)

/-- A steal takes blocks of the context alone. -/
theorem State.ctx_of_mem_stealTail {i : BlkId} (h : i ∈ s.stealTail c d) : i.ctx = c.id := by
  have hmine {j : BlkId} (hj : j ∈ d.list.filter fun i => i.ctx == c.id) : j.ctx = c.id := by simpa using (List.mem_filter.1 hj).2
  unfold State.stealTail at h
  extract_lets mine clus clusters at h
  split at h
  · cases h
  next t _ =>
  split at h
  · cases h
  split at h
  · have h1 := List.mem_of_mem_take (List.mem_reverse.1 h)
    exact hmine (List.mem_reverse.1 ((List.takeWhile_prefix _).subset h1))
  split at h
  · next hall => exact hmine (List.contains_iff_mem.1 (List.all_eq_true.1 hall i h))
  · cases h

/-- The lists of the dies after blocks have moved. -/
theorem State.moveBlks_dies (s : State) (pkg die : Nat) (ids : List BlkId) : (s.moveBlks pkg die ids).dies =
    updFirst (fun x => x.pkg == pkg && x.die == die) (fun d => { d with list := d.list ++ ids })
      (s.dies.map fun d => { d with list := d.list.filter fun i => !ids.contains i }) := by
  unfold State.moveBlks
  rw [State.kickDie_dies]
  exact foldl_keeps (g := State.dies) (by exact fun _ _ => rfl) ids _

/-- The lists of the dies but for the blocks of a steal. -/
def State.stripped (s : State) (ids : List BlkId) : State :=
  { s with dies := s.dies.map fun d => { d with list := d.list.filter fun i => !ids.contains i } }

theorem State.die?_stripped (s : State) (ids : List BlkId) (p i : Nat) :
    (s.stripped ids).die? p i = (s.die? p i).map fun d => { d with list := d.list.filter fun i => !ids.contains i } := by
  simp only [State.die?, State.stripped, List.find?_map]
  rfl

theorem State.die?_moveBlks_thief (hd : s.die? pkg die = some d) (hl : d.list = []) (ids : List BlkId) :
    (s.moveBlks pkg die ids).die? pkg die = some { d with list := ids } := by
  have hs : (s.stripped ids).die? pkg die = some { d with list := [] } := by
    rw [State.die?_stripped, hd, Option.map_some, hl]
    rfl
  rw [State.die?, State.moveBlks_dies]
  exact State.die?_modDie_some (s := s.stripped ids) hs (fun d => { d with list := d.list ++ ids }) (by exact fun _ => ⟨rfl, rfl⟩)

theorem State.die?_moveBlks_victim (ids : List BlkId) {p i : Nat} (hne : (p, i) ≠ (pkg, die)) :
    (s.moveBlks pkg die ids).die? p i = (s.die? p i).map fun d => { d with list := d.list.filter fun i => !ids.contains i } := by
  rw [← State.die?_stripped, State.die?, State.moveBlks_dies]
  refine find?_updFirst_of_ne (by exact fun _ _ => rfl) (fun a ha => ?_) _
  simp only [Bool.and_eq_true, beq_iff_eq] at ha
  obtain ⟨rfl, rfl⟩ := ha
  simpa using fun h1 h2 => hne (by rw [h1, h2])

/-- A steal of a context without a log is made at once. -/
theorem State.stealAt_of_unlogged (hc : s.ctx? c.id = some c) (hr : c.rings = []) {ids : List BlkId} (hne : ids ≠ []) (hids : ∀ i ∈ ids, i.ctx = c.id)
    (opt : Nat) (ev : Instr) (victim : Nat) :
    ∃ h, s.stealAt c opt pkg die ev ids victim = ({ s with held := h } : State).moveBlks pkg die ids := by
  obtain ⟨i, r, rfl⟩ := List.exists_cons_of_ne_nil hne
  let pay := BitVec.ofNat 64 (victim + (i :: r).length * 2 ^ 32)
  obtain ⟨h, hh⟩ := State.atPointLate_of_unlogged (s := s) (e := { s.blkEv (c.logical pkg) opt 0x09 i pay with pay := pay })
    (fun c' hc' => by
      have hi : ({ s.blkEv (c.logical pkg) opt 0x09 i pay with pay := pay } : LogEv).ctx = c.id := hids i List.mem_cons_self
      rw [hi, hc] at hc'
      cases hc'
      exact hr) ev
  exact ⟨h, hh none fun s => (s.moveBlks pkg die (i :: r), pay)⟩

/-- What a steal by an idle die leaves. -/
theorem State.stealAt_moves (hc : s.ctx? c.id = some c) (hr : c.rings = []) (hd : s.die? pkg die = some d) (hl : d.list = []) {v : Die}
    (hne : s.stealTail c v ≠ []) (opt : Nat) (ev : Instr) (n : Nat) :
    ∃ d', (s.stealAt c opt pkg die ev (s.stealTail c v) n).mem = s.mem
      ∧ (s.stealAt c opt pkg die ev (s.stealTail c v) n).die? pkg die = some d' ∧ d'.list = s.stealTail c v
      ∧ ∀ p i, (p, i) ≠ (pkg, die) → (s.stealAt c opt pkg die ev (s.stealTail c v) n).die? p i =
          (s.die? p i).map fun d => { d with list := d.list.filter fun i => !(s.stealTail c v).contains i } := by
  obtain ⟨h, hh⟩ := State.stealAt_of_unlogged (pkg := pkg) (die := die) hc hr hne (fun i hi => State.ctx_of_mem_stealTail hi) opt ev n
  rw [hh]
  exact ⟨_, State.moveBlks_mem .., State.die?_moveBlks_thief (s := { s with held := h }) hd hl _, rfl,
    fun p i hpi => State.die?_moveBlks_victim (s := { s with held := h }) _ hpi⟩

/-- The longest list is of the package named, and not of the die excluded. -/
theorem State.longest_spec {p : Nat} {no : Option Nat} (h : s.longest c p no = some v) : v.pkg = p ∧ no ≠ some v.die := by
  unfold State.longest at h
  suffices hf : ∀ (l : List Die) (best : Option Die), (∀ y ∈ l, y.pkg = p ∧ no ≠ some y.die) →
      (∀ y, best = some y → y.pkg = p ∧ no ≠ some y.die) → ∀ y, l.foldl _ best = some y → y.pkg = p ∧ no ≠ some y.die from
    hf _ none (fun y hy => by simpa using (List.mem_filter.1 hy).2) (by exact nofun) v h
  intro l
  induction l with
  | nil => exact fun best _ hb y hy => hb y hy
  | cons e r ih =>
    intro best hl hb y hy
    refine ih _ (fun y hy => hl y (List.mem_cons_of_mem _ hy)) (fun z hz => ?_) y hy
    cases best with
    | none =>
      cases hz
      exact hl e List.mem_cons_self
    | some b =>
      dsimp only at hz
      split at hz
      · cases hz
        exact hl e List.mem_cons_self
      · exact hb z hz

section
variable (hc : s.ctx? c.id = some c) (hd : s.die? pkg die = some d) (hr : c.rings = []) (hrep : c.replays = false) (hl : d.list = [])
  (hpl : c.places pkg = true) (hdie : ∃ x ∈ c.dies, x.2.1 = pkg ∧ x.2.2 = die) (hother : ∀ y ∈ s.ctxs, y = c ∨ y.places pkg = false)
include hc hd hr hrep hl hpl hdie hother

omit hc hd hr hrep hl hpl hother in
theorem thief_of_partition : (c.dies.any fun x => x.2.1 == pkg && x.2.2 == die) = true := by
  obtain ⟨x, hx, rfl, rfl⟩ := hdie
  exact List.any_eq_true.2 ⟨x, hx, by simp⟩

theorem stealWithinPackage_steals (hv : s.longest c pkg (some die) = some v) (hne : s.stealTail c v ≠ [])
    (hroom : s.stealRoom pkg die (s.stealTail c v) = true) :
    ∃ t d', exec (.stealWithinPackage pkg die) s = .next t ∧ t.mem = s.mem ∧ t.die? pkg die = some d' ∧ d'.list = s.stealTail c v
      ∧ ∀ y, s.die? v.pkg v.die = some v → t.die? v.pkg v.die = some y → y.list = v.list.filter fun i => !(s.stealTail c v).contains i := by
  obtain ⟨d', hmem, hd', hl', hv'⟩ := State.stealAt_moves hc hr hd hl hne (optId 6 (c.logical pkg) die 0) (.stealWithinPackage pkg die)
    (optId 6 (c.logical pkg) v.die 0)
  have hvne := (State.longest_spec hv).2
  refine ⟨_, d', ?_, hmem, hd', hl', fun y hy hty => ?_⟩
  · show execStealWithinPackage pkg die s = _
    simp only [execStealWithinPackage, hd]
    rw [findSome?_of_unique (List.mem_of_find?_eq_some hc) (b := (c, optId 6 (c.logical pkg) die 0, s.stealTail c v, optId 6 (c.logical pkg) v.die 0))]
    · simp only [hpl, thief_of_partition hdie, hrep, hl, hv, hroom, List.isEmpty_eq_false_iff.2 hne, List.isEmpty_nil, Bool.not_true,
        Bool.or_self, Bool.false_eq_true, if_false]
    · intro y hy
      refine (hother y hy).imp_right fun hp => ?_
      rw [hp]
      rfl
  · rw [hv' _ _ fun h => hvne (congrArg some (Prod.mk.inj h).2.symm), hy] at hty
    cases hty
    rfl

theorem stealBetweenPackages_steals {wide : Bool} {vp : Nat} (hidle : ∀ y ∈ s.dies, y.pkg = pkg → y.list = []) (hup : s.trayUp (pkg / 4) = true)
    (hn : s.namedVictim c pkg wide = some vp) (hv : s.longest c vp none = some v) (hne : s.stealTail c v ≠ [])
    (hroom : ∀ e ∈ s.dies, e.pkg = pkg → s.stealRoom pkg e.die (s.stealTail c v) = true) :
    ∃ t d', exec (.stealBetweenPackages pkg die wide) s = .next t ∧ t.mem = s.mem ∧ t.die? pkg die = some d' ∧ d'.list = s.stealTail c v := by
  obtain ⟨d', hmem, hd', hl', -⟩ := State.stealAt_moves hc hr hd hl hne (optId 7 (c.logical pkg) 0 0) (.stealBetweenPackages pkg die wide)
    (optId 7 (c.logical vp) 0 0)
  refine ⟨_, d', ?_, hmem, hd', hl'⟩
  show execStealBetweenPackages pkg die wide s = _
  simp only [execStealBetweenPackages, hd]
  rw [findSome?_of_unique (List.mem_of_find?_eq_some hc) (b := (c, optId 7 (c.logical pkg) 0 0, s.stealTail c v, optId 7 (c.logical vp) 0 0))]
  · have hmine {e : Die} (he : e ∈ s.dies.filter fun e => e.pkg == pkg && c.dies.any fun x => x.2.1 == pkg && x.2.2 == e.die) :
        e ∈ s.dies ∧ e.pkg = pkg := by
      have h := List.mem_filter.1 he
      simp only [Bool.and_eq_true, beq_iff_eq] at h
      exact ⟨h.1, h.2.1⟩
    have hi : ((s.dies.filter fun e => e.pkg == pkg && c.dies.any fun x => x.2.1 == pkg && x.2.2 == e.die).all fun e => e.list.isEmpty) = true :=
      List.all_eq_true.2 fun e he => List.isEmpty_iff.2 (hidle e (hmine he).1 (hmine he).2)
    have hrooms : ((s.dies.filter fun e => e.pkg == pkg && c.dies.any fun x => x.2.1 == pkg && x.2.2 == e.die).all fun e =>
        s.stealRoom pkg e.die (s.stealTail c v)) = true :=
      List.all_eq_true.2 fun e he => hroom e (hmine he).1 (hmine he).2
    simp only [hpl, thief_of_partition hdie, hrep, hup, hi, hn, hv, hrooms, List.isEmpty_eq_false_iff.2 hne, Bool.not_true,
      Bool.and_self, Bool.or_self, Bool.false_eq_true, if_false]
  · intro y hy
    refine (hother y hy).imp_right fun hp => ?_
    rw [hp]
    rfl

end

end Sys2Proof.Machine

/-! ## A round of a die's distributor (R348 to R350, O58) -/

namespace Sys2Proof.Machine

variable {s t u : State} {c : Ctx} {l : Launch} {pkg die : Nat} {d : Die} {b : Blk} {k : CoreId} {q : List Nat}

/-! ### The core that is chosen -/

theorem State.bestCore_mem {cs : List CoreId} (h : s.bestCore b cs = some (k, q)) : k ∈ cs := by
  unfold State.bestCore at h
  suffices hf : ∀ (l : List CoreId) (best : Option (CoreId × List Nat)), (∀ y ∈ l, y ∈ cs) → (∀ x, best = some x → x.1 ∈ cs) →
      ∀ x, l.foldl _ best = some x → x.1 ∈ cs from hf cs none (fun _ => id) (by exact nofun) _ h
  intro l
  induction l with
  | nil => exact fun best _ hb x hx => hb x hx
  | cons e r ih =>
    intro best hl hb x hx
    refine ih _ (fun y hy => hl y (List.mem_cons_of_mem _ hy)) (fun z hz => ?_) x hx
    dsimp only at hz
    split at hz
    · exact hb z hz
    · cases best with
      | none =>
        cases hz
        exact hl e List.mem_cons_self
      | some x =>
        dsimp only at hz
        split at hz
        · cases hz
          exact hl e List.mem_cons_self
        · exact hb z hz

theorem State.mem_dieCores (h : k ∈ s.dieCores pkg die) : k.pkg = pkg ∧ k.die = die := by
  obtain ⟨i, -, hi⟩ := List.mem_filterMap.1 h
  split at hi <;> cases hi
  exact ⟨rfl, rfl⟩

/-! ### What goes on around the entries -/

theorem State.kickTask_eq (s : State) (k : CoreId) : ∃ m, s.kickTask k = s.due m := by
  have h0 : ∃ m, s = s.due m := ⟨[], by simp [State.due]⟩
  unfold State.kickTask State.askThief
  split
  · exact h0
  split
  · split
    · split
      · exact h0
      · split
        · exact ⟨_, rfl⟩
        · exact h0
    · exact h0
  split
  · exact h0
  · exact ⟨_, rfl⟩

theorem State.kickTasks_eq (cs : List CoreId) (s : State) : ∃ m, cs.foldl State.kickTask s = s.due m := by
  induction cs generalizing s with
  | nil => exact ⟨[], by simp [State.due]⟩
  | cons k r ih =>
    obtain ⟨m, hm⟩ := s.kickTask_eq k
    obtain ⟨m', hm'⟩ := ih (s.due m)
    exact ⟨m ++ m', by rw [List.foldl_cons, hm, hm', State.due, State.due, State.due, List.append_assoc]⟩

theorem State.kickRefill_eq (s : State) (k : CoreId) : ∃ m, s.kickRefill k = s.due m := by
  have h0 : ∃ m, s = s.due m := ⟨[], by simp [State.due]⟩
  unfold State.kickRefill
  split
  · split
    · exact ⟨_, rfl⟩
    · exact h0
  · exact h0

/-- The end of a drain changes the die's age and drain, and makes events due. -/
theorem State.endDrain_eq (s : State) (pkg die : Nat) : ∃ m, s.endDrain pkg die = (s.modDie pkg die fun d => { d with age := 0, drain := none }).due m := by
  unfold State.endDrain
  dsimp only
  split
  · exact State.kickTasks_eq _ _
  · exact ⟨[], (congrArg (fun ps => { s.modDie pkg die fun d => { d with age := 0, drain := none } with pending := ps })
      (List.append_nil s.pending)).symm⟩

theorem State.endDrain_kept (s : State) (pkg die : Nat) : (s.endDrain pkg die).ctxs = s.ctxs ∧ (s.endDrain pkg die).blks = s.blks
    ∧ (s.endDrain pkg die).pkgs = s.pkgs ∧ (s.endDrain pkg die).rack = s.rack ∧ s.pending ⊆ (s.endDrain pkg die).pending := by
  obtain ⟨m, hm⟩ := s.endDrain_eq pkg die
  rw [hm]
  exact ⟨rfl, rfl, rfl, rfl, State.due_pending_subset (s.modDie pkg die _) m⟩

theorem State.die?_endDrain (hd : s.die? pkg die = some d) : (s.endDrain pkg die).die? pkg die = some { d with age := 0, drain := none } := by
  obtain ⟨m, hm⟩ := s.endDrain_eq pkg die
  rw [hm]
  exact State.die?_modDie_some hd (fun d => { d with age := 0, drain := none }) (by exact fun _ => ⟨rfl, rfl⟩)

/-- Without replay no record says where blocks go. -/
theorem State.placeOut_of_noReplay (h : ∀ y ∈ s.ctxs, y.replays = false) (pkg die : Nat) : s.placeOut pkg die = s := by
  unfold State.placeOut
  suffices hf : ∀ (l : List Ctx), (∀ y ∈ l, y.replays = false) → l.foldl _ s = s from hf s.ctxs h
  intro l
  induction l with
  | nil => exact fun _ => rfl
  | cons y r ih =>
    intro hl
    rw [List.foldl_cons, hl y List.mem_cons_self]
    exact ih fun z hz => hl z (List.mem_cons_of_mem _ hz)

theorem State.roundWaits_of_noReplay (h : ∀ y ∈ s.ctxs, y.replays = false) (pkg die : Nat) :
    ∃ h, s.roundWaits pkg die = { s with held := h } := by
  unfold State.roundWaits
  dsimp only
  split
  · next i hi =>
    obtain ⟨d, -, hf⟩ := Option.bind_eq_some_iff.1 hi
    have hw := List.find?_some hf
    split at hw
    · next c hc =>
      rw [h c (List.mem_of_find?_eq_some hc)] at hw
      cases hw
    · cases hw
  · exact ⟨_, rfl⟩

/-- Where the list holds at most a block without a cluster, no region drains. -/
theorem State.ageHead_of_single {i : BlkId} (hd : s.die? pkg die = some d) (hl : ∀ j ∈ d.list, j = i) (hb : s.blk? i = some b) (hcl : b.cluster = [])
    (was : Option BlkId) : s.ageHead pkg die was = s.endDrain pkg die := by
  unfold State.ageHead
  rw [hd]
  dsimp -zeta only
  extract_lets head clus s1 age w drain
  have hclus : clus = false := by
    dsimp only [clus, head]
    cases hh : d.list.head? with
    | none => rfl
    | some j =>
      rw [hl j (List.mem_of_mem_head? hh), Option.bind_some, hb]
      simp [hcl]
  rw [if_pos (by rw [hclus]; rfl)]
  exact if_pos (by rw [hclus]; rfl)

theorem State.ageHead_pending_subset (s : State) (pkg die : Nat) (was : Option BlkId) : s.pending ⊆ (s.ageHead pkg die was).pending := by
  have he := (s.endDrain_kept pkg die).2.2.2.2
  unfold State.ageHead
  split
  · exact List.Subset.refl _
  extract_lets head clus s1 age w drain
  have h1 : s.pending ⊆ s1.pending := by
    dsimp only [s1]
    split
    · exact he
    · exact List.Subset.refl _
  split
  · exact h1
  · exact List.Subset.trans h1 (State.kickDie_unwinds (s1.modDie pkg die _) pkg die).pending

/-! ### A failed launch leaves its context in the mode it was in -/

/-- What g tells of each context. -/
def State.eachCtx {β : Type} (g : Ctx → β) (s : State) : List β := s.ctxs.map g

/-- Whether the contexts replay. -/
def State.modes (s : State) : List Bool := s.eachCtx Ctx.replays

section
variable {β : Type} {g : Ctx → β}

theorem State.eachCtx_modCtx (s : State) (i : Nat) {f : Ctx → Ctx} (hf : ∀ c, g (f c) = g c) : (s.modCtx i f).eachCtx g = s.eachCtx g :=
  map_updFirst hf _

theorem State.mem_eachCtx {i : Nat} (h : s.ctx? i = some c) : g c ∈ s.eachCtx g := List.mem_map_of_mem (List.mem_of_find?_eq_some h)

theorem State.eachCtx_of_ctxs (h : t.ctxs = s.ctxs) : t.eachCtx g = s.eachCtx g := by rw [State.eachCtx, h, State.eachCtx]

end

theorem State.modes_modCtx (s : State) (i : Nat) {f : Ctx → Ctx} (hf : ∀ c, (f c).replays = c.replays) : (s.modCtx i f).modes = s.modes :=
  s.eachCtx_modCtx i hf

theorem State.modes_of_ctxs (h : t.ctxs = s.ctxs) : t.modes = s.modes := State.eachCtx_of_ctxs h

theorem HubWrote.ctxs (h : HubWrote s t) : t.ctxs = s.ctxs := by rw [h.frame]

theorem State.frameWrite_ctxs (s : State) (e : Entry) (ia : Nat) (bs : List Byte) : (s.frameWrite e ia bs).ctxs = s.ctxs := by
  have hn : (s.noteCode e ia bs.length).ctxs = s.ctxs := by
    unfold State.noteCode
    dsimp only
    split <;> rfl
  exact (State.framePut_hubWrote _ e ia bs).ctxs.trans hn

theorem State.sectorWrite_ctxs (s : State) (e : Entry) (ia : Nat) (bs : List Byte) (n : Nat) : (s.sectorWrite e ia bs n).ctxs = s.ctxs := by
  unfold State.sectorWrite
  split
  · exact (s.holdReq_hubWrote e _).ctxs
  · exact s.frameWrite_ctxs e ia bs

theorem State.ctxStore_ctxs {ctx : Nat} {va : W64} {bs : List Byte} (h : s.ctxStore ctx va bs = .ok t) : t.ctxs = s.ctxs :=
  State.ctxStore_keeps State.sectorWrite_ctxs h

theorem State.writeStats_ctxs (s : State) (ctx : Nat) (l : Launch) : (s.writeStats ctx l).ctxs = s.ctxs := by
  unfold State.writeStats
  split
  · rfl
  split
  · next h => exact State.ctxStore_ctxs h
  · unfold State.ctxErr
    split <;> rfl

theorem State.tagMet_ctxs (s : State) (i : Nat) (w : W64) : (s.tagMet i w).ctxs = s.ctxs := State.finishOp_ctxs _ i

theorem State.wakeFallback_ctxs (s : State) (ctx lid : Nat) : (s.wakeFallback ctx lid).ctxs = s.ctxs :=
  foldl_keeps (g := State.ctxs) (fun t _ => t.tagMet_ctxs ..) _ s

theorem State.fireSignals_eachCtx {β : Type} {g : Ctx → β} (hq : ∀ c qs, g { c with queues := qs } = g c) (s : State) (ctx lid : Nat) :
    (s.fireSignals ctx lid).eachCtx g = s.eachCtx g := by
  unfold State.fireSignals
  dsimp only
  split
  · exact s.eachCtx_modCtx ctx fun c => hq c _
  · exact (State.eachCtx_modCtx _ ctx fun c => hq c _).trans (s.eachCtx_modCtx ctx fun c => hq c _)

theorem State.kickDie_ctxs (s : State) (p d : Nat) : (s.kickDie p d).ctxs = s.ctxs := by
  unfold State.kickDie
  (repeat' split) <;> rfl

theorem State.kickDies_ctxs (s : State) : s.kickDies.ctxs = s.ctxs := foldl_keeps (g := State.ctxs) (fun t _ => t.kickDie_ctxs ..) _ s

/-- The end of a launch touches nothing of its context but that launch's mark and the queues. -/
theorem State.endLaunch_eachCtx {β : Type} {g : Ctx → β} (hq : ∀ c qs, g { c with queues := qs } = g c)
    (hl : ∀ c i, g (Ctx.modLaunch c i fun l => { l with ended := true }) = g c) (s : State) (ctx lid : Nat) :
    (s.endLaunch ctx lid).eachCtx g = s.eachCtx g := by
  unfold State.endLaunch
  split
  · rfl
  next l _ =>
  split
  · rfl
  split
  · split <;> rfl
  extract_lets s1 s2 free s3 s4 s5
  have h1 : s1.eachCtx g = s.eachCtx g := State.eachCtx_of_ctxs (s.writeStats_ctxs ctx l)
  have h2 : s2.eachCtx g = s.eachCtx g := (s1.eachCtx_modCtx ctx fun c => hl c lid).trans h1
  have h4 : s4.eachCtx g = s.eachCtx g :=
    (State.fireSignals_eachCtx hq ..).trans ((State.eachCtx_of_ctxs (s3.wakeFallback_ctxs ctx lid)).trans h2)
  have h5 : s5.eachCtx g = s.eachCtx g := (State.eachCtx_of_ctxs (State.kickDies_ctxs _)).trans h4
  split
  · split <;> exact h5
  · exact h5

theorem State.endLaunch_modes (s : State) (ctx lid : Nat) : (s.endLaunch ctx lid).modes = s.modes :=
  s.endLaunch_eachCtx (fun _ _ => rfl) (fun _ _ => rfl) ctx lid

theorem State.purge_modes (s : State) (ctx lid : Nat) : (s.purge ctx lid).modes = s.modes := State.modes_modCtx _ ctx (by exact fun _ => rfl)

theorem State.failNext_modes (s : State) (ctx lid : Nat) : (s.failNext ctx lid).modes = s.modes := by
  unfold State.failNext
  split
  · rfl
  split
  · rfl
  · exact (State.purge_modes ..).trans (s.modes_modCtx ctx (by exact fun _ => rfl))

theorem State.settleLaunch_modes (s : State) (n ctx lid : Nat) : (s.settleLaunch n ctx lid).modes = s.modes := by
  induction n generalizing s lid with
  | zero => rfl
  | succ k ih =>
    unfold State.settleLaunch
    split
    · rfl
    next l _ =>
    extract_lets s1 s2
    have h1 : s1.modes = s.modes := by
      dsimp only [s1]
      split
      · exact (State.failNext_modes ..).trans (s.purge_modes ctx lid)
      · rfl
    have h2 : s2.modes = s.modes := (s1.endLaunch_modes ctx lid).trans h1
    split
    · split
      · exact (ih ..).trans h2
      · exact h2
    · exact h2

theorem State.failLaunch_modes (s : State) (ctx lid : Nat) : (s.failLaunch ctx lid).modes = s.modes :=
  (State.settleLaunch_modes ..).trans (s.modes_modCtx ctx (by exact fun _ => rfl))

/-- Contexts that replay nothing go on so. -/
theorem State.noReplay_of_modes (h : t.modes = s.modes) (hs : ∀ y ∈ s.ctxs, y.replays = false) : ∀ y ∈ t.ctxs, y.replays = false := by
  intro y hy
  have hm : y.replays ∈ t.modes := List.mem_map_of_mem hy
  rw [h] at hm
  obtain ⟨z, hz, he⟩ := List.mem_map.1 hm
  exact he.symm.trans (hs z hz)

end Sys2Proof.Machine

/-! ## A block at its turn in a die's round (R348, R354, O58) -/

namespace Sys2Proof.Machine

variable {s t u : State} {c : Ctx} {l : Launch} {pkg die : Nat} {d : Die} {b : Blk} {k : CoreId} {q : List Nat}

/-! ### Lease requests -/

theorem State.leaseReqsAll_congr (h : ∀ p, t.hsalt p = s.hsalt p) (c : Ctx) (i : BlkId) (pkg die : Nat) (ivs : List Interval) :
    t.leaseReqsAll c i pkg die ivs = s.leaseReqsAll c i pkg die ivs := by
  have hs : t.saltOf c = s.saltOf c := by
    unfold State.saltOf
    split
    · exact h _
    · rfl
  have hr (iv : Interval) : t.leaseReqs c i pkg die iv = s.leaseReqs c i pkg die iv := by
    unfold State.leaseReqs
    rw [hs]
  unfold State.leaseReqsAll
  simp only [hr]

theorem State.hsalt_eq (s : State) (p : Nat) : s.hsalt p = if (s.pkg? p).map Pkg.joined = some true then s.rack.hsalt else 0 := by
  unfold State.hsalt
  cases s.pkg? p with
  | none => rfl
  | some k => simp

theorem State.hsalt_useClass (s : State) (pkg ctx : Nat) (entry : W64) (p : Nat) : (s.useClass pkg ctx entry).hsalt p = s.hsalt p := by
  have hm : ((s.useClass pkg ctx entry).pkgs.map fun x => (x.id, x.joined)) = s.pkgs.map fun x => (x.id, x.joined) :=
    map_updFirst (fun _ => by rfl) _
  have hf := congrArg (Option.map Prod.snd) (find?_map_congr hm (q := fun x => x.1 == p) (p := fun x : Pkg => x.id == p) fun _ => rfl)
  have hp : ((s.useClass pkg ctx entry).pkg? p).map Pkg.joined = (s.pkg? p).map Pkg.joined := by
    rw [Option.map_map, Option.map_map] at hf
    exact hf
  rw [State.hsalt_eq, hp, State.hsalt_eq]
  rfl

/-! ### The block is placed -/

/-- The block as it is placed on a core. -/
def Blk.placedOn (b : Blk) (l : Launch) (k : CoreId) (q : List Nat) : Blk :=
  { b with state := .placed, core := k, image := q.zipIdx.map fun y => l.wave b.id k y.1 y.2, at_ := (k.pkg, k.die) }

/-- The state in which a block has its core. -/
def State.cored (s : State) (b : Blk) (l : Launch) (k : CoreId) (q : List Nat) : State :=
  ((s.modDie k.pkg k.die fun d => { d with list := d.list.filter fun i => !decide (i = b.id) }).useClass k.pkg b.id.ctx b.entry).modBlk b.id
    fun b' => { b' with state := .placed, core := k, image := q.zipIdx.map fun y => l.wave b.id k y.1 y.2, at_ := (k.pkg, k.die) }

theorem State.blk?_cored (hb : s.blk? b.id = some b) : (s.cored b l k q).blk? b.id = some (b.placedOn l k q) := by
  refine (State.blk?_modBlk (s := (s.modDie k.pkg k.die _).useClass k.pkg b.id.ctx b.entry) b.id (fun b' => { b' with
    state := .placed, core := k, image := q.zipIdx.map fun y => l.wave b.id k y.1 y.2, at_ := (k.pkg, k.die) }) fun _ h => h).trans ?_
  rw [show State.blk? ((s.modDie k.pkg k.die _).useClass k.pkg b.id.ctx b.entry) b.id = some b from hb]
  rfl

section
variable (hb : s.blk? b.id = some b) (hc : s.ctx? b.id.ctx = some c)
include hb hc

/-- The leases of a placed block are requested where it starts without waiting, or once they are asked for. -/
theorem State.placeBlk_eq {ls : List LeaseReq} (hls : s.leaseReqsAll c b.id k.pkg k.die b.intervals = .ok ls) : ∃ m,
    (ls = [] → s.placeBlk l (b.id, k, q) = ((s.cored b l k q).due m).due [.blockStart b.id])
    ∧ (ls ≠ [] → s.placeBlk l (b.id, k, q) = (((s.cored b l k q).due m).modBlk b.id fun b => { b with wanted := ls }).due
        (ls.map (fun r => .leaseRequest r) ++ if l.dep = 2 then [.blockStart b.id] else [])) := by
  obtain ⟨m, hm⟩ := (s.cored b l k q).kickRefill_eq k
  have hreq : ((s.cored b l k q).due m).leaseReqsAll c b.id k.pkg k.die b.intervals = .ok ls :=
    (State.leaseReqsAll_congr (fun p => State.hsalt_useClass (s.modDie k.pkg k.die _) k.pkg b.id.ctx b.entry p) ..).trans hls
  refine ⟨m, ?_⟩
  simp only [State.placeBlk, hb, hc]
  rw [← State.cored, hm, hreq]
  cases ls with
  | nil => exact ⟨fun _ => rfl, fun h => absurd rfl h⟩
  | cons r rs => exact ⟨nofun, fun _ => rfl⟩

/-- What placing leaves. -/
theorem State.placeBlk_placed {ls : List LeaseReq} (hls : s.leaseReqsAll c b.id k.pkg k.die b.intervals = .ok ls) :
    (s.placeBlk l (b.id, k, q)).mem = s.mem ∧ (s.placeBlk l (b.id, k, q)).ctxs = s.ctxs ∧ (s.placeBlk l (b.id, k, q)).dies = (s.cored b l k q).dies
      ∧ (s.placeBlk l (b.id, k, q)).blk? b.id = some (if ls = [] then b.placedOn l k q else { b.placedOn l k q with wanted := ls })
      ∧ (ls = [] → .blockStart b.id ∈ (s.placeBlk l (b.id, k, q)).pending) ∧ ∀ r ∈ ls, .leaseRequest r ∈ (s.placeBlk l (b.id, k, q)).pending := by
  obtain ⟨m, hnil, hne⟩ := State.placeBlk_eq (l := l) (q := q) hb hc hls
  have hcored := State.blk?_cored (l := l) (k := k) (q := q) hb
  by_cases h : ls = []
  · rw [hnil h, if_pos h]
    refine ⟨rfl, rfl, rfl, hcored, fun _ => List.mem_append_right _ (List.mem_singleton.2 rfl), fun r hr => ?_⟩
    rw [h] at hr
    cases hr
  · rw [hne h, if_neg h]
    refine ⟨rfl, rfl, rfl, ?_, fun h' => absurd h' h, fun r hr => ?_⟩
    · refine (State.blk?_modBlk (s := (s.cored b l k q).due m) b.id (fun b => { b with wanted := ls }) fun _ h => h).trans ?_
      rw [show State.blk? ((s.cored b l k q).due m) b.id = some (b.placedOn l k q) from hcored]
      rfl
    · exact List.mem_append_right _ (List.mem_append_left _ (List.mem_map.2 ⟨r, hr, rfl⟩))

end

end Sys2Proof.Machine

/-! ## A round with one block in the list (R96, R97, R348, R354, O58) -/

namespace Sys2Proof.Machine

variable {s t u : State} {c : Ctx} {l : Launch} {pkg die : Nat} {d : Die} {b : Blk} {k : CoreId} {q : List Nat}

section
variable (hd : s.die? pkg die = some d) (hlist : d.list = [b.id]) (hb : s.blk? b.id = some b) (hc : s.ctx? b.id.ctx = some c)
  (hcl : b.cluster = []) (hl : c.launch? b.id.launch = some l) (hbad : l.bad = false) (hgate : c.gateFailed l = false) (hpl : c.places pkg = true)
  (hopen : c.phaseOpen l = true) (hclean : s.cleaning pkg die c.id = false) (hrep : ∀ y ∈ s.ctxs, y.replays = false)
include hd hlist hb hc hcl hl hbad hgate hpl hopen hclean hrep

/-- The one entry of the list at its turn. -/
theorem State.tryEntry_eq : s.tryEntry pkg die (some b.id) b.id =
    if d.phase.get 0 (phaseKey c.id l.q) ≠ l.phase then s.due [.phaseClean pkg die c.id l.q l.phase]
    else match s.bestCore b (s.dieCores pkg die), l.tileOut c b.id.idx with
      | none, _ => s
      | some _, some t =>
        (s.due [.trapRecordPost c.id { ctxRecord 0x0F 0 (tileWord t l.tgen) 0 0 l.lser with pkg := pkg, die := die }]).failLaunch c.id l.id
      | some x, none => (s.endDrain pkg die).placeBlk l (b.id, x) := by
  have hpkg : d.pkg = pkg ∧ d.die = die := by simpa using List.find?_some hd
  obtain ⟨rfl, rfl⟩ := hpkg
  have hcores : ((s.dieCores d.pkg d.die).filter fun k => true || !s.drains k) = s.dieCores d.pkg d.die := by simp
  have hin : [b.id].contains b.id = true := by simp
  have htile : [b].findSome? (fun x => l.tileOut c x.id.idx) = l.tileOut c b.id.idx := by
    rw [List.findSome?_cons]
    cases l.tileOut c b.id.idx <;> rfl
  simp only [State.tryEntry, hd, hb, hc, hl, State.entryBlks, hcl, List.isEmpty_nil, if_true, hlist, hbad, hgate, hpl, hopen, hclean, hin,
    htile, Bool.not_true, Bool.or_self, Bool.false_eq_true, if_false, State.entryPlaces, hrep c (List.mem_of_find?_eq_some hc), BEq.rfl, hcores]
  cases s.bestCore b (s.dieCores d.pkg d.die) with
  | none => rfl
  | some x => cases l.tileOut c b.id.idx <;> rfl

omit hb hc hcl hl hbad hgate hpl hopen hclean in
/-- The round, up to the entry's turn and after it. -/
theorem dieDistributorRound_eq : exec (.dieDistributorRound pkg die) s =
    .next (((s.tryEntry pkg die (some b.id) b.id).roundWaits pkg die).ageHead pkg die (some b.id)) := by
  show execDieDistributorRound pkg die s = _
  simp only [execDieDistributorRound, hd, State.placeOut_of_noReplay hrep, hlist, List.foldl_cons, List.foldl_nil, List.head?_cons]

omit hc hd hlist hb hcl hl hbad hgate hpl hopen hclean in
/-- What follows the entry's turn, where the list then holds at most a block without a cluster. -/
theorem State.roundEnd {d' : Die} {b' : Blk} {i : BlkId} (hctxs : t.ctxs = s.ctxs) (hd' : t.die? pkg die = some d') (hl' : ∀ j ∈ d'.list, j = i)
    (hb' : t.blk? i = some b') (hcl' : b'.cluster = []) (was : Option BlkId) :
    ((t.roundWaits pkg die).ageHead pkg die was).mem = t.mem ∧ ((t.roundWaits pkg die).ageHead pkg die was).blks = t.blks
      ∧ ((t.roundWaits pkg die).ageHead pkg die was).die? pkg die = some { d' with age := 0, drain := none }
      ∧ t.pending ⊆ ((t.roundWaits pkg die).ageHead pkg die was).pending := by
  obtain ⟨h, hr⟩ := State.roundWaits_of_noReplay (hctxs ▸ hrep) pkg die
  rw [hr, State.ageHead_of_single (s := { t with held := h }) hd' hl' hb' hcl']
  obtain ⟨-, hblks, -, -, hp⟩ := State.endDrain_kept { t with held := h } pkg die
  exact ⟨State.endDrain_mem .., hblks, State.die?_endDrain (s := { t with held := h }) hd', hp⟩

/-- A block of a phase that the die is not in waits for the phase's clean (R97). -/
theorem dieRound_cleans (hph : d.phase.get 0 (phaseKey c.id l.q) ≠ l.phase) :
    ∃ t, exec (.dieDistributorRound pkg die) s = .next t ∧ t.mem = s.mem ∧ .phaseClean pkg die c.id l.q l.phase ∈ t.pending := by
  have htry := State.tryEntry_eq hd hlist hb hc hcl hl hbad hgate hpl hopen hclean hrep
  rw [if_pos hph] at htry
  obtain ⟨hm, -, -, hp⟩ := State.roundEnd (t := s.due [.phaseClean pkg die c.id l.q l.phase]) hrep rfl hd
    (fun i hi => List.mem_singleton.1 (hlist ▸ hi)) hb hcl (some b.id)
  refine ⟨_, dieDistributorRound_eq hd hlist hrep, ?_⟩
  rw [htry]
  exact ⟨hm, hp (List.mem_append_right _ (List.mem_singleton.2 rfl))⟩

variable (hph : d.phase.get 0 (phaseKey c.id l.q) = l.phase)
include hph

/-- A block that fits on no core stays in the list. -/
theorem dieRound_keeps (hbest : s.bestCore b (s.dieCores pkg die) = none) :
    ∃ t d', exec (.dieDistributorRound pkg die) s = .next t ∧ t.mem = s.mem ∧ t.blk? b.id = some b ∧ t.die? pkg die = some d' ∧ d'.list = [b.id] := by
  have htry := State.tryEntry_eq hd hlist hb hc hcl hl hbad hgate hpl hopen hclean hrep
  rw [if_neg (not_not.2 hph), hbest] at htry
  obtain ⟨hm, hblks, hd', -⟩ := State.roundEnd (t := s) hrep rfl hd (fun i hi => List.mem_singleton.1 (hlist ▸ hi)) hb hcl (some b.id)
  refine ⟨_, { d with age := 0, drain := none }, dieDistributorRound_eq hd hlist hrep, ?_⟩
  rw [htry]
  exact ⟨hm, by rw [State.blk?, hblks]; exact hb, hd', hlist⟩

variable (hbest : s.bestCore b (s.dieCores pkg die) = some (k, q))
include hbest

/-- A block that fits is placed on the best core, with its lease requests (R348). -/
theorem dieRound_places (htile : l.tileOut c b.id.idx = none) {ls : List LeaseReq} (hls : s.leaseReqsAll c b.id pkg die b.intervals = .ok ls) :
    ∃ t b', exec (.dieDistributorRound pkg die) s = .next t ∧ t.mem = s.mem ∧ t.blk? b.id = some b' ∧ b'.state = .placed ∧ b'.core = k
      ∧ b'.image = (q.zipIdx.map fun y => l.wave b.id k y.1 y.2) ∧ (ls = [] → .blockStart b.id ∈ t.pending)
      ∧ (ls ≠ [] → b'.wanted = ls) ∧ ∀ r ∈ ls, .leaseRequest r ∈ t.pending := by
  obtain ⟨hkp, hkd⟩ := State.mem_dieCores (State.bestCore_mem hbest)
  have htry := State.tryEntry_eq hd hlist hb hc hcl hl hbad hgate hpl hopen hclean hrep
  rw [if_neg (not_not.2 hph), hbest, htile] at htry
  obtain ⟨hctxs, hblks, hpkgs, hrack, -⟩ := s.endDrain_kept pkg die
  have hb1 : (s.endDrain pkg die).blk? b.id = some b := by rw [State.blk?, hblks]; exact hb
  have hc1 : (s.endDrain pkg die).ctx? b.id.ctx = some c := by rw [State.ctx?, hctxs]; exact hc
  have hls1 : (s.endDrain pkg die).leaseReqsAll c b.id k.pkg k.die b.intervals = .ok ls := by
    rw [hkp, hkd]
    exact (State.leaseReqsAll_congr (fun p => by simp only [State.hsalt, State.pkg?, hpkgs, hrack]) ..).trans hls
  obtain ⟨hm, hctxs2, hdies, hblk, hstart, hleases⟩ := State.placeBlk_placed (l := l) (q := q) hb1 hc1 hls1
  have hd2 : ((s.endDrain pkg die).placeBlk l (b.id, k, q)).die? pkg die
      = some { d with age := 0, drain := none, list := d.list.filter fun i => !decide (i = b.id) } := by
    rw [State.die?, hdies, ← hkp, ← hkd]
    exact State.die?_modDie_some (s := s.endDrain k.pkg k.die) (State.die?_endDrain (hkp ▸ hkd ▸ hd))
      (fun d => { d with list := d.list.filter fun i => !decide (i = b.id) }) (by exact fun _ => ⟨rfl, rfl⟩)
  have hcl2 : (if ls = [] then b.placedOn l k q else { b.placedOn l k q with wanted := ls }).cluster = [] := by
    split <;> exact hcl
  obtain ⟨hm3, hblks3, -, hp3⟩ := State.roundEnd hrep (hctxs2.trans hctxs) hd2
    (fun j hj => List.mem_singleton.1 (hlist ▸ (List.mem_filter.1 hj).1)) hblk hcl2 (some b.id)
  refine ⟨_, if ls = [] then b.placedOn l k q else { b.placedOn l k q with wanted := ls },
    (dieDistributorRound_eq hd hlist hrep).trans (by rw [htry]), hm3.trans (hm.trans (State.endDrain_mem ..)), ?_, ?_, ?_, ?_,
    fun h => hp3 (hstart h), fun h => ?_, fun r hr => hp3 (hleases r hr)⟩
  · rw [State.blk?, hblks3]
    exact hblk
  · split <;> rfl
  · split <;> rfl
  · split <;> rfl
  · rw [if_neg h]

/-- A tile outside the window is found where the block would be placed, and fails its launch (R354). -/
theorem dieRound_refuses {y : Int} (htile : l.tileOut c b.id.idx = some y) :
    ∃ t r, exec (.dieDistributorRound pkg die) s = .next t ∧ .trapRecordPost c.id r ∈ t.pending ∧ r.code = 0x0F
      ∧ r.addr = tileWord y l.tgen ∧ r.lser = l.lser ∧ r.pkg = pkg ∧ r.die = die := by
  have htry := State.tryEntry_eq hd hlist hb hc hcl hl hbad hgate hpl hopen hclean hrep
  rw [if_neg (not_not.2 hph), hbest, htile] at htry
  let r : TrapRec := { ctxRecord 0x0F 0 (tileWord y l.tgen) 0 0 l.lser with pkg := pkg, die := die }
  have hr : .trapRecordPost c.id r ∈ ((s.due [.trapRecordPost c.id r]).failLaunch c.id l.id).pending :=
    (State.settleLaunch_unwinds _ 4096 c.id l.id).pending (List.mem_append_right _ (List.mem_singleton.2 rfl))
  have hmodes : ((s.due [.trapRecordPost c.id r]).failLaunch c.id l.id).modes = s.modes := State.failLaunch_modes ..
  obtain ⟨h, hw⟩ := State.roundWaits_of_noReplay (State.noReplay_of_modes hmodes hrep) pkg die
  refine ⟨_, r, (dieDistributorRound_eq hd hlist hrep).trans (by rw [htry]), ?_, rfl, rfl, rfl, rfl, rfl⟩
  exact State.ageHead_pending_subset _ _ _ _ (by rw [hw]; exact hr)

end

/-! ### Settled -/

/-- Settles O58, clause by clause: the round by its queue's one turn among turns that hand nothing down (`drrRound_turn`), the die's round
by the one entry of its list (`State.tryEntry_eq`), a steal by what it moves (`State.stealAt_moves`). -/
theorem distributorsPlaceAndSteal : Obligations.DistributorsPlaceAndSteal := by
  unfold Obligations.DistributorsPlaceAndSteal
  intro s c hc hlive
  refine ⟨fun x hx hpre hother hid hnum hn hdone => ?_, fun b cost l x hb hl hx => blockCostCharge_charges hb hc hl hx cost,
    fun launch pkg idxs l hl hbad => chunkAppend_joins hc hlive hl hbad, fun pkg die d hd => ⟨?_, ?_, ?_⟩, fun tray hp hup => ?_,
    fun tray hp hup hs => trayStandbyTakeover_takes hp hup hs⟩
  · exact ⟨drrRound_of_empty hc hx hlive hpre hid hnum hother hdone, drrRound_of_debt hc hx hlive hpre hid hnum hother hdone,
      fun l hv hl => drrRound_voids hc hx hlive hpre hid hnum hother hdone hv hl,
      fun l hv hl hf => drrRound_hands hc hx hlive hpre hid hnum hother hdone hv hl hn hf⟩
  · intro b l k q hlist hb hbc hcl hl hbad hgate hpl hopen hclean hrep
    have hcb : s.ctx? b.id.ctx = some c := hbc ▸ hc
    refine ⟨dieRound_cleans hd hlist hb hcb hcl hl hbad hgate hpl hopen hclean hrep, fun hph htile hbest ls hls => ?_, fun hph hbest => ?_,
      fun y hph htile hbest => ?_⟩
    · exact dieRound_places hd hlist hb hcb hcl hl hbad hgate hpl hopen hclean hrep hph hbest htile hls
    · exact dieRound_keeps hd hlist hb hcb hcl hl hbad hgate hpl hopen hclean hrep hph hbest
    · exact dieRound_refuses hd hlist hb hcb hcl hl hbad hgate hpl hopen hclean hrep hph hbest htile
  · exact fun q ph hbufs hops hway => phaseClean_cleans hd q ph hbufs hops hway
  · intro hr hrep hl hpl hdie hother _
    exact ⟨fun v hv hne hroom => stealWithinPackage_steals hc hd hr hrep hl hpl hdie hother hv hne hroom,
      fun wide vp v hidle hup hn hv hne hroom => stealBetweenPackages_steals hc hd hr hrep hl hpl hdie hother hidle hup hn hv hne hroom⟩
  · exact ⟨trayLengthCollect_collects hp hup (List.mem_of_find?_eq_some hc), trayCostForward_forwards hp hup, trayStandbyRefresh_copies hp hup⟩

end Sys2Proof.Machine

/-! ## A launch that fails at a stale tile writes its statistics (O50) -/

namespace Sys2Proof.Machine

/-- Where IA 0 of stack 0 of package 0 lies. -/
def staleKey : Nat := 256 * 16 * 2 ^ 56

/-- A launch of one block, handed down, that is gated by a tile of generation 2 and asks for its statistics at VA 0x4000. -/
def staleLaunch : Launch :=
  { id := 0, q := 0, lser := 1, slot := 0,
    words := [0x20000, 0, 0, 0, 0, 0, 0, 0x4000, 0, 0, 0, 0, 0, 0x20000] ++ List.replicate 18 0, phase := 0, prev := none,
    nblk := 1, next := 1, out := 1, tasks := 0, bad := false, fallback := false, fbcount := 0, ended := false, stats := [], ests := [] }

/-- Its context: VA 0 to 2^24 - 1 to IA 0 on, homed at stack 0 of package 0. -/
def staleCtx : Ctx :=
  { id := 1, life := .live, auto := false, desc := 0x8000, dies := [(0, 0, 0)], ranges := [⟨0, 0x1000000, 0, 0x361F, 7⟩],
    staged := none, tagwin := 0x1000000, dbgctl := 0, pindrop := 0, ctl := 0, save := 0xA000, svsz := 1, trd := 0, wdlog := 0,
    logmode := 0, dstop := false, logst := 0, rings := [], queues := [], launches := [staleLaunch], nlaunch := 1, parked := [],
    trig := [], off := [], saved := [], preempts := 0, preempting := false, revoked := [], binds := [], trapq := [], recs := [],
    resp := [], moved := [] }

def staleId : BlkId := ⟨1, false, 0, 0⟩

def staleBlk : Blk := { Blk.fresh staleId with state := .placed }

/-- The page that holds the record. -/
def staleEntry : Entry := ⟨⟨0, 0⟩, 0, 1, false, 0, 0, false, 0, 0, 1, 0, 0, 0⟩

/-- The block is placed, its tile has generation 3, and a byte of the record's place is not zero. -/
def staleState : State :=
  { State.reset with
    blks := [staleBlk], cores := [Core.new ⟨0, 0, 0⟩ 0], dies := [Die.new 0 0], homes := [Home.new (2 ^ 24) (RowList.empty 0) ⟨0, 0⟩],
    entries := [staleEntry],
    pkgs := [{ Pkg.atReset 0 with up := true, tags := [(0, (3, 0))] }], ctxs := [staleCtx], fns := [Fn.new 0],
    mem := [(staleKey + 0x4FFF, 1)] }

theorem staleState_staleTile : staleState.staleTile staleCtx staleLaunch staleBlk = some (0, 3, 0) := by decide +kernel

/-- The launch has failed, with its record (R355). -/
def staleBad : State :=
  (staleState.due [.trapRecordPost 1 { ctxRecord 0x10 0 0 2 3 1 with pkg := 0, die := 0 }]).modCtx 1 fun c =>
    c.modLaunch 0 fun l => { l with bad := true }

/-- It has dropped its block, and ends. -/
def staleEnd : State := (staleBad.purge 1 0).failNext 1 0

/-- The launch then. -/
def staleEnded : Launch := { staleLaunch with bad := true, out := 0 }

theorem staleBad_launch? : ((staleBad.ctx? 1).bind fun c => c.launch? 0) = some { staleLaunch with bad := true } := by decide +kernel

theorem staleEnd_launch? : ((staleEnd.ctx? 1).bind fun c => c.launch? 0) = some staleEnded := by decide +kernel

/-- What each launch of a context depends on. -/
def Ctx.prevs (c : Ctx) : List (Option Nat) := c.launches.map Launch.prev

theorem Ctx.prevs_modLaunch (c : Ctx) (i : Nat) {f : Launch → Launch} (hf : ∀ l, (f l).prev = l.prev) : (c.modLaunch i f).prevs = c.prevs :=
  map_updFirst hf _

theorem State.endLaunch_prevs (s : State) (ctx lid : Nat) : (s.endLaunch ctx lid).eachCtx Ctx.prevs = s.eachCtx Ctx.prevs :=
  s.endLaunch_eachCtx (fun _ _ => rfl) (fun c i => c.prevs_modLaunch i fun _ => rfl) ctx lid

theorem staleEnd_prevs : staleEnd.eachCtx Ctx.prevs = [[none]] := by decide +kernel

theorem staleEnd_noNext :
    (((staleEnd.endLaunch 1 0).ctx? 1).bind fun c => c.launches.find? fun x => x.prev == some 0 && x.bad && !x.ended) = none := by
  rw [Option.bind_eq_none_iff]
  intro c hc
  have hprevs : c.prevs ∈ (staleEnd.endLaunch 1 0).eachCtx Ctx.prevs := State.mem_eachCtx hc
  rw [State.endLaunch_prevs, staleEnd_prevs] at hprevs
  have hnone : c.prevs = [none] := List.mem_singleton.1 hprevs
  refine List.find?_eq_none.2 fun x hx => ?_
  have hx' : x.prev ∈ [none] := hnone ▸ List.mem_map_of_mem hx
  simp [List.mem_singleton.1 hx']

theorem exec_staleState : exec (.blockStart staleId) staleState = .next (staleEnd.endLaunch 1 0) := by
  have hb : staleState.blk? staleId = some staleBlk := rfl
  have hc : staleState.ctx? staleId.ctx = some staleCtx := rfl
  have hl : staleCtx.launch? staleId.launch = some staleLaunch := rfl
  have hgo : (staleBlk.state != .placed || staleLaunch.bad || staleCtx.gateFailed staleLaunch || staleCtx.life != .live) = false := rfl
  have he : exec (.blockStart staleId) staleState = .next (staleBad.settleLaunch (4095 + 1) 1 0) := by
    simp only [exec, execBlockStart, hb, hc, hl, hgo, staleState_staleTile, Bool.false_eq_true, if_false]
    rfl
  rw [he, State.settleLaunch, staleBad_launch?]
  simp only [if_true]
  rw [← staleEnd, staleEnd_noNext]

/-! ### The statistics record (R200, R201) -/

theorem State.mem_endLaunch_of_complete {s : State} {ctx lid : Nat} {l : Launch}
    (hl : ((s.ctx? ctx).bind fun c => c.launch? lid) = some l) (hc : l.complete = true) (hh : s.statsHeld ctx l = false) :
    (s.endLaunch ctx lid).mem = (s.writeStats ctx l).mem := by
  rw [State.endLaunch, hl]
  simp only [hc, hh, Bool.not_true, Bool.false_eq_true, if_false]
  split
  · split <;> simp
  · simp

theorem length_record (l : Launch) : l.record.length = 4096 := by
  have h (t : Nat) : ((List.range 3).flatMap (fun k => leBytes 4 (l.stats.get 0 (4 * t + k))) ++ leBytes 4 0).length = 16 := by
    simp [List.range_succ, leBytes_length]
  rw [Launch.record, List.length_flatMap, List.map_congr_left fun t _ => h t, List.map_const', List.sum_replicate, List.length_range]
  rfl

theorem zero_of_mem_record {l : Launch} (h : l.stats = []) {b : Byte} (hb : b ∈ l.record) : b = 0 := by
  simp only [Launch.record, h, List.mem_flatMap, List.mem_append, Tab.get] at hb
  have h0 : b ∈ leBytes 4 0 := by
    obtain ⟨_, -, ⟨_, -, hb⟩ | hb⟩ := hb <;> exact hb
  simpa [leBytes] using h0

/-- The range of the context. -/
abbrev staleRange : Range := ⟨0, 0x1000000, 0, 0x361F, 7⟩

theorem staleEnd_ctxAt : staleEnd.ctxAt 1 (vaOf staleEnded.statva) 4096 .store = .ok (staleRange, 0x4000) := rfl

theorem staleEnd_homeFind : ∀ i < 64,
    (staleEnd.homeFind 1 (staleEnd.homeAt 1 staleRange (0x4000 + 64 * i)) (0x4000 + 64 * i)).toOption = some staleEntry := by
  decide +kernel

/-- The sectors of the record, each on the one page. -/
theorem staleEnd_engFind : staleEnd.engFind 1 ⟨0x4000, staleRange⟩ 4096 true 2
    = .ok ((List.range 63).map (fun i => (0x4000 + 64 * i, 64, staleEntry)) ++ [(0x4FC0, 64, staleEntry)]) := by
  have hs : secsOf 0x4000 4096 = (List.range 64).map fun i => (0x4000 + 64 * i, 64) := secsOf_of_aligned (by decide) 64
  rw [State.engFind_of_found (E := fun _ => staleEntry)]
  · rw [hs, List.map_map, List.range_succ, List.map_append]
    rfl
  · intro p hp
    rw [hs, List.mem_map] at hp
    obtain ⟨i, hi, rfl⟩ := hp
    have hi := staleEnd_homeFind i (List.mem_range.mp hi)
    cases hf : staleEnd.homeFind 1 (staleEnd.homeAt 1 staleRange (0x4000 + 64 * i)) (0x4000 + 64 * i) with
    | error e => rw [hf] at hi; exact absurd hi nofun
    | ok e => rw [hf] at hi; exact congrArg _ (Option.some.inj hi)
  · exact fun p _ => rfl

theorem staleEnd_pageHeld (ia n : Nat) : staleEnd.pageHeld staleEntry ia n = false := by
  refine State.pageHeld_of_noRows (fun h x hx => ?_) (by decide) ia n
  have hm : x ∈ [Home.new (2 ^ 24) (RowList.empty 0) ⟨0, 0⟩] := List.mem_of_find?_eq_some hx
  rw [List.mem_singleton.mp hm]
  rfl

theorem staleEnd_statsHeld : staleEnd.statsHeld 1 staleEnded = false := by
  have hh : staleEnd.engHeld 1 ⟨0x4000 + 0, staleRange⟩ 4096 = false := by
    refine List.any_eq_false.mpr fun p _ => ?_
    split
    · next e he =>
      have hm : e ∈ [staleEntry] := List.mem_of_find?_eq_some he
      rw [List.mem_singleton.mp hm, staleEnd_pageHeld]
      decide
    · decide
  simp only [State.statsHeld, State.vaHeld, staleEnd_ctxAt, State.hubHeld, hh, Bool.and_false]

/-- The byte at the end of the record's place is a zero of the record's. -/
theorem memByte_staleEnd : (staleEnd.endLaunch 1 0).memByte (staleKey + 0x4FFF) = 0 := by
  have hne : staleEnded.statva ≠ 0 := by decide
  obtain ⟨t, ht⟩ : ∃ t, staleEnd.hubWrite 1 (staleRange, 0x4000) 0 staleEnded.record = .ok t := by
    rw [State.hubWrite_eq, length_record, staleEnd_engFind]
    exact ⟨_, rfl⟩
  have hw : staleEnd.writeStats 1 staleEnded = t := by
    rw [State.writeStats, if_neg hne, State.ctxStore, length_record, staleEnd_ctxAt]
    simp only [ht]
  obtain ⟨u, hu⟩ := State.mem_hubWrite_last (by rw [length_record]; exact staleEnd_engFind) ht (staleEnd_pageHeld ..) (by decide)
  have hmem : (staleEnd.endLaunch 1 0).mem = t.mem :=
    hw ▸ State.mem_endLaunch_of_complete staleEnd_launch? rfl staleEnd_statsHeld
  have hlen : ((staleEnded.record.drop (0x4FC0 - ((staleRange, 0x4000).2 + 0))).take 64).length = 64 := by
    rw [List.length_take, List.length_drop, length_record]
    rfl
  have hkey : staleEntry.key 0x4FC0 + 63 = staleKey + 0x4FFF := by decide +kernel
  rw [State.memByte, hmem, ← State.memByte, memWrote_writeBytes hu, ← hkey, if_pos]
  · rw [Nat.add_sub_cancel_left, List.getD_eq_getElem _ _ (by omega)]
    exact zero_of_mem_record rfl (List.mem_of_mem_drop (List.mem_of_mem_take (List.getElem_mem _)))
  · omega

/-- Refutes O50: the failed launch drops its one block, is complete with it, and ends, and the end writes its statistics record (R201):
memory is not what it was. -/
theorem not_startsAndDrains : ¬ Obligations.StartsAndDrains := by
  unfold Obligations.StartsAndDrains
  intro h
  obtain ⟨-, hstart, -, -⟩ := h staleState ⟨0, 0, 0⟩ _ rfl
  obtain ⟨-, hstale⟩ := hstart staleId staleBlk staleCtx staleLaunch rfl rfl rfl rfl rfl rfl rfl
  obtain ⟨t, -, -, -, he, hmem, -⟩ := hstale _ staleState_staleTile
  obtain rfl : _ = t := by simpa only [exec_staleState, Host.Outcome.next.injEq] using he
  have h0 := memByte_staleEnd
  rw [State.memByte, hmem] at h0
  exact absurd h0 (by decide +kernel)

end Sys2Proof.Machine
